-- ==== Sys2Proof/Word.lean ====
section
/-!
DEFINITION. The bit-vector types the manual's registers, addresses and payloads are read as (00 R6, R7).
-/

namespace Sys2Proof

/-- One byte of memory, of a bank or of a stream. -/
abbrev Byte := BitVec 8
/-- A Lectern word, a lane, a counter. -/
abbrev W32 := BitVec 32
/-- A Lectern general register, an address, a slot word. -/
abbrev W64 := BitVec 64
/-- A stream command frame or a Lectern command register (03 R87). -/
abbrev W128 := BitVec 128
/-- One 128 B line: a vector, a bank line, lane 0 in the low bits (02 R51). -/
abbrev Line := BitVec 1024
/-- A global region number g, 0 to 31 (01 R17). -/
abbrev RegionNo := BitVec 5
/-- A cell of a region: cell identifier bits [7:0], CY then CX (01 R19). -/
abbrev CellNo := BitVec 8
/-- A resident context number, 0 to 3 (01 R23). -/
abbrev CtxNo := BitVec 2
/-- A slot number, 0 to 63 (01 R23). -/
abbrev SlotNo := BitVec 6

end Sys2Proof
end

