-- ==== Sys2Proof/Machine/Num.lean ====
section
/-!
DEFINITION. Exact values, the one rounding, the conversions between formats, BC8, CB4, the matrix step and the canonical
reduction tree (02).
-/

namespace Sys2Proof.Num

/-- An exact value: NaN, an infinity, or a signed magnitude. With `sticky` the magnitude lies strictly between mag × 2^exp
and (mag + 1) × 2^exp, otherwise it is mag × 2^exp. A zero keeps its sign (02 R57). -/
inductive Val where
  | nan
  | inf (neg : Bool)
  | fin (neg : Bool) (mag : Nat) (exp : Int) (sticky : Bool)
  deriving DecidableEq, Repr, Inhabited

/-- 2^k for an exponent that may be negative, at a common scale: mag × 2^(exp - base). -/
def shiftTo (mag : Nat) (exp base : Int) : Nat := mag <<< (exp - base).toNat

/-- The signed integer mag × 2^(exp - base). -/
def signedAt (neg : Bool) (mag : Nat) (exp base : Int) : Int :=
  let m : Int := shiftTo mag exp base
  if neg then -m else m

/-- Exact sum of two exact values (02 R55, 04 R125). -/
def addV (a b : Val) : Val :=
  match a, b with
  | .nan, _ | _, .nan => .nan
  | .inf x, .inf y => if x == y then .inf x else .nan
  | .inf x, _ => .inf x
  | _, .inf y => .inf y
  | .fin n1 m1 e1 _, .fin n2 m2 e2 _ =>
    if m1 == 0 && m2 == 0 then .fin (n1 && n2) 0 0 false
    else if m1 == 0 then .fin n2 m2 e2 false
    else if m2 == 0 then .fin n1 m1 e1 false
    else
      let e := min e1 e2
      let t := signedAt n1 m1 e1 e + signedAt n2 m2 e2 e
      if t == 0 then .fin false 0 0 false else .fin (t < 0) t.natAbs e false

/-- Exact product (02 R55, 04 R125). -/
def mulV (a b : Val) : Val :=
  match a, b with
  | .nan, _ | _, .nan => .nan
  | .inf x, .inf y => .inf (x != y)
  | .inf x, .fin n m _ _ | .fin n m _ _, .inf x => if m == 0 then .nan else .inf (x != n)
  | .fin n1 m1 e1 _, .fin n2 m2 e2 _ => .fin (n1 != n2) (m1 * m2) (e1 + e2) false

/-- The value with its sign inverted; NaN stays. -/
def negV : Val → Val
  | .nan => .nan
  | .inf x => .inf (!x)
  | .fin n m e s => .fin (!n) m e s

/-- Exact quotient of finite non-zero values, to 200 bits and a sticky flag. -/
def divV (a b : Val) : Val :=
  match a, b with
  | .fin n1 m1 e1 _, .fin n2 m2 e2 _ =>
    if m1 == 0 then .fin (n1 != n2) 0 0 false
    else
      let k := Nat.log2 m2 + 200
      let q := (m1 <<< k) / m2
      .fin (n1 != n2) q (e1 - e2 - k) ((m1 <<< k) % m2 != 0)
  | _, _ => .nan

/-- Order of two values that are not NaN; zeros of both signs are equal. -/
def cmpV (a b : Val) : Ordering :=
  match a, b with
  | .inf x, .inf y => if x == y then .eq else if x then .lt else .gt
  | .inf x, _ => if x then .lt else .gt
  | _, .inf y => if y then .gt else .lt
  | .fin n1 m1 e1 _, .fin n2 m2 e2 _ =>
    let e := min e1 e2
    compare (signedAt n1 m1 e1 e) (signedAt n2 m2 e2 e)
  | _, _ => .eq

/-- Whether a value is NaN. -/
def isNan : Val → Bool
  | .nan => true
  | _ => false

/-- An exact integer. -/
def ofInt (i : Int) : Val := .fin (i < 0) i.natAbs 0 false

/-! ## Formats (02 R50, R53) -/

/-- Element width in bits of a type code of fixed width (02 R50). -/
def width (ty : Nat) : Nat :=
  match ty with
  | 0 | 1 | 6 => 32
  | 2 | 3 | 7 | 8 => 16
  | 4 | 5 | 9 | 10 | 13 => 8
  | 14 => 64
  | _ => 32

/-- Integer formats. -/
def isInt (ty : Nat) : Bool := ty ≤ 5 || ty == 14
/-- Two's-complement formats. -/
def isSigned (ty : Nat) : Bool := ty == 0 || ty == 2 || ty == 4 || ty == 14
/-- IEEE-like formats: FP32, BF16, FP16, E4M3, E5M2. -/
def isFloat (ty : Nat) : Bool := 6 ≤ ty && ty ≤ 10

/-- Exponent bits and mantissa bits (02 R53). -/
def layout (ty : Nat) : Nat × Nat :=
  match ty with
  | 6 => (8, 23)
  | 7 => (8, 7)
  | 8 => (5, 10)
  | 9 => (4, 3)
  | _ => (5, 2)

/-- Encoding of the largest finite magnitude (02 R53). -/
def maxfin (ty : Nat) : Nat :=
  match ty with
  | 6 => 0x7F7FFFFF
  | 7 => 0x7F7F
  | 8 => 0x7BFF
  | 9 => 0x7E
  | _ => 0x7B

/-- The canonical NaN (02 R53). -/
def canonNan (ty : Nat) : Nat :=
  match ty with
  | 6 => 0x7FC00000
  | 7 => 0x7FC0
  | 8 => 0x7E00
  | 9 => 0x7F
  | 13 => 0xFF
  | _ => 0x7E

/-- Encoding of an infinity, which E4M3 lacks: there it is NaN (02 R53, R60). -/
def infBits (ty : Nat) (neg : Bool) : Nat :=
  let (eb, mb) := layout ty
  if ty == 9 then 0x7F else (if neg then 2 ^ (eb + mb) else 0) + (2 ^ eb - 1) * 2 ^ mb

/-- The sign bit of a format. -/
def signBit (ty : Nat) (neg : Bool) : Nat := if neg then 2 ^ (width ty - 1) else 0

/-- Two's-complement reading of w bits. -/
def toSigned (w n : Nat) : Int := if n ≥ 2 ^ (w - 1) then (n : Int) - 2 ^ w else n

/-- An integer element as its format reads it (02 R50). -/
def intOf (ty bits : Nat) : Int :=
  let w := width ty
  let n := bits % 2 ^ w
  if isSigned ty then toSigned w n else n

/-- v modulo 2^w (02 R52): `iwrap`. -/
def iwrap (w : Nat) (v : Int) : Nat := (v % (2 ^ w : Int)).toNat

/-- Least and greatest value of an integer format. -/
def range (ty : Nat) : Int × Int :=
  let w := width ty
  if isSigned ty then (-(2 ^ (w - 1) : Int), 2 ^ (w - 1) - 1) else (0, 2 ^ w - 1)

/-- v clamped to the range of a format, as bits (02 R63): `iclamp`. -/
def iclamp (ty : Nat) (v : Int) : Nat :=
  let (lo, hi) := range ty
  iwrap (width ty) (max lo (min hi v))

/-- The exact value of bits read in a format (02 R53, R54): `value`. -/
def value (ty bits : Nat) : Val :=
  if isInt ty then ofInt (intOf ty bits)
  else if ty == 13 then (if bits % 256 == 0xFF then .nan else .fin false 1 ((bits % 256 : Nat) - 127 : Int) false)
  else
    let (eb, mb) := layout ty
    let neg := bits.testBit (eb + mb)
    let e := (bits >>> mb) % 2 ^ eb
    let m := bits % 2 ^ mb
    let bias : Int := 2 ^ (eb - 1) - 1
    let top := 2 ^ eb - 1
    if ty == 9 && e == top && m == 7 then .nan
    else if ty != 9 && e == top then (if m == 0 then .inf neg else .nan)
    else if e == 0 then .fin neg m (1 - bias - mb) false
    else .fin neg (2 ^ mb + m) ((e : Int) - bias - mb) false

/-! ## Rounding (02 R56, R57, R60 to R62) -/

/-- The magnitude divided by a unit 2^unit, rounded to an integer: mode 0 RNE, 1 RTZ, 2 SR with generator value g. -/
def roundUnit (mag : Nat) (exp unit : Int) (sticky : Bool) (md g : Nat) : Nat :=
  if exp ≥ unit then mag <<< (exp - unit).toNat
  else
    let sh := (unit - exp).toNat
    let (n, rem, sh) := if sh > Nat.log2 mag + 40 then (0, 1, 40) else (mag >>> sh, mag % 2 ^ sh, sh)
    let half := 2 ^ (sh - 1)
    let up := match md with
      | 0 => rem > half || (rem == half && (sticky || n % 2 == 1))
      | 2 => (rem <<< 16) >>> sh + g ≥ 65536
      | _ => false
    if up then n + 1 else n

/-- Non-finite sources and finite overflow (02 R60). -/
def specialOut (ty : Nat) (v : Val) (overflow : Bool) (md : Nat) (sf : Bool) : Nat :=
  match v with
  | .nan => canonNan ty
  | .inf neg => if sf then signBit ty neg + maxfin ty else infBits ty neg
  | .fin neg _ _ _ => if sf || (overflow && md == 1) then signBit ty neg + maxfin ty else infBits ty neg

/-- Rounding to a floating-point format: `round_fmt` with the generator value already drawn (02 R57). -/
def roundFloat (ty : Nat) (v : Val) (md : Nat) (sf : Bool) (g : Nat) : Nat :=
  match v with
  | .nan | .inf _ => specialOut ty v false md sf
  | .fin neg mag exp sticky =>
    if mag == 0 && !sticky then signBit ty neg
    else
      let (eb, mb) := layout ty
      let emin : Int := 2 - 2 ^ (eb - 1)
      let lg : Int := (Nat.log2 mag : Int) + exp
      if lg > 400 then specialOut ty v true md sf
      else
        let e := max lg emin
        let n := roundUnit mag exp (e - mb) sticky md g
        let bits := ((e - emin).toNat <<< mb) + n
        if bits > maxfin ty then specialOut ty v true md sf else signBit ty neg + bits

/-- Rounding to E8M0 (02 R61). -/
def roundE8M0 (v : Val) (sf : Bool) : Nat :=
  match v with
  | .nan => 0xFF
  | .inf _ => if sf then 0xFE else 0xFF
  | .fin _ mag exp _ =>
    let lg : Int := (Nat.log2 mag : Int) + exp
    if mag == 0 || lg < -127 then 0 else min 0xFE (lg + 127).toNat

/-- Rounding a floating-point value to an integer format (02 R62). -/
def roundInt (ty : Nat) (v : Val) (md g : Nat) : Nat :=
  let (lo, hi) := range ty
  match v with
  | .nan => 0
  | .inf neg => iwrap (width ty) (if neg then lo else hi)
  | .fin neg mag exp sticky =>
    if (Nat.log2 mag : Int) + exp > 100 && mag != 0 then iwrap (width ty) (if neg then lo else hi)
    else
      let n : Int := roundUnit mag exp 0 sticky md g
      iclamp ty (if neg then -n else n)

/-- `round_fmt` to any format (02 R57, R60 to R62). -/
def roundFmt (ty : Nat) (v : Val) (md : Nat) (sf : Bool) (g : Nat) : Nat :=
  if isInt ty then roundInt ty v md g else if ty == 13 then roundE8M0 v sf else roundFloat ty v md sf g

/-- Whether a conversion draws a generator value for an element (02 R59, R61, R63, 04 R129). -/
def cvtDraws (src dst md : Nat) : Bool := md == 2 && dst != 13 && !(isInt src && isInt dst)

/-- `cvt` with the generator value already drawn (02 R60 to R63, 04 R129). -/
def cvt (src dst bits md : Nat) (sf : Bool) (g : Nat) : Nat :=
  if isInt src && isInt dst then
    let v := intOf src bits
    if sf then iclamp dst v else iwrap (width dst) v
  else if src == dst then
    match value src bits with
    | .nan => canonNan dst
    | .inf neg => if sf then (if dst == 13 then 0xFE else signBit dst neg + maxfin dst) else infBits dst neg
    | _ => bits % 2 ^ width dst
  else roundFmt dst (value src bits) md sf g

/-- One step of the 16-bit generator (02 R58). -/
def srand16 (x : BitVec 16) : BitVec 16 :=
  let x := x ^^^ (x <<< 7)
  let x := x ^^^ (x >>> 9)
  x ^^^ (x <<< 8)

/-- The generator after seeding (02 R58). -/
def seed (sd ident : BitVec 16) : BitVec 16 := if sd ^^^ ident == 0 then 1 else sd ^^^ ident

/-- A list computed element by element, each drawing a generator value when `draw` says so (02 R59). -/
def drawMap {α β : Type} (draw : Bool) (f : Nat → α → β) : BitVec 16 → List α → BitVec 16 × List β
  | x, [] => (x, [])
  | x, a :: as =>
    let x' := if draw then srand16 x else x
    let r := drawMap draw f x' as
    (r.1, f x'.toNat a :: r.2)

/-! ## Reciprocal, root, exponential and logarithm (04 R127) -/

/-- Floor of a square root, by the bits of the result from the top. -/
def isqrtGo : Nat → Nat → Nat → Nat
  | 0, _, r => r
  | k + 1, n, r =>
    let c := r + 2 ^ k
    isqrtGo k n (if c * c ≤ n then c else r)

/-- Floor of the square root of n. -/
def isqrt (n : Nat) : Nat := isqrtGo (Nat.log2 n / 2 + 1) n 0

/-- Fraction bits of the series below (log 14). -/
def prec : Nat := 512

/-- Sum of z^(2k+1) / (2k+1) for the next n terms, in units of 2^-prec; p is z^(2k+1), q is z^2. -/
def atanhGo : Nat → Nat → Nat → Nat → Nat
  | 0, _, _, _ => 0
  | n + 1, k, p, q => p / (2 * k + 1) + atanhGo n (k + 1) ((p * q) >>> prec) q

/-- Natural logarithm of a/b for 1 ≤ a/b < 2, in units of 2^-prec. -/
def lnRatio (a b : Nat) : Nat :=
  let z := ((a - b) <<< prec) / (a + b)
  2 * atanhGo 180 0 z ((z * z) >>> prec)

/-- ln 2 in units of 2^-prec. -/
def ln2 : Nat :=
  let z := (2 ^ prec) / 3
  2 * atanhGo 180 0 z ((z * z) >>> prec)

/-- Sum of t^k / k! for the next n terms, in units of 2^-prec; p is the current term. -/
def expGo : Nat → Nat → Nat → Nat → Nat
  | 0, _, _, _ => 0
  | n + 1, k, p, t => p + expGo n (k + 1) (((p * t) >>> prec) / (k + 1)) t

/-- 1/x (04 R127). -/
def recip : Val → Val
  | .nan => .nan
  | .inf neg => .fin neg 0 0 false
  | .fin neg mag exp s => if mag == 0 then .inf neg else divV (.fin false 1 0 false) (.fin neg mag exp s)

/-- 1/√x (04 R127). -/
def recipSqrt : Val → Val
  | .nan => .nan
  | .inf neg => if neg then .nan else .fin false 0 0 false
  | .fin neg mag exp _ =>
    if mag == 0 then .inf neg
    else if neg then .nan
    else
      let (m, e) := if exp % 2 == 0 then (mag, exp) else (2 * mag, exp - 1)
      let k := Nat.log2 m + 100
      let q := 2 ^ (2 * k) / m
      let r := isqrt q
      .fin false r (-(k : Int) - e / 2) (r * r * m != 2 ^ (2 * k))

/-- 2^x (04 R127). -/
def exp2 : Val → Val
  | .nan => .nan
  | .inf neg => if neg then .fin false 0 0 false else .inf false
  | .fin neg mag exp _ =>
    if mag == 0 then .fin false 1 0 false
    else if (Nat.log2 mag : Int) + exp > 20 then (if neg then .fin false 1 (-1000000) true else .fin false 1 1000000 true)
    else
      let fixed : Int := if exp ≥ -(prec : Int) then (mag <<< (exp + prec).toNat : Nat) else 0
      let x : Int := if neg then -fixed else fixed
      let k := x / (2 ^ prec : Int)
      let f := (x % (2 ^ prec : Int)).toNat
      if f == 0 then .fin false 1 k false
      else .fin false (expGo 130 0 (2 ^ prec) ((f * ln2) >>> prec)) (k - prec) true

/-- log2 x (04 R127). -/
def log2V : Val → Val
  | .nan => .nan
  | .inf neg => if neg then .nan else .inf false
  | .fin neg mag exp _ =>
    if mag == 0 then .inf true
    else if neg then .nan
    else
      let k : Int := (Nat.log2 mag : Int) + exp
      let p := 2 ^ Nat.log2 mag
      if mag == p then ofInt k
      else
        let t : Int := k * 2 ^ prec + ((lnRatio mag p <<< prec) / ln2 : Nat)
        if t < 0 then .fin true (t.natAbs - 1) (-(prec : Int)) true else .fin false t.natAbs (-(prec : Int)) true

/-! ## Vectors (02 R51) -/

/-- The elements of width w of a payload of `bits` bits, the lowest first. -/
def elems (w bits n : Nat) : List Nat := (List.range (bits / w)).map (fun k => (n >>> (w * k)) % 2 ^ w)

/-- The number whose elements of width w are the list's, the lowest first. -/
def join (w : Nat) : List Nat → Nat
  | [] => 0
  | x :: xs => x % 2 ^ w + (join w xs <<< w)

/-! ## BC8 (02 R64 to R67) -/

/-- The exponent field of an E4M3 byte. -/
def e4 (b : Nat) : Nat := (b / 8) % 16

/-- The code of an exponent against a base, as bits from the first (02 R65). -/
def bc8Code (b e : Nat) : List Bool :=
  let d : Int := (e : Int) - b
  if d == 0 then [false]
  else if d == 1 then [true, false]
  else if d == -1 then [true, true, false]
  else if d == 2 then [true, true, true, false]
  else if d == -2 then [true, true, true, true, false]
  else [true, true, true, true, true, e.testBit 3, e.testBit 2, e.testBit 1, e.testBit 0]

/-- Total code length of 32 elements under a base. -/
def bc8Len (es : List Nat) (b : Nat) : Nat := (es.map (fun e => (bc8Code b (e4 e)).length)).sum

/-- The base of the smallest total, the smallest such base (02 R66). -/
def bc8Base (es : List Nat) : Nat :=
  (List.range 16).foldl (fun best b => if bc8Len es b < bc8Len es best then b else best) 0

/-- Bits from the first, as bytes of little-endian halfwords filled from bit 15 down (02 R64). -/
def halfwords : Nat → List Bool → List Nat
  | 0, _ => []
  | n + 1, bs =>
    let h := (List.range 16).foldl (fun a i => 2 * a + (if bs.getD i false then 1 else 0)) 0
    (h % 256) :: (h / 256) :: halfwords n (bs.drop 16)

/-- The bytes of a BC8 token of 32 E4M3 bytes: `bc8_encode` (02 R64 to R66). -/
def bc8Encode (es : List Nat) : List Nat :=
  let b := bc8Base es
  let stream := (es.map (fun e => bc8Code b (e4 e))).flatten
  let l := stream.length
  let h := b * 4096 + l * 8
  let nib := fun k => let e := es.getD k 0; (e / 128) * 8 + e % 8
  [h % 256, h / 256] ++ (List.range 16).map (fun i => nib (2 * i) + 16 * nib (2 * i + 1)) ++ halfwords ((l + 15) / 16) stream

/-- Length in bytes of a token whose first halfword is h (02 R67). -/
def bc8Length (h : Nat) : Nat :=
  let l := (h / 8) % 512
  if l > 288 then 54 else 18 + 2 * ((l + 15) / 16)

/-- The first code of a stream: its exponent and what remains; none when it is malformed (02 R65, R67). -/
def bc8Take (b : Nat) (bs : List Bool) : Option (Nat × List Bool) :=
  let inRange := fun (e : Int) (r : List Bool) => if 0 ≤ e && e ≤ 15 then some (e.toNat, r) else none
  match bs with
  | false :: r => some (b, r)
  | true :: false :: r => inRange (b + 1) r
  | true :: true :: false :: r => inRange (b - 1) r
  | true :: true :: true :: false :: r => inRange (b + 2) r
  | true :: true :: true :: true :: false :: r => inRange (b - 2) r
  | true :: true :: true :: true :: true :: x :: y :: z :: w :: r =>
    some (x.toNat * 8 + y.toNat * 4 + z.toNat * 2 + w.toNat, r)
  | _ => none

/-- n codes of a stream that ends exactly. -/
def bc8Codes (b : Nat) : Nat → List Bool → Option (List Nat)
  | 0, bs => if bs.isEmpty then some [] else none
  | n + 1, bs => match bc8Take b bs with
    | none => none
    | some (e, r) => (bc8Codes b n r).map (e :: ·)

/-- The 32 E4M3 bytes of a BC8 token, given its bytes; NaN elements for a malformed one: `bc8_decode` (02 R67). -/
def bc8Decode (bytes : List Nat) : List Nat :=
  let h := bytes.getD 0 0 + 256 * bytes.getD 1 0
  let b := h / 4096
  let l := (h / 8) % 512
  let words := (List.range ((bc8Length h - 18) / 2)).map (fun i => bytes.getD (18 + 2 * i) 0 + 256 * bytes.getD (19 + 2 * i) 0)
  let bits := (words.map (fun w => (List.range 16).map (fun i => w.testBit (15 - i)))).flatten
  let sm := fun k => (bytes.getD (2 + k / 2) 0 / (if k % 2 == 0 then 1 else 16)) % 16
  let bad := List.replicate 32 0x7F
  if h % 8 != 0 || l > 288 || (bits.drop l).any id then bad
  else match bc8Codes b 32 (bits.take l) with
    | none => bad
    | some es => (List.range 32).map (fun k => (sm k / 8) * 128 + es.getD k 0 * 8 + sm k % 8)

/-! ## CB4 (02 R68 to R70) -/

/-- |a − b| of finite values as a value. -/
def distV (a b : Val) : Val :=
  match addV a (negV b) with
  | .fin _ m e s => .fin false m e s
  | .inf _ => .inf false
  | .nan => .nan

/-- The index of the entry nearest to y, the lowest on a tie; NaN entries last (02 R69). -/
def cb4Nearest (cb : List Nat) (y : Val) : Nat :=
  let ds := cb.map (fun c => distV y (value 8 c))
  (List.range 16).foldl (fun best i =>
    match ds.getD best .nan, ds.getD i .nan with
    | _, .nan => best
    | .nan, _ => i
    | a, b => if cmpV b a == .lt then i else best) 0

/-- A CB4 block of 32 values: 32 indices and the BF16 scale: `cb4_quant` (02 R69). -/
def cb4Quant (xs : List Val) (cb : List Nat) : List Nat × Nat :=
  if xs.any (fun x => match x with | .fin .. => false | _ => true) then (List.replicate 32 0, 0x7FC0)
  else
    let big := xs.foldl (fun a x => let d := distV x (.fin false 0 0 false); if cmpV a d == .lt then d else a) (.fin false 0 0 false)
    let s := roundFloat 7 big 0 true 0
    if s == 0 then (List.replicate 32 (cb4Nearest cb (.fin false 0 0 false)), 0)
    else (xs.map (fun x => cb4Nearest cb (value 6 (roundFloat 6 (divV x (value 7 s)) 0 false 0))), s)

/-- The 18 bytes of a block (02 R68). -/
def cb4Bytes (blk : List Nat × Nat) : List Nat :=
  (List.range 16).map (fun i => blk.1.getD (2 * i) 0 + 16 * blk.1.getD (2 * i + 1) 0) ++ [blk.2 % 256, blk.2 / 256]

/-- The indices and the scale of 18 bytes (02 R68). -/
def cb4Read (bytes : List Nat) : List Nat × Nat :=
  ((List.range 32).map (fun k => (bytes.getD (k / 2) 0 / (if k % 2 == 0 then 1 else 16)) % 16),
   bytes.getD 16 0 + 256 * bytes.getD 17 0)

/-- The exact value of index i under scale s: `cb4_value` (02 R70). -/
def cb4Value (cb : List Nat) (i s : Nat) : Val := mulV (value 8 (cb.getD i 0)) (value 7 s)

/-! ## The matrix step (02 R72) -/

/-- One accumulator element after one step; the list holds the present products' operands: `mstep` (02 R72). -/
def mstep (acc : Nat) (ps : List (Val × Val)) (sa sb : Val) : Nat :=
  let a := value 6 acc
  if isNan a || isNan sa || isNan sb then 0x7FC00000
  else if ps.any (fun p => isNan (mulV p.1 p.2)) then 0x7FC00000
  else
    let prods := ps.map (fun p => mulV p.1 p.2)
    let t := mulV (mulV (prods.foldl addV (.fin false 0 0 false)) sa) sb
    match addV a t with
    | .fin _ 0 _ _ =>
      let zeroAcc := match a with | .fin _ 0 _ _ => true | _ => false
      let negZero := fun v : Val => match v with | .fin true 0 _ _ => true | _ => false
      if zeroAcc && negZero a && prods.all negZero then 0x80000000 else 0
    | v => roundFloat 6 v 0 false 0

/-! ## Reduction (02 R74, R75) -/

/-- The larger or smaller of two floating values by R126; +0 above −0. -/
def fminmax (ty a b : Nat) (max : Bool) : Nat :=
  match value ty a, value ty b with
  | .nan, _ | _, .nan => canonNan ty
  | x, y =>
    let aNeg := a.testBit (width ty - 1)
    match cmpV x y with
    | .eq => if aNeg == max then b else a
    | .lt => if max then b else a
    | .gt => if max then a else b

/-- A reduction node: op 0 ADD, 1 MAX, in an element format (02 R75). -/
def redOp (ty op a b : Nat) : Nat :=
  if isInt ty then
    if op == 0 then (a + b) % 2 ^ width ty else (if intOf ty a < intOf ty b then b else a)
  else if op == 0 then roundFloat ty (addV (value ty a) (value ty b)) 0 false 0
  else fminmax ty a b true

/-- The largest power of two below n, for n of at least 2 (02 R74). -/
def below (n : Nat) : Nat := 2 ^ Nat.log2 (n - 1)

/-- The canonical tree over a list: the fuel is its length (02 R74). -/
def ctreeGo {α : Type} (op : α → α → α) (dflt : α) : Nat → List α → α
  | 0, _ => dflt
  | _ + 1, [] => dflt
  | _ + 1, [x] => x
  | f + 1, xs => let m := below xs.length; op (ctreeGo op dflt f (xs.take m)) (ctreeGo op dflt f (xs.drop m))

/-- `ctree` (02 R74). -/
def ctree {α : Type} (op : α → α → α) (dflt : α) (xs : List α) : α := ctreeGo op dflt xs.length xs

end Sys2Proof.Num
end

