-- ==== Sys2Proof/Machine/Flags.lean ====
section
/-!
DEFINITION. The conditions that instructions compute. The 9100 keeps no condition flags and no floating-point flags (02 R55):
a condition is a value or a wait (04 R121, R128; 06 R173, R177).
-/

namespace Sys2Proof.Machine

/-- Conditions of `icmp` over exact integers: eq, ne, lt, le, gt, ge (04 R121). -/
def intCond (c : Nat) (a b : Int) : Bool :=
  match c with
  | 0 => a == b
  | 1 => a != b
  | 2 => a < b
  | 3 => a ≤ b
  | 4 => a > b
  | _ => a ≥ b

/-- Conditions of `fcmp` (04 R128). -/
def floatCond (c : Nat) (a b : Num.Val) : Bool :=
  let nan := Num.isNan a || Num.isNan b
  let o := Num.cmpV a b
  match c with
  | 0 => !nan && o == .eq
  | 1 => nan || o != .eq
  | 2 => !nan && o == .lt
  | 3 => !nan && o != .gt
  | 4 => !nan && o == .gt
  | 5 => !nan && o != .lt
  | 6 => nan
  | _ => !nan

/-- Conditions of `kwait`: eq, ne, ge, lt, unsigned (06 R177). -/
def kCond (c : BitVec 3) (k n : W32) : Bool :=
  match c.toNat with
  | 0 => k == n
  | 1 => k != n
  | 2 => n ≤ k
  | _ => k < n

/-- All ones of width w when a condition holds, else zero (04 R121, R128). -/
def condMask (w : Nat) (b : Bool) : Nat := if b then 2 ^ w - 1 else 0

end Sys2Proof.Machine
end

