-- ==== Sys2Proof/Syntax.lean ====
section
/-!
DEFINITION. The instructions and steps of spec/opcode_table.json, one constructor a row, with their operands.
-/

namespace Sys2Proof

/-- Operand fields of a slot word beside its opcode (03 R78). -/
structure SlotWord where
  ty : BitVec 4
  sa : BitVec 5
  sb : BitVec 5
  ix : BitVec 16
  t0 : BitVec 12
  t1 : BitVec 12
  m  : Bool
  deriving DecidableEq, Repr, Inhabited

/-- Operand fields of a stream command beside its code (03 R87). -/
structure Frame where
  ord    : Bool
  ken    : Bool
  ksel   : BitVec 4
  cf     : BitVec 2
  handle : BitVec 16
  w2     : W32
  w1     : W32
  w0     : W32
  deriving DecidableEq, Repr, Inhabited

/-- Fields of a host command entry beside its code (16 R301). -/
structure HostEntry where
  flags : Byte
  cid   : BitVec 16
  rsvd  : W32
  o0 : W64
  o1 : W64
  o2 : W64
  o3 : W64
  o4 : W64
  o5 : W64
  o6 : W64
  deriving DecidableEq, Repr, Inhabited

/-- A slot of a context of a cell of a region. -/
structure SlotLoc where
  g    : RegionNo
  cell : CellNo
  ctx  : CtxNo
  slot : SlotNo
  deriving DecidableEq, Repr, Inhabited

/-- Token kinds (01 R32); codes 6 and 7 are never formed, and a link that receives one discards it. -/
inductive TokKind where
  | data | marker | preempt | control | completion | fault | reserved6 | reserved7
  deriving DecidableEq, Repr, Inhabited

/-- Payload forms (01 R31). -/
inductive TokForm where
  | scalar | vector | tile | sparse
  deriving DecidableEq, Repr, Inhabited

/-- A token: header and payload (01 R31). -/
structure Token where
  kind  : TokKind
  form  : TokForm
  ctx   : CtxNo
  round : Byte
  p     : Bool
  tag   : BitVec 16
  pay   : Line
  deriving DecidableEq, Repr, Inhabited

/-- A collective packet (10 R262): header fields and payload. -/
structure Packet where
  daddr  : W64
  ops    : List (BitVec 8)
  routes : List (BitVec 16)
  chunk  : W32
  span   : BitVec 16
  rank   : BitVec 16
  group  : BitVec 16
  fmt    : BitVec 4
  nent   : BitVec 4
  last   : Bool
  pay    : List Byte
  /-- a reserved bit of the header is not zero -/
  rsvd   : Bool := false
  /-- a contribution that an ALLREDUCE unit has built (log 19) -/
  plan   : Bool := false
  deriving DecidableEq, Repr, Inhabited

/-- A pause of a group: its chunk P, and whether it is a gang pause (10 R264, 16 R316). -/
structure PauseMsg where
  p    : W32
  gang : Bool := false
  deriving DecidableEq, Repr, Inhabited

/-- A message about the loss of a rank of a group, or about a packet that disagrees with a member's `nsend` (dis): with no chunk it announces
that, with chunks it is a member's report of its lowest uncompleted one (19 R368, 10 R261). -/
structure LossMsg where
  dis    : Bool := false
  chunks : List W32
  deriving DecidableEq, Repr, Inhabited

/-- What a debugger writes (06 R194, R195; 01 R30). -/
inductive DebugTarget where
  | g (n : BitVec 5) | c (n : BitVec 3) | k (n : BitVec 4) | bd (n : BitVec 4) | pc
  | lcause | lepc | ltvec | lval | lprio | lquant
  | v (cell : CellNo) (n : BitVec 5)
  deriving DecidableEq, Repr, Inhabited

/-- Where a corrected error arose (19 R363). -/
inductive ErrSource where
  | bankLine (g : RegionNo) (cell : CellNo) (line : BitVec 9)
  | hbmRow (stack : BitVec 3) (bank : Nat) (row : Nat)
  | other
  deriving DecidableEq, Repr, Inhabited

/-- What met an uncorrectable error (19 R365). -/
inductive ErrTarget where
  | access (g : RegionNo) (id : Nat)
  | command (g : RegionNo) (id : Nat)
  | port (g : RegionNo) (p : BitVec 6)
  | bureau
  deriving DecidableEq, Repr, Inhabited

/-- An instruction of one of the three layers, a host command, or an indivisible step of a unit. -/
inductive Instr where
  -- cell slots (03 R86)
  | cpy (w : SlotWord)
  | sink (w : SlotWord)
  | gate (w : SlotWord)
  | steer (w : SlotWord)
  | merge (w : SlotWord)
  | const (w : SlotWord)
  | iter (w : SlotWord)
  | tid (w : SlotWord)
  | iadd (w : SlotWord)
  | isub (w : SlotWord)
  | imul (w : SlotWord)
  | imulh (w : SlotWord)
  | imad (w : SlotWord)
  | idiv (w : SlotWord)
  | irem (w : SlotWord)
  | ineg (w : SlotWord)
  | iabs (w : SlotWord)
  | imin (w : SlotWord)
  | imax (w : SlotWord)
  | cellAnd (w : SlotWord)
  | cellOr (w : SlotWord)
  | cellXor (w : SlotWord)
  | cellNot (w : SlotWord)
  | shl (w : SlotWord)
  | shr (w : SlotWord)
  | sar (w : SlotWord)
  | popc (w : SlotWord)
  | clz (w : SlotWord)
  | icmp (w : SlotWord)
  | sel (w : SlotWord)
  | agen (w : SlotWord)
  | bcast (w : SlotWord)
  | shuf (w : SlotWord)
  | rot (w : SlotWord)
  | pack (w : SlotWord)
  | unpack (w : SlotWord)
  | fadd (w : SlotWord)
  | fsub (w : SlotWord)
  | fmul (w : SlotWord)
  | ffma (w : SlotWord)
  | fmin (w : SlotWord)
  | fmax (w : SlotWord)
  | fabs (w : SlotWord)
  | fneg (w : SlotWord)
  | frcp (w : SlotWord)
  | frsq (w : SlotWord)
  | fexp2 (w : SlotWord)
  | flog2 (w : SlotWord)
  | fcmp (w : SlotWord)
  | cvt (w : SlotWord)
  | scale (w : SlotWord)
  | quant (w : SlotWord)
  | vsum (w : SlotWord)
  | vmax (w : SlotWord)
  | ld (w : SlotWord)
  | st (w : SlotWord)
  | ldg (w : SlotWord)
  | stg (w : SlotWord)
  | sld (w : SlotWord)
  | sst (w : SlotWord)
  | srel (w : SlotWord)
  | spub (w : SlotWord)
  | spill (w : SlotWord)
  | fill (w : SlotWord)
  | mload (w : SlotWord)
  | mswap (w : SlotWord)
  | mfire (w : SlotWord)
  | mdrain (w : SlotWord)
  | mzero (w : SlotWord)
  | msmeta (w : SlotWord)
  | isect (w : SlotWord)
  | mark (w : SlotWord)
  | aupd (w : SlotWord)
  | own (w : SlotWord)
  | barr (w : SlotWord)
  | bwait (w : SlotWord)
  -- Lectern words (03 R93)
  | add (d a b : BitVec 5)
  | sub (d a b : BitVec 5)
  | mul (d a b : BitVec 5)
  | mulh (d a b : BitVec 5)
  | div (d a b : BitVec 5)
  | rem (d a b : BitVec 5)
  | lecternAnd (d a b : BitVec 5)
  | lecternOr (d a b : BitVec 5)
  | lecternXor (d a b : BitVec 5)
  | sll (d a b : BitVec 5)
  | srl (d a b : BitVec 5)
  | sra (d a b : BitVec 5)
  | slt (d a b : BitVec 5)
  | sltu (d a b : BitVec 5)
  | addi (d a : BitVec 5) (imm : BitVec 16)
  | andi (d a : BitVec 5) (imm : BitVec 16)
  | ori (d a : BitVec 5) (imm : BitVec 16)
  | xori (d a : BitVec 5) (imm : BitVec 16)
  | slli (d a : BitVec 5) (n : BitVec 6)
  | srli (d a : BitVec 5) (n : BitVec 6)
  | srai (d a : BitVec 5) (n : BitVec 6)
  | slti (d a : BitVec 5) (imm : BitVec 16)
  | lui (d : BitVec 5) (imm : BitVec 16)
  | adr (d : BitVec 5) (imm : BitVec 16)
  | ldB (d a : BitVec 5) (off : BitVec 16)
  | ldH (d a : BitVec 5) (off : BitVec 16)
  | ldW (d a : BitVec 5) (off : BitVec 16)
  | ldD (d a : BitVec 5) (off : BitVec 16)
  | stB (a b : BitVec 5) (off : BitVec 16)
  | stH (a b : BitVec 5) (off : BitVec 16)
  | stW (a b : BitVec 5) (off : BitVec 16)
  | stD (a b : BitVec 5) (off : BitVec 16)
  | beq (a b : BitVec 5) (off : BitVec 16)
  | bne (a b : BitVec 5) (off : BitVec 16)
  | blt (a b : BitVec 5) (off : BitVec 16)
  | bge (a b : BitVec 5) (off : BitVec 16)
  | bltu (a b : BitVec 5) (off : BitVec 16)
  | bgeu (a b : BitVec 5) (off : BitVec 16)
  | jal (off : BitVec 26)
  | jalr (d a : BitVec 5) (off : BitVec 16)
  | cld (c : BitVec 3) (g : BitVec 5) (n : BitVec 10)
  | cset (c : BitVec 3) (g : BitVec 5) (part : BitVec 3)
  | cget (c : BitVec 3) (g : BitVec 5) (part : BitVec 3)
  | cissue (c : BitVec 3) (port : BitVec 4)
  | cwait (g : BitVec 5) (port : BitVec 4) (nb : Bool)
  | kset (k : BitVec 4) (g : BitVec 5) (imm : BitVec 10)
  | kadd (k : BitVec 4) (g : BitVec 5) (imm : BitVec 10)
  | krd (k : BitVec 4) (g : BitVec 5)
  | kwait (k : BitVec 4) (cond : BitVec 3) (g : BitVec 5) (imm : BitVec 10)
  | cfgload (b : BitVec 4)
  | cfggo (b : BitVec 4)
  | bdset (b : BitVec 4) (g : BitVec 5) (imm : BitVec 10)
  | bdrd (b : BitVec 4) (g : BitVec 5)
  | bwarr (g : BitVec 5)
  | phase (g : BitVec 5)
  | fence (scope : BitVec 4)
  | rdst (r : BitVec 4) (g : BitVec 5)
  | wrst (r : BitVec 4) (g : BitVec 5) (imm : BitVec 10)
  | trap (code : BitVec 10)
  | eret
  | brk
  | idle
  | lexit (g : BitVec 5)
  | lkill
  | xinv (x : BitVec 4) (g : BitVec 5)
  | frz (g : BitVec 5)
  | thaw (g : BitVec 5)
  | ftok (g : BitVec 5)
  -- stream commands (03 R90)
  | sopen (c : Frame)
  | spublish (c : Frame)
  | srelease (c : Frame)
  | srewind (c : Frame)
  | sclose (c : Frame)
  | sstat (c : Frame)
  | sbind (c : Frame)
  | tcopy (c : Frame)
  | qcopy (c : Frame)
  | tfill (c : Frame)
  | tgather (c : Frame)
  | tscatter (c : Frame)
  | karm (c : Frame)
  | binit (c : Frame)
  | fprobe (c : Frame)
  | rmark (c : Frame)
  | cfgput (c : Frame)
  | ctxsave (c : Frame)
  | ctxload (c : Frame)
  | pmark (c : Frame)
  | ngroup (c : Frame)
  | nsend (c : Frame)
  | npause (c : Frame)
  | nresume (c : Frame)
  | dcreate (c : Frame)
  | ddestroy (c : Frame)
  | ddeposit (c : Frame)
  | dcopy (c : Frame)
  | dtake (c : Frame)
  | chainrun (c : Frame)
  | chainstep (c : Frame)
  | replay (c : Frame)
  | pmap (c : Frame)
  | punmap (c : Frame)
  | ownxfer (c : Frame)
  -- host commands (16 R303)
  | ctxCreate (e : HostEntry)
  | ctxDestroy (e : HostEntry)
  | map (e : HostEntry)
  | unmap (e : HostEntry)
  | launch (e : HostEntry)
  | streamBind (e : HostEntry)
  | drawerCreate (e : HostEntry)
  | queueCreate (e : HostEntry)
  | queueDestroy (e : HostEntry)
  | keyLoad (e : HostEntry)
  | snapshot (e : HostEntry)
  | vfReset (e : HostEntry)
  -- steps of the units and of the outside (95)
  | iterNextValue (l : SlotLoc)
  | markerJoin (l : SlotLoc)
  | statefulRelease (l : SlotLoc)
  | resultWrite (g : RegionNo) (cell : CellNo) (seq : Nat)
  | undefinedWord (w : W32)
  | fetchBeyondSection
  | streamAccessFault (g : RegionNo) (x : CtxNo)
  | microprogramRun (g : RegionNo)
  | debugAttach (g : RegionNo) (x : CtxNo) (on : Bool)
  | debugHalt (g : RegionNo) (x : CtxNo)
  | debugResume (g : RegionNo) (x : CtxNo)
  | debugRegisterWrite (g : RegionNo) (x : CtxNo) (t : DebugTarget) (v : Line)
  | streamRead (g : RegionNo) (id : Nat)
  | streamWrite (g : RegionNo) (id : Nat)
  | hwmWrite (f : BitVec 5) (ap : BitVec 6) (v : W64)
  | hrelWrite (f : BitVec 5) (ap : BitVec 6) (v : W64)
  | apertureDataWrite (f : BitVec 5) (ap : BitVec 6) (off : Nat) (bytes : List Byte)
  | edgePortStreamRead (g : RegionNo) (port : BitVec 6)
  | edgePortStreamWrite (g : RegionNo) (port : BitVec 6)
  | edgePortMarkerPublish (g : RegionNo) (port : BitVec 6)
  | barrierCount (g : RegionNo) (id : Nat)
  | probeReturn (g : RegionNo) (ch : BitVec 7)
  | collectiveHop (g : RegionNo) (arrival : Option (BitVec 4 × Packet))
  | groupPauseReceive (g : RegionNo) (cid : BitVec 12) (grp : BitVec 16) (p : PauseMsg)
  | groupPauseReport (g : RegionNo) (cid : BitVec 12) (grp : BitVec 16) (rank : BitVec 16)
  | groupResumeReceive (g : RegionNo) (cid : BitVec 12) (grp : BitVec 16)
  | memberLoss (cid : BitVec 12) (grp : BitVec 16) (rank : BitVec 16) (reports : LossMsg)
  | voingTokenReceive (link : BitVec 4) (ch : Byte) (tok : Token)
  | voingAcknowledgement (link : BitVec 4)
  | cxlWriteCompletion (line : Nat)
  | anchorReserve (slice : BitVec 7) (i : Nat)
  | homeDeposit (slice : BitVec 7) (i : Nat)
  | homeMatch (slice : BitVec 7) (i : Nat)
  | anchorReturn (slice : BitVec 7) (i : Nat)
  | drawerResend (g : RegionNo) (i : Nat)
  | drawerLiveMark (slice : BitVec 7) (i : Nat)
  | drawerSweep (slice : BitVec 7) (i : Nat)
  | chainStepStart (g : RegionNo) (id : Nat)
  | commandStart (g : RegionNo) (x : CtxNo) (port : BitVec 4)
  | commandComplete (g : RegionNo) (x : CtxNo) (port : BitVec 4)
  | accessPerform (g : RegionNo) (id : Nat)
  | accessDeliver (g : RegionNo) (id : Nat)
  | sourcePortPull (g : RegionNo) (ch : BitVec 7)
  | flitMove (g : RegionNo) (i : Nat)
  | threadTokenEntry (g : RegionNo) (port : BitVec 6)
  | threadTokenAdmit (g : RegionNo) (x : CtxNo)
  | blockDecision (g : RegionNo) (x : CtxNo)
  | activate (g : RegionNo) (x : CtxNo)
  | quantumEnd (g : RegionNo)
  | imageReady (g : RegionNo) (i : Nat)
  | regionSave (g : RegionNo)
  | regionRestore (g : RegionNo) (i : Nat)
  | powerGate (g : RegionNo)
  | clockGate (g : RegionNo)
  | clockGateResume (g : RegionNo)
  | residencyT2 (g : RegionNo)
  | kernelEnd (k : Nat)
  | faultRecord (i : Nat)
  | drainLimit (g : RegionNo)
  | hostMemoryAccess (addr : Nat) (wr : Option (List Byte))
  | ownershipTransferEnd (granule : Nat)
  | ownershipTimeout (granule : Nat)
  | commandAccept (f : BitVec 5) (q : BitVec 4)
  | tailWrite (f : BitVec 5) (q : BitVec 4) (v : W64)
  | cheadWrite (f : BitVec 5) (q : BitVec 4) (v : W64)
  | aqsWrite (f : BitVec 5) (v : W64)
  | s2rootWrite (f : BitVec 5) (n : BitVec 5) (v : W64)
  | s2fheadWrite (f : BitVec 5) (v : W64)
  | s2fqsWrite (f : BitVec 5) (v : W64)
  | go (f : BitVec 5) (v : W64)
  | qgo (f : BitVec 5) (v : W64)
  | registerWrite (f : BitVec 5) (off : BitVec 16) (v : W64)
  | bureauPageFetch (page : Nat)
  | correctedError (src : ErrSource)
  | linkCrcRetry (link : BitVec 4)
  | linkRetrainDone (link : BitVec 4)
  | uncorrectableError (t : ErrTarget)
  | scrubUncorrectable (addr : Nat)
  | heartbeat
  | heartbeatTimeout
  | lockstepMismatch
  | reset
  | powerLoss
  | functionEnable (f : BitVec 5) (on : Bool)
  deriving DecidableEq, Repr, Inhabited

end Sys2Proof
end

