-- ==== Sys2Proof/Machine/Opcodes.lean ====
section
/-!
DEFINITION. The opcode maps of the three instruction layers and of the host command set, both ways.
-/

namespace Sys2Proof

/-- The OP of a cell instruction and its operand fields (03 R86). -/
def Instr.slotOp? : Instr → Option (BitVec 9 × SlotWord)
  | .cpy w => some (0x001, w)
  | .sink w => some (0x002, w)
  | .gate w => some (0x003, w)
  | .steer w => some (0x004, w)
  | .merge w => some (0x005, w)
  | .const w => some (0x006, w)
  | .iter w => some (0x007, w)
  | .tid w => some (0x008, w)
  | .iadd w => some (0x040, w)
  | .isub w => some (0x041, w)
  | .imul w => some (0x042, w)
  | .imulh w => some (0x043, w)
  | .imad w => some (0x044, w)
  | .idiv w => some (0x045, w)
  | .irem w => some (0x046, w)
  | .ineg w => some (0x047, w)
  | .iabs w => some (0x048, w)
  | .imin w => some (0x049, w)
  | .imax w => some (0x04A, w)
  | .cellAnd w => some (0x04B, w)
  | .cellOr w => some (0x04C, w)
  | .cellXor w => some (0x04D, w)
  | .cellNot w => some (0x04E, w)
  | .shl w => some (0x04F, w)
  | .shr w => some (0x050, w)
  | .sar w => some (0x051, w)
  | .popc w => some (0x052, w)
  | .clz w => some (0x053, w)
  | .icmp w => some (0x054, w)
  | .sel w => some (0x055, w)
  | .agen w => some (0x056, w)
  | .bcast w => some (0x057, w)
  | .shuf w => some (0x058, w)
  | .rot w => some (0x059, w)
  | .pack w => some (0x05A, w)
  | .unpack w => some (0x05B, w)
  | .fadd w => some (0x0C0, w)
  | .fsub w => some (0x0C1, w)
  | .fmul w => some (0x0C2, w)
  | .ffma w => some (0x0C3, w)
  | .fmin w => some (0x0C4, w)
  | .fmax w => some (0x0C5, w)
  | .fabs w => some (0x0C6, w)
  | .fneg w => some (0x0C7, w)
  | .frcp w => some (0x0C8, w)
  | .frsq w => some (0x0C9, w)
  | .fexp2 w => some (0x0CA, w)
  | .flog2 w => some (0x0CB, w)
  | .fcmp w => some (0x0CC, w)
  | .cvt w => some (0x0CD, w)
  | .quant w => some (0x0CE, w)
  | .scale w => some (0x0CF, w)
  | .vsum w => some (0x0D0, w)
  | .vmax w => some (0x0D1, w)
  | .ld w => some (0x140, w)
  | .st w => some (0x141, w)
  | .ldg w => some (0x142, w)
  | .stg w => some (0x143, w)
  | .sld w => some (0x144, w)
  | .sst w => some (0x145, w)
  | .srel w => some (0x146, w)
  | .spub w => some (0x147, w)
  | .spill w => some (0x148, w)
  | .fill w => some (0x149, w)
  | .mload w => some (0x180, w)
  | .mswap w => some (0x181, w)
  | .mfire w => some (0x182, w)
  | .mdrain w => some (0x183, w)
  | .mzero w => some (0x184, w)
  | .msmeta w => some (0x185, w)
  | .isect w => some (0x186, w)
  | .mark w => some (0x1C0, w)
  | .aupd w => some (0x1C1, w)
  | .own w => some (0x1C2, w)
  | .barr w => some (0x1C3, w)
  | .bwait w => some (0x1C4, w)
  | _ => none

/-- The cell instruction of an OP (03 R86); none for every undefined OP. -/
def slotOf (op : BitVec 9) (w : SlotWord) : Option Instr :=
  match op.toNat with
  | 0x001 => some (.cpy w)
  | 0x002 => some (.sink w)
  | 0x003 => some (.gate w)
  | 0x004 => some (.steer w)
  | 0x005 => some (.merge w)
  | 0x006 => some (.const w)
  | 0x007 => some (.iter w)
  | 0x008 => some (.tid w)
  | 0x040 => some (.iadd w)
  | 0x041 => some (.isub w)
  | 0x042 => some (.imul w)
  | 0x043 => some (.imulh w)
  | 0x044 => some (.imad w)
  | 0x045 => some (.idiv w)
  | 0x046 => some (.irem w)
  | 0x047 => some (.ineg w)
  | 0x048 => some (.iabs w)
  | 0x049 => some (.imin w)
  | 0x04A => some (.imax w)
  | 0x04B => some (.cellAnd w)
  | 0x04C => some (.cellOr w)
  | 0x04D => some (.cellXor w)
  | 0x04E => some (.cellNot w)
  | 0x04F => some (.shl w)
  | 0x050 => some (.shr w)
  | 0x051 => some (.sar w)
  | 0x052 => some (.popc w)
  | 0x053 => some (.clz w)
  | 0x054 => some (.icmp w)
  | 0x055 => some (.sel w)
  | 0x056 => some (.agen w)
  | 0x057 => some (.bcast w)
  | 0x058 => some (.shuf w)
  | 0x059 => some (.rot w)
  | 0x05A => some (.pack w)
  | 0x05B => some (.unpack w)
  | 0x0C0 => some (.fadd w)
  | 0x0C1 => some (.fsub w)
  | 0x0C2 => some (.fmul w)
  | 0x0C3 => some (.ffma w)
  | 0x0C4 => some (.fmin w)
  | 0x0C5 => some (.fmax w)
  | 0x0C6 => some (.fabs w)
  | 0x0C7 => some (.fneg w)
  | 0x0C8 => some (.frcp w)
  | 0x0C9 => some (.frsq w)
  | 0x0CA => some (.fexp2 w)
  | 0x0CB => some (.flog2 w)
  | 0x0CC => some (.fcmp w)
  | 0x0CD => some (.cvt w)
  | 0x0CE => some (.quant w)
  | 0x0CF => some (.scale w)
  | 0x0D0 => some (.vsum w)
  | 0x0D1 => some (.vmax w)
  | 0x140 => some (.ld w)
  | 0x141 => some (.st w)
  | 0x142 => some (.ldg w)
  | 0x143 => some (.stg w)
  | 0x144 => some (.sld w)
  | 0x145 => some (.sst w)
  | 0x146 => some (.srel w)
  | 0x147 => some (.spub w)
  | 0x148 => some (.spill w)
  | 0x149 => some (.fill w)
  | 0x180 => some (.mload w)
  | 0x181 => some (.mswap w)
  | 0x182 => some (.mfire w)
  | 0x183 => some (.mdrain w)
  | 0x184 => some (.mzero w)
  | 0x185 => some (.msmeta w)
  | 0x186 => some (.isect w)
  | 0x1C0 => some (.mark w)
  | 0x1C1 => some (.aupd w)
  | 0x1C2 => some (.own w)
  | 0x1C3 => some (.barr w)
  | 0x1C4 => some (.bwait w)
  | _ => none

/-- The CODE of a stream command and its fields (03 R90). -/
def Instr.frameCode? : Instr → Option (BitVec 8 × Frame)
  | .sopen c => some (0x10, c)
  | .spublish c => some (0x11, c)
  | .srelease c => some (0x12, c)
  | .srewind c => some (0x13, c)
  | .sclose c => some (0x14, c)
  | .sstat c => some (0x15, c)
  | .sbind c => some (0x16, c)
  | .tcopy c => some (0x20, c)
  | .qcopy c => some (0x21, c)
  | .tfill c => some (0x22, c)
  | .tgather c => some (0x23, c)
  | .tscatter c => some (0x24, c)
  | .karm c => some (0x30, c)
  | .binit c => some (0x31, c)
  | .fprobe c => some (0x32, c)
  | .rmark c => some (0x33, c)
  | .cfgput c => some (0x40, c)
  | .ctxsave c => some (0x41, c)
  | .ctxload c => some (0x42, c)
  | .pmark c => some (0x43, c)
  | .ngroup c => some (0x50, c)
  | .nsend c => some (0x51, c)
  | .npause c => some (0x52, c)
  | .nresume c => some (0x53, c)
  | .dcreate c => some (0x60, c)
  | .ddestroy c => some (0x61, c)
  | .ddeposit c => some (0x62, c)
  | .dcopy c => some (0x63, c)
  | .dtake c => some (0x64, c)
  | .chainrun c => some (0x70, c)
  | .chainstep c => some (0x71, c)
  | .replay c => some (0x80, c)
  | .pmap c => some (0x81, c)
  | .punmap c => some (0x82, c)
  | .ownxfer c => some (0x83, c)
  | _ => none

/-- The stream command of a CODE (03 R90); none for every undefined code. -/
def frameOf (code : BitVec 8) (c : Frame) : Option Instr :=
  match code.toNat with
  | 0x10 => some (.sopen c)
  | 0x11 => some (.spublish c)
  | 0x12 => some (.srelease c)
  | 0x13 => some (.srewind c)
  | 0x14 => some (.sclose c)
  | 0x15 => some (.sstat c)
  | 0x16 => some (.sbind c)
  | 0x20 => some (.tcopy c)
  | 0x21 => some (.qcopy c)
  | 0x22 => some (.tfill c)
  | 0x23 => some (.tgather c)
  | 0x24 => some (.tscatter c)
  | 0x30 => some (.karm c)
  | 0x31 => some (.binit c)
  | 0x32 => some (.fprobe c)
  | 0x33 => some (.rmark c)
  | 0x40 => some (.cfgput c)
  | 0x41 => some (.ctxsave c)
  | 0x42 => some (.ctxload c)
  | 0x43 => some (.pmark c)
  | 0x50 => some (.ngroup c)
  | 0x51 => some (.nsend c)
  | 0x52 => some (.npause c)
  | 0x53 => some (.nresume c)
  | 0x60 => some (.dcreate c)
  | 0x61 => some (.ddestroy c)
  | 0x62 => some (.ddeposit c)
  | 0x63 => some (.dcopy c)
  | 0x64 => some (.dtake c)
  | 0x70 => some (.chainrun c)
  | 0x71 => some (.chainstep c)
  | 0x80 => some (.replay c)
  | 0x81 => some (.pmap c)
  | 0x82 => some (.punmap c)
  | 0x83 => some (.ownxfer c)
  | _ => none

/-- The OPC of a host command and its entry (16 R303). -/
def Instr.hostOpc? : Instr → Option (BitVec 8 × HostEntry)
  | .ctxCreate e => some (0x01, e)
  | .ctxDestroy e => some (0x02, e)
  | .map e => some (0x03, e)
  | .unmap e => some (0x04, e)
  | .launch e => some (0x05, e)
  | .streamBind e => some (0x06, e)
  | .drawerCreate e => some (0x07, e)
  | .queueCreate e => some (0x08, e)
  | .queueDestroy e => some (0x09, e)
  | .keyLoad e => some (0x0A, e)
  | .snapshot e => some (0x0B, e)
  | .vfReset e => some (0x0C, e)
  | _ => none

/-- The host command of an OPC (16 R303); none for every undefined OPC. -/
def hostOf (opc : BitVec 8) (e : HostEntry) : Option Instr :=
  match opc.toNat with
  | 0x01 => some (.ctxCreate e)
  | 0x02 => some (.ctxDestroy e)
  | 0x03 => some (.map e)
  | 0x04 => some (.unmap e)
  | 0x05 => some (.launch e)
  | 0x06 => some (.streamBind e)
  | 0x07 => some (.drawerCreate e)
  | 0x08 => some (.queueCreate e)
  | 0x09 => some (.queueDestroy e)
  | 0x0A => some (.keyLoad e)
  | 0x0B => some (.snapshot e)
  | 0x0C => some (.vfReset e)
  | _ => none

end Sys2Proof
end

