-- ==== Sys2Proof/Machine/FrameRules.lean ====
section
/-!
DEFINITION. The checks made on a stream command when `cissue` hands it to its port, and the offending bit a refusal names
(03 R87, R89, R91; the operand tables of 07 R219, 10 R242, R248, R259, 11 R277, 14 R297, 16 R318, 17 R343).
-/

namespace Sys2Proof.FrameRules

/-- The 128-bit frame of a code and its fields (03 R87). -/
def pack (code : BitVec 8) (c : Frame) : W128 :=
  code ++ BitVec.ofBool c.ord ++ BitVec.ofBool c.ken ++ c.ksel ++ c.cf ++ c.handle ++ c.w2 ++ c.w1 ++ c.w0

/-- Bits lo to hi, both included, as a mask. -/
def span (lo hi : Nat) : Nat := 2 ^ (hi + 1) - 2 ^ lo

/-- The bits a code's description requires to be zero, given the fields that decide it. -/
def zeroMask (code : BitVec 8) (c : Frame) : Nat :=
  let cf := c.cf.toNat
  let ksel := if c.ken then 0 else span 114 117
  let cfz := span 112 113
  let w0z := span 0 31
  let w1z := span 32 63
  let w2z := span 64 95
  let hz := span 96 111
  let h12 := span 108 111
  ksel + (match code.toNat with
    | 0x10 => h12 + span 113 113 + span 10 31
    | 0x11 => h12 + cfz + span 48 63 + w2z
    | 0x12 | 0x13 => h12 + cfz + span 48 63 + span 67 95
    | 0x14 => h12 + span 113 113 + w0z + w1z + w2z
    | 0x15 => h12 + cfz + w0z
    | 0x16 => h12 + span 4 31 + (if cf == 2 then span 40 63 else w1z + span 3 3) + w2z
    | 0x20 | 0x23 | 0x24 => hz + cfz + w0z
    | 0x21 => hz + cfz + span 4 31
    | 0x22 => hz + cfz
    | 0x30 => (if cf == 2 then hz else span 100 111) + span 6 31 + w1z + w2z
    | 0x31 => hz + cfz + span 24 31
    | 0x32 => (if cf == 1 then hz else span 103 111) + w0z + w1z + w2z
    | 0x33 => span 103 111 + cfz + span 8 31 + w1z + w2z
    | 0x40 => hz + cfz + span 5 31
    | 0x41 => hz + span 113 113 + w0z
    | 0x42 => hz + cfz + w0z
    | 0x43 => hz + cfz + w0z + w1z + w2z
    | 0x50 => if cf == 1 then w0z + w1z + w2z else 0
    | 0x51 => if cf == 1 then w0z else span 6 31
    | 0x52 | 0x53 => cfz + w0z + w1z + w2z
    | 0x60 => cfz + span 20 31 + w1z + w2z
    | 0x61 => cfz + w0z + w1z + w2z
    | 0x62 => span 113 113 + span 4 31
    | 0x63 | 0x64 => span 113 113 + span 20 31
    | 0x70 => hz + cfz + w0z
    | 0x71 => hz + cfz + span 16 31
    | 0x80 => h12 + (if cf == 1 then span 8 31 + w1z + w2z else span 1 31 + (if c.w0.getLsbD 0 then 0 else w1z + w2z))
    | 0x81 | 0x82 => h12 + cfz + w0z
    | 0x83 => hz + span 113 113 + w0z
    | _ => 0)

/-- Lowest bits of the fields whose value lies outside its range or set (03 R89). -/
def badFields (code : BitVec 8) (c : Frame) : List Nat :=
  let cf := c.cf.toNat
  let w := c.w0.toNat
  let on := fun (b : Bool) (n : Nat) => if b then [n] else []
  match code.toNat with
  | 0x21 => on (w % 16 != 6 && w % 16 != 7) 0
  | 0x30 => on (cf == 3) 112
  | 0x32 => on (cf ≥ 2) 112
  | 0x40 => on (w % 32 == 0 || w % 32 > 16) 0
  | 0x50 => on (cf ≥ 2) 112 ++ on (cf == 0 && (w % 65536 < 2 || w % 65536 > 4096)) 0
      ++ on (cf == 0 && w / 65536 ≥ w % 65536) 16
  | 0x51 => on (cf ≥ 2) 112 ++ on (cf == 0 && w % 4 > 1) 0 ++ on (cf == 0 && !([0, 1, 6, 7, 8].contains (w / 4 % 16))) 2
  | 0x62 => on (w % 16 > 8) 0
  | 0x63 | 0x64 => on (w / 65536 % 16 > 8) 16
  | 0x80 => on (cf ≥ 2) 112 ++ on (cf == 1 && (w % 256 == 0 || w % 256 > 0x1C)) 0
  | _ => []

/-- Lowest set bit of a number below 2^128. -/
def lowBit (n : Nat) : Option Nat := (List.range 128).find? (fun i => n.testBit i)

/-- The lowest-numbered offending bit of a frame (03 R89); none when the command is accepted. -/
def offending (code : BitVec 8) (c : Frame) : Option Nat :=
  let z := lowBit ((pack code c).toNat &&& zeroMask code c)
  let fs := badFields code c
  match z, fs.min? with
  | some a, some b => some (min a b)
  | some a, none => some a
  | none, r => r

/-- The command is refused with PRIVILEGED_INSTRUCTION unless the context holds the service privilege (03 R91). -/
def needsService (code : BitVec 8) : Bool := 0x80 ≤ code.toNat && code.toNat ≤ 0x8F

end Sys2Proof.FrameRules
end

