-- ==== Sys2Proof/Machine/SlotRules.lean ====
section
/-!
DEFINITION. The checks that configuration load makes on one slot word alone (03 R79 to R86, R50; 04 R105, R106; 05 R133
to R135). The checks that need the whole configuration stand in Machine/Image.lean.
-/

namespace Sys2Proof.SlotWord

/-- IX in immediate form: SA or SB is 9 (03 R81). -/
def immForm (w : SlotWord) : Bool := w.sa == 9 || w.sb == 9

/-- IX as it is read in register form, zero in immediate form (03 R81). -/
def ext (w : SlotWord) : BitVec 16 := if w.immForm then 0 else w.ix

/-- MODE, IX[15:13]. -/
def mode (w : SlotWord) : BitVec 3 := w.ext.extractLsb' 13 3
/-- Rounding mode, IX[15:14] (02 R56). -/
def rnd (w : SlotWord) : BitVec 2 := w.ext.extractLsb' 14 2
/-- Saturate flag, IX[13]. -/
def sat (w : SlotWord) : Bool := w.ext.getLsbD 13
/-- SC or FN, IX[12:8]. -/
def fn (w : SlotWord) : BitVec 5 := w.ext.extractLsb' 8 5
/-- XH, IX[7]. -/
def xh (w : SlotWord) : Bool := w.ext.getLsbD 7
/-- DK, IX[6:5]. -/
def dk (w : SlotWord) : BitVec 2 := w.ext.extractLsb' 5 2
/-- DREG, IX[4:0]. -/
def dreg (w : SlotWord) : BitVec 5 := w.ext.extractLsb' 0 5

/-- The route of a target, bits [11:9] (03 R84). -/
def route (t : BitVec 12) : BitVec 3 := t.extractLsb' 9 3
/-- The slot of a local or neighbour target, bits [8:2]. -/
def tslot (t : BitVec 12) : BitVec 7 := t.extractLsb' 2 7
/-- The operand position of a target, bits [1:0]. -/
def tpos (t : BitVec 12) : BitVec 2 := t.extractLsb' 0 2

end Sys2Proof.SlotWord

namespace Sys2Proof.SlotRules
open SlotWord

/-- Instructions whose SC is a third source (03 R86, column Sources). -/
def third (op : BitVec 9) : Bool := op == 0x044 || op == 0x055 || op == 0x0C3

/-- Memory operations (05 R135). -/
def memOp (op : BitVec 9) : Bool :=
  (0x140 ≤ op.toNat && op.toNat ≤ 0x149) || op == 0x180 || op == 0x185 || op == 0x183 || op == 0x1C1 || op == 0x1C3 || op == 0x1C4

/-- Memory operations with a data result (05 R135). -/
def dataResult (op : BitVec 9) : Bool :=
  op == 0x140 || op == 0x142 || op == 0x144 || op == 0x1C1 || op == 0x1C3 || op == 0x1C4 || op == 0x183

/-- Least and greatest number of sources in SA and SB (03 R86). -/
def sources (op : BitVec 9) : Nat × Nat :=
  match op.toNat with
  | 0x007 => (0, 2) | 0x008 => (0, 0)
  | 0x001 | 0x002 | 0x003 | 0x004 | 0x006 | 0x047 | 0x048 | 0x04E | 0x052 | 0x053 | 0x05B | 0x0C6 | 0x0C7 | 0x0C8 | 0x0C9
  | 0x0CA | 0x0CB | 0x0CD | 0x0D0 | 0x0D1 | 0x146 | 0x147 | 0x148 | 0x149 | 0x180 | 0x183 | 0x185 | 0x1C3 | 0x1C4 => (1, 1)
  | 0x057 | 0x0CE | 0x140 | 0x142 | 0x144 | 0x182 => (1, 2)
  | 0x181 | 0x184 | 0x1C0 => (0, 1)
  | _ => (2, 2)

/-- The type codes an instruction accepts (04 R105, 05 R133). -/
def types (op : BitVec 9) : List Nat :=
  match op.toNat with
  | 0x001 | 0x002 | 0x003 | 0x004 | 0x005 => [0]
  | 0x006 | 0x055 | 0x057 | 0x058 | 0x059 => [0, 1, 2, 3, 4, 5, 6, 7, 8, 9, 10, 13, 14]
  | 0x007 => [0, 1, 2, 3]
  | 0x008 => [0, 1]
  | 0x040 | 0x041 | 0x049 | 0x04A | 0x047 | 0x048 | 0x04B | 0x04C | 0x04D | 0x04E | 0x04F | 0x050 | 0x051 | 0x054 => [0, 1, 2, 3, 4, 5, 14]
  | 0x042 | 0x043 | 0x044 | 0x045 | 0x046 | 0x052 | 0x053 => [0, 1, 2, 3, 4, 5]
  | 0x056 => [0, 1, 14]
  | 0x05A => [0, 1, 2, 3]
  | 0x05B => [2, 3, 4, 5]
  | 0x0C0 | 0x0C1 | 0x0C2 | 0x0C3 | 0x0C4 | 0x0C5 | 0x0C6 | 0x0C7 | 0x0C8 | 0x0C9 | 0x0CA | 0x0CB | 0x0CC => [6, 7, 8]
  | 0x0CD => [0, 1, 2, 3, 4, 5, 6, 7, 8, 9, 10, 13]
  | 0x0CF => [6, 7, 8, 9, 10]
  | 0x0CE => [6, 7]
  | 0x0D0 | 0x0D1 => [0, 1, 6, 7, 8]
  | 0x140 | 0x141 | 0x142 | 0x143 | 0x144 | 0x145 | 0x186 => [0, 1, 2, 3, 4, 5, 6, 7, 8, 9, 10, 13]
  | 0x180 => [4, 7, 8, 9, 10, 11, 12]
  | 0x182 => [4, 7, 9, 10, 11, 12]
  | 0x183 => [6, 7, 9, 10, 11, 12]
  | 0x1C1 => [0, 1, 6]
  | _ => [0]

/-- The operand pairs of the matrix node (02 R71). -/
def mpair (a b : Nat) : Bool :=
  (a == 7 && b == 7) || (a == 4 && b == 4) || ([9, 10, 11, 12].contains a && [9, 10, 11, 12].contains b)

/-- MODE and FN values the instruction's description defines (04 R106, 05 R134, R148, R151, R153). -/
def modeFnOk (op : BitVec 9) (w : SlotWord) : Bool :=
  let m := w.mode
  let r := w.rnd
  let f := w.fn.toNat
  let ty := w.ty.toNat
  match op.toNat with
  | 0x0C0 | 0x0C1 | 0x0C2 | 0x0C8 | 0x0C9 | 0x0CA | 0x0CB => r != 3 && f == 0
  | 0x0C3 => r != 3
  | 0x0CD => r != 3 && ([0, 1, 2, 3, 4, 5, 6, 7, 8, 9, 10, 13].contains f)
  | 0x0CF => r != 3 && f ≤ 1
  | 0x044 | 0x055 => m == 0
  | 0x05A => r == 0 && f == 0
  | 0x007 =>
    let emark := w.ext.getLsbD 15
    let unb := w.ext.getLsbD 14
    !w.ext.getLsbD 13 && (!unb || (w.sa == 10 && !emark))
  | 0x0CE => !w.ext.getLsbD 14 && !w.ext.getLsbD 13 && (f / 4 ≤ (if ty == 6 then 6 else 5))
  | 0x003 | 0x004 => m == 0 && f ≤ 1
  | 0x008 => m == 0 && f ≤ 3
  | 0x054 => m == 0 && f ≤ 5
  | 0x0CC => m == 0 && f ≤ 7
  | 0x056 => m == 0 && f < 16 && !(ty == 14 && f / 8 == 1)
  | 0x05B => m == 0 && f ≤ 1
  | 0x140 | 0x141 | 0x142 | 0x143 | 0x144 | 0x145 => m == 0 && f ≤ 1
  | 0x146 => m == 0 && f ≤ 7
  | 0x180 => m == 0 && f < 8 && ((f % 2 == 1) == (ty == 8))
  | 0x182 =>
    let bt := f % 16
    let mcb := f / 16 == 1
    let sp := w.ext.getLsbD 15
    mpair ty bt && (!sp || ((ty == 7 && bt == 7) || (ty == 4 && bt == 4) || ([9, 10].contains ty && [9, 10].contains bt)))
      && (!mcb || ty == 12)
  | 0x184 => m == 0 && f ≤ 3
  | 0x183 =>
    let pair := (f / 4) % 2 == 1
    f < 16 && (!pair || f % 4 == 0 || f % 4 == 2)
      && (match ty with
        | 6 => m == 0 && !pair
        | 7 => r != 3 && !pair
        | 11 => r == 0 && pair
        | 12 => !w.ext.getLsbD 13 && pair
        | _ => r != 3)
  | 0x1C1 => m == 0 && f % 8 ≤ 6 && f < 16 && !(ty == 6 && [3, 4, 5].contains (f % 8))
  | _ => m == 0 && f == 0

/-- The immediate obeys the table of 03 R82 for the slot's type. -/
def immTypeOk (ty : BitVec 4) (imm : BitVec 16) : Bool :=
  match ty.toNat with
  | 4 => imm.extractLsb' 8 8 == (if imm.getLsbD 7 then 0xFF#8 else 0#8)
  | 5 | 9 | 10 | 13 => imm.extractLsb' 8 8 == 0#8
  | 11 | 12 | 15 => false
  | _ => true

/-- A code that R80 defines as a source. -/
def codeOk (c : BitVec 5) : Bool := !(11 ≤ c.toNat && c.toNat ≤ 15)

/-- SA and SB, and SC of a three-source instruction (03 R80, R81; 04 R112 to R118, R131; 05 R138 to R159). A code that names a source
the description does not list is refused: `zero` as a 64-bit address or as the source of an expanding `quant`, and all but a token as a
ticket; `zero` as a bank address or as the value of `aupd` is taken and reads 0 (log 62). -/
def sourcesOk (op : BitVec 9) (w : SlotWord) : Bool :=
  let a := w.sa.toNat
  let b := w.sb.toNat
  let pos := fun n : Nat => n == 0 || n == 1 || n == 2
  let (_, hi) := sources op
  codeOk w.sa && codeOk w.sb
    && (if third op then codeOk w.fn && w.fn != 9 && !w.immForm else true)
    && (hi ≥ 1 || a == 10) && (hi ≥ 2 || b == 10)
    && (match op.toNat with
      | 0x003 | 0x004 => a != 3
      | 0x005 | 0x186 => pos a && pos b && a != b
      | 0x006 => 4 ≤ a
      | 0x007 => (pos a || a == 9 || a == 10) && (pos b || b == 9 || b == 10)
      | 0x181 | 0x184 | 0x1C0 => pos a || a == 10
      | 0x148 | 0x149 => 16 ≤ a
      | 0x142 | 0x143 | 0x144 | 0x145 | 0x146 | 0x147 => a != 9 && a != 10
      | 0x1C1 => !w.fn.getLsbD 3 || a != 10
      | 0x1C4 => a < 4
      | 0x0CE => b != 9 && (!w.ext.getLsbD 15 || (a != 10 && b == 10))
      | _ => true)

/-- The conditions of 03 R82 apply to an immediate that is widened to the slot's type, not to a bank address or an offset
(05 R138). -/
def immOk (op : BitVec 9) (w : SlotWord) : Bool :=
  if !w.immForm then true
  else match op.toNat with
    | 0x140 | 0x142 | 0x144 | 0x180 | 0x182 | 0x183 | 0x185 | 0x1C2 | 0x1C3 | 0x1C4 => true
    | 0x141 | 0x1C1 | 0x143 | 0x145 => w.sb != 9 || immTypeOk w.ty w.ix
    | _ => immTypeOk w.ty w.ix

/-- XH, DK and DREG (03 R81, 05 R134). -/
def destOk (op : BitVec 9) (w : SlotWord) : Bool :=
  let hiReg := fun c : BitVec 5 => 16 ≤ c.toNat
  (!w.xh || hiReg w.sa || hiReg w.sb || (third op && hiReg w.fn))
    && (match w.dk.toNat with
      | 0 => w.dreg == 0
      | 1 => w.dreg.extractLsb' 2 3 == 0#3
      | 2 => true
      | _ => false)
    && (op.toNat < 0x140 || w.dk == 0 || op == 0x140 || op == 0x142 || op == 0x144 || op == 0x1C1)

/-- One target alone (03 R84). -/
def targetOk (op : BitVec 9) (t : BitVec 12) : Bool :=
  match (route t).toNat with
  | 5 => tpos t == 0
  | 6 => memOp op && (tslot t).toNat < 64
  | 7 => t.extractLsb' 0 9 == 0#9
  | _ => (tslot t).toNat < 64

/-- Both targets name the same slot and position (01 R39): a route 6 edge ends at a local slot. -/
def sameTarget (a b : BitVec 12) : Bool :=
  let place := fun t : BitVec 12 => if route t == 6#3 then 0#3 else route t
  route a != 7#3 && route a != 5#3 && place a == place b && a.extractLsb' 0 9 == b.extractLsb' 0 9

/-- Both targets (03 R84, 01 R39, 04 R113, 05 R135). -/
def targetsOk (op : BitVec 9) (w : SlotWord) : Bool :=
  let r0 := route w.t0
  let r1 := route w.t1
  targetOk op w.t0 && targetOk op w.t1 && !sameTarget w.t0 w.t1 && !(r0 == 6 && r1 == 6)
    && (op != 0x002 || (r0 == 7 && r1 == 7))
    && (!(memOp op) || dataResult op || ((r0 == 6 || r0 == 7) && (r1 == 6 || r1 == 7)))

/-- Token positions a slot reads (03 R85). -/
def positions (op : BitVec 9) (w : SlotWord) : List (BitVec 2) :=
  let cs := [w.sa, w.sb] ++ (if third op then [w.fn] else [])
  let ps := cs.filter (fun c => c.toNat < 4) |>.map (fun c => BitVec.ofNat 2 c.toNat)
  let ps := if op == 0x003 || op == 0x004 then ps ++ [3] else ps
  ([0, 1, 2, 3] : List (BitVec 2)).filter (fun p => ps.contains p)

/-- M = 1 (05 R163). -/
def statefulOk (op : BitVec 9) (w : SlotWord) : Bool :=
  !w.m || ((0x040 ≤ op.toNat && op.toNat ≤ 0x0D1) && !(positions op w).isEmpty)

/-- Every check on the word alone; a word of OP 0 is the empty slot when every other bit is zero (03 R79). -/
def wordOk (op : BitVec 9) (w : SlotWord) : Bool :=
  (types op).contains w.ty.toNat && modeFnOk op w && sourcesOk op w && immOk op w && destOk op w && targetsOk op w
    && statefulOk op w

end Sys2Proof.SlotRules
end

