-- ==== Sys2Proof/WellFormed.lean ====
section
/-!
DEFINITION. Which instruction terms stand for an instruction of the manual: the operands an encoding admits.
-/

namespace Sys2Proof

/-- Well-formed: a slot word passes the checks on the word alone, a command is not refused at `cissue`, a Lectern word is
defined (03 R93, R94, 06 R174, R179, R185, R193), a packet's lists are those of eight entries. -/
def Instr.wf (i : Instr) : Bool :=
  match i.slotOp? with
  | some (op, w) => SlotRules.wordOk op w
  | none =>
    match i.frameCode? with
    | some (code, c) => (FrameRules.offending code c).isNone
    | none =>
      match i with
      | .cset _ g part => part != 6 || g == 0
      | .cget _ _ part => part != 6
      | .kwait _ cond _ _ => cond.toNat ≤ 3
      | .fence sc => sc.toNat ≤ 4
      | .rdst r _ => r.toNat ≤ 7
      | .wrst r _ imm => r.toNat ≤ 8 && (if r.toNat == 8 then !imm.getLsbD 9 else imm == 0)
      | .xinv x _ => x.toNat ≤ 2
      | .undefinedWord _ => true
      | .collectiveHop _ (some (_, pk)) => pk.ops.length == 8 && pk.routes.length == 8
      | _ => true

end Sys2Proof
end

