-- ==== Sys2Proof/Decode.lean ====
section
/-!
DEFINITION. The decoders of the three layers and of the host command ring, rejecting by name, and the encoders written from
the same tables (03 R78, R86, R87, R90, R92, R93; 16 R301).
-/

namespace Sys2Proof

/-- Why bits stand for no instruction. -/
inductive DecodeError where
  | undefinedOp | undefinedFn | undefinedField | undefinedOpcode | undefinedCode | undefinedHostOpc | truncated | emptySlot
  deriving DecidableEq, Repr, Inhabited

/-- The n bits of a word from bit lo. -/
abbrev fld {m : Nat} (w : BitVec m) (lo n : Nat) : BitVec n := w.extractLsb' lo n

/-- A Lectern word (03 R92, R93); every word of R94 is rejected. -/
def decodeLectern (w : W32) : Except DecodeError Instr :=
  let d := fld w 21 5
  let a := fld w 16 5
  let b := fld w 11 5
  let imm := fld w 0 16
  let need (ok : Bool) (i : Instr) : Except DecodeError Instr := if ok then .ok i else .error .undefinedField
  match (fld w 26 6).toNat with
  | 0x00 =>
    match (fld w 0 11).toNat with
    | 0x000 => .ok (.add d a b)
    | 0x001 => .ok (.sub d a b)
    | 0x002 => .ok (.mul d a b)
    | 0x003 => .ok (.mulh d a b)
    | 0x004 => .ok (.div d a b)
    | 0x005 => .ok (.rem d a b)
    | 0x006 => .ok (.lecternAnd d a b)
    | 0x007 => .ok (.lecternOr d a b)
    | 0x008 => .ok (.lecternXor d a b)
    | 0x009 => .ok (.sll d a b)
    | 0x00A => .ok (.srl d a b)
    | 0x00B => .ok (.sra d a b)
    | 0x00C => .ok (.slt d a b)
    | 0x00D => .ok (.sltu d a b)
    | _ => .error .undefinedFn
  | 0x01 => .ok (.addi d a imm)
  | 0x02 => .ok (.andi d a imm)
  | 0x03 => .ok (.ori d a imm)
  | 0x04 => .ok (.xori d a imm)
  | 0x05 => need (fld w 6 10 == 0#10) (.slli d a (fld w 0 6))
  | 0x06 => need (fld w 6 10 == 0#10) (.srli d a (fld w 0 6))
  | 0x07 => need (fld w 6 10 == 0#10) (.srai d a (fld w 0 6))
  | 0x08 => .ok (.slti d a imm)
  | 0x09 => need (a == 0) (.lui d imm)
  | 0x0A => need (a == 0) (.adr d imm)
  | 0x10 => .ok (.ldB d a imm)
  | 0x11 => .ok (.ldH d a imm)
  | 0x12 => .ok (.ldW d a imm)
  | 0x13 => .ok (.ldD d a imm)
  | 0x14 => .ok (.stB d a imm)
  | 0x15 => .ok (.stH d a imm)
  | 0x16 => .ok (.stW d a imm)
  | 0x17 => .ok (.stD d a imm)
  | 0x18 => .ok (.beq d a imm)
  | 0x19 => .ok (.bne d a imm)
  | 0x1A => .ok (.blt d a imm)
  | 0x1B => .ok (.bge d a imm)
  | 0x1C => .ok (.bltu d a imm)
  | 0x1D => .ok (.bgeu d a imm)
  | 0x1E => .ok (.jal (fld w 0 26))
  | 0x1F => .ok (.jalr d a imm)
  | 0x20 =>
    let c := fld w 19 3
    let g := fld w 14 5
    let port := fld w 10 4
    let sel := fld w 0 10
    match (fld w 22 4).toNat with
    | 0 => need (port == 0) (.cld c g sel)
    | 1 => need (port == 0 && fld sel 3 7 == 0#7 && (fld sel 0 3 != 6#3 || g == 0)) (.cset c g (fld sel 0 3))
    | 2 => need (port == 0 && fld sel 3 7 == 0#7 && fld sel 0 3 != 6#3) (.cget c g (fld sel 0 3))
    | 3 => need (g == 0 && sel == 0) (.cissue c port)
    | 4 => need (c == 0 && fld sel 1 9 == 0#9) (.cwait g port (sel.getLsbD 0))
    | _ => .error .undefinedFn
  | 0x21 =>
    let x := fld w 18 4
    let cond := fld w 15 3
    let g := fld w 10 5
    let i := fld w 0 10
    match (fld w 22 4).toNat with
    | 0 => need (cond == 0) (.kset x g i)
    | 1 => need (cond == 0) (.kadd x g i)
    | 2 => need (cond == 0 && i == 0) (.krd x g)
    | 3 => need (cond.toNat ≤ 3) (.kwait x cond g i)
    | _ => .error .undefinedFn
  | 0x22 =>
    let x := fld w 18 4
    let cond := fld w 15 3
    let g := fld w 10 5
    let i := fld w 0 10
    match (fld w 22 4).toNat with
    | 0 => need (cond == 0 && g == 0 && i == 0) (.cfgload x)
    | 1 => need (cond == 0 && g == 0 && i == 0) (.cfggo x)
    | 2 => need (cond == 0) (.bdset x g i)
    | 3 => need (cond == 0 && i == 0) (.bdrd x g)
    | 4 => need (x == 0 && cond == 0 && i == 0) (.bwarr g)
    | 5 => need (x == 0 && cond == 0 && i == 0) (.phase g)
    | 6 => need (cond == 0 && g == 0 && i == 0 && x.toNat ≤ 4) (.fence x)
    | _ => .error .undefinedFn
  | 0x23 =>
    let x := fld w 18 4
    let cond := fld w 15 3
    let g := fld w 10 5
    let i := fld w 0 10
    match (fld w 22 4).toNat with
    | 0 => need (cond == 0 && i == 0 && x.toNat ≤ 7) (.rdst x g)
    | 1 => need (cond == 0 && x.toNat ≤ 8 && (if x.toNat == 8 then !i.getLsbD 9 else i == 0)) (.wrst x g i)
    | 2 => need (x == 0 && cond == 0 && g == 0) (.trap i)
    | 3 => need (x == 0 && cond == 0 && g == 0 && i == 0) .eret
    | 4 => need (x == 0 && cond == 0 && g == 0 && i == 0) .brk
    | 5 => need (x == 0 && cond == 0 && g == 0 && i == 0) .idle
    | 6 => need (x == 0 && cond == 0 && i == 0) (.lexit g)
    | 7 => need (x == 0 && cond == 0 && g == 0 && i == 0) .lkill
    | _ => .error .undefinedFn
  | 0x3F =>
    let x := fld w 18 4
    let cond := fld w 15 3
    let g := fld w 10 5
    let i := fld w 0 10
    match (fld w 22 4).toNat with
    | 0 => need (cond == 0 && i == 0 && x.toNat ≤ 2) (.xinv x g)
    | 1 => need (x == 0 && cond == 0 && i == 0) (.frz g)
    | 2 => need (x == 0 && cond == 0 && i == 0) (.thaw g)
    | 3 => need (x == 0 && cond == 0 && i == 0) (.ftok g)
    | _ => .error .undefinedFn
  | _ => .error .undefinedOp

/-- The operand fields of a slot word (03 R78). -/
def slotFields (w : W64) : SlotWord :=
  ⟨fld w 51 4, fld w 46 5, fld w 41 5, fld w 25 16, fld w 13 12, fld w 1 12, w.getLsbD 0⟩

/-- A slot word (03 R78, R79, R86). -/
def decodeSlot (w : W64) : Except DecodeError Instr :=
  if w == 0 then .error .emptySlot
  else match slotOf (fld w 55 9) (slotFields w) with
    | some i => .ok i
    | none => .error .undefinedOpcode

/-- The fields of a stream command (03 R87). -/
def frameFields (w : W128) : Frame :=
  ⟨w.getLsbD 119, w.getLsbD 118, fld w 114 4, fld w 112 2, fld w 96 16, fld w 64 32, fld w 32 32, fld w 0 32⟩

/-- A stream command (03 R87, R90). -/
def decodeFrame (w : W128) : Except DecodeError Instr :=
  match frameOf (fld w 120 8) (frameFields w) with
  | some i => .ok i
  | none => .error .undefinedCode

/-- The fields of a host command entry, byte 0 in the low bits (16 R301). -/
def hostFields (w : BitVec 512) : HostEntry :=
  ⟨fld w 8 8, fld w 16 16, fld w 32 32, fld w 64 64, fld w 128 64, fld w 192 64, fld w 256 64, fld w 320 64, fld w 384 64, fld w 448 64⟩

/-- A host command entry (16 R301, R303). -/
def decodeHost (w : BitVec 512) : Except DecodeError Instr :=
  match hostOf (fld w 0 8) (hostFields w) with
  | some i => .ok i
  | none => .error .undefinedHostOpc

/-- Little-endian bytes as one number (00 R7). -/
def bytesToNat : List Byte → Nat
  | [] => 0
  | b :: bs => b.toNat + 256 * bytesToNat bs

/-- The n low bytes of a number, little-endian (00 R7). -/
def natToBytes : Nat → Nat → List Byte
  | 0, _ => []
  | n + 1, v => BitVec.ofNat 8 v :: natToBytes n (v / 256)

/-- A Lectern word from the bytes of an instruction space, and the bytes after it. -/
def decodeBytes (bs : List Byte) : Except DecodeError (Instr × List Byte) :=
  if bs.length < 4 then .error .truncated
  else match decodeLectern (BitVec.ofNat 32 (bytesToNat (bs.take 4))) with
    | .ok i => .ok (i, bs.drop 4)
    | .error e => .error e

/-- A number of 512 bits, made of two halves so that it can be evaluated on numerals. -/
def word512 (w : Nat) : BitVec 512 := BitVec.ofNat 256 (w >>> 256) ++ BitVec.ofNat 256 w

/-- The host's question: the instruction whose words are w, by the length of the layer's word. -/
def decodeTableWord (nbits w : Nat) : Option Instr :=
  let get : Except DecodeError Instr → Option Instr := fun r => match r with
    | .ok i => some i
    | .error _ => none
  if nbits ≤ 32 then get (decodeLectern (BitVec.ofNat 32 w))
  else if nbits ≤ 64 then get (decodeSlot (BitVec.ofNat 64 w))
  else if nbits ≤ 128 then get (decodeFrame (BitVec.ofNat 128 w))
  else get (decodeHost (word512 w))

/-- The slot word of an opcode and its fields (03 R78). -/
def encodeSlot (op : BitVec 9) (w : SlotWord) : W64 :=
  op ++ w.ty ++ w.sa ++ w.sb ++ w.ix ++ w.t0 ++ w.t1 ++ BitVec.ofBool w.m

/-- The host entry of an opcode and its fields (16 R301). -/
def encodeHost (opc : BitVec 8) (e : HostEntry) : BitVec 512 :=
  e.o6 ++ e.o5 ++ e.o4 ++ e.o3 ++ e.o2 ++ e.o1 ++ e.o0 ++ e.rsvd ++ e.cid ++ e.flags ++ opc

/-- A-format word (03 R92). -/
def wordA (fn : Nat) (d a b : BitVec 5) : W32 := (0#6) ++ d ++ a ++ b ++ BitVec.ofNat 11 fn
/-- I-format word; the B format has the same places (03 R92). -/
def wordI (op : Nat) (d a : BitVec 5) (imm : BitVec 16) : W32 := BitVec.ofNat 6 op ++ d ++ a ++ imm
/-- C-format word (03 R92). -/
def wordC (fn : Nat) (c : BitVec 3) (g : BitVec 5) (port : BitVec 4) (sel : BitVec 10) : W32 :=
  (0x20#6) ++ BitVec.ofNat 4 fn ++ c ++ g ++ port ++ sel
/-- W-format word (03 R92). -/
def wordW (op fn : Nat) (x : BitVec 4) (cond : BitVec 3) (g : BitVec 5) (imm : BitVec 10) : W32 :=
  BitVec.ofNat 6 op ++ BitVec.ofNat 4 fn ++ x ++ cond ++ g ++ imm

/-- The word of a Lectern instruction (03 R92, R93); none for a term of another layer. -/
def encodeLectern (i : Instr) : Option W32 :=
  match i with
  | .add d a b => some (wordA 0 d a b)
  | .sub d a b => some (wordA 1 d a b)
  | .mul d a b => some (wordA 2 d a b)
  | .mulh d a b => some (wordA 3 d a b)
  | .div d a b => some (wordA 4 d a b)
  | .rem d a b => some (wordA 5 d a b)
  | .lecternAnd d a b => some (wordA 6 d a b)
  | .lecternOr d a b => some (wordA 7 d a b)
  | .lecternXor d a b => some (wordA 8 d a b)
  | .sll d a b => some (wordA 9 d a b)
  | .srl d a b => some (wordA 10 d a b)
  | .sra d a b => some (wordA 11 d a b)
  | .slt d a b => some (wordA 12 d a b)
  | .sltu d a b => some (wordA 13 d a b)
  | .addi d a imm => some (wordI 1 d a imm)
  | .andi d a imm => some (wordI 2 d a imm)
  | .ori d a imm => some (wordI 3 d a imm)
  | .xori d a imm => some (wordI 4 d a imm)
  | .slli d a n => some (wordI 5 d a ((0#10) ++ n))
  | .srli d a n => some (wordI 6 d a ((0#10) ++ n))
  | .srai d a n => some (wordI 7 d a ((0#10) ++ n))
  | .slti d a imm => some (wordI 8 d a imm)
  | .lui d imm => some (wordI 9 d 0 imm)
  | .adr d imm => some (wordI 10 d 0 imm)
  | .ldB a b off => some (wordI 0x10 a b off)
  | .ldH a b off => some (wordI 0x11 a b off)
  | .ldW a b off => some (wordI 0x12 a b off)
  | .ldD a b off => some (wordI 0x13 a b off)
  | .stB a b off => some (wordI 0x14 a b off)
  | .stH a b off => some (wordI 0x15 a b off)
  | .stW a b off => some (wordI 0x16 a b off)
  | .stD a b off => some (wordI 0x17 a b off)
  | .beq a b off => some (wordI 0x18 a b off)
  | .bne a b off => some (wordI 0x19 a b off)
  | .blt a b off => some (wordI 0x1A a b off)
  | .bge a b off => some (wordI 0x1B a b off)
  | .bltu a b off => some (wordI 0x1C a b off)
  | .bgeu a b off => some (wordI 0x1D a b off)
  | .jal off => some ((0x1E#6) ++ off)
  | .jalr d a off => some (wordI 0x1F d a off)
  | .cld c g n => some (wordC 0 c g 0 n)
  | .cset c g p => some (wordC 1 c g 0 ((0#7) ++ p))
  | .cget c g p => some (wordC 2 c g 0 ((0#7) ++ p))
  | .cissue c p => some (wordC 3 c 0 p 0)
  | .cwait g p nb => some (wordC 4 0 g p ((0#9) ++ BitVec.ofBool nb))
  | .kset x g i => some (wordW 0x21 0 x 0 g i)
  | .kadd x g i => some (wordW 0x21 1 x 0 g i)
  | .krd x g => some (wordW 0x21 2 x 0 g 0)
  | .kwait x cond g i => some (wordW 0x21 3 x cond g i)
  | .cfgload b => some (wordW 0x22 0 b 0 0 0)
  | .cfggo b => some (wordW 0x22 1 b 0 0 0)
  | .bdset b g i => some (wordW 0x22 2 b 0 g i)
  | .bdrd b g => some (wordW 0x22 3 b 0 g 0)
  | .bwarr g => some (wordW 0x22 4 0 0 g 0)
  | .phase g => some (wordW 0x22 5 0 0 g 0)
  | .fence sc => some (wordW 0x22 6 sc 0 0 0)
  | .rdst r g => some (wordW 0x23 0 r 0 g 0)
  | .wrst r g i => some (wordW 0x23 1 r 0 g i)
  | .trap i => some (wordW 0x23 2 0 0 0 i)
  | .eret => some (wordW 0x23 3 0 0 0 0)
  | .brk => some (wordW 0x23 4 0 0 0 0)
  | .idle => some (wordW 0x23 5 0 0 0 0)
  | .lexit g => some (wordW 0x23 6 0 0 g 0)
  | .lkill => some (wordW 0x23 7 0 0 0 0)
  | .xinv x g => some (wordW 0x3F 0 x 0 g 0)
  | .frz g => some (wordW 0x3F 1 0 0 g 0)
  | .thaw g => some (wordW 0x3F 2 0 0 g 0)
  | .ftok g => some (wordW 0x3F 3 0 0 g 0)
  | _ => none

/-- The words of an instruction of any layer, as bytes from the lowest address; none for a step that has no word. -/
def encode (i : Instr) : Option (List Byte) :=
  match encodeLectern i, i.slotOp?, i.frameCode?, i.hostOpc? with
  | some w, _, _, _ => some (natToBytes 4 w.toNat)
  | none, some (op, w), _, _ => some (natToBytes 8 (encodeSlot op w).toNat)
  | none, none, some (code, c), _ => some (natToBytes 16 (FrameRules.pack code c).toNat)
  | none, none, none, some (opc, e) => some (natToBytes 64 (encodeHost opc e).toNat)
  | none, none, none, none => none

end Sys2Proof
end

