-- ==== Sys2Proof/Machine/Aes.lean ====
section
/-!
DEFINITION. AES-256 (FIPS 197) and its XTS mode (IEEE 1619), under which a line of an encrypted frame is stored (17 R333; log 12).
-/

namespace Sys2Proof.Aes

/-! ## The field -/

/-- A byte times x. -/
def xtime (b : Byte) : Byte := (b <<< 1) ^^^ (if b.msb then 0x1B else 0)

/-- The product of two bytes; the number counts the bits of the second still to be taken. -/
def mulGo : Nat → Byte → Byte → Byte
  | 0, _, _ => 0
  | n + 1, a, b => (if b.getLsbD 0 then a else 0) ^^^ mulGo n (xtime a) (b >>> 1)

/-- The product of two bytes. -/
def mul (a b : Byte) : Byte := mulGo 8 a b

/-- The inverse of a byte, 0 for 0: its power 254. -/
def inv (a : Byte) : Byte :=
  let p2 := mul a a; let p4 := mul p2 p2; let p8 := mul p4 p4; let p16 := mul p8 p8; let p32 := mul p16 p16
  let p64 := mul p32 p32; let p128 := mul p64 p64
  mul p128 (mul p64 (mul p32 (mul p16 (mul p8 (mul p4 p2)))))

/-- SubBytes of a byte, and its inverse. -/
def sub (a : Byte) : Byte :=
  let i := inv a
  i ^^^ i.rotateLeft 1 ^^^ i.rotateLeft 2 ^^^ i.rotateLeft 3 ^^^ i.rotateLeft 4 ^^^ 0x63
def unsub (a : Byte) : Byte := inv (a.rotateLeft 1 ^^^ a.rotateLeft 3 ^^^ a.rotateLeft 6 ^^^ 0x05)

/-! ## Rounds: a block is 16 bytes, column after column -/

/-- Bytes of two lists added. -/
def add (a b : List Byte) : List Byte := List.zipWith (· ^^^ ·) a b

/-- ShiftRows and its inverse: row r moves by r columns, by 3 × r to go back. -/
def shift (n : Nat) (b : List Byte) : List Byte := (List.range 16).map (fun i => b.getD (i % 4 + 4 * ((i / 4 + n * (i % 4)) % 4)) 0)

/-- MixColumns with the first row of its matrix. -/
def mix (m : List Byte) (b : List Byte) : List Byte :=
  (List.range 16).map (fun i => (List.range 4).foldl (fun x j => x ^^^ mul (m.getD ((j + 4 - i % 4) % 4) 0) (b.getD (4 * (i / 4) + j) 0)) 0)

/-- Words of the key schedule after the first eight: n more, the newest first, with the round constant of the next group. -/
def expandGo : Nat → Byte → List (List Byte) → List (List Byte)
  | 0, _, ws => ws
  | n + 1, rc, ws =>
    let i := ws.length
    let t := ws.headD []
    let old := ws.getD 7 []
    let t := if i % 8 == 0 then add ((t.drop 1 ++ t.take 1).map sub) [rc, 0, 0, 0] else if i % 8 == 4 then t.map sub else t
    expandGo n (if i % 8 == 0 then xtime rc else rc) (add old t :: ws)

/-- The fifteen round keys of a 32-byte key. -/
def roundKeys (key : List Byte) : List (List Byte) :=
  let ws := (expandGo 52 1 ((List.range 8).map (fun i => (key.drop (4 * i)).take 4)).reverse).reverse
  (List.range 15).map (fun i => ((ws.drop (4 * i)).take 4).flatten)

/-- A block encrypted under round keys. -/
def encrypt (ks : List (List Byte)) (b : List Byte) : List Byte :=
  let b := ((ks.drop 1).take 13).foldl (fun b k => add (mix [2, 3, 1, 1] (shift 1 (b.map sub))) k) (add b (ks.getD 0 []))
  add (shift 1 (b.map sub)) (ks.getD 14 [])

/-- A block decrypted under round keys. -/
def decrypt (ks : List (List Byte)) (b : List Byte) : List Byte :=
  let b := ((ks.drop 1).take 13).reverse.foldl (fun b k => mix [14, 11, 13, 9] (add ((shift 3 b).map unsub) k)) (add b (ks.getD 14 []))
  add ((shift 3 b).map unsub) (ks.getD 0 [])

/-! ## XTS: a data unit of 128 bytes under a data key and a tweak key -/

/-- The tweak of the next block. -/
def alpha (t : List Byte) : List Byte :=
  let n := bytesToNat t
  natToBytes 16 (if n ≥ 2 ^ 127 then (2 * n % 2 ^ 128) ^^^ 0x87 else 2 * n)

/-- Blocks under successive tweaks; the number counts them. -/
def xtsGo (f : List Byte → List Byte) : Nat → List Byte → List Byte → List Byte
  | 0, _, _ => []
  | n + 1, t, bs => add (f (add (bs.take 16) t)) t ++ xtsGo f n (alpha t) (bs.drop 16)

/-- A data unit of a number encrypted, or decrypted, under key material: 32 bytes of data key, then 32 of tweak key. -/
def xts (dec : Bool) (key : BitVec 512) (unit : Nat) (bs : List Byte) : List Byte :=
  let m := natToBytes 64 key.toNat
  let ks := roundKeys (m.take 32)
  xtsGo (if dec then decrypt ks else encrypt ks) 8 (encrypt (roundKeys (m.drop 32)) (natToBytes 16 unit)) bs

/-- What a line that holds bytes under one key, or in clear, reads as under another: its stored bytes decrypted with that key. -/
def recrypt (old new : Option (BitVec 512)) (line : Nat) (bs : List Byte) : List Byte :=
  let stored := match old with
    | some k => xts false k line bs
    | none => bs
  match new with
  | some k => xts true k line stored
  | none => stored

end Sys2Proof.Aes
end

