-- ==== Sys2Proof/Machine/Tab.lean ====
section
/-!
DEFINITION. A table by number, as a list of key and value pairs with strictly rising keys: how the model holds what the
manual numbers sparsely (slots, channels, contexts, pages).
-/

namespace Sys2Proof

/-- A table by number. -/
abbrev Tab (α : Type) := List (Nat × α)

/-- The entry of a key. -/
def Tab.get {α : Type} : Tab α → Nat → Option α
  | [], _ => none
  | (k, v) :: r, n => if k == n then some v else Tab.get r n

/-- The entry of a key, or the default of its type. -/
def Tab.getD {α : Type} [Inhabited α] (t : Tab α) (n : Nat) : α := (Tab.get t n).getD default

/-- The table with a key's entry replaced. -/
def Tab.set {α : Type} : Tab α → Nat → α → Tab α
  | [], n, v => [(n, v)]
  | (k, w) :: r, n, v => if n < k then (n, v) :: (k, w) :: r else if n == k then (n, v) :: r else (k, w) :: Tab.set r n v

/-- The table without a key. -/
def Tab.erase {α : Type} (t : Tab α) (n : Nat) : Tab α := t.filter (fun p => p.1 != n)

/-- The table with a key's entry, or the default of its type, changed. -/
def Tab.upd {α : Type} [Inhabited α] (t : Tab α) (n : Nat) (f : α → α) : Tab α := Tab.set t n (f (Tab.getD t n))

/-- Every entry changed. -/
def Tab.mapVal {α β : Type} (t : Tab α) (f : Nat → α → β) : Tab β := List.map (fun p => (p.1, f p.1 p.2)) t

/-- Whether a key has an entry. -/
def Tab.has {α : Type} (t : Tab α) (n : Nat) : Bool := (Tab.get t n).isSome

/-- The least number below a bound that has no entry. -/
def Tab.free {α : Type} (t : Tab α) (bound : Nat) : Option Nat := (List.range bound).find? (fun n => !(Tab.has t n))

end Sys2Proof
end

