-- ==== Sys2Proof/Machine/Parts.lean ====
section
/-!
DEFINITION. The components of the machine as plain data: cells, threads, ports, channels, streams, Drawers, contexts, queues
and the service state. Registers stand in tables in which an absent number holds the register's value at reset.
-/

namespace Sys2Proof.Machine

/-- Addresses and bytes of one memory, in the canonical form of Machine/Ops.lean. -/
abbrev Memory := List (Nat × Byte)

/-- Who moves next (09 R228): a Lectern thread, a fault microprogram, a slot, a started command, an accepted host command,
the ROM, a unit or the outside. -/
inductive Agent where
  | lectern (g : RegionNo) (x : CtxNo)
  | micro (g : RegionNo)
  | slot (l : SlotLoc)
  | command (g : RegionNo) (id : Nat)
  | hostCmd (k : Nat)
  /-- the ROM, while it verifies a service image (19 R357) -/
  | rom
  /-- the 9100, while it makes a quote (19 R360), and the Armoire, while it rebuilds (19 R369) -/
  | quote
  | armoire
  | event (i : Instr)
  | pass (us : Nat)
  deriving DecidableEq, Repr, Inhabited

/-- A wait that a residency timer or a hang report names (17 R339): kind 1 to 15, object, agent waited for, order. -/
structure Wait where
  kind  : Nat := 0
  obj   : Nat := 0
  agent : Nat := 0xFF
  since : Nat := 0
  deriving DecidableEq, Repr, Inhabited

/-! ## Cells (01 R23) -/

/-- A result register: the token still to be pulled toward each target, in the order of writing (01 R35). -/
structure ResultReg where
  t0  : Option Token := none
  t1  : Option Token := none
  seq : Nat := 0
  deriving DecidableEq, Repr, Inhabited

/-- A sequence in progress (04 R117): next index, count (none = endless), start, P, ROUND. -/
structure IterSeq where
  i     : Nat := 0
  count : Option Nat := none
  start : Nat := 0
  p     : Bool := true
  round : Byte := 0
  deriving DecidableEq, Repr, Inhabited

/-- One slot of one context (01 R23, R35; 04 R111, R117; 05 R156, R160, R163). -/
structure Slot where
  word   : W64 := 0
  res    : ResultReg := {}
  rc     : Byte := 0
  /-- activations not yet answered by a firing (04 R111) -/
  pend   : Nat := 0
  iter   : Option IterSeq := none
  /-- admitted thread tokens not yet answered by a `tid` firing: coordinate numbers are payload fields (04 R118) -/
  tids   : List (List (BitVec 16)) := []
  /-- last result of a stateful slot and the AND of its P bits (05 R163) -/
  last   : Option Token := none
  lastP  : Bool := true
  /-- a marker to be sent once the result register is empty (05 R163, 04 R117) -/
  after  : Option Token := none
  /-- the range of an `own` slot, first byte and length, and the P and ROUND its tokens carry (05 R156, R160) -/
  own    : Option (Nat × Nat) := none
  ownP   : Bool := true
  ownRound : Byte := 0
  held   : Option Wait := none
  /-- a firing has faulted: its result is withheld and later firings wait behind it (03 R83, 05 R141) -/
  blocked : Bool := false
  deriving DecidableEq, Repr, Inhabited

/-- A register a firing will write: 1 = operand file, 2 = main register file (03 R81). -/
structure DestReg where
  dk : Nat := 0
  n  : Nat := 0
  deriving DecidableEq, Repr, Inhabited

/-- A firing started and not yet written (04 R109). -/
structure Flight where
  seq  : Nat := 0
  ctx  : CtxNo := 0
  slot : SlotNo := 0
  lr   : Option Line := none
  dest : Option (DestReg × Line) := none
  t0   : Option Token := none
  t1   : Option Token := none
  deriving DecidableEq, Repr, Inhabited

/-- A tile register (01 R23, 05 R148, R149): bytes, type code, codebook, metadata, owner. -/
structure Tile where
  bytes : List Byte := []
  fmt   : Nat := 0
  cbn   : Nat := 0
  /-- the 16 FP16 entries are read at `mfire`; metadata of 16 columns of 8 bytes (05 R149) -/
  mdata : List Byte := []
  owner : Option CtxNo := none
  deriving DecidableEq, Repr, Inhabited

/-- A spill map entry in use (01 R28) and the parked copy. -/
structure Spill where
  ctx  : CtxNo := 0
  vreg : Nat := 0
  kind : Bool := false
  loc  : Nat := 0
  val  : Line := 0
  deriving DecidableEq, Repr, Inhabited

/-- The part of a cell that a region image holds (01 R23). -/
structure Cell where
  /-- slot number 64 × context + slot -/
  slots   : Tab Slot := []
  lr      : Tab Line := []
  lrSeq   : Tab Nat := []
  /-- o0 to o3, number 4 × context + n -/
  o       : Tab Line := []
  /-- physical main register file -/
  v       : Tab Line := []
  /-- accumulators, number 256 × acc + 16 × row + column -/
  acc     : Tab W32 := []
  ta      : Tile := {}
  tl      : Tile := {}
  spills  : Tab Spill := []
  flights : List Flight := []
  /-- slots that are ready and since which step, by slot number (01 R27) -/
  ready   : Tab Nat := []
  deriving DecidableEq, Repr, Inhabited

/-! ## Accesses (09 R230) -/

/-- Whose issue queue holds an access. -/
inductive AccPort where
  | slot (cell : CellNo) (ctx : CtxNo) (slot : SlotNo)
  | thread (x : CtxNo)
  deriving DecidableEq, Repr, Inhabited

/-- What an access does at its serialisation point. -/
inductive AccOp where
  /-- load: bytes; for a Lectern load the destination register, or 32 + c for `cld` -/
  | read
  | write (data : List Byte)
  | update (opn ty : Nat) (val : Nat)
  | publish
  | release (rdr : Nat)
  | arrive
  | await (gen : Nat)
  | fill (v : Nat)
  | spill (v : Nat) (val : Line)
  | tile
  /-- the moving tile of an `mfire`: accumulator, SP, bitmap, and the two codebooks as they were read in its start cycle (05 R151) -/
  | moving (acc : Nat) (sp : Bool) (bitmap : Nat) (cbm cbt : List Nat)
  | codebook (n : Nat)
  | metadata
  | drain (data : List Byte)
  deriving DecidableEq, Repr, Inhabited

/-- A translated place: host physical address, key slot, plaintext, sequentially consistent, compressed page. -/
structure Place where
  bank : Bool := false
  g    : RegionNo := 0
  pa   : Nat := 0
  key  : Nat := 0
  pt   : Bool := true
  sc   : Bool := false
  comp : Nat := 0
  gpa  : Nat := 0
  deriving DecidableEq, Repr, Inhabited

/-- A failed translation (17 R328): cause, stage 2, level, guest physical address, host physical address when known. -/
structure XFault where
  cause : Byte := 0
  s2    : Bool := false
  level : Nat := 0
  gpa   : Nat := 0
  /-- when the access parked, and its place in the order of parking (17 R342, R347) -/
  since : Nat := 0
  seq   : Nat := 0
  /-- AUX of its record, where the kind of access gives one (17 R339), and whether it was a write -/
  aux   : Nat := 0
  wr    : Bool := false
  deriving DecidableEq, Repr, Inhabited

/-- Where an access stands. -/
inductive AccPhase where
  /-- a stream access not yet admitted -/
  | entering
  /-- started; the translation of an address waits for a granule in which its tables lie (17 R349) -/
  | walk (va : Nat)
  /-- admitted or ordinary, translated -/
  | ready (pl : Place)
  | parked (f : XFault) (addr : Nat)
  | performed (val : Nat)
  | faulted (cause : Byte)
  deriving DecidableEq, Repr, Inhabited

/-- An access started and not delivered. -/
structure Acc where
  id     : Nat := 0
  port   : AccPort := .thread 0
  op     : AccOp := .read
  addr   : Nat := 0
  n      : Nat := 0
  wr     : Bool := false
  phase  : AccPhase := .entering
  /-- arrival at a control point, for waiting writes (07 R205) -/
  wait   : Option Wait := none
  reported : Bool := false
  ctxid  : Nat := 0
  gen    : BitVec 16 := 0
  seq    : Nat := 0
  /-- header of the tokens to be delivered: P and ROUND; type and line for a load (05 R135) -/
  p      : Bool := true
  round  : Byte := 0
  ty     : Nat := 0
  line   : Bool := false
  dest   : DestReg := {}
  reg    : Nat := 0
  size   : Nat := 0
  /-- the lines that an access of several lines has performed, by number from its start: what was read, or nothing for a line written -/
  parts  : Tab (List Byte) := []
  /-- the class 0x0 address that was translated: its own, or that of its ring byte -/
  va     : Nat := 0
  /-- the opening of its stream under which it was admitted: a later close gives the ring up (07 R222) -/
  opens  : Nat := 0
  deriving DecidableEq, Repr, Inhabited

/-! ## Channels and ports (01 R41 to R46, 07 R214, 10 R253 to R257) -/

/-- What a flit carries. -/
inductive FlitKind where
  | token | probe (cmd : Nat) | ack
  deriving DecidableEq, Repr, Inhabited

/-- A flit: the token it belongs to, its number in it and how many there are. -/
structure Flit where
  ch   : Nat := 0
  kind : FlitKind := .token
  tok  : Token := default
  tid  : Nat := 0
  idx  : Nat := 0
  of   : Nat := 1
  vc   : Nat := 0
  /-- router it waits in: 0 to 255, input 0 local, 1 N, 2 E, 3 S, 4 W -/
  loc  : Nat := 0
  inp  : Nat := 0
  deriving DecidableEq, Repr, Inhabited

/-- An item of a destination FIFO: a token or a probe. -/
structure DItem where
  tok   : Token := default
  probe : Option Nat := none
  deriving DecidableEq, Repr, Inhabited

/-- A mesh channel and its FIFOs. -/
structure Chan where
  desc   : W64 := 0
  /-- filter entry in force (10 R253) -/
  entry  : W64 := 0
  sfifo  : List Flit := []
  dfifo  : List DItem := []
  /-- filter outputs that wait for room -/
  fout   : List DItem := []
  /-- VC1: tokens sent in the round, marker awaiting its acknowledgement, tokens arrived, marker held -/
  sent   : Nat := 0
  unacked : Bool := false
  arrived : Nat := 0
  heldMark : Option Token := none
  /-- a marker has entered the destination FIFO whose presentation is still to be acknowledged -/
  ackDue : Bool := false
  /-- an `rmark` that waits for room: command number and ROUND -/
  rmark  : List (Nat × Byte) := []
  /-- CONVERT: elements gathered and their P; ZERO_DROP: q; TRANSPOSE16: rows and their P -/
  fElems : List Nat := []
  fP     : Bool := true
  fRound : Byte := 0
  fq     : Nat := 0
  fRows  : List Line := []
  /-- elements gathered by the CONVERT of a joining port (10 R258) -/
  jElems : List Nat := []
  jP     : Bool := true
  jRound : Byte := 0
  /-- tokens that a joining port has pulled and that wait for room in the source FIFO, and probes behind them -/
  jout   : List DItem := []
  /-- probes behind elements gathered by a joining port, and behind those of the destination filter: command numbers -/
  jwait  : List Nat := []
  fwait  : List Nat := []
  deriving DecidableEq, Repr, Inhabited

/-- An access of a command in its engine's issue queue, of bytes within one line: which of the command's accesses it is, the address and
bytes that the command names, the data of a write, the address and place that it was translated to when it started, the opening of its
stream under which it was admitted, and what it has read once it has performed (09 R228 to R230, R234). -/
structure EAcc where
  tag   : Nat := 0
  addr  : Nat := 0
  n     : Nat := 0
  wr    : Option (List Byte) := none
  va    : Nat := 0
  pl    : Place := {}
  opens : Nat := 0
  got   : Option (List Byte) := none
  deriving DecidableEq, Repr, Inhabited

/-- An access of an edge stream port that its stream has admitted: offset, bytes, the opening of the stream, and its accesses of lines that have
started or performed (07 R214, 09 R230). -/
structure PortAcc where
  off   : Nat := 0
  n     : Nat := 0
  opens : Nat := 0
  io    : List EAcc := []
  deriving DecidableEq, Repr, Inhabited

/-- An edge stream port (03 R102, 07 R214, 10 R249). -/
structure EdgePort where
  /-- KIND of its PORTS record; 4 = it has none -/
  kind    : Nat := 4
  arg     : W64 := 0
  kernel  : Nat := 0
  stopped : Bool := false
  woff    : Nat := 0
  wset    : Bool := false
  /-- armings: thread, counter; tokens and markers -/
  tokArm  : Tab Nat := []
  markArm : Tab Nat := []
  /-- a parked write or read: address, fault, reported -/
  parked  : Option (Nat × XFault) := none
  wait    : Option Wait := none
  /-- the publish that its marker asks for: 0 not asked, 1 waiting at the control point, 2 done -/
  ask     : Nat := 0
  /-- the access in progress -/
  work    : Option PortAcc := none
  deriving DecidableEq, Repr, Inhabited

/-! ## Configurations (03 R101, R102) -/

/-- A configuration: its records, checked when it is staged. -/
structure Cfg where
  stage    : Nat := 0
  /-- 64 × cell + slot and the word -/
  slots    : List (Nat × W64) := []
  chans    : List (Nat × W64) := []
  /-- 64 × router + 16 × VC + entry and the word; a router is coded as SRC of R41 -/
  filters  : List (Nat × W64) := []
  deriving DecidableEq, Repr, Inhabited

/-- A block scheduler's state for one context (16 R308, R309). -/
structure Sched where
  queues : Tab (List (List (BitVec 16))) := []
  w      : Tab Nat := []
  active : Option Nat := none
  batch  : List (List (BitVec 16)) := []
  staged : Tab Cfg := []
  /-- slot state kept over a deactivation, by block: 64 × cell + slot (04 R111); accesses performed and not delivered then -/
  kept   : Tab (Tab Slot) := []
  keptAccs : Tab (List Acc) := []
  /-- blocks whose configuration has been loaded anew since their last activation: their round counters start at 0 (05 R160) -/
  fresh  : List Nat := []
  /-- blocks whose staged configuration was last put by `cfgput` (06 R180) -/
  put    : List Nat := []
  /-- configuration now in the instruction stores -/
  loaded : Cfg := {}
  /-- the next active block, held by 09 R232; the block that a waiting `cfggo` wants; whether the chosen block is a forced one -/
  chosen : Option Nat := none
  forced : Option Nat := none
  force  : Bool := false
  deriving DecidableEq, Repr, Inhabited

/-- What a resident context of the region was granted (16 R304). -/
structure Grant where
  ctxid  : Nat := 0
  kernel : Nat := 0
  krel   : Nat := 0
  /-- CTXN of the kernel (03 R100) -/
  ctxn   : Nat := 1
  kreg   : Nat := 0
  /-- physical registers in allocation order -/
  mrf    : List Nat := []
  acc    : Nat := 0
  lease  : Nat := 0
  base   : Nat := 0
  deriving DecidableEq, Repr, Inhabited

/-! ## Lectern threads (06 R165, R168) -/

/-- One command port (03 R88): issued, started in request order, responses not taken. -/
structure Port where
  iq : List Nat := []
  order : List Nat := []
  rq : List W64 := []
  deriving DecidableEq, Repr, Inhabited

/-- How a thread is ending (06 R190, R191). -/
structure Ending where
  code : W32 := 0
  /-- by `lkill` -/
  kill : Bool := false
  deriving DecidableEq, Repr, Inhabited

/-- A Lectern thread; the microprogram thread is one too (06 R164, R165). -/
structure Thread where
  live   : Bool := false
  ctxid  : Nat := 0
  gen    : BitVec 16 := 0
  kernel : Nat := 0
  kreg   : Nat := 0
  prog   : List W32 := []
  g      : Tab W64 := []
  c      : Tab W128 := []
  k      : Tab W32 := []
  bd     : Tab (BitVec 16) := []
  pc     : W64 := 0
  spriv  : Bool := false
  dbge   : Bool := false
  tr     : Bool := false
  lcause : Byte := 0
  lepc   : BitVec 12 := 0
  vec    : BitVec 12 := 0
  en     : Bool := false
  lval   : W64 := 0
  ceil   : BitVec 2 := 0
  prio   : BitVec 2 := 0
  quant  : W32 := 2000
  /-- QUANT as it was when the quantum began: a written one takes effect from the next (06 R168) -/
  quantNow : W32 := 2000
  halted : Bool := false
  ports  : Tab Port := []
  /-- a parked access at which the thread stands, and whether its word has still to be passed (06 R171) -/
  hold   : Option (Nat × Bool) := none
  wait   : Option Wait := none
  /-- a `bwarr` whose arrival has performed: offset and GEN seen (06 R182, R194) -/
  bwarr  : Option (Nat × Nat) := none
  /-- a `kwait` whose condition has held (06 R177) -/
  latched : Bool := false
  /-- an event that ends an `idle` (06 R189) -/
  woken  : Bool := false
  /-- a `cfggo` that waits for its activation (06 R180) -/
  going  : Option Nat := none
  ending : Option Ending := none
  deriving DecidableEq, Repr, Inhabited

/-! ## Commands (03 R87 to R91) -/

/-- Progress of a started command; the numbers mean what the unit's rule says (10 R244, 11 R280, 14 R293, 16 R318). -/
structure Prog where
  /-- stage of the unit's own sequence; 0 is the start -/
  stage : Nat := 0
  chunk : Nat := 0
  /-- results kept: counts, row counts, column counts -/
  a     : Nat := 0
  b     : Nat := 0
  c     : Nat := 0
  /-- header or descriptor bytes as they were read -/
  hdr   : List Byte := []
  /-- index table or codebook -/
  tab   : List Nat := []
  owed  : Nat := 0
  /-- the issue queue of the current stage, with the accesses of the stage that have performed -/
  io    : List EAcc := []
  /-- accesses and commands awaited (17 R346) -/
  waits : List Nat := []
  /-- a copy: the writes of its chunk have all been admitted by their streams (10 R244) -/
  adm   : Bool := false
  deriving DecidableEq, Repr, Inhabited

/-- A command from `cissue` until its response is taken into the queue. -/
structure Cmd where
  x      : CtxNo := 0
  port   : BitVec 4 := 0
  w      : W128 := 0
  ctxid  : Nat := 0
  gen    : BitVec 16 := 0
  kernel : Nat := 0
  g      : RegionNo := 0
  started : Bool := false
  done   : Bool := false
  posted : Bool := false
  cause  : Byte := 0
  value  : W32 := 0
  prog   : Prog := {}
  parked : Option (Nat × XFault) := none
  reported : Bool := false
  wait   : Option Wait := none
  seq    : Nat := 0
  /-- the thread's accesses issued before it: sequence number bound (06 R175) -/
  after  : Nat := 0
  deriving DecidableEq, Repr, Inhabited

/-! ## Collectives (10 R259 to R264) -/

/-- A group of a context in a region; an empty table is that of a deleted group (19 R371). -/
structure Group where
  table  : List (BitVec 16) := []
  own    : Nat := 0
  /-- the pause chunk, and whether the pause came while no `nsend` ran: it then holds the next one before its first chunk -/
  paused : Option Nat := none
  whole  : Bool := false
  /-- its own report is owed to its own pause -/
  asked  : Bool := false
  /-- reports are owed to pausing members: + 1 to those of the package, + 2 to those that the links reach -/
  owes   : Nat := 0
  /-- at the pausing member: the command that awaits reports, and the ranks that have reported -/
  asker  : Option Nat := none
  reported : List Nat := []
  /-- its `nsend` has failed under 19 R368: packets that arrive are discarded -/
  failed : Bool := false
  /-- next chunk to start -/
  next   : Nat := 0
  /-- gang save wanted (16 R316) -/
  gang   : Bool := false
  /-- a switch of the region waits for the pause (16 R315) -/
  switching : Bool := false
  /-- a resume has come while its own `nsend` is saved: reports owed once that is restored, as in `owes` (16 R316) -/
  late : Nat := 0
  deriving DecidableEq, Repr, Inhabited

/-- A packet held at a unit for its partner, or a contribution to an ALLREDUCE: group key, the RAW command it starts from. -/
structure Contrib where
  grp   : Nat := 0
  cmd   : Option Nat := none
  pk    : Packet := default
  deriving DecidableEq, Repr, Inhabited

/-- The loss of a member, or of a chunk by disagreement, that the members of a group in the package handle (19 R368, 10 R261): whether it is a
disagreement, the ranks that are lost, and the lowest uncompleted chunks that ranks have reported. -/
structure Loss where
  dis   : Bool := false
  gone  : List Nat := []
  heard : Tab Nat := []
  deriving DecidableEq, Repr, Inhabited

/-- A packet that has arrived at a unit, in the order of arrival; one from a region of the package names its context's generation and that
region. The issue queue of its write at DADDR stands with it (10 R263), and with no `nsend` to park, where and how that write has parked. -/
structure Arrival where
  ctxid : Nat := 0
  gen   : Option (BitVec 16) := none
  cmd   : Option Nat := none
  pk    : Packet := default
  src   : Option RegionNo := none
  since : Nat := 0
  io    : List EAcc := []
  parked : Option (Nat × XFault) := none
  deriving DecidableEq, Repr, Inhabited

/-! ## Drawer requests (11 R268, R270) -/

/-- A tuple: fields, payload, SEQ. -/
structure Tuple where
  f   : List W32 := []
  pay : List Byte := []
  plu : Nat := 0
  seq : Nat := 0
  deriving DecidableEq, Repr, Inhabited

/-- A request at a slice: the command it belongs to, kind 0 deposit, 1 copy, 2 take, 3 return of units. -/
structure DReq where
  kind   : Nat := 0
  did    : Nat := 0
  ctxid  : Nat := 0
  g      : RegionNo := 0
  cmd    : Nat := 0
  nowait : Bool := false
  n      : Nat := 0
  /-- the creation of its Drawer that a granted deposit or a return belongs to (11 R279) -/
  inc    : Nat := 0
  tuple  : Tuple := {}
  modes  : Nat := 0
  maxp   : Nat := 0
  v      : List W32 := []
  m      : List W32 := []
  deriving DecidableEq, Repr, Inhabited

/-! ## Fault reports (17 R338) -/

/-- What a fault microprogram is told, and what its record holds (06 R192, 17 R336, R338). -/
structure Report where
  cause : Byte := 0
  rep   : BitVec 16 := 0
  addr  : Nat := 0
  aux   : Nat := 0
  x     : CtxNo := 0
  ctxid : Nat := 0
  kernel : Nat := 0
  g     : RegionNo := 0
  wr    : Bool := false
  s2    : Bool := false
  level : Nat := 0
  gpa   : Nat := 0
  fatal : Bool := false
  /-- the access or command it is about: parked records are discarded once it is released -/
  accId : Option Nat := none
  cmdId : Option Nat := none
  /-- which parking of it this record tells of (18 R353) -/
  park  : Option Nat := none
  /-- a HANG or deadlock entry is appended and never fatal -/
  hang  : Bool := false
  count : Nat := 0
  cont  : Bool := false
  /-- what a hang report says to the root core beside its entry: PC of the waiting thread, and every agent waited for (06 R189, 07 R215) -/
  pc    : W64 := 0
  agents : List Nat := []
  /-- µs since reset when the root core took it -/
  time  : Nat := 0
  /-- generation of its context when it was reported (19 R371) -/
  gen   : BitVec 16 := 0
  deriving DecidableEq, Repr, Inhabited

/-- A thread of the microprogram and its queue (06 R165, R192). -/
structure Micro where
  running : Bool := false
  /-- the programs are those of the service image (17 R336; log 17) -/
  ofService : Bool := true
  cur     : Report := {}
  th      : Thread := {}
  queue   : List Report := []
  /-- the scratch line of the programs (17 R336) -/
  scratch : List Byte := []
  stopped : Bool := false
  deriving DecidableEq, Repr, Inhabited

/-! ## A region -/

/-- What a whole-region switch saves (16 R312). -/
structure Core where
  cells   : Tab Cell := []
  threads : Tab Thread := []
  grants  : Tab Grant := []
  phase   : Tab (BitVec 16) := []
  frozen  : Tab Bool := []
  chans   : Tab Chan := []
  filters : Tab W64 := []
  flits   : List Flit := []
  /-- output lock of a router and VC, and that of an input that a source FIFO feeds: the token that holds it (01 R44) -/
  locks   : Tab Nat := []
  /-- router inputs whose dropped ready has reached their sender (01 R43), as input × 4 + VC with input = 8 × router + side -/
  low     : List Nat := []
  /-- router inputs that a pre-empt marker has reached (16 R312) -/
  swept   : List Nat := []
  /-- the kernel whose cells `ctxsave` is stopping, and the router inputs that its markers have reached (16 R320) -/
  passing : Option (Nat × List Nat) := none
  ports   : Tab EdgePort := []
  sched   : Tab Sched := []
  accs    : List Acc := []
  cmds    : Tab Cmd := []
  /-- resident contexts whose cells `ctxsave` has stopped (16 R320) -/
  stopped : Tab Bool := []
  deriving DecidableEq, Repr, Inhabited

/-- What the waits of an image name, as it stood when the image stopped: its contents, the streams of its stream waits, and the packets of
the groups that it waits in (16 R314). -/
structure Watch where
  core   : Core := {}
  faces  : List (Nat × List Nat) := []
  groups : List (Nat × List Contrib × List Arrival × List Packet) := []
  /-- with a held join: the tokens that stood at the ports which join its own -/
  joined : Option (List (Option Token)) := none
  deriving DecidableEq, Repr, Inhabited

/-- A saved region image (16 R311, R312). -/
structure Image where
  core   : Core := {}
  banks  : Memory := []
  /-- made not ready by a drain until its accesses are released (17 R342) -/
  drained : Bool := false
  /-- power-gated by T2 until an event its waits name (16 R314) -/
  gated  : Bool := false
  /-- what its waits named then -/
  watch  : Watch := {}
  /-- a token has come for one of its ports on a Voing channel since -/
  called : Bool := false
  /-- kept saved by a SNAPSHOT of a context in it (16 R303) -/
  snap   : Bool := false
  /-- to be restored whatever its threads do: a SNAPSHOT with STOP = 0 has written it (16 R303) -/
  due    : Bool := false
  since  : Nat := 0
  deriving DecidableEq, Repr, Inhabited

/-- A cached translation (17 R329). -/
structure Tlb where
  ctxid : Nat := 0
  page  : Nat := 0
  place : Place := {}
  w     : Bool := false
  w2    : Bool := false
  /-- log2 of the size of the stage-1 page that it lies in -/
  shift : Nat := 12
  deriving DecidableEq, Repr, Inhabited

/-- A region. -/
structure Region where
  core    : Core := {}
  micro   : Micro := {}
  rng     : Tab (BitVec 16) := []
  /-- codebook registers loaded since boot, number 4 × cell + n: 16 FP16 entries -/
  cb      : Tab (BitVec 256) := []
  images  : List Image := []
  tlb     : List Tlb := []
  /-- the quantum timer and the residency timer in µs (16 R311, R314); when the last resident context left (16 R307) -/
  quantum : Nat := 0
  residency : Nat := 0
  idle    : Nat := 0
  clockGated : Bool := false
  /-- what the waits named when the region was clock-gated, and whether a token has come for it on a Voing channel since -/
  seen    : Watch := {}
  called  : Bool := false
  powerGated : Bool := false
  /-- the drain limit has passed: tokens of frozen contexts move as well (17 R342) -/
  draining : Bool := false
  /-- a switch has been decided; its image leaves once no group of it has still to pause (16 R311, R312, R315) -/
  switching : Bool := false
  leaving : Bool := false
  /-- it is saved to be power-gated under T2: what its waits named then (16 R314) -/
  gating  : Option Watch := none
  spares  : Tab Nat := []
  /-- Voing channels of KIND 3 records whose kernels have ended: link and 16 × channel (19 R371) -/
  gone    : List Nat := []
  groups  : Tab Group := []
  contribs : List Contrib := []
  arrivals : List Arrival := []
  /-- group messages from regions of the package: kind 0 pause, 1 report, 2 resume, 5 gang pause; group key, value -/
  msgs    : List (Nat × Nat × Nat) := []
  /-- requests sent back for a full table, by slice (11 R276) -/
  resend  : List (Nat × DReq) := []
  deriving DecidableEq, Repr, Inhabited

/-! ## Streams (07 R200) -/

/-- A reader slot: AGENT, POS, REL. -/
structure Reader where
  agent : Nat := 0
  pos   : Nat := 0
  rel   : Nat := 0
  deriving DecidableEq, Repr, Inhabited

/-- A waiting publish or release at a control point. -/
inductive Asker where
  | acc (g : RegionNo) (id : Nat)
  | cmd (g : RegionNo) (id : Nat)
  | port (g : RegionNo) (p : Nat)
  | host (rel : Bool)
  deriving DecidableEq, Repr, Inhabited

/-- Whose read or write waits at a control point. -/
inductive SWho where
  | acc (g : RegionNo) (id : Nat)
  | cmd (g : RegionNo) (id : Nat)
  | port (g : RegionNo) (p : Nat)
  /-- the root core, at stream 4,095 (17 R341) -/
  | root
  deriving DecidableEq, Repr, Inhabited

/-- A waiting read or write, in order of arrival: offset, bytes, write, the kind of its wait, and whether a change that it waited for has
admitted it since (07 R204, R205, R227). -/
structure SWait where
  who : SWho := .acc 0 0
  off : Nat := 0
  n   : Nat := 0
  wr  : Bool := false
  kind : Nat := 0
  adm : Bool := false
  deriving DecidableEq, Repr, Inhabited

/-- A live stream control block. PWV and PWAIT are read off `waits`. -/
structure Scb where
  prod   : Nat := 0
  hap    : Nat := 0
  hwm    : Nat := 0
  owner  : Nat := 0
  state  : Nat := 0
  auto   : Bool := false
  tail   : Nat := 0
  k      : Nat := 0
  wlog   : Nat := 0
  bk     : Bool := false
  base   : Nat := 0
  greg   : RegionNo := 0
  lease  : Nat := 0
  lbase  : Nat := 0
  hb     : Bool := false
  hrole  : Bool := false
  hslot  : Nat := 0
  hfunc  : Nat := 0
  waits  : List SWait := []
  readers : Tab Reader := []
  pending : List (Nat × Nat) := []
  /-- publishes and releases that wait, in order of arrival: who, offset, reader slot (8 = publish) -/
  waiting : List (Asker × Nat × Nat) := []
  opens  : Nat := 0
  deriving DecidableEq, Repr, Inhabited

/-! ## Drawers (11 R272) -/

/-- The Drawer unit of a slice. Keys are 65536 × context + Drawer. -/
structure Slice where
  /-- live marks, each with the creation that it marks (11 R279) -/
  live  : Tab Nat := []
  bags  : Tab (List Tuple) := []
  seqs  : Tab Nat := []
  cap   : Tab Nat := []
  count : Tab Nat := []
  parked : List DReq := []
  /-- input queues, by the step that takes them: reserve, deposit, match, return, live marks, sweeps -/
  inRes : List DReq := []
  inDep : List DReq := []
  inMat : List DReq := []
  inRet : List DReq := []
  inLive : List Nat := []
  inSweep : List Nat := []
  deriving DecidableEq, Repr, Inhabited

/-- A Drawer of the package: capacity, marks or sweeps still owed, the command or host command that awaits them. -/
structure Drawer where
  cap  : Nat := 0
  /-- which creation of the id it is (11 R279) -/
  inc  : Nat := 0
  owed : Nat := 0
  cmd  : Option (RegionNo × Nat) := none
  host : Option Nat := none
  dying : Bool := false
  deriving DecidableEq, Repr, Inhabited

/-! ## Contexts, kernels, queues (16) -/

/-- A context (16 R303, 19 R366). -/
structure Ctx where
  live   : Bool := false
  ending : Bool := false
  func   : Nat := 0
  root   : Nat := 0
  stable : Nat := 0
  save   : Nat := 0
  ctrl   : Nat := 0
  ceil   : BitVec 2 := 0
  spriv  : Bool := false
  quant  : W32 := 2000
  t1     : Nat := 10
  t2     : Nat := 1000
  o4     : W64 := 0
  o5     : W64 := 0
  /-- frames of its stream table and control block (17 R331) -/
  prot   : List Nat := []
  /-- it ends with its kernels and no command awaits it (19 R369) -/
  doomed : Bool := false
  /-- it has been destroyed: every stream of it is CLOSED (07 R213) -/
  shut   : Bool := false
  /-- a SNAPSHOT keeps its images saved (16 R303) -/
  held   : Bool := false
  /-- the four records of the control block: STEP and bytes 0 to 59 -/
  journal : Tab (Nat × List Byte) := []
  deriving DecidableEq, Repr, Inhabited

/-- A kernel launched (16 R304, R305). -/
structure Kernel where
  ctxid  : Nat := 0
  regions : List RegionNo := []
  image  : List Byte := []
  exits  : Tab W32 := []
  host   : Option Nat := none
  stop   : Option (Byte × Nat) := none
  aborted : Bool := false
  /-- ended by `replay` with FAIL: its exit codes are not stored (18 R354) -/
  failed : Bool := false
  /-- its threads have started (16 R305) -/
  running : Bool := false
  o2     : Nat := 0
  deriving DecidableEq, Repr, Inhabited

/-- A host command queue (16 R300). -/
structure HQueue where
  created : Bool := false
  ring   : Nat := 0
  cring  : Nat := 0
  qs     : Nat := 0
  tail   : Nat := 0
  head   : Nat := 0
  chead  : Nat := 0
  ctail  : Nat := 0
  phase  : Bool := true
  /-- completion entries written and not yet passed by CHEAD (16 R302) -/
  unread : Nat := 0
  stopped : Bool := false
  deriving DecidableEq, Repr, Inhabited

/-- A prepared aperture (07 R211): context, stream, host role. -/
structure Aperture where
  ctxid : Nat := 0
  six   : Nat := 0
  role  : Bool := false
  /-- the generation of the context that it was prepared for (19 R371) -/
  gen   : BitVec 16 := 0
  deriving DecidableEq, Repr, Inhabited

/-- A function's BAR 0 and BAR 2 (16 R300, 07 R211). -/
structure Func where
  enabled : Bool := false
  aqbase : W64 := 0
  acbase : W64 := 0
  aqs    : BitVec 4 := 0
  queues : Tab HQueue := []
  aps    : Tab Aperture := []
  deriving DecidableEq, Repr, Inhabited

/-- An accepted host command (16 R301, R302, 19 R366). -/
structure HCmd where
  f     : Nat := 0
  q     : Nat := 0
  opc   : Byte := 0
  e     : HostEntry := default
  seq   : Nat := 0
  /-- 1 accepted, 2 running, 3 effects performed -/
  step  : Nat := 1
  stage : Nat := 0
  /-- journal: context number and record, or the device journal -/
  jctx  : Option Nat := none
  jrec  : Nat := 0
  kernel : Option Nat := none
  cause : Byte := 0
  value : W64 := 0
  /-- FLG.ABRT of the completion -/
  abrt  : Bool := false
  journalled : Bool := false
  /-- accesses of queues and accesses of lines awaited, and contexts or kernels awaited -/
  wait  : List (RegionNo × Nat) := []
  held  : List EAcc := []
  ends  : List Nat := []
  /-- key material read for the command -/
  buf   : List Byte := []
  /-- progress of a MAP or UNMAP (17 R348) -/
  prog  : Prog := {}
  deriving DecidableEq, Repr, Inhabited

/-- An open-fault entry (17 R340). -/
structure OpenFault where
  ctxid : Nat := 0
  s2    : Bool := false
  cause : Byte := 0
  page  : Nat := 0
  count : Nat := 1
  deriving DecidableEq, Repr, Inhabited

/-- Stage-2 registers of the physical function (17 R330). -/
structure S2Regs where
  root  : Tab W64 := []
  fbase : W64 := 0
  fqs   : BitVec 4 := 0
  fhead : BitVec 16 := 0
  ftail : BitVec 16 := 0
  deriving DecidableEq, Repr, Inhabited

/-- Boot, identity and quote registers (19 R356) and the state of the service image. -/
structure Boot where
  addr   : W64 := 0
  bstate : BitVec 3 := 0
  bfail  : Byte := 0
  stale  : W64 := 0
  meas   : List Byte := []
  nonce  : List Byte := []
  qaddr  : W64 := 0
  qstate : BitVec 2 := 0
  /-- the quote whose index is used up in flash: index and statement (19 R360) -/
  quote  : Option (Nat × List Byte) := none
  resets : Nat := 0
  hashes : List (List Byte) := []
  /-- reset values of `cb0` to `cb3` in every cell, from the image (19 R355) -/
  cbs    : List (BitVec 256) := []
  drain  : Nat := 200
  regions : BitVec 32 := 0
  /-- calibration tables of the stacks and links (19 R355) -/
  calib  : List Byte := []
  /-- where the Bureau cores start in the image (19 R357) -/
  entry  : Nat := 0
  /-- the identity's public key (19 R359) -/
  idpub  : BitVec 448 := 0
  deriving DecidableEq, Repr, Inhabited

/-- On-package flash (19 R359, R363). -/
structure Flash where
  q     : Nat := 0
  boots : W64 := 0
  lines : List Nat := []
  rows  : List Nat := []
  widths : Tab Nat := []
  deriving DecidableEq, Repr, Inhabited

/-- A Voing link (10 R265, 19 R363, R364). -/
structure Link where
  width   : Nat := 800
  up      : Bool := true
  retrain : Bool := false
  lost    : Nat := 0
  /-- what has been sent and not acknowledged, in order: whose thread's command sent it, and whether it is a token (09 R235) -/
  unacked : List (Option (RegionNo × Nat) × Bool) := []
  outTok  : List (Nat × Token) := []
  outPk   : List Packet := []
  /-- the packet for a group not yet created that the link's receive buffer holds: for which region, and since when (13 R285) -/
  heldPk  : Option (RegionNo × Packet × Nat) := none
  /-- group messages on channel 255: kind 0 pause, 1 report, 2 resume, 3 loss of a rank, 4 disagreement, 5 gang pause, 6 a lowest uncompleted
  chunk, as 2^32 × rank + chunk; group and value -/
  outMsg  : List (Nat × Nat × Nat) := []
  /-- those that a retrain holds (19 R364) -/
  heldMsg : List (Nat × Nat × Nat) := []
  retries : List Nat := []
  trains  : List Nat := []
  deriving DecidableEq, Repr, Inhabited

/-- An ownership transfer in progress (17 R349). -/
structure Xfer where
  toHost : Bool := false
  began  : Nat := 0
  /-- the `ownxfer`s and host accesses that wait on it -/
  cmds   : List (RegionNo × Nat) := []
  /-- commands and ports that wait on it: agent, address, guest physical address, write -/
  waits  : List (Agent × Nat × Nat × Bool) := []
  hosts  : List (Nat × Option (List Byte)) := []
  deriving DecidableEq, Repr, Inhabited

/-- Who wrote an image of a context last, for `ctxload` (log 13). -/
structure Saved where
  g      : RegionNo := 0
  kernel : Nat := 0
  bytes  : List Byte := []
  core   : Core := {}
  banks  : Memory := []
  deriving DecidableEq, Repr, Inhabited

/-- The Armoire and the Bureau's service state (19 R367, R369). -/
structure Armoire where
  heart   : Nat := 0
  stopped : Bool := false
  /-- rebuild: 0 none, 1 to 6 the last of its steps that is done; it holds after step 2 while the image is not verified -/
  rebuild : Nat := 0
  holds   : Bool := false
  deriving DecidableEq, Repr, Inhabited

end Sys2Proof.Machine
end

