-- ==== Sys2Proof/Config.lean ====
section
/-!
DEFINITION. What the manual leaves to an implementation or leaves open: constants without a body, so that nothing can be
proved about their values. Each is named in the assumption log.
-/

namespace Sys2Proof.Config

/-- Free values: the manual states that a value results and not which (log 7). The argument is State.freeCtr. -/
opaque freeBits : (w : Nat) → Nat → BitVec w

/-- Linnil's LMS public key, held in the ROM (19 R357); the manual gives no value (log 11). -/
opaque romKey : List Byte

/-- Identifier and root of the identity key, derived at each reset from a physically unclonable function (19 R359); the argument counts
resets (log 11). -/
opaque idPub : Nat → BitVec 384

/-- IDPUB: LMS type, LMOTS type, I, root (19 R355, R359); byte 0 is the lowest. -/
def identity (n : Nat) : BitVec 448 := idPub n ++ (0x0400000006000000 : BitVec 64)

/-- The LMS signature of a statement with one-time key q of the identity of the given reset (19 R360; log 11). -/
opaque lmsSign : Nat → Nat → List Byte → List Byte

/-- Whether the configuration tables of a service image are sound (19 R357 step 4); their layout is not given (log 18). -/
opaque configOk : List Byte → Bool

/-- The reset value of codebook register 0 to 3 in a service image (19 R355); its place is not given (log 18). -/
opaque imageCodebook : List Byte → Nat → BitVec 256

/-- The drain limit in µs of a service image, of 10 to 10,000 (17 R342); its place is not given (log 18). -/
opaque imageDrain : List Byte → Nat

/-- The regions a service image enables (19 R355); its place is not given (log 18). -/
opaque imageRegions : List Byte → BitVec 32

/-- The fault microprograms of a service image (19 R355, 17 R336); their place is not given (log 17). -/
opaque imageMicro : List Byte → List W32

/-- Whether the model runs the microprograms of a service image as the table of 17 R336 tells what they do, and not word by word: their
words are not given (log 17). -/
opaque microAsTable : List Byte → Bool

/-- The calibration tables of the stacks and links in a service image (19 R355); their layout is not given (log 18). -/
opaque imageCalib : List Byte → List Byte

/-- Byte i of the part of a saved image whose layout the manual does not give (16 R312, R320), per save number (log 13). -/
opaque imageByte : Nat → Nat → Byte

/-- What the bytes of an image hold that no save of this machine has written (16 R320): their layout is not given (log 13). -/
opaque imageState : List Byte → Machine.Saved

/-- Which agent takes the next action, and how much time passes, when the agenda names none (09 R229; log 4). -/
opaque nextAgent : Nat → Machine.Agent

end Sys2Proof.Config
end

