-- ==== Sys2Proof/Machine/Causes.lean ====
section
/-!
DEFINITION. The fault causes by name (00 R15).
-/

namespace Sys2Proof.Cause

abbrev illegal : Byte := 0x01
abbrev privileged : Byte := 0x02
abbrev misaligned : Byte := 0x03
abbrev cfgBadSlot : Byte := 0x04
abbrev cmdInvalid : Byte := 0x05
abbrev addrClass : Byte := 0x06
abbrev pageNotPresent : Byte := 0x07
abbrev pagePermission : Byte := 0x08
abbrev walkS2 : Byte := 0x09
abbrev pageNotPresentS2 : Byte := 0x0A
abbrev aliasAttr : Byte := 0x0B
abbrev streamBehind : Byte := 0x0C
abbrev streamClosed : Byte := 0x0D
abbrev streamPeerGone : Byte := 0x0E
abbrev drawerAccess : Byte := 0x0F
abbrev drawerPattern : Byte := 0x10
abbrev drawerFull : Byte := 0x11
abbrev boundaryOverflow : Byte := 0x12
abbrev bondRange : Byte := 0x13
abbrev collMemberLost : Byte := 0x14
abbrev hang : Byte := 0x15
abbrev streamDeadlock : Byte := 0x16
abbrev uncorrectable : Byte := 0x17
abbrev launchBadHeader : Byte := 0x18
abbrev ownershipTimeout : Byte := 0x19
abbrev outOfMemory : Byte := 0x1A
abbrev breakpoint : Byte := 0x1B
abbrev trap : Byte := 0x1C

end Sys2Proof.Cause
end

