-- ==== Sys2Proof/Machine/State.lean ====
section
/-!
DEFINITION. The whole state of the Adhorn 9100, why a step can stop, and the state after reset (INVENTORY.md, State).
-/

namespace Sys2Proof.Machine

/-- Why the machine stops. -/
inductive Fault where
  /-- Raised by a meaning that is executed for an agent of another kind (a Lectern word for a slot). Safe: no agent of the
  manual does so, and step never does. -/
  | wrongAgent
  /-- Raised by every step after a lockstep mismatch (19 R367: the package stops), but for reset and loss of power. Safe: the
  manual lets nothing happen then. -/
  | packageStopped
  deriving DecidableEq, Repr, Inhabited

/-- Why there is no meaning. -/
inductive Refusal where
  /-- Raised by an arm of exec whose instruction is not modelled yet. Safe: nothing is claimed of it. -/
  | notModelled (mnemonic : String)
  deriving DecidableEq, Repr, Inhabited

/-- The state of one package and of what the outside has given it. -/
structure State where
  /-- the agent that moves in this step, and those that move next (log 4) -/
  cur     : Agent := .pass 0
  agenda  : List Agent := []
  tick    : Nat := 0
  freeCtr : Nat := 0
  /-- µs since reset (17 R338) -/
  now     : Nat := 0
  regions : Tab Region := []
  mem     : Memory := []
  banks   : Memory := []
  /-- key material a line was written under (17 R333) -/
  lineKey : Tab (BitVec 512) := []
  frames  : Tab (BitVec 16) := []
  /-- the function through whose stage 2 a frame's attributes were set (19 R370) -/
  frameBy : Tab Nat := []
  keys    : Tab (BitVec 512) := []
  hostOwned : Tab Bool := []
  xfers   : Tab Xfer := []
  /-- host lines whose CXL writes have not completed, with the region and kernel of the thread that wrote or whose command did (09 R235) -/
  cxl     : List (Nat × Option (RegionNo × Nat)) := []
  ctxs    : Tab Ctx := []
  gens    : Tab (BitVec 16) := []
  streams : Tab Scb := []
  drawers : Tab Drawer := []
  slices  : Tab Slice := []
  kernels : Tab Kernel := []
  nextKernel : Nat := 0
  funcs   : Tab Func := []
  hcmds   : Tab HCmd := []
  journal : Tab (Nat × List Byte) := []
  openf   : List OpenFault := []
  records : List Report := []
  ringWait : List Report := []
  hangs   : List Report := []
  s2      : S2Regs := {}
  boot    : Boot := {}
  flash   : Flash := {}
  links   : Tab Link := []
  /-- losses of collective groups under way, by group key (19 R368) -/
  losses  : Tab Loss := []
  errs    : List (ErrSource × Nat) := []
  scrubbed : Nat := 0
  /-- units of error protection whose bits are bad: whether of a bank, of 8 bytes, or of a stack, of 32, and their number (19 R363, R365) -/
  bad     : List (Bool × Nat) := []
  arm     : Armoire := {}
  saves   : List Saved := []
  deriving DecidableEq, Repr, Inhabited

/-- A part as it leaves Linnil, right after reset: nothing is live, every queue and table is empty and every register holds the
value of its table or, where the manual gives none, zero (log 1). Function 0, the physical function, is enabled; IDPUB is derived (19 R359, log
11). -/
def State.reset : State :=
  { cur := .pass 0, boot := { idpub := Config.identity 0 }, funcs := [(0, { enabled := true, queues := [(0, { created := true })] })] }

end Sys2Proof.Machine
end

