-- ==== Sys2Proof/Machine/Ops.lean ====
section
/-!
DEFINITION. The named operations on memory, registers, threads and reports that every meaning is written with; taking a trap
and returning from one (06 R186, R188).
-/

namespace Sys2Proof.Machine

/-- What a step answers. -/
abbrev Out := Host.Outcome State Fault Refusal

/-! ## Memory (log 2) -/

/-- What an address that no entry lists reads as (log 2). -/
def Memory.blank : Byte := 0

/-- The byte at an address. -/
def Memory.read (m : Memory) (a : Nat) : Byte := (Tab.get m a).getD Memory.blank

/-- The memory with one byte written; a byte equal to the unlisted value is not listed. -/
def Memory.write : Memory → Nat → Byte → Memory
  | [], a, v => if v == Memory.blank then [] else [(a, v)]
  | (k, w) :: r, a, v =>
    if a < k then (if v == Memory.blank then (k, w) :: r else (a, v) :: (k, w) :: r)
    else if a == k then (if v == Memory.blank then r else (a, v) :: r)
    else (k, w) :: Memory.write r a v

/-- n bytes from an address upward. -/
def Memory.readN (m : Memory) : Nat → Nat → List Byte
  | _, 0 => []
  | a, n + 1 => m.read a :: Memory.readN m (a + 1) n

/-- Bytes written from an address upward. -/
def Memory.writeN (m : Memory) : Nat → List Byte → Memory
  | _, [] => m
  | a, b :: bs => Memory.writeN (m.write a b) (a + 1) bs

/-- Canonical form: addresses strictly rise and no entry equals the unlisted value. -/
def Memory.wf : Memory → Bool
  | [] => true
  | [(_, v)] => v != Memory.blank
  | (a, v) :: (b, w) :: r => v != Memory.blank && a < b && Memory.wf ((b, w) :: r)

/-- The entries of a range of addresses. -/
def Memory.slice (m : Memory) (lo hi : Nat) : Memory := m.filter (fun p => lo ≤ p.1 && p.1 < hi)

/-- A list of entries written one after another. -/
def Memory.writeAll (m : Memory) (es : Memory) : Memory := es.foldl (fun a p => a.write p.1 p.2) m

/-- A range of addresses set to the unlisted value. -/
def Memory.clear (m : Memory) (lo hi : Nat) : Memory := (m.slice lo hi).foldl (fun a p => a.write p.1 Memory.blank) m

/-! ## Components -/

/-- A region. -/
def State.reg (s : State) (g : RegionNo) : Region := Tab.getD s.regions g.toNat
/-- A region replaced. -/
def State.setReg (s : State) (g : RegionNo) (r : Region) : State := { s with regions := Tab.set s.regions g.toNat r }
/-- The resident part of a region. -/
def State.core (s : State) (g : RegionNo) : Core := (s.reg g).core
/-- The resident part of a region changed. -/
def State.updCore (s : State) (g : RegionNo) (f : Core → Core) : State :=
  s.setReg g { s.reg g with core := f (s.core g) }
/-- Whether a region runs: it is not gated, not stopped by its microprogram, and its image is not leaving (06 R186; 16 R307, R312,
R314). -/
def Region.runs (r : Region) : Bool := !r.powerGated && !r.clockGated && !r.micro.stopped && !r.leaving
/-- Whether the cells and routers of a region run: while its image leaves they go on until the pre-empt markers have passed (16 R312). -/
def Region.meshRuns (r : Region) : Bool := !r.powerGated && !r.clockGated && !r.micro.stopped
/-- Whether a cell is passed: pre-empt markers have reached it on all its inputs (16 R312). -/
def Core.passed (k : Core) (c : Nat) : Bool := [1, 2, 3, 4].all (fun i => k.swept.contains (8 * c + i))
/-- Whether `ctxsave` is stopping the cells of a resident context (16 R320). -/
def Core.passingCtx (k : Core) (x : CtxNo) : Bool := match k.passing, Tab.get k.grants x.toNat with
  | some p, some g => g.kernel == p.1
  | _, _ => false
/-- Whether the markers of that `ctxsave` have passed a cell for a resident context. -/
def Core.passedCtx (k : Core) (c : Nat) (x : CtxNo) : Bool :=
  k.passingCtx x && [1, 2, 3, 4].all (fun i => ((k.passing.map (·.2)).getD []).contains (8 * c + i))
/-- Whether a cell of a region may start firings of a resident context (16 R312, R320). -/
def Region.cellRuns (r : Region) (c : CellNo) (x : CtxNo) : Bool :=
  r.meshRuns && !(r.leaving && r.core.passed c.toNat) && !r.core.passedCtx c.toNat x
/-- Progress in a region: its residency timer starts again (16 R314). -/
def State.stamp (s : State) (g : RegionNo) : State := s.setReg g { s.reg g with residency := 0 }
/-- A cell. -/
def State.cell (s : State) (g : RegionNo) (c : CellNo) : Cell := Tab.getD (s.core g).cells c.toNat
/-- A cell changed. -/
def State.updCell (s : State) (g : RegionNo) (c : CellNo) (f : Cell → Cell) : State :=
  s.updCore g (fun k => { k with cells := Tab.upd k.cells c.toNat f })
/-- Number of a slot in its cell's store. -/
def slotKey (x : CtxNo) (n : SlotNo) : Nat := 64 * x.toNat + n.toNat
/-- A slot. -/
def State.slotAt (s : State) (l : SlotLoc) : Slot := Tab.getD (s.cell l.g l.cell).slots (slotKey l.ctx l.slot)
/-- A slot changed. -/
def State.updSlot (s : State) (l : SlotLoc) (f : Slot → Slot) : State :=
  s.updCell l.g l.cell (fun c => { c with slots := Tab.upd c.slots (slotKey l.ctx l.slot) f })
/-- A program thread. -/
def State.thread (s : State) (g : RegionNo) (x : CtxNo) : Thread := Tab.getD (s.core g).threads x.toNat
/-- A program thread changed. -/
def State.updThread (s : State) (g : RegionNo) (x : CtxNo) (f : Thread → Thread) : State :=
  s.updCore g (fun k => { k with threads := Tab.upd k.threads x.toNat f })
/-- A command in the resident part of a region or in one of its saved images: commands at their units are reached in both (16
R312). -/
def Region.cmd? (r : Region) (id : Nat) : Option Cmd :=
  (Tab.get r.core.cmds id).or (r.images.findSome? (fun i => Tab.get i.core.cmds id))
/-- A started or issued command. -/
def State.cmd (s : State) (g : RegionNo) (id : Nat) : Cmd := ((s.reg g).cmd? id).getD default
/-- A command changed, where it stands; one that is gone stays so. -/
def State.updCmd (s : State) (g : RegionNo) (id : Nat) (f : Cmd → Cmd) : State :=
  let r := s.reg g
  if Tab.has r.core.cmds id then s.updCore g (fun k => { k with cmds := Tab.upd k.cmds id f })
  else if (r.cmd? id).isNone then s
  else s.setReg g { r with images := r.images.map (fun i =>
    if Tab.has i.core.cmds id then { i with core := { i.core with cmds := Tab.upd i.core.cmds id f } } else i) }
/-- A channel changed. -/
def State.updChan (s : State) (g : RegionNo) (n : Nat) (f : Chan → Chan) : State :=
  s.updCore g (fun k => { k with chans := Tab.upd k.chans n f })
/-- An edge stream port changed. -/
def State.updPort (s : State) (g : RegionNo) (p : Nat) (f : EdgePort → EdgePort) : State :=
  s.updCore g (fun k => { k with ports := Tab.upd k.ports p f })
/-- The block scheduler of a resident context changed. -/
def State.updSched (s : State) (g : RegionNo) (x : CtxNo) (f : Sched → Sched) : State :=
  s.updCore g (fun k => { k with sched := Tab.upd k.sched x.toNat f })
/-- What a resident context was granted. -/
def State.grant (s : State) (g : RegionNo) (x : CtxNo) : Grant := Tab.getD (s.core g).grants x.toNat
/-- The 16-bit cell identifier (01 R19). -/
def cellIdent (g : RegionNo) (c : CellNo) : BitVec 16 := (0#3) ++ g ++ c
/-- A cell's generator; its reset value is the seed 0xACE1 (02 R58). -/
def State.gen (s : State) (g : RegionNo) (c : CellNo) : BitVec 16 :=
  let seed := if (0xACE1#16) ^^^ cellIdent g c == 0 then 1 else 0xACE1#16 ^^^ cellIdent g c
  (Tab.get (s.reg g).rng c.toNat).getD seed
/-- A cell's generator replaced. -/
def State.setGen (s : State) (g : RegionNo) (c : CellNo) (v : BitVec 16) : State :=
  s.setReg g { s.reg g with rng := Tab.set (s.reg g).rng c.toNat v }
/-- The generation of a context number (19 R371). -/
def State.genOf (s : State) (ctxid : Nat) : BitVec 16 := Tab.getD s.gens ctxid
/-- A late item dropped (19 R371): STALE counts it, saturating. -/
def State.dropStale (s : State) : State :=
  { s with boot := { s.boot with stale := if s.boot.stale + 1 == 0 then s.boot.stale else s.boot.stale + 1 } }
/-- A free value of w bits and the state that has used it (log 7). -/
def State.free (s : State) (w : Nat) : BitVec w × State :=
  (Config.freeBits w s.freeCtr, { s with freeCtr := s.freeCtr + 1 })

/-- A free choice among n (09 R229: the actions of a run are taken in any order). -/
def State.pick (s : State) (n : Nat) : Nat × State :=
  if n ≤ 1 then (0, s)
  else
    let (v, s) := s.free 16
    (v.toNat % n, s)

/-! ## Thread registers (06 R165, R168) -/

/-- `g0` reads zero. -/
def Thread.rg (t : Thread) (n : BitVec 5) : W64 := if n == 0 then 0 else Tab.getD t.g n.toNat
/-- Writes to `g0` are discarded. -/
def Thread.wg (t : Thread) (n : BitVec 5) (v : W64) : Thread := if n == 0 then t else { t with g := Tab.set t.g n.toNat v }
/-- A bond register; its value at thread start is 1. -/
def Thread.bond (t : Thread) (n : BitVec 4) : BitVec 16 := (Tab.get t.bd n.toNat).getD 1
/-- A counter. -/
def Thread.counter (t : Thread) (n : BitVec 4) : W32 := Tab.getD t.k n.toNat
/-- A counter set: an `idle` of the thread ends (06 R177, R178, R189). -/
def Thread.setCounter (t : Thread) (n : BitVec 4) (v : W32) : Thread :=
  { t with k := Tab.set t.k n.toNat v, woken := t.woken || v != t.counter n }
/-- A command register. -/
def Thread.creg (t : Thread) (n : BitVec 3) : W128 := Tab.getD t.c n.toNat

/-- `lstat` (06 R168). -/
def Thread.lstat (t : Thread) (mp : Bool) : W64 :=
  (0#56) ++ BitVec.ofBool t.spriv ++ BitVec.ofBool t.dbge ++ BitVec.ofBool mp ++ BitVec.ofBool t.tr ++ (0#4)
/-- `lepc` (06 R168). -/
def Thread.lepcReg (t : Thread) : W64 := (0#50) ++ t.lepc ++ (0#2)
/-- `ltvec` (06 R168). -/
def Thread.ltvec (t : Thread) : W64 := (0#50) ++ t.vec ++ (0#1) ++ BitVec.ofBool t.en
/-- `lctx` (06 R168). -/
def Thread.lctx (t : Thread) (g : RegionNo) (x : CtxNo) : W64 :=
  (0#32) ++ BitVec.ofNat 12 t.ctxid ++ x ++ g ++ BitVec.ofNat 5 t.kreg ++ (0#8)
/-- `lprio` (06 R168). -/
def Thread.lprio (t : Thread) : W64 := (0#60) ++ t.ceil ++ t.prio
/-- `lquant` (06 R168). -/
def Thread.lquant (t : Thread) : W64 := (0#32) ++ t.quant

/-! ## Which thread executes a word -/

/-- A thread of a Lectern: a program thread or the microprogram thread. -/
inductive Who where
  | prog (g : RegionNo) (x : CtxNo)
  | micro (g : RegionNo)
  deriving DecidableEq, Repr, Inhabited

/-- Its region. -/
def Who.g : Who → RegionNo
  | .prog g _ => g
  | .micro g => g

/-- The thread. -/
def State.th (s : State) : Who → Thread
  | .prog g x => s.thread g x
  | .micro g => (s.reg g).micro.th

/-- The thread changed. -/
def State.updTh (s : State) (w : Who) (f : Thread → Thread) : State :=
  match w with
  | .prog g x => s.updThread g x f
  | .micro g => s.setReg g { s.reg g with micro := { (s.reg g).micro with th := f (s.reg g).micro.th } }

/-- The thread that the step's agent is. -/
def State.who (s : State) : Option Who :=
  match s.cur with
  | .lectern g x => some (.prog g x)
  | .micro g => some (.micro g)
  | _ => none

/-- PC past this word, with the thread's wait ended. -/
def Thread.step (t : Thread) : Thread := { t with pc := t.pc + 4, wait := none, latched := false, going := none }

/-! ## Reports and records (06 R192, 17 R336, R337) -/

/-- A fault that a cell, a port or an engine of the region reports, in order of report (06 R192). -/
def State.report (s : State) (g : RegionNo) (r : Report) : State :=
  s.setReg g { s.reg g with micro := { (s.reg g).micro with queue := (s.reg g).micro.queue ++ [{ r with g := g, gen := s.genOf r.ctxid }] } }

/-- A record on its way to the root fault core (17 R337). -/
def State.record (s : State) (r : Report) : State := { s with records := s.records ++ [r] }

/-- Reporter code of a command of a thread's port (06 R192): the engine is port mod 4 for a copy command. -/
def cmdReporter (c : Cmd) : BitVec 16 :=
  let code := (c.w.extractLsb' 120 8).toNat
  let e := if 0x20 ≤ code && code ≤ 0x24 then c.port.toNat % 4 else 0
  BitVec.ofNat 16 (0x8000 + 0x40 * c.x.toNat + 4 * c.port.toNat + e)

/-- A cell fault that ends a firing or an access (03 R83, 05 R141, 17 R336): FATAL. -/
def State.cellFault (s : State) (l : SlotLoc) (cause : Byte) (addr : Nat) (wr : Bool) : State :=
  s.report l.g { cause := cause, rep := cellIdent l.g l.cell, addr := addr, x := l.ctx, ctxid := (s.grant l.g l.ctx).ctxid,
                 kernel := (s.grant l.g l.ctx).kernel, wr := wr, fatal := true }

/-- A fault that edge stream port p reports (06 R192, 07 R214). -/
def State.portFault (s : State) (g : RegionNo) (p : Nat) (x : CtxNo) (cause : Byte) (addr : Nat) : State :=
  s.report g { cause := cause, rep := BitVec.ofNat 16 (0x8100 + p), addr := addr, x := x, ctxid := (s.grant g x).ctxid,
               kernel := (s.grant g x).kernel, fatal := true }

/-! ## Traps (06 R186 to R188) -/

/-- A kernel changed; one that has ended stays so. -/
def State.updKernel (s : State) (n : Nat) (f : Kernel → Kernel) : State :=
  match Tab.get s.kernels n with
  | some k => { s with kernels := Tab.set s.kernels n (f k) }
  | none => s

/-- The armings of a thread removed from every port of its region (10 R249). -/
def Core.disarm (k : Core) (x : CtxNo) : Core :=
  { k with ports := Tab.mapVal k.ports (fun _ e => { e with tokArm := Tab.erase e.tokArm x.toNat, markArm := Tab.erase e.markArm x.toNat }) }

/-- A thread without a handler stops; its kernel stops with it and the cause is reported for the context (06 R186, 16 R305,
17 R337). -/
def State.stopThread (s : State) (g : RegionNo) (x : CtxNo) (cause : Byte) (val : W64) : State :=
  let t := s.thread g x
  let s := (s.updCore g (fun k => k.disarm x)).updThread g x (fun t => { t with live := false, wait := none })
  let s := s.updKernel t.kernel (fun k => { k with stop := k.stop.or (some (cause, t.kreg)) })
  s.record { cause := cause, rep := BitVec.ofNat 16 (0xC000 + x.toNat), addr := val.toNat, x := x, ctxid := t.ctxid,
             kernel := t.kernel, g := g, fatal := true, gen := t.gen }

/-- Whether a load of a thread has still to deliver. -/
def State.loadsOut (s : State) (g : RegionNo) (x : CtxNo) : Bool := (s.core g).accs.any (fun a => a.port == .thread x && a.op == .read)

/-- Trap entry of a program thread; pc is what `lepc` takes. Traps are precise: one is taken once every earlier load has been delivered
(06 R186). -/
def State.trapEntry (s : State) (g : RegionNo) (x : CtxNo) (cause : Byte) (val pc : W64) : State :=
  let t := s.thread g x
  if s.loadsOut g x then s
  else if t.tr || !t.en then s.stopThread g x cause val
  else s.updThread g x (fun t =>
    { t with lcause := cause, lval := val, lepc := pc.extractLsb' 2 12, tr := true, pc := (0#50) ++ t.vec ++ (0#2),
             wait := none, latched := false, going := none })

/-- A trap condition of the microprogram thread stops its region and reports UNCORRECTABLE (06 R186). -/
def State.microStop (s : State) (g : RegionNo) : State :=
  let m := (s.reg g).micro
  let s := s.setReg g { s.reg g with micro := { m with stopped := true, running := false } }
  s.record { m.cur with cause := Cause.uncorrectable, addr := 0, aux := 0, g := g, fatal := true, s2 := false, accId := none, cmdId := none }

/-- A trap of whichever thread executes the word. -/
def State.trap (s : State) (w : Who) (cause : Byte) (val pc : W64) : State :=
  match w with
  | .prog g x => s.trapEntry g x cause val pc
  | .micro g => s.microStop g

/-- Return from a trap (06 R188). -/
def Thread.eret (t : Thread) : Thread := { t with pc := (0#50) ++ t.lepc ++ (0#2), tr := false, wait := none }

/-! ## Bytes and lines -/

/-- The number that little-endian bytes hold. -/
def leNat (bs : List Byte) : Nat := bytesToNat bs
/-- A line of 128 bytes. -/
def lineOf (bs : List Byte) : Line := BitVec.ofNat 1024 (bytesToNat bs)
/-- The bytes of a line. -/
def lineBytes (l : Line) : List Byte := natToBytes 128 l.toNat
/-- The 64-bit word at byte 8i. -/
def word8 (bs : List Byte) (i : Nat) : Nat := bytesToNat ((bs.drop (8 * i)).take 8)
/-- Bits lo to hi of a number. -/
def bits (v lo hi : Nat) : Nat := (v >>> lo) % 2 ^ (hi + 1 - lo)

end Sys2Proof.Machine
end

