-- ==== Sys2Proof/Machine/Translate.lean ====
section
/-!
DEFINITION. Physical memory with its keys and owners, the two-stage translation, the frame check, leases of banks (17 R322 to
R334, R349; 05 R138).
-/

namespace Sys2Proof.Machine

/-! ## Physical memory (17 R333, R334; log 12) -/

/-- First byte address above device memory (17 R326). -/
def deviceTop : Nat := 768 * 2 ^ 30
/-- Host memory lies from 2^48 to 2^52 (17 R326). -/
def isHost (pa : Nat) : Bool := 2 ^ 48 ≤ pa && pa < 2 ^ 52
/-- Device memory (17 R326). -/
def isDevice (pa : Nat) : Bool := pa < deviceTop

/-- The key material an access uses: none for plaintext (17 R333). -/
def State.keyOf (s : State) (pl : Place) : Option (BitVec 512) := if pl.pt then none else Tab.get s.keys pl.key

/-- The 128 bytes of a line as they read under a key: memory holds them as they read under the key that they were written with. -/
def State.lineUnder (s : State) (key : Option (BitVec 512)) (line : Nat) : List Byte :=
  let raw := s.mem.readN (line * 128) 128
  let tag := Tab.get s.lineKey line
  if tag == key then raw else Aes.recrypt tag key line raw

/-- Reads within one line. -/
def State.readLine (s : State) (key : Option (BitVec 512)) (pa n : Nat) : List Byte :=
  if isHost pa then s.mem.readN pa n else ((s.lineUnder key (pa / 128)).drop (pa % 128)).take n

/-- Writes within one line: a line under another key takes this key. -/
def State.writeLine (s : State) (key : Option (BitVec 512)) (pa : Nat) (bs : List Byte) : State :=
  let line := pa / 128
  if isHost pa || Tab.get s.lineKey line == key then { s with mem := s.mem.writeN pa bs }
  else
    let m := (s.mem.writeN (line * 128) (s.lineUnder key line)).writeN pa bs
    { s with mem := m, lineKey := match key with
      | some k => Tab.set s.lineKey line k
      | none => Tab.erase s.lineKey line }

/-- Reads across lines, from the lowest address; the fuel bounds the lines. -/
def State.readKeyed (s : State) (key : Option (BitVec 512)) : Nat → Nat → Nat → List Byte
  | 0, _, _ => []
  | f + 1, pa, n =>
    let k := min n (128 - pa % 128)
    if n == 0 then [] else s.readLine key pa k ++ s.readKeyed key f (pa + k) (n - k)

/-- Writes across lines. -/
def State.writeKeyed (s : State) (key : Option (BitVec 512)) : Nat → Nat → List Byte → State
  | 0, _, _ => s
  | f + 1, pa, bs =>
    let k := min bs.length (128 - pa % 128)
    if bs.isEmpty then s else (s.writeLine key pa (bs.take k)).writeKeyed key f (pa + k) (bs.drop k)

/-- The bytes at a translated place; a bank place lies in `banks` at 2^24 × region + physical bank offset. -/
def State.readPlace (s : State) (pl : Place) (n : Nat) : List Byte :=
  if pl.bank then s.banks.readN (pl.g.toNat * 2 ^ 24 + pl.pa) n else s.readKeyed (s.keyOf pl) (n + 1) pl.pa n

/-- Where a place lies in its memory. -/
def Place.base (pl : Place) : Nat := if pl.bank then pl.g.toNat * 2 ^ 24 + pl.pa else pl.pa
/-- Bytes of a unit of error protection: a granule of a bank or a unit of a stack (19 R363). -/
def unitBytes (bank : Bool) : Nat := if bank then 8 else 32
/-- The units of error protection that n bytes of a place touch. -/
def Place.units (pl : Place) (n : Nat) : List (Bool × Nat) :=
  let u := unitBytes pl.bank
  if n == 0 then [] else (List.range ((pl.base + n - 1) / u + 1 - pl.base / u)).map (fun i => (pl.bank, pl.base / u + i))
/-- Whether n bytes of a place take in a whole unit. -/
def Place.covers (pl : Place) (n : Nat) (u : Bool × Nat) : Bool :=
  u.1 == pl.bank && pl.base ≤ unitBytes u.1 * u.2 && unitBytes u.1 * u.2 + unitBytes u.1 ≤ pl.base + n
/-- The units that an access of n bytes of a place has to read, or to write in part (19 R365). -/
def Place.reads (pl : Place) (n : Nat) (wr : Bool) : List (Bool × Nat) := (pl.units n).filter (fun u => !(wr && pl.covers n u))
/-- Whether such a unit is bad: the access meets an uncorrectable error (19 R365). -/
def State.spoiled (s : State) (pl : Place) (n : Nat) (wr : Bool) : Bool := s.bad.any (pl.reads n wr).contains

/-- Bytes written at a translated place; a write of a host line awaits its CXL completion (09 R235), and one of a whole unit of error protection
replaces what was bad there (19 R365). -/
def State.writePlace (s : State) (pl : Place) (bs : List Byte) : State :=
  let s := { s with bad := s.bad.filter (fun u => !pl.covers bs.length u) }
  if pl.bank then { s with banks := s.banks.writeN (pl.g.toNat * 2 ^ 24 + pl.pa) bs }
  else
    let s := if isHost pl.pa && !bs.isEmpty then { s with cxl := s.cxl ++ [(pl.pa / 128, none)] } else s
    s.writeKeyed (s.keyOf pl) (bs.length + 1) pl.pa bs

/-- The CXL writes begun since there were n are those of a thread's access or command (09 R235). -/
def State.ownCxl (s : State) (n : Nat) (who : RegionNo × Nat) : State :=
  { s with cxl := s.cxl.take n ++ (s.cxl.drop n).map (fun e => (e.1, some who)) }

/-- A 64-bit word of physical memory in clear. -/
def State.readPhys8 (s : State) (pa : Nat) : Nat := leNat (s.readKeyed none 9 pa 8)

/-! ## Tables (17 R324 to R327) -/

/-- Bits of input address below a leaf of a level. -/
def levelShift (level : Nat) : Nat := 12 + 9 * level

/-- Whether a present entry is malformed (17 R325, R326); stage 2 when `s2`. -/
def entryBad (s2 : Bool) (level e : Nat) : Bool :=
  let leaf := e.testBit 1
  let cont := e.testBit 4
  let oa := bits e 12 56 <<< 12
  let common := e.testBit 3 || (leaf && level ≥ 3) || (!leaf && level == 0) || (!leaf && e.testBit 2)
    || (cont && !(leaf && (level == 0 || level == 2))) || (leaf && oa % 2 ^ levelShift level != 0)
  if s2 then
    common || bits e 5 7 != 0 || bits e 52 56 != 0 || (!leaf && (bits e 57 63 != 0 || bits e 8 11 != 0))
      || (leaf && (bits e 10 11 == 3 || !(isHost oa || oa + 2 ^ levelShift level ≤ deviceTop)
        || (isHost oa && (!e.testBit 8 || bits e 10 11 != 0))))
  else common || bits e 5 11 != 0 || bits e 57 63 != 0

/-- A leaf reached by a walk: entry, level, output address of the input address. -/
structure Leaf where
  entry : Nat := 0
  level : Nat := 0
  out   : Nat := 0
  loc   : Nat := 0
  deriving DecidableEq, Repr, Inhabited

/-- Entries and size exponent of a contiguous run at a level (17 R327). -/
def runOf (level : Nat) : Nat × Nat := if level == 0 then (16, 4) else (32, 5)

/-- A walk from a table at a level: `rd` reads the entry at an address or fails, and may change what it is given. Not present is failure
`none` (17 R324 to R328). -/
def walk {σ ε : Type} (s2 : Bool) (rd : σ → Nat → σ × Except ε Nat) (inp : Nat) : Nat → Nat → σ → σ × Except (Option ε × Nat × Nat) Leaf
  | table, level, s =>
    let sh := levelShift level
    let idx := (inp >>> sh) % 512
    let at_ := table + 8 * idx
    match rd s at_ with
    | (s, .error e) => (s, .error (some e, level, at_))
    | (s, .ok e) =>
      if !e.testBit 0 || entryBad s2 level e then (s, .error (none, level, at_))
      else if e.testBit 1 then
        if !e.testBit 4 then (s, .ok ⟨e, level, (bits e 12 56 <<< 12) + inp % 2 ^ sh, at_⟩)
        else
          let (n, k) := runOf level
          let first := table + 8 * (idx - idx % n)
          match rd s first with
          | (s, .error er) => (s, .error (some er, level, first))
          | (s, .ok f) =>
            let oa := bits f 12 56 <<< 12
            if !f.testBit 0 || entryBad s2 level f || !f.testBit 4 || oa % 2 ^ (sh + k) != 0 then (s, .error (none, level, first))
            else (s, .ok ⟨f, level, oa + inp % 2 ^ (sh + k), first⟩)
      else
        match level with
        | 0 => (s, .error (none, 0, at_))
        | l + 1 => walk s2 rd inp (bits e 12 56 <<< 12) l s

/-- The function of a context. -/
def State.funcOf (s : State) (ctxid : Nat) : Nat := (Tab.getD s.ctxs ctxid).func
/-- Stage-2 root of a function; 0 means no stage 2 (17 R330). -/
def State.s2root (s : State) (f : Nat) : Nat := (Tab.getD s.s2.root f : W64).toNat

/-- The 2 MiB granule of a device address. -/
def granule (pa : Nat) : Nat := pa / 2 ^ 21

/-- Whether a 9100 access to a place may perform now (17 R349). -/
def State.ownedOk (s : State) (pl : Place) : Bool :=
  pl.bank || !isDevice pl.pa || (!(Tab.getD s.hostOwned (granule pl.pa)) && !Tab.has s.xfers (granule pl.pa))

/-- What of an access its translation depends on: whether it writes, and whether 17 R332 keeps it from a COMP page. -/
structure XReq where
  wr     : Bool := false
  narrow : Bool := false
  deriving DecidableEq, Repr, Inhabited

/-- A place reached, with the W bits of both stages, the level of its stage-2 leaf and log2 of the size of its stage-1 page. -/
structure Reach where
  pl    : Place := {}
  w     : Bool := true
  w2    : Bool := true
  level : Nat := 0
  shift : Nat := 12
  deriving DecidableEq, Repr, Inhabited

/-- Why a translation reaches no place: it fails, or what it has to read lies in a granule that is not the accelerator's, and it waits
for that granule (17 R328, R349). -/
inductive XStop where
  | fail (f : XFault)
  | hold (pl : Place)
  deriving DecidableEq, Repr, Inhabited

/-- An entry of a stage-2 table at its memory serialisation point (17 R329, R349). -/
def State.readEntry2 (s : State) (a : Nat) : Except Place Nat :=
  if s.ownedOk { pa := a } then .ok (s.readPhys8 a) else .error { pa := a, gpa := a }

/-- Whether what a stage-2 leaf allows forbids an access: W = 0 on a write, or 17 R332. -/
def Reach.forbids (r : Reach) (q : XReq) : Bool := (q.wr && !r.w2) || (q.narrow && r.pl.comp != 0)

/-- Stage 2 of a guest physical address, its attributes and whether it lets writes pass; a forbidden access fails before the key slot
is looked at (17 R326, R328, R332, R333). -/
def State.stage2 (s : State) (f gpa : Nat) (q : XReq) : Except XStop Reach :=
  let root := s.s2root f
  if root == 0 then .ok { pl := { pa := gpa, gpa := gpa } }
  else
    match (walk (σ := Unit) true (fun _ a => ((), s.readEntry2 a)) gpa root 4 ()).2 with
    | .error (some pl, _, _) => .error (.hold { pl with gpa := gpa })
    | .error (none, level, _) => .error (.fail { cause := Cause.pageNotPresentS2, s2 := true, level := level, gpa := gpa })
    | .ok l =>
      let key := bits l.entry 57 63
      let pt := l.entry.testBit 8
      let r : Reach := { pl := { pa := l.out, key := key, pt := pt, sc := l.entry.testBit 9, comp := bits l.entry 10 11, gpa := gpa },
                         w2 := l.entry.testBit 2, level := l.level }
      if r.forbids q then .error (.fail { cause := Cause.pagePermission, s2 := true, level := l.level, gpa := gpa })
      else if !pt && !Tab.has s.keys key then .error (.fail { cause := Cause.pageNotPresentS2, s2 := true, level := l.level, gpa := gpa })
      else .ok r

/-- The frame check for a translated place: the state with the frame's attributes fixed, or the cause (17 R331). -/
def State.frameCheck (s : State) (f : Nat) (pl : Place) (wr : Bool) : Except XFault State :=
  if !isDevice pl.pa then .ok s
  else
    let fr := pl.pa / 4096
    let e : BitVec 16 := Tab.getD s.frames fr
    let attrs : BitVec 16 := BitVec.ofNat 16 (0x8000 + pl.comp * 0x2000 + (if pl.pt then 0x1000 else 0) + pl.key * 32)
    if wr && e.getLsbD 4 then .error { cause := Cause.pagePermission, gpa := pl.gpa }
    else if !e.getLsbD 15 then
      .ok { s with frames := Tab.set s.frames fr ((e &&& 0x10#16) ||| attrs), frameBy := Tab.set s.frameBy fr f }
    else if (e &&& 0xFFE0#16) != attrs then .error { cause := Cause.aliasAttr, s2 := true, gpa := pl.gpa }
    else .ok s

/-- The place of a guest physical address of a function, its frame checked (17 R328, R331). -/
def State.guestPlace (s : State) (f gpa : Nat) (q : XReq) : State × Except XStop Reach :=
  match s.stage2 f gpa q with
  | .error e => (s, .error e)
  | .ok r => match s.frameCheck f r.pl q.wr with
    | .error e => (s, .error (.fail e))
    | .ok s => (s, .ok r)

/-- An entry of a stage-1 table, read through stage 2 at its serialisation point (17 R328, R329). -/
def State.readGuest8 (s : State) (f gpa : Nat) : State × Except XStop Nat :=
  match s.guestPlace f gpa {} with
  | (s, .error (.fail e)) => (s, .error (.fail { cause := Cause.walkS2, s2 := true, level := e.level, gpa := gpa }))
  | (s, .error (.hold pl)) => (s, .error (.hold pl))
  | (s, .ok r) => if s.ownedOk r.pl then (s, .ok (leNat (s.readPlace r.pl 8))) else (s, .error (.hold r.pl))

/-- The walk of both stages for a virtual address, in the order of 17 R328. -/
def State.walkBoth (s : State) (ctxid va : Nat) (q : XReq) : State × Except XStop Reach :=
  let c := Tab.getD s.ctxs ctxid
  match walk false (fun (s : State) a => s.readGuest8 c.func a) va c.root 4 s with
  | (s, .error (some (.fail e), _, at_)) => (s, .error (.fail { e with gpa := at_ }))
  | (s, .error (some (.hold pl), _, _)) => (s, .error (.hold pl))
  | (s, .error (none, level, _)) => (s, .error (.fail { cause := Cause.pageNotPresent, level := level }))
  | (s, .ok l) =>
    let w1 := l.entry.testBit 2
    if q.wr && !w1 then (s, .error (.fail { cause := Cause.pagePermission, level := l.level }))
    else match s.guestPlace c.func l.out q with
      | (s, .error e) => (s, .error e)
      | (s, .ok r) => (s, .ok { r with w := w1, shift := levelShift l.level + if l.entry.testBit 4 then (runOf l.level).2 else 0 })

/-- The cached translation of a page of a context at a region's ports. -/
def Region.cached (r : Region) (ctxid page : Nat) : Option Tlb := r.tlb.find? (fun t => t.ctxid == ctxid && t.page == page)

/-- A cached translation removed. -/
def State.forgetPage (s : State) (g : RegionNo) (ctxid page : Nat) : State :=
  let r := s.reg g
  s.setReg g { r with tlb := r.tlb.filter (fun u => !(u.ctxid == ctxid && u.page == page)) }

/-- Translation of a virtual address at a region's ports. A cached translation that allows the access may be used or not (17 R329); a
walk that succeeds is cached, and a translation that fails leaves nothing cached (18 R352). -/
def State.translate (s : State) (g : RegionNo) (ctxid va : Nat) (q : XReq) : State × Except XStop Place :=
  let page := va / 4096
  let (use, s) := s.free 1
  match (s.reg g).cached ctxid page, use == 1 with
  | some t, true =>
    let r : Reach := { pl := { t.place with pa := t.place.pa + va % 4096, gpa := t.place.gpa + va % 4096 }, w := t.w, w2 := t.w2 }
    if (q.wr && !t.w) || r.forbids q then walked s else
    match s.frameCheck (s.funcOf ctxid) r.pl q.wr with
    | .ok s => (s, .ok r.pl)
    | .error e => (s.forgetPage g ctxid page, .error (.fail e))
  | _, _ => walked s
where
  /-- The walk, and the cache after it. -/
  walked (s : State) : State × Except XStop Place :=
    match s.walkBoth ctxid va q with
    | (s, .error (.fail f)) => (s.forgetPage g ctxid (va / 4096), .error (.fail f))
    | (s, .error (.hold pl)) => (s, .error (.hold pl))
    | (s, .ok p) =>
      let s := s.forgetPage g ctxid (va / 4096)
      let r := s.reg g
      let t : Tlb := { ctxid := ctxid, page := va / 4096, w := p.w, w2 := p.w2, shift := p.shift,
                       place := { p.pl with pa := p.pl.pa - va % 4096, gpa := p.pl.gpa - va % 4096 } }
      (s.setReg g { r with tlb := t :: r.tlb }, .ok p.pl)

/-- The place that a virtual address has now, if it has one: a walk that leaves no trace. -/
def State.placeNow (s : State) (ctxid va : Nat) : Option Place := match (s.walkBoth ctxid va {}).2 with
  | .ok r => some r.pl
  | .error _ => none

/-- Cached translations removed in every region (17 R329). -/
def State.dropTlb (s : State) (p : Tlb → Bool) : State :=
  { s with regions := Tab.mapVal s.regions (fun _ r => { r with tlb := r.tlb.filter (fun t => !p t) }) }

/-- Guest physical bytes of a function's memory, each translated under stage 2 with its frame checked and fixed (16 R303; 17 R328, R331): the cause
of the first that fails, or OWNERSHIP_TIMEOUT for one that is not the accelerator's. -/
def State.readFunc (s : State) (f : Nat) : Nat → Nat → State × Except Byte (List Byte)
  | _, 0 => (s, .ok [])
  | gpa, n + 1 => match s.guestPlace f gpa {} with
    | (s, .error (.fail e)) => (s, .error e.cause)
    | (s, .error (.hold _)) => (s, .error Cause.ownershipTimeout)
    | (s, .ok r) =>
      if !s.ownedOk r.pl then (s, .error Cause.ownershipTimeout)
      else match s.readFunc f (gpa + 1) n with
        | (t, .ok bs) => (t, .ok (s.readPlace r.pl 1 ++ bs))
        | (t, .error e) => (t, .error e)

/-- Guest physical bytes written by the Bureau; a byte whose translation fails is not written. PROT keeps out every write but that of
the table or block it protects, `own` (17 R331). -/
def State.writeFunc (s : State) (own : Bool) (f : Nat) : Nat → List Byte → State
  | _, [] => s
  | gpa, b :: bs => match s.stage2 f gpa { wr := true } with
    | .error _ => s.writeFunc own f (gpa + 1) bs
    | .ok r => match s.frameCheck f r.pl (!own) with
      | .error _ => s.writeFunc own f (gpa + 1) bs
      | .ok s => (s.writePlace r.pl [b]).writeFunc own f (gpa + 1) bs

/-- The first place of a range of a function's memory that is not the accelerator's, or of the tables that lead there (17 R349). -/
def State.heldFunc (s : State) (f : Nat) : Nat → Nat → Option Place
  | _, 0 => none
  | gpa, n + 1 => match s.stage2 f gpa {} with
    | .error (.hold pl) => some pl
    | .error (.fail _) => s.heldFunc f (gpa + 1) n
    | .ok r => if s.ownedOk r.pl then s.heldFunc f (gpa + 1) n else some r.pl

/-! ## Owners of granules (17 R349, R350) -/

/-- A transfer toward the accelerator begun for a place, unless one is in progress; an agent waits on it. -/
def State.claim (s : State) (who : Agent) (pl : Place) (va : Nat) (wr : Bool) : State :=
  if s.ownedOk pl then s
  else
    let x : Xfer := (Tab.get s.xfers (granule pl.pa)).getD { began := s.now }
    let w := (who, va, pl.gpa, wr)
    { s with xfers := Tab.set s.xfers (granule pl.pa) (if x.waits.contains w then x else { x with waits := x.waits ++ [w] }) }

/-- An action of the Bureau on a range of a function's memory, once the range is the accelerator's (17 R349). -/
def State.ownFunc (s : State) (who : Agent) (f gpa n : Nat) (wr : Bool) (go : State → State) : State := match s.heldFunc f gpa n with
  | some pl => s.claim who pl 0 wr
  | none => go s

/-! ## Bank addresses (05 R138, 01 R20) -/

/-- Whether n bytes from a bank offset stay below the lease of the cell that the offset names (05 R138). -/
def inLease (gr : Grant) (off n : Nat) : Bool := off % 65536 + n ≤ gr.lease * 4096

/-- A bank access of n bytes aligned to n, against a lease: the physical place (05 R138), the lowest-numbered cause first (00
R16). -/
def bankPlace (g : RegionNo) (gr : Grant) (off n : Nat) : Except Byte Place :=
  if off % n != 0 then .error Cause.misaligned
  else if off ≥ 2 ^ 24 then .error Cause.addrClass
  else if !inLease gr off n then .error Cause.pagePermission
  else .ok { bank := true, g := g, pa := off + gr.base * 4096 }

/-- Bank bytes of a range that need not be aligned to its length: the place of its first byte. -/
def bankRange (g : RegionNo) (gr : Grant) (off n : Nat) : Except Byte Place :=
  if off ≥ 2 ^ 24 then .error Cause.addrClass
  else if !inLease gr off n then .error Cause.pagePermission
  else .ok { bank := true, g := g, pa := off + gr.base * 4096 }

/-- The class of an address (17 R322). -/
def clsOf (a : Nat) : Nat := a / 2 ^ 60 % 16

/-- The check of an ordinary or bank address that a command or a table names: its class (17 R322). -/
def classFault (a : Nat) : Option Byte :=
  if clsOf a == 8 then some Cause.drawerAccess
  else if clsOf a == 0 then (if bits a 57 59 != 0 then some Cause.addrClass else none)
  else if clsOf a == 0xC then (if bits a 24 59 != 0 then some Cause.addrClass else none)
  else some Cause.addrClass

end Sys2Proof.Machine
end

