-- ==== Sys2Proof/Machine/Faults.lean ====
section
/-!
DEFINITION. Accesses in their issue queues: starting, faulting, parking, and the reports of translation faults (05 R136, R141;
17 R335, R336, R339); completion of commands with a cause (03 R91).
-/

namespace Sys2Proof.Machine

/-- An access of a region. -/
def State.acc (s : State) (g : RegionNo) (id : Nat) : Option Acc := (s.core g).accs.find? (fun a => a.id == id)
/-- An access changed. -/
def State.updAcc (s : State) (g : RegionNo) (id : Nat) (f : Acc → Acc) : State :=
  s.updCore g (fun k => { k with accs := k.accs.map (fun a => if a.id == id then f a else a) })
/-- An access that has left its queue. -/
def State.dropAcc (s : State) (g : RegionNo) (id : Nat) : State :=
  s.updCore g (fun k => { k with accs := k.accs.filter (fun a => a.id != id) })

/-- The resident context an access belongs to. -/
def Acc.ctx (a : Acc) : CtxNo := match a.port with
  | .slot _ x _ => x
  | .thread x => x

/-- Whether an access has not performed. -/
def Acc.pending (a : Acc) : Bool := match a.phase with
  | .performed _ | .faulted _ => false
  | _ => true

/-- Whether an access has performed. -/
def Acc.done (a : Acc) : Bool := match a.phase with
  | .performed _ => true
  | _ => false

/-- The cell of an access, if a cell started it. -/
def Acc.cell? (a : Acc) : Option CellNo := match a.port with
  | .slot c _ _ => some c
  | .thread _ => none

/-- Reporter code of an access's port (06 R192). -/
def Acc.reporter (a : Acc) (g : RegionNo) : BitVec 16 := match a.port with
  | .slot c _ _ => cellIdent g c
  | .thread x => BitVec.ofNat 16 (0xC000 + x.toNat)

/-- Causes that park an access or a command (03 R372, 10 R244, 17 R336). -/
def parks (c : Byte) : Bool :=
  c == Cause.pageNotPresent || c == Cause.pagePermission || c == Cause.walkS2 || c == Cause.pageNotPresentS2
    || c == Cause.aliasAttr || c == Cause.ownershipTimeout

/-- ADDR and AUX of the record of a translation fault (17 R339): the address that failed and what else the kind of entry
names. -/
def XFault.addrs (f : XFault) (addr aux : Nat) : Nat × Nat :=
  if f.s2 || f.cause == Cause.walkS2 then (addr, f.gpa) else (addr, aux)

/-- The report of a parked access (17 R336, R338). -/
def Acc.parkReport (a : Acc) (g : RegionNo) (kernel : Nat) (f : XFault) (addr : Nat) : Report :=
  let aux := if addr == a.addr then 0 else a.addr
  { cause := f.cause, rep := a.reporter g, addr := (f.addrs addr aux).1, aux := (f.addrs addr aux).2, x := a.ctx,
    ctxid := a.ctxid, kernel := kernel, g := g, wr := a.wr, s2 := f.s2, level := f.level, gpa := f.gpa, accId := some a.id,
    park := some f.seq }

/-- A fault as it parks its access: when, in which order, and the AUX of its record. -/
def State.parking (s : State) (f : XFault) (aux : Nat) : XFault := { f with since := s.now, seq := s.tick, aux := aux }

/-- An access parks and its port reports it (17 R335, R336); nothing stays cached of its page (18 R352). -/
def State.parkAcc (s : State) (g : RegionNo) (id : Nat) (f : XFault) (addr : Nat) : State :=
  match s.acc g id with
  | none => s
  | some a =>
    let f := s.parking f 0
    ((s.forgetPage g a.ctxid (addr / 4096)).updAcc g id (fun a => { a with phase := .parked f addr, wait := none, reported := true })).report g
      (a.parkReport g (s.grant g a.ctx).kernel f addr)

/-- An access ends with a cause that nothing cures: a cell access is reported, a Lectern access traps its thread when the fault
reaches it (05 R141, 08 R226). -/
def State.failAcc (s : State) (g : RegionNo) (id : Nat) (cause : Byte) : State :=
  match s.acc g id with
  | none => s
  | some a =>
    let s := s.updAcc g id (fun a => { a with phase := .faulted cause, wait := none })
    match a.port with
    | .slot c x n => s.cellFault ⟨g, c, x, n⟩ cause a.addr a.wr
    | .thread _ => s

/-- A Lectern access meets an uncorrectable error: a FATAL record, and its thread stands at the word (19 R365). -/
def State.threadFatal (s : State) (g : RegionNo) (x : CtxNo) (id addr : Nat) (wr : Bool) : State :=
  (s.updThread g x (fun t => { t with hold := some (id, true) })).report g
    { cause := Cause.uncorrectable, rep := BitVec.ofNat 16 (0xC000 + x.toNat), addr := addr, x := x, ctxid := (s.thread g x).ctxid,
      kernel := (s.grant g x).kernel, wr := wr, fatal := true }

/-- An access of a cell or a thread meets an uncorrectable error (19 R365). -/
def State.uncorrectable (s : State) (g : RegionNo) (a : Acc) : State := match a.port with
  | .slot .. => s.failAcc g a.id Cause.uncorrectable
  | .thread x => (s.dropAcc g a.id).threadFatal g x a.id a.addr a.wr

/-- VALUE of a command that fails after its start, where the manual states it: the progress point of a copy, the lowest uncompleted
chunk of an `nsend`, 0 of a Drawer command, the step of a chain (10 R244, R261; 11 R277; 14 R292, R298). -/
def Cmd.failValue (c : Cmd) : Option Nat :=
  let code := (c.w.extractLsb' 120 8).toNat
  if 0x20 ≤ code && code ≤ 0x24 then some c.prog.a
  else if 0x60 ≤ code && code ≤ 0x64 then some 0
  else if code == 0x51 || code == 0x70 || code == 0x71 then some c.prog.chunk
  else none

/-- The highest node a chain command uses, from the header it has read (14 R286, R294). -/
def Cmd.nodes (c : Cmd) : Option Nat :=
  let code := (c.w.extractLsb' 120 8).toNat
  if (code == 0x70 || code == 0x71) && c.started && !c.done && c.prog.stage ≥ 1 && !c.prog.hdr.isEmpty then
    some ((c.prog.hdr.getD 45 0).toNat) else none

/-- The nodes that a chain command used are given up in what holds it: its accumulator there is +0, `ta` and `tl` have no owner (14 R294). -/
def Core.giveUp (k : Core) (n a : Nat) : Core :=
  { k with cells := (List.range (n + 1)).foldl (fun t q => Tab.upd t q (fun c =>
      { c with acc := c.acc.filter (fun e => e.1 / 256 != a), ta := { c.ta with owner := none }, tl := { c.tl with owner := none } })) k.cells }

/-- The highest node and the accumulator of a chain command that a core holds. -/
def Core.chainOf (k : Core) (id : Nat) : Option (Nat × Nat) :=
  (Tab.get k.cmds id).bind (fun m => m.nodes.map (fun n => (n, bits (word8 m.prog.hdr 5) 38 39)))

/-- The nodes of a chain command given up as it completes, in the region or in the saved image that holds it (14 R294). -/
def State.releaseNodes (s : State) (g : RegionNo) (id : Nat) : State :=
  match (s.core g).chainOf id with
  | some (n, a) => s.updCore g (fun k => k.giveUp n a)
  | none =>
    if (s.reg g).images.any (fun i => (i.core.chainOf id).isSome) then
      s.setReg g { s.reg g with images := (s.reg g).images.map (fun i => match i.core.chainOf id with
        | some (n, a) => { i with core := i.core.giveUp n a }
        | none => i) }
    else s

/-- A command is done: COMMAND_COMPLETE will queue its response (09 R234). -/
def State.endCmd (s : State) (g : RegionNo) (id : Nat) (cause : Byte) (value : Nat) : State :=
  (s.releaseNodes g id).updCmd g id (fun c =>
    { c with done := true, cause := cause, value := BitVec.ofNat 32 value, parked := none, wait := none, prog := { c.prog with io := [] } })

/-- A command is done with a cause for which the manual states no VALUE: it is a free value (log 7). -/
def State.endCmdFree (s : State) (g : RegionNo) (id : Nat) (cause : Byte) : State :=
  let (v, s) := s.free 32
  s.endCmd g id cause v.toNat

/-- A command fails with a cause. -/
def State.failCmd (s : State) (g : RegionNo) (id : Nat) (cause : Byte) : State :=
  match (s.cmd g id).failValue with
  | some v => s.endCmd g id cause v
  | none => s.endCmdFree g id cause

/-- A command's current stage stands at its first read again: a copy at its chunk, or, with part of it written to a stream, whose published bytes
never change (07 R205), at what it has still to write (log 74), a chain at its step or at its status words, a map at the slot it has reached,
every other unit at the stage it is in (03 R372; 10 R244, 11 R280, 14 R293). -/
def Prog.restart (p : Prog) (code : Nat) : Prog :=
  let map := (code == 0x81 || code == 0x82) && p.stage != 0
  let ring := 0x20 ≤ code && code ≤ 0x24 && p.io.any (fun e => e.wr.isSome && e.got.isSome && clsOf e.addr == 4)
  let p := if map then p else if ring then { p with io := p.io.filter (fun e => e.got.isSome) } else { p with io := [], adm := false }
  if 0x20 ≤ code && code ≤ 0x24 then
    (if p.stage == 1 then { p with tab := [] } else p)
  else if (code == 0x70 || code == 0x71) && p.stage == 2 then { p with stage := 1 }
  else p

/-- A command parks and its unit reports it with the progress that its rule gives (03 R372, 10 R244, 14 R293, 17 R339). -/
def State.parkCmd (s : State) (g : RegionNo) (id : Nat) (f : XFault) (addr aux : Nat) (wr : Bool) : State :=
  let c := s.cmd g id
  let f := { s.parking f aux with wr := wr }
  let s := (s.forgetPage g c.ctxid (addr / 4096)).updCmd g id (fun c => { c with parked := some (addr, f), wait := none,
                                                                                 prog := c.prog.restart (c.w.extractLsb' 120 8).toNat })
  let (a, x) := f.addrs addr aux
  s.report g { cause := f.cause, rep := cmdReporter c, addr := a, aux := x, x := c.x, ctxid := c.ctxid, kernel := c.kernel,
               g := g, wr := wr, s2 := f.s2, level := f.level, gpa := f.gpa, cmdId := some id, park := some f.seq }

/-- A command waits (07 R215, 17 R339). -/
def State.waitCmd (s : State) (g : RegionNo) (id kind obj agent : Nat) : State :=
  s.updCmd g id (fun c => { c with wait := match c.wait with
    | some w => some { w with kind := kind, obj := obj, agent := agent }
    | none => some { kind := kind, obj := obj, agent := agent, since := s.tick } })

/-- An access joins its port's queue. -/
def State.joinAcc (s : State) (g : RegionNo) (a : Acc) : State :=
  s.updCore g (fun k => { k with accs := k.accs ++ [a] })

/-- What of an access its translation depends on: 17 R332 keeps narrow accesses from COMP pages. -/
def Acc.req (a : Acc) : XReq := { wr := a.wr, narrow := !a.line }

/-- The translation of an address for an access that stands in its queue: the access is ready at its place, parks, or waits for a granule
(17 R335, R349). -/
def State.walkAcc (s : State) (g : RegionNo) (a : Acc) (va : Nat) : State :=
  let (s, r) := s.translate g a.ctxid va a.req
  match r with
  | .ok pl => s.updAcc g a.id (fun a => { a with phase := .ready pl, va := va, wait := none })
  | .error (.fail f) => s.parkAcc g a.id f va
  | .error (.hold pl) =>
    (s.updAcc g a.id (fun a => { a with phase := .walk va, wait := none })).claim (.event (.accessPerform g a.id)) pl va a.wr

/-- An ordinary access joins its port's queue and is translated (09 R230, 17 R335). -/
def State.startOrdinary (s : State) (g : RegionNo) (a : Acc) : State := (s.joinAcc g { a with phase := .walk a.addr }).walkAcc g a a.addr

/-- The translation of an access from the root of its tables, past whatever its region has cached of the page (18 R352). -/
def State.walkAnew (s : State) (g : RegionNo) (a : Acc) (va : Nat) : State := (s.forgetPage g a.ctxid (va / 4096)).walkAcc g a va

/-- A released access translates again from the start: the address that failed, which for a ring access is that of its ring byte (17
R335). -/
def State.releaseAcc (s : State) (g : RegionNo) (a : Acc) : State := match a.phase with
  | .parked _ va => s.walkAnew g a va
  | _ => s

/-- An access of a restored image that has not performed is issued again, where it stands in its queue: its translation, or its admission at
a stream, is done from the start; a line of it that has performed is not repeated (05 R136; 07 R217; 17 R342). -/
def State.restartAcc (s : State) (g : RegionNo) (a : Acc) : State :=
  if clsOf a.addr == 4 then s.updAcc g a.id (fun a => { a with phase := .entering, wait := none })
  else if clsOf a.addr == 0 then s.walkAcc g a a.addr
  else s.updAcc g a.id (fun a => { a with wait := none })

/-- Whether any access of a resident context is parked (17 R336). -/
def Core.hasParked (k : Core) (x : CtxNo) : Bool :=
  k.accs.any (fun a => a.ctx == x && (match a.phase with | .parked .. => true | _ => false))
    || k.cmds.any (fun c => c.2.x == x && c.2.parked.isSome)
    || k.ports.any (fun e => e.2.parked.isSome && e.2.kernel == (Tab.getD k.grants x.toNat : Grant).kernel)

/-- Whether the write of a packet of a context is parked at a region's collective unit. -/
def Region.hopParked (r : Region) (ctxid : Nat) : Bool := r.arrivals.any (fun a => a.ctxid == ctxid && a.parked.isSome)

/-! ## What is parked (17 R335, R340) -/

/-- A parked access, command, port, or write of a packet for which no `nsend` runs. -/
structure Parked where
  acc    : Option Nat := none
  cmd    : Option Nat := none
  port   : Option Nat := none
  hop    : Bool := false
  g      : RegionNo := 0
  kernel : Nat := 0
  ctxid  : Nat := 0
  f      : XFault := {}
  addr   : Nat := 0
  deriving DecidableEq, Repr, Inhabited

/-- Context of a kernel. -/
def State.kernelCtx (s : State) (n : Nat) : Nat := (Tab.getD s.kernels n : Kernel).ctxid

/-- What is parked in a region's resident part or in an image. -/
def State.parkedOf (s : State) (g : RegionNo) (k : Core) : List Parked :=
  k.accs.filterMap (fun a => match a.phase with
      | .parked f addr => some { acc := some a.id, g := g, kernel := (Tab.getD k.grants a.ctx.toNat : Grant).kernel, ctxid := a.ctxid, f := f, addr := addr }
      | _ => none)
    ++ k.cmds.filterMap (fun c => c.2.parked.map (fun p => { cmd := some c.1, g := g, kernel := c.2.kernel, ctxid := c.2.ctxid, f := p.2, addr := p.1 }))
    ++ k.ports.filterMap (fun e => e.2.parked.map (fun p =>
        { port := some e.1, g := g, kernel := e.2.kernel, ctxid := s.kernelCtx e.2.kernel, f := p.2, addr := p.1 }))

/-- The resident context of a context number in a region. -/
def Core.resident (k : Core) (ctxid : Nat) : Option CtxNo :=
  (k.grants.find? (fun e => e.2.ctxid == ctxid)).map (fun e => BitVec.ofNat 2 e.1)

/-- The parked writes of packets at a region's collective unit: in the kernel of the first resident context of their context. -/
def Region.parkedHops (r : Region) (g : RegionNo) : List Parked :=
  r.arrivals.filterMap (fun a => a.parked.map (fun p =>
    { hop := true, g := g, kernel := (Tab.getD r.core.grants ((r.core.resident a.ctxid).getD 0).toNat : Grant).kernel, ctxid := a.ctxid, f := p.2,
      addr := p.1 }))

/-- Everything that is parked in the package. -/
def State.allParked (s : State) : List Parked :=
  s.regions.flatMap (fun e => s.parkedOf (BitVec.ofNat 5 e.1) e.2.core ++ e.2.parkedHops (BitVec.ofNat 5 e.1)
    ++ e.2.images.flatMap (fun i => s.parkedOf (BitVec.ofNat 5 e.1) i.core))

/-- The 4 KiB page that an open-fault entry of a fault names (17 R340). -/
def XFault.page (f : XFault) (addr : Nat) : Nat := (if f.s2 then f.gpa else addr) / 4096

/-- Whether an open-fault entry covers something parked. -/
def OpenFault.covers (o : OpenFault) (p : Parked) : Bool :=
  o.ctxid == p.ctxid && o.s2 == p.f.s2 && o.cause == p.f.cause && o.page == p.f.page p.addr

/-- Entries of which every access has been released closed. -/
def State.closeFaults (s : State) : State :=
  let ps := s.allParked
  { s with openf := s.openf.filter (fun o => ps.any o.covers) }

end Sys2Proof.Machine
end

