-- ==== Sys2Proof/Machine/Stream.lean ====
section
/-!
DEFINITION. Streams at their control points: offsets, windows, reads, writes, publishes, releases, attaches and detaches
(07 R197 to R213).
-/

namespace Sys2Proof.Machine

/-! ## Offsets (07 R198) -/

/-- Bytes from b up to a. -/
def dist (a b : Nat) : Nat := (a + 2 ^ 48 - b % 2 ^ 48) % 2 ^ 48
/-- a lies beyond b. -/
def after (a b : Nat) : Bool := 1 ≤ dist a b && dist a b < 2 ^ 47
/-- a lies below b. -/
def before (a b : Nat) : Bool := after b a
/-- a is not below b. -/
def atleast (a b : Nat) : Bool := !before a b
/-- A sum of offsets. -/
def offAdd (a n : Nat) : Nat := (a + n) % 2 ^ 48

/-! ## Control blocks -/

/-- Key of a stream: its context and index. -/
def scbKey (ctxid six : Nat) : Nat := ctxid * 4096 + six
/-- A live control block; one that was never opened is FREE, and CLOSED once its context is destroyed (07 R203, R213). -/
def State.scb (s : State) (k : Nat) : Scb :=
  (Tab.get s.streams k).getD (if (Tab.getD s.ctxs (k / 4096)).shut then { state := 4 } else {})
/-- A control block replaced. -/
def State.setScb (s : State) (k : Nat) (b : Scb) : State := { s with streams := Tab.set s.streams k b }

/-- Frame bytes. -/
def Scb.f (b : Scb) : Nat := 2 ^ b.k
/-- Window bytes (07 R202). -/
def Scb.win (b : Scb) : Nat := 2 ^ (b.k + b.wlog)
/-- The window limit (07 R202). -/
def Scb.limit (b : Scb) : Nat := offAdd (b.tail - b.tail % b.f) b.win
/-- Free frames (07 R202); the common origin is the tail's frame. -/
def Scb.free (b : Scb) : Nat :=
  let o := b.tail - b.tail % b.f
  2 ^ b.wlog - (dist b.hwm o + b.f - 1) / b.f
/-- Whether a write waits for window space, and the end of the earliest such write (07 R200, R205). -/
def Scb.pwait (b : Scb) : Option Nat :=
  (b.waits.find? (fun w => w.wr && after (offAdd w.off w.n) b.limit)).map (fun w => offAdd w.off w.n)

/-- What a rule of the control point answers. -/
inductive SRes where
  | perform (ring : Nat)
  | wait (kind : Nat)
  | fault (c : Byte)
  deriving DecidableEq, Repr, Inhabited

/-- A read (07 R204). -/
def Scb.read (b : Scb) (o n : Nat) : SRes :=
  if b.state == 0 || b.state == 4 then .fault Cause.streamClosed
  else if n > b.win then .fault Cause.misaligned
  else if before o b.tail then .fault Cause.streamBehind
  else if after (offAdd o n) b.hwm then
    (if b.state == 2 then .fault Cause.streamClosed else if b.state == 3 then .fault Cause.streamPeerGone else .wait 1)
  else .perform (o % b.win)

/-- A write (07 R205). -/
def Scb.write (b : Scb) (o n : Nat) : SRes :=
  if b.state == 3 then .fault Cause.streamPeerGone
  else if b.state != 1 then .fault Cause.streamClosed
  else if n > b.win then .fault Cause.misaligned
  else if before o b.hwm then .fault Cause.streamBehind
  else if after (offAdd o n) b.limit then .wait 2
  else if b.auto && o != b.hwm && b.pending.length ≥ 16 then .wait 4
  else .perform (o % b.win)

/-- HWM over the contiguous written prefix: the fuel bounds the entries (07 R206). -/
def advance : Nat → Nat → List (Nat × Nat) → Nat × List (Nat × Nat)
  | 0, h, p => (h, p)
  | n + 1, h, p =>
    match p.find? (fun e => atleast h e.1) with
    | none => (h, p)
    | some e => advance n (if after e.2 h then e.2 else h) (p.erase e)

/-- The list PENDING after a performed write of an auto stream (07 R206). -/
def Scb.autoAdvance (b : Scb) (o n : Nat) : Scb :=
  let p := b.pending ++ [(o, offAdd o n)]
  let (h, p) := advance p.length b.hwm p
  { b with hwm := h, pending := p }

/-- Outcome of a publish or release: done, waiting, a cause, or misuse whose cause depends on the asker. -/
inductive AskRes where
  | done (b : Scb)
  | wait
  | fault (c : Byte)
  | misuse
  deriving DecidableEq, Repr, Inhabited

/-- A publish up to p (07 R206). -/
def Scb.publish (b : Scb) (p : Nat) : AskRes :=
  if b.auto then .misuse
  else if b.state == 3 then .fault Cause.streamPeerGone
  else if b.state != 1 then .fault Cause.streamClosed
  else if !after p b.hwm then .done b
  else if after p b.limit then .wait
  else .done { b with hwm := p }

/-- The tail over the active slots: the REL nearest the old tail; with none it stays (07 R207, R209). -/
def Scb.retail (b : Scb) : Scb :=
  match (List.map (fun r : Nat × Reader => dist r.2.rel b.tail) b.readers).min? with
  | some d => { b with tail := offAdd b.tail d }
  | none => b

/-- A release of reader slot n up to o (07 R207). -/
def Scb.release (b : Scb) (n o : Nat) : AskRes :=
  if b.state == 0 || b.state == 4 then .fault Cause.streamClosed
  else
    match Tab.get b.readers n with
    | none => .misuse
    | some r =>
      if !after o r.rel then .done b
      else if after o b.hwm then
        (if b.state == 2 then .fault Cause.streamClosed else if b.state == 3 then .fault Cause.streamPeerGone else .wait)
      else
        let r := { r with rel := o, pos := if before r.pos o then o else r.pos }
        .done ({ b with readers := Tab.set b.readers n r }).retail

/-- A publish (slot 8) or a release. -/
def Scb.ask (b : Scb) (slot o : Nat) : AskRes := if slot == 8 then b.publish o else b.release slot o

/-- An attach of an inactive slot (07 R209). -/
def Scb.attach (b : Scb) (n agent : Nat) : Option Scb :=
  if Tab.has b.readers n then none else some { b with readers := Tab.set b.readers n ⟨agent, b.tail, b.tail⟩ }

/-- A detach (07 R209). -/
def Scb.detach (b : Scb) (n : Nat) : Scb := ({ b with readers := Tab.erase b.readers n }).retail

/-- The agents that a wait of a kind is for: every reader whose REL lies in the tail's frame, or the producer (07 R215). -/
def Scb.agentsFor (b : Scb) (kind : Nat) : List Nat :=
  if kind == 2 then ((b.readers.filter (fun r => dist r.2.rel (b.tail - b.tail % b.f) < b.f)).map (fun r => r.2.agent)).eraseDups
  else if kind == 5 || b.prod == 0xFF then []
  else [b.prod]

/-- The first of the agents that a wait is for, or none. -/
def Scb.waitsFor (b : Scb) (kind : Nat) : Nat := (b.agentsFor kind).headD 0xFF

/-- The stream address of an offset (07 R197). -/
def streamAddr (six off : Nat) : Nat := 4 * 2 ^ 60 + six * 2 ^ 48 + off

/-! ## Askers: publishes and releases that wait in order of arrival (07 R206, R207) -/

/-- VALUE of a publish or release command (07 R219). -/
def Scb.askValue (b : Scb) (slot : Nat) : Nat := (if slot == 8 then b.hwm else b.tail) % 2 ^ 32

/-- An asker's effect has taken place. -/
def State.askDone (s : State) (k : Nat) (who : Asker) (slot : Nat) : State :=
  match who with
  | .acc g id => s.updAcc g id (fun a => { a with phase := .performed 0, wait := none })
  | .cmd g id => s.endCmd g id 0 ((s.scb k).askValue slot)
  | .port g p => s.updPort g p (fun e => { e with ask := 2, wait := none })
  | .host _ => s

/-- The resident context whose kernel an edge stream port serves. -/
def State.portCtx (s : State) (g : RegionNo) (p : Nat) : CtxNo :=
  let k := s.core g
  ((k.grants.find? (fun q => q.2.kernel == (Tab.getD k.ports p : EdgePort).kernel)).map (fun q => BitVec.ofNat 2 q.1)).getD 0

/-- A port that a stream rule faults stops and reports the fault for its own context (07 R214). -/
def State.failPort (s : State) (g : RegionNo) (p : Nat) (cause : Byte) (addr : Nat) : State :=
  (s.updPort g p (fun e => { e with wait := none, stopped := true, ask := 0, work := none })).portFault g p (s.portCtx g p) cause addr

/-- An asker's request failed; `misuse` is ILLEGAL_INSTRUCTION of a cell and CMD_INVALID of a command. -/
def State.askFail (s : State) (k : Nat) (w : Asker × Nat × Nat) (cause : Option Byte) : State :=
  match w.1 with
  | .acc g id => s.failAcc g id (cause.getD Cause.illegal)
  | .cmd g id => s.failCmd g id (cause.getD Cause.cmdInvalid)
  | .port g p => s.failPort g p (cause.getD Cause.illegal) (streamAddr (k % 4096) w.2.1)
  | .host _ => s

/-- Whether a waiting asker would now take effect or fail. -/
def Scb.askReady (b : Scb) (w : Asker × Nat × Nat) : Bool :=
  match b.ask w.2.2 w.2.1 with
  | .wait => false
  | _ => true

/-- The waiting asker that moves next: publishes take effect in their order of arrival, so only the first of them can (07 R206). -/
def Scb.askNext (b : Scb) : Option (Asker × Nat × Nat) :=
  let first := b.waiting.find? (fun w => w.2.2 == 8)
  b.waiting.find? (fun w => b.askReady w && (w.2.2 != 8 || some w == first))

/-! ## Reads and writes that wait (07 R203 to R205) -/

/-- Whether a change makes a wait start again: a read with HWM, TAIL or STATE, a write with TAIL or STATE, one that waits for PENDING with
an entry that enters or leaves it. -/
def SWait.due (old b : Scb) (w : SWait) : Bool :=
  if w.wr then !w.adm && (old.state != b.state || (if w.kind == 4 then old.pending != b.pending || old.hwm != b.hwm else old.tail != b.tail))
  else old.hwm != b.hwm || old.tail != b.tail || old.state != b.state

/-- What the check of a read or write answers. -/
def Scb.look (b : Scb) (w : SWait) : SRes := if w.wr then b.write w.off w.n else b.read w.off w.n

/-- Writes that a change admits, or whose wait is of another kind now, in order of arrival. -/
def Scb.recheck (old b : Scb) : Scb :=
  { b with waits := b.waits.map (fun w => if w.wr && w.due old b then (match b.look w with
      | .perform _ => { w with adm := true }
      | .wait k => { w with kind := k }
      | .fault _ => w) else w) }

/-- A control block changed at its control point: each read or write whose wait starts again is admitted, goes on waiting, or ends with the
cause that the check finds (07 R203 to R205). -/
def State.putScb (s : State) (k : Nat) (b : Scb) : State :=
  let old := s.scb k
  let hit := b.waits.filterMap (fun w => if w.due old b then (match b.look w with
    | .fault c => some (w, c)
    | _ => none) else none)
  let b := { b with waits := b.waits.filter (fun w => !(hit.any (fun h => h.1 == w))) }
  let s := s.setScb k (Scb.recheck old b)
  hit.foldl (fun s h => match h.1.who with
    | .acc g id => s.failAcc g id h.2
    | .cmd g id => if (s.cmd g id).done then s else s.failCmd g id h.2
    | .port g p => s.failPort g p h.2 (streamAddr (k % 4096) h.1.off)
    | .root => s) s

/-- An asker takes its place in the list. -/
def State.askLater (s : State) (k : Nat) (w : Asker × Nat × Nat) : State :=
  s.setScb k { s.scb k with waiting := (s.scb k).waiting ++ [w] }

/-- One asker tried: its effect, its failure, or its place in the list. -/
def State.askOnce (s : State) (k : Nat) (w : Asker × Nat × Nat) : State :=
  match (s.scb k).ask w.2.2 w.2.1 with
  | .done b => (s.putScb k b).askDone k w.1 w.2.2
  | .fault c => s.askFail k w (some c)
  | .misuse => s.askFail k w none
  | .wait => s.askLater k w

/-- Waiting askers re-checked until none can move. -/
def State.askSettle (k : Nat) : Nat → State → State
  | 0, s => s
  | n + 1, s =>
    let b := s.scb k
    match b.askNext with
    | none => s
    | some w => State.askSettle k n ((s.setScb k { b with waiting := b.waiting.erase w }).askOnce k w)

/-- A control block changed, with everything that waits on it re-checked. -/
def State.changeScb (s : State) (k : Nat) (b : Scb) : State := State.askSettle k (b.waiting.length + 1) (s.putScb k b)

/-- A publish or release asked for: a publish arrives behind those that wait (07 R206). What it changes is seen by every waiter. -/
def State.askStream (s : State) (k : Nat) (who : Asker) (o slot : Nat) : State :=
  let w := (who, o, slot)
  let s := if slot == 8 && (s.scb k).waiting.any (fun e => e.2.2 == 8) then s.askLater k w else s.askOnce k w
  State.askSettle k ((s.scb k).waiting.length + 1) s

/-- A read or write noted as waiting, once, in its order of arrival. -/
def State.noteWait (s : State) (k : Nat) (who : SWho) (off n : Nat) (wr : Bool) (kind : Nat) : State :=
  let b := s.scb k
  let its (w : SWait) : Bool := w.who == who && w.off == off && w.wr == wr
  if b.waits.any its then s.setScb k { b with waits := b.waits.map (fun w => if its w then { w with kind := kind, adm := false } else w) }
  else s.setScb k { b with waits := b.waits ++ [{ who := who, off := off, n := n, wr := wr, kind := kind }] }

/-- An agent's read or write no longer waiting. -/
def State.clearWait (s : State) (k : Nat) (who : SWho) : State :=
  let b := s.scb k
  s.setScb k { b with waits := b.waits.filter (fun w => w.who != who) }

/-- One of an agent's reads or writes no longer waiting. -/
def State.clearOne (s : State) (k : Nat) (who : SWho) (off : Nat) (wr : Bool) : State :=
  let b := s.scb k
  s.setScb k { b with waits := b.waits.filter (fun w => !(w.who == who && w.off == off && w.wr == wr)) }

/-- Whether an earlier write that has been admitted has still to perform and may take the last place of PENDING: waiting writes are re-checked in
order of arrival (07 R205). -/
def Scb.overtaken (b : Scb) (who : SWho) : Bool :=
  b.auto && (match b.waits.find? (fun w => w.wr && w.adm) with
    | some w => w.who != who
    | none => false)

/-- A write at the control point (07 R205): one that waits is looked at again only when what it waits for has changed, and bytes published after
that has admitted it do not stop it. -/
def Scb.tryWrite (b : Scb) (who : SWho) (o n : Nat) : SRes :=
  match b.waits.find? (fun w => w.who == who && w.off == o && w.wr) with
  | none => b.write o n
  | some w =>
    if !w.adm then .wait w.kind
    else match b.write o n with
      | .fault c => if c == Cause.streamBehind then .perform (o % b.win) else .fault c
      | r => r

/-- The place of a ring byte of a bank-backed stream: a bank of the region that opened it (07 R202, 08 R225). While the image of that region is
saved or power-gated these are the banks as they stand, which its restore overwrites with the saved bytes (log 88). -/
def Scb.bankAt (b : Scb) (ring : Nat) : Place := { bank := true, g := b.greg, pa := b.base + ring + b.lbase * 4096 }

/-- The place of a ring byte: a bank, or memory translated at the port's region (07 R202, 17 R335). -/
def State.ringPlace (s : State) (g : RegionNo) (ctxid : Nat) (b : Scb) (ring : Nat) (wr : Bool) : State × Except XStop Place :=
  if b.bk then (s, .ok (b.bankAt ring)) else s.translate g ctxid (b.base + ring) { wr := wr }

/-! ## Stream accesses (07 R197) -/

/-- The stream of an access. -/
def Acc.scb (a : Acc) : Nat := scbKey a.ctxid (bits a.addr 48 59)
/-- Its offset. -/
def Acc.off (a : Acc) : Nat := a.addr % 2 ^ 48

/-! ## The end of streams (07 R213, R222) -/

/-- Closed without END: slots detached, PENDING and HB cleared (07 R222). -/
def Scb.close (b : Scb) : Scb := { b with state := 4, readers := [], pending := [], hb := false }

/-- A host binding ends without action of the regions (07 R213). -/
def Scb.loseHost (b : Scb) : Scb :=
  if !b.hb then b
  else if b.hrole then { b with hb := false, hap := 0, prod := 0xFF, state := if b.state == 1 then 3 else b.state }
  else { b.detach b.hslot with hb := false, hap := 0, hslot := 0 }

/-- Every stream of a context becomes CLOSED (07 R203, R213), as by `sclose`: its host binding ends too (log 87). -/
def State.closeStreams (s : State) (ctxid : Nat) : State :=
  let s := { s with ctxs := Tab.upd s.ctxs ctxid (fun c => { c with shut := true }) }
  (s.streams.filter (fun p => p.1 / 4096 == ctxid)).foldl
    (fun s p => s.changeScb p.1 (s.scb p.1).close) s

/-- The 128 B image of a control block (07 R200). -/
def Scb.image (b : Scb) : List Byte :=
  let w0 := b.prod % 256 * 2 ^ 56 + (if b.hb then b.hap % 256 else 0) * 2 ^ 48 + b.hwm % 2 ^ 48
  let w1 := b.owner % 4096 * 2 ^ 52 + b.state % 8 * 2 ^ 49 + (if b.auto then 2 ^ 48 else 0) + b.tail % 2 ^ 48
  let w2 := b.k % 64 * 2 ^ 58 + (match b.pwait with | some e => 2 ^ 48 + e % 2 ^ 48 | none => 0)
  let base := if b.bk then b.base / 128 % 2 ^ 17 else b.base / 4096 % 2 ^ 45
  let w3 := base * 2 ^ 19 + b.wlog % 16 * 2 ^ 15 + (if b.bk then 64 else 0) + (if b.hb then 32 else 0)
    + (if b.hb && b.hrole then 16 else 0) + (if b.hb && !b.hrole then b.hslot % 8 * 2 else 0)
  let rd := (List.range 8).flatMap (fun i => natToBytes 12 (match Tab.get b.readers i with
    | some r => 2 ^ 95 + r.agent % 256 * 2 ^ 82 + dist r.pos b.tail % 2 ^ 41 * 2 ^ 41 + dist r.rel b.tail % 2 ^ 41
    | none => 0))
  if b.state == 0 then List.replicate 128 0
  else natToBytes 8 w0 ++ natToBytes 8 w1 ++ natToBytes 8 w2 ++ natToBytes 8 w3 ++ rd

end Sys2Proof.Machine
end

