-- ==== Sys2Proof/Machine/Operands.lean ====
section
/-!
DEFINITION. Operands of a slot: the token at a position, the value of a source code, vector and scalar firings; what a firing
writes (01 R25, R33 to R39; 03 R80 to R84, R104; 04 R107 to R110; 05 R160).
-/

namespace Sys2Proof.Machine
open SlotWord

/-! ## Where a token stands -/

/-- The producer end of an edge: a result register's target, or a channel's destination FIFO. -/
inductive Src where
  | res (cell : CellNo) (slot : SlotNo) (second : Bool)
  | chan (n : Nat)
  deriving DecidableEq, Repr, Inhabited

/-- The cell from which route r reaches a cell (01 R17, 03 R84): 0 the cell itself, 1 N, 2 E, 3 S, 4 W. -/
def producerCell (c : CellNo) (r : Nat) : Option CellNo :=
  let x := c.toNat % 16
  let y := c.toNat / 16
  match r with
  | 0 | 6 => some c
  | 1 => if y < 15 then some (c + 16) else none
  | 2 => if x > 0 then some (c - 1) else none
  | 3 => if y > 0 then some (c - 16) else none
  | 4 => if x < 15 then some (c + 1) else none
  | _ => none

/-- Whether a target is route r to a slot's position. -/
def aims (t : BitVec 12) (r : Nat) (n : SlotNo) (p : BitVec 2) : Bool :=
  (route t).toNat == r && (tslot t).toNat == n.toNat && tpos t == p

/-- The token that a cell's slots of one context send to a position over route r. -/
def edgeFrom (c : Cell) (x : CtxNo) (from_ : CellNo) (r : Nat) (n : SlotNo) (p : BitVec 2) : Option (Src × Token) :=
  (c.slots.filter (fun e => e.1 / 64 == x.toNat)).findSome? (fun e =>
    let w := slotFields e.2.word
    let k : SlotNo := BitVec.ofNat 6 e.1
    match e.2.res.t0, e.2.res.t1 with
    | some t, u =>
      if aims w.t0 r n p then some (.res from_ k false, t)
      else match u with
        | some t => if aims w.t1 r n p then some (.res from_ k true, t) else none
        | none => none
    | none, some t => if aims w.t1 r n p then some (.res from_ k true, t) else none
    | none, none => none)

/-- Descriptor fields (01 R41). -/
def dEN (d : W64) : Bool := d.getLsbD 63
def dVC (d : W64) : Nat := (fld d 61 2).toNat
def dFMT (d : W64) : Nat := (fld d 57 4).toNat
def dFILT (d : W64) : Nat := (fld d 53 4).toNat
def dSRC (d : W64) : Nat := (fld d 44 9).toNat
def dDST (d : W64) : Nat := (fld d 35 9).toNat
def dDSLOT (d : W64) : Nat := (fld d 28 7).toNat
def dDOP (d : W64) : BitVec 2 := fld d 26 2
def dCTX (d : W64) : CtxNo := fld d 24 2

/-- Whether a channel belongs to an active configuration (16 R310): that of its own context, or one whose descriptor names another context
of the kernel as its owner (03 R102). -/
def Core.chanActive (k : Core) (n : Nat) : Bool :=
  dEN (Tab.getD k.chans n).desc && k.sched.any (fun c => c.2.loaded.chans.any (fun e => e.1 == n))

/-- The token a channel presents to a position (01 R38, R46). -/
def chanHead (k : Core) (c : CellNo) (x : CtxNo) (n : SlotNo) (p : BitVec 2) : Option (Src × Token) :=
  k.chans.findSome? (fun e =>
    let d := e.2.desc
    if dDST d == c.toNat && dDSLOT d == n.toNat && dDOP d == p && dCTX d == x && k.chanActive e.1 then
      match e.2.dfifo with
      | i :: _ => if i.probe.isNone then some (.chan e.1, i.tok) else none
      | [] => none
    else none)

/-- The token present at a position of a slot, if any (01 R36 to R38). -/
def State.headAt (s : State) (l : SlotLoc) (p : BitVec 2) : Option (Src × Token) :=
  let k := s.core l.g
  (([0, 6, 1, 2, 3, 4] : List Nat).findSome? (fun r =>
    match producerCell l.cell r with
    | some c => edgeFrom (Tab.getD k.cells c.toNat) l.ctx c r l.slot p
    | none => none)).or (chanHead k l.cell l.ctx l.slot p)

/-- Tokens a payload form takes in flits (01 R44). -/
def flitsOf (t : Token) : Nat := if t.form == .vector then 4 else 1

/-- Flits in a destination FIFO. -/
def dflits (q : List DItem) : Nat := (q.map (fun i => if i.probe.isSome then 1 else flitsOf i.tok)).sum

/-- Filter outputs moved into the destination FIFO while they fit: the fuel bounds them. -/
def Chan.settle : Nat → Chan → Chan
  | 0, c => c
  | n + 1, c =>
    match c.fout with
    | [] => c
    | i :: r => if dflits (c.dfifo ++ [i]) ≤ 8 then Chan.settle n { c with dfifo := c.dfifo ++ [i], fout := r } else c

/-- The head of a destination FIFO pulled. -/
def Chan.pull (c : Chan) : Chan := Chan.settle (c.fout.length + 1) { c with dfifo := c.dfifo.drop 1 }

/-- A marker toward both targets of a slot, each with its own pulled bit; route 7 receives none (05 R161, R162). -/
def markerReg (w : SlotWord) (t : Token) (seq : Nat) : ResultReg :=
  { t0 := if route w.t0 == 7 then none else some t, t1 := if route w.t1 == 7 then none else some t, seq := seq }

/-- Whether a result register is empty (01 R35). -/
def ResultReg.empty (r : ResultReg) : Bool := r.t0.isNone && r.t1.isNone

/-- A slot whose register has emptied sends the marker that waits behind its token, and RC follows it (05 R163, 04 R117). -/
def Slot.follow (t : Slot) (seq : Nat) : Slot :=
  match t.after with
  | some m => if t.res.empty then
      { t with res := markerReg (slotFields t.word) m seq, after := none, rc := m.round + 1 } else t
  | none => t

/-- A token pulled from where it stands: its pulled bit is set (01 R36, R37). -/
def State.pull (s : State) (g : RegionNo) (x : CtxNo) (p : Src) : State :=
  let s := s.stamp g
  match p with
  | .res c n second => s.updSlot ⟨g, c, x, n⟩ (fun t =>
      Slot.follow { t with res := if second then { t.res with t1 := none } else { t.res with t0 := none } } s.tick)
  | .chan n => s.updChan g n Chan.pull

/-! ## Operand values -/

/-- A source's value: payload, whether it is a register or a FORM 1 token, and the token if it is one. -/
structure Opnd where
  pay : Nat := 0
  vec : Bool := false
  reg : Bool := false
  tok : Option Token := none
  deriving DecidableEq, Repr, Inhabited

/-- The widened immediate (03 R82): `imm_val`; INT64 takes 64 bits, every other type at most 32. -/
def immVal (ty : Nat) (imm : BitVec 16) : Nat :=
  match ty with
  | 0 => (imm.signExtend 32).toNat
  | 14 => (imm.signExtend 64).toNat
  | 6 => imm.toNat * 65536
  | 4 | 5 | 9 | 10 | 13 => imm.toNat % 256
  | _ => imm.toNat

/-- Physical register of a context's register n (01 R24). -/
def Grant.phys (gr : Grant) (n : Nat) : Nat := gr.mrf.getD n n

/-- Whether a register is the destination of a firing or access that has not written it (04 R110). -/
def State.regBusy (s : State) (l : SlotLoc) (d : DestReg) : Bool :=
  (s.cell l.g l.cell).flights.any (fun f => f.ctx == l.ctx && (match f.dest with | some (e, _) => e == d | none => false))
    || (s.core l.g).accs.any (fun a => !a.done && match a.port with
      | .slot c x _ => c == l.cell && x == l.ctx && (a.dest == d || (match a.op with | .fill v => d == ⟨2, v⟩ | _ => false))
      | _ => false)

/-- Whether every firing of the context started earlier has written (04 R110). -/
def State.ctxWritten (s : State) (l : SlotLoc) : Bool :=
  !((s.cell l.g l.cell).flights.any (fun f => f.ctx == l.ctx))
    && !((s.core l.g).accs.any (fun a => !a.done && a.cell? == some l.cell && a.ctx == l.ctx))

/-- The main register number that a source code names (03 R80, R81). -/
def vreg (c : BitVec 5) (xh : Bool) : Nat := c.toNat - 16 + (if xh then 16 else 0)

/-- A register's value. -/
def State.readReg (s : State) (l : SlotLoc) (d : DestReg) : Line :=
  let c := s.cell l.g l.cell
  if d.dk == 1 then Tab.getD c.o (4 * l.ctx.toNat + d.n) else Tab.getD c.v ((s.grant l.g l.ctx).phys d.n)

/-- A register written. -/
def Cell.writeReg (c : Cell) (gr : Grant) (x : CtxNo) (d : DestReg) (v : Line) : Cell :=
  if d.dk == 1 then { c with o := Tab.set c.o (4 * x.toNat + d.n) v }
  else if d.dk == 2 then { c with v := Tab.set c.v (gr.phys d.n) v } else c

/-- A source that is no token (03 R80, R82): none while the register's value is not yet readable (01 R26, 04 R110). -/
def State.plainSrc (s : State) (l : SlotLoc) (ty : Nat) (w : SlotWord) (c : BitVec 5) : Option Opnd :=
  let n := c.toNat
  if n == 4 then
    (if s.ctxWritten l then some { pay := (Tab.getD (s.cell l.g l.cell).lr l.ctx.toNat).toNat, vec := true, reg := true } else none)
  else if 5 ≤ n && n ≤ 8 then
    let d : DestReg := ⟨1, n - 5⟩
    if s.regBusy l d then none else some { pay := (s.readReg l d).toNat, vec := true, reg := true }
  else if n == 9 then some { pay := immVal ty w.ix }
  else if n ≥ 16 then
    let d : DestReg := ⟨2, vreg c w.xh⟩
    if s.regBusy l d then none else some { pay := (s.readReg l d).toNat, vec := true, reg := true }
  else some {}

/-- A source code's value: a token's, when one that is no marker is present (03 R80). -/
def State.source (s : State) (l : SlotLoc) (ty : Nat) (w : SlotWord) (c : BitVec 5) : Option Opnd :=
  if c.toNat < 4 then
    match s.headAt l (BitVec.ofNat 2 c.toNat) with
    | some (_, t) => if t.kind == .marker then none else some { pay := t.pay.toNat, vec := t.form == .vector, tok := some t }
    | none => none
  else s.plainSrc l ty w c

/-- All sources, or none while the firing must wait. -/
def State.sources (s : State) (l : SlotLoc) (ty : Nat) (w : SlotWord) : List (BitVec 5) → Option (List Opnd)
  | [] => some []
  | c :: cs => match s.source l ty w c, s.sources l ty w cs with
    | some o, some os => some (o :: os)
    | _, _ => none

/-- The destination of a slot (03 R81). -/
def destOf (w : SlotWord) : DestReg := if w.dk == 0 then {} else ⟨w.dk.toNat, if w.dk == 1 then w.dreg.toNat % 4 else w.dreg.toNat⟩

/-- Whether the cell takes firings of the slot's context now: the context is not frozen, its cells are not stopped, the region
runs (06 R193, 16 R307, R312, R320). -/
def State.cellRuns (s : State) (l : SlotLoc) : Bool :=
  let r := s.reg l.g
  !(Tab.getD r.core.frozen l.ctx.toNat) && !(Tab.getD r.core.stopped l.ctx.toNat) && r.cellRuns l.cell l.ctx

/-- Whether the cell's issue cycle is a slot's: of the ready slots it became so earliest, and on a tie has the lowest context, then the lowest
number. An `isect` takes no issue cycle (01 R27, 05 R154; log 80). -/
def State.isFirst (s : State) (l : SlotLoc) : Bool :=
  let r := (s.cell l.g l.cell).ready
  let n := 64 * l.ctx.toNat + l.slot.toNat
  let mine := (Tab.get r n).getD s.tick
  fld (s.slotAt l).word 55 9 == 0x186 || r.all (fun e => mine < e.2 || (mine == e.2 && n ≤ e.1))

/-- Whether the slot may start a firing: it runs, the issue cycle is its own, its register is empty, no marker waits behind it, no earlier firing of it is
in flight or withheld, its destination register is not still to be written (01 R27, R35, R36; 04 R109, R110; log 8). -/
def State.slotFree (s : State) (l : SlotLoc) (w : SlotWord) : Bool :=
  let t := s.slotAt l
  s.cellRuns l && s.isFirst l && t.res.empty && t.after.isNone && !t.blocked
    && !((s.cell l.g l.cell).flights.any (fun f => f.ctx == l.ctx && f.slot == l.slot))
    && !(w.dk != 0 && s.regBusy l (destOf w))

/-- A firing has taken the issue cycle: its slot becomes ready anew (01 R27; log 80). -/
def State.issued (s : State) (l : SlotLoc) : State :=
  s.updCell l.g l.cell (fun c => { c with ready := Tab.erase c.ready (slotKey l.ctx l.slot) })

/-- A firing pulls its positions, lowest first. -/
def State.pullAll (s : State) (l : SlotLoc) (ps : List (BitVec 2)) : State :=
  ps.foldl (fun s p => match s.headAt l p with | some (c, _) => s.pull l.g l.ctx c | none => s) (s.issued l)

/-- P of a result: the AND over token operands (01 R34). -/
def andP (os : List Opnd) : Bool := os.all (fun o => match o.tok with | some t => t.p | none => true)

/-- ROUND of a result: that of the token at the lowest position pulled, else RC (05 R160). -/
def State.roundOf (s : State) (l : SlotLoc) (ps : List (BitVec 2)) : Byte :=
  match ps.head? with
  | some p => match s.headAt l p with | some (_, t) => t.round | none => (s.slotAt l).rc
  | none => (s.slotAt l).rc

/-- What a firing hands to its effect. -/
structure FireIn where
  l   : SlotLoc := default
  w   : SlotWord := default
  ty  : Nat := 0
  ops : List Opnd := []
  vec : Bool := false
  deriving DecidableEq, Repr, Inhabited

/-- The value a firing forms: payload, form, tag. -/
structure FireOut where
  pay  : Nat := 0
  form : TokForm := .scalar
  tag  : BitVec 16 := 0
  deriving DecidableEq, Repr, Inhabited

/-- Operand i of a firing. -/
def FireIn.op (f : FireIn) (i : Nat) : Opnd := f.ops.getD i {}

/-- The location of the slot that fires, if the agent is one. -/
def State.slotAgent (s : State) : Option SlotLoc := match s.cur with
  | .slot l => some l
  | _ => none

/-- A firing ends with ILLEGAL_INSTRUCTION or another cause: its operands are pulled, which ends the range of an `own` slot, its result is
withheld, the cell reports (03 R83; 05 R141, R156). -/
def State.fireFault (s : State) (l : SlotLoc) (ps : List (BitVec 2)) (cause : Byte) (addr : Nat) (wr : Bool) : State :=
  ((s.pullAll l ps).updSlot l (fun t => { t with blocked := true, pend := t.pend - 1, own := none })).cellFault l cause addr wr

/-- The data token of a result (03 R104). -/
def FireOut.token (o : FireOut) (x : CtxNo) (round : Byte) (p : Bool) : Token :=
  { kind := .data, form := o.form, ctx := x, round := round, p := p, tag := o.tag, pay := BitVec.ofNat 1024 o.pay }

/-- The value `lr` and a destination register take (01 R25): all 128 B for a vector, lane 0 and zeros otherwise. -/
def FireOut.line (o : FireOut) : Line := if o.form == .vector then BitVec.ofNat 1024 o.pay else BitVec.ofNat 1024 (o.pay % 2 ^ 32)

/-- The flight of a firing with a data result (03 R104); a stateful slot sends nothing and keeps its token (05 R163). -/
def State.launchFlight (s : State) (l : SlotLoc) (w : SlotWord) (o : FireOut) (tok : Token) : State :=
  let fl : Flight :=
    { seq := s.tick, ctx := l.ctx, slot := l.slot, lr := some o.line,
      dest := if w.dk == 0 then none else some (destOf w, o.line),
      t0 := if w.m || route w.t0 == 7 then none else some tok, t1 := if w.m || route w.t1 == 7 then none else some tok }
  let s := (s.stamp l.g).updCell l.g l.cell (fun c => { c with flights := c.flights ++ [fl] })
  s.updSlot l (fun t => { t with pend := t.pend - 1,
                                 last := if w.m then some tok else t.last, lastP := if w.m then t.lastP && tok.p else t.lastP })

/-- Kinds and forms a source accepts (04 R107): data tokens of the forms listed; on INT64 only vectors. -/
def accepts (ty : Nat) (forms : List TokForm) (o : Opnd) : Bool :=
  match o.tok with
  | none => true
  | some t => t.kind == .data && forms.contains t.form && (ty != 14 || t.form == .vector)

/-- Whether a slot that reads no token position has an activation to answer (04 R111). -/
def State.mayFire (s : State) (l : SlotLoc) (ps : List (BitVec 2)) : Bool := !ps.isEmpty || (s.slotAt l).pend > 0

/-- A standard firing (03 R104, 01 R36): held while an operand is absent, else the operands are pulled and the effect forms one
value, or the firing ends with ILLEGAL_INSTRUCTION. -/
def State.fire (s : State) (op : BitVec 9) (w : SlotWord) (forms : List TokForm) (vector : Bool)
    (effect : FireIn → State → Option (FireOut × State)) : Out :=
  match s.slotAgent with
  | none => .fault .wrongAgent
  | some l =>
    let codes := [w.sa, w.sb] ++ (if SlotRules.third op then [w.fn] else [])
    let ps := SlotRules.positions op w
    let ty := w.ty.toNat
    if !s.slotFree l w || !s.mayFire l ps then .next s
    else match s.sources l ty w codes with
      | none => .next s
      | some os =>
        let sparse := os.any (fun o => match o.tok with | some t => t.form == .sparse | none => false)
        let vec := vector || ty == 14 || os.any (fun o => o.vec)
        let round := s.roundOf l ps
        if !os.all (accepts ty forms) || (sparse && vec) then .next (s.fireFault l ps Cause.illegal 0 false)
        else match effect ⟨l, w, ty, os, vec⟩ s with
          | none => .next (s.fireFault l ps Cause.illegal 0 false)
          | some (o, s1) =>
            let tag := (os.findSome? (fun o => match o.tok with
              | some t => if t.form == .sparse then some t.tag else none
              | none => none))
            let o := match tag with
              | some g => { o with form := .sparse, tag := g }
              | none => o
            .next ((s1.pullAll l ps).launchFlight l w o (o.token l.ctx round (andP os)))

/-! ## Elements (02 R51, 04 R108) -/

/-- The n elements of width w of a source in a firing; a single element is broadcast. -/
def Opnd.elems (o : Opnd) (w n : Nat) : List Nat :=
  if o.vec then (Num.elems w 1024 o.pay).take n else List.replicate n (o.pay % 2 ^ w)

/-- A scalar payload: signed formats sign-extended to 32 bits (02 R51). -/
def scalarPay (ty v : Nat) : Nat :=
  let w := Num.width ty
  if Num.isSigned ty then Num.iwrap 32 (Num.toSigned w (v % 2 ^ w)) else v % 2 ^ w

/-- A value of elements of type ty: a vector of them or the first alone. -/
def FireIn.out (f : FireIn) (ty : Nat) (es : List Nat) : FireOut :=
  if f.vec then { pay := Num.join (Num.width ty) es, form := .vector } else { pay := scalarPay ty (es.headD 0) }

/-- Number of elements of width w in a firing (04 R108). -/
def FireIn.count (f : FireIn) (w : Nat) : Nat := if f.vec then 1024 / w else 1

/-- The elements of operand i at the slot's width. -/
def FireIn.es (f : FireIn) (i : Nat) : List Nat := (f.op i).elems (Num.width f.ty) (f.count (Num.width f.ty))

/-- An element-wise effect of one, two or three sources that draws nothing. -/
def FireIn.map1 (f : FireIn) (h : Nat → Nat) : FireOut := f.out f.ty ((f.es 0).map h)
def FireIn.map2 (f : FireIn) (h : Nat → Nat → Nat) : FireOut := f.out f.ty (List.zipWith h (f.es 0) (f.es 1))
def FireIn.map3 (f : FireIn) (h : Nat → Nat → Nat → Nat) : FireOut :=
  f.out f.ty (List.zipWith (fun a p => h a p.1 p.2) (f.es 0) (List.zip (f.es 1) (f.es 2)))

/-- Values rounded to a type in the slot's mode, in element order (02 R57, R59). -/
def FireIn.rounded (f : FireIn) (s : State) (ty : Nat) (vs : List Num.Val) : FireOut × State :=
  let md := f.w.rnd.toNat
  let (g, es) := Num.drawMap (md == 2) (fun g v => Num.roundFmt ty v md f.w.sat g) (s.gen f.l.g f.l.cell) vs
  (f.out ty es, if md == 2 then s.setGen f.l.g f.l.cell g else s)

/-- The exact values of operand i. -/
def FireIn.vals (f : FireIn) (i : Nat) : List Num.Val := (f.es i).map (Num.value f.ty)

end Sys2Proof.Machine
end

