-- ==== Sys2Proof/Machine/CellInt.lean ====
section
/-!
DEFINITION. Integer, address and lane instructions of cells (04 R119 to R124).
-/

namespace Sys2Proof.Machine
open Sys2Proof.Num

/-- Forms of the element-wise instructions and of the lane instructions (04 R107). -/
def elementForms : List TokForm := [.scalar, .vector, .sparse]
def laneForms : List TokForm := [.scalar, .vector]

/-! ## One element (04 R119; 02 R52) -/

/-- An element as an integer of a type. -/
def iv (ty a : Nat) : Int := intOf ty a

def opImulh (ty a b : Nat) : Nat := iwrap (width ty) ((iv ty a * iv ty b) / (2 ^ width ty : Int))
def opIdiv (ty a b : Nat) : Nat :=
  let w := width ty
  if b % 2 ^ w == 0 then 2 ^ w - 1 else iwrap w ((iv ty a).tdiv (iv ty b))
def opIrem (ty a b : Nat) : Nat :=
  let w := width ty
  if b % 2 ^ w == 0 then a % 2 ^ w else iwrap w ((iv ty a).tmod (iv ty b))
def opIabs (ty a : Nat) : Nat := iwrap (width ty) (if iv ty a < 0 then -iv ty a else iv ty a)
def opSar (ty a b : Nat) : Nat :=
  let w := width ty
  iwrap w (toSigned w (a % 2 ^ w) / (2 ^ (b % w) : Int))
def opPopc (ty a : Nat) : Nat := (List.range (width ty)).countP (fun i => a.testBit i)
def opClz (ty a : Nat) : Nat :=
  let w := width ty
  if a % 2 ^ w == 0 then w else w - 1 - Nat.log2 (a % 2 ^ w)
/-- `agen` (04 R122). -/
def opAgen (ty fn a b : Nat) : Nat :=
  let w := width ty
  let r := iwrap w (iv ty a + (if ty == 1 then (b : Int) else iv ty b) * 2 ^ (fn % 8))
  if fn.testBit 3 then r % 2 ^ 24 else r

/-! ## Instructions -/

/-- `iadd` (04 R119). -/
def execIadd (w : SlotWord) (s : State) : Out :=
  s.fire 0x040 w elementForms false (fun f s => some (f.map2 (fun a b => iwrap (width f.ty) (iv f.ty a + iv f.ty b)), s))
/-- `isub` (04 R119). -/
def execIsub (w : SlotWord) (s : State) : Out :=
  s.fire 0x041 w elementForms false (fun f s => some (f.map2 (fun a b => iwrap (width f.ty) (iv f.ty a - iv f.ty b)), s))
/-- `imul` (04 R119). -/
def execImul (w : SlotWord) (s : State) : Out :=
  s.fire 0x042 w elementForms false (fun f s => some (f.map2 (fun a b => iwrap (width f.ty) (iv f.ty a * iv f.ty b)), s))
/-- `imulh` (04 R119). -/
def execImulh (w : SlotWord) (s : State) : Out :=
  s.fire 0x043 w elementForms false (fun f s => some (f.map2 (opImulh f.ty), s))
/-- `imad` (04 R120). -/
def execImad (w : SlotWord) (s : State) : Out :=
  s.fire 0x044 w elementForms false
    (fun f s => some (f.map3 (fun a b c => iwrap (width f.ty) (iv f.ty a * iv f.ty b + iv f.ty c)), s))
/-- `idiv` (04 R119, 02 R52). -/
def execIdiv (w : SlotWord) (s : State) : Out :=
  s.fire 0x045 w elementForms false (fun f s => some (f.map2 (opIdiv f.ty), s))
/-- `irem` (04 R119, 02 R52). -/
def execIrem (w : SlotWord) (s : State) : Out :=
  s.fire 0x046 w elementForms false (fun f s => some (f.map2 (opIrem f.ty), s))
/-- `ineg` (04 R119). -/
def execIneg (w : SlotWord) (s : State) : Out :=
  s.fire 0x047 w elementForms false (fun f s => some (f.map1 (fun a => iwrap (width f.ty) (-(a : Int))), s))
/-- `iabs` (04 R119). -/
def execIabs (w : SlotWord) (s : State) : Out :=
  s.fire 0x048 w elementForms false (fun f s => some (f.map1 (opIabs f.ty), s))
/-- `imin` (04 R119). -/
def execImin (w : SlotWord) (s : State) : Out :=
  s.fire 0x049 w elementForms false (fun f s => some (f.map2 (fun a b => if iv f.ty b < iv f.ty a then b else a), s))
/-- `imax` (04 R119). -/
def execImax (w : SlotWord) (s : State) : Out :=
  s.fire 0x04A w elementForms false (fun f s => some (f.map2 (fun a b => if iv f.ty a < iv f.ty b then b else a), s))
/-- `and` (04 R119). -/
def execCellAnd (w : SlotWord) (s : State) : Out :=
  s.fire 0x04B w elementForms false (fun f s => some (f.map2 (fun a b => a &&& b), s))
/-- `or` (04 R119). -/
def execCellOr (w : SlotWord) (s : State) : Out :=
  s.fire 0x04C w elementForms false (fun f s => some (f.map2 (fun a b => a ||| b), s))
/-- `xor` (04 R119). -/
def execCellXor (w : SlotWord) (s : State) : Out :=
  s.fire 0x04D w elementForms false (fun f s => some (f.map2 (fun a b => a ^^^ b), s))
/-- `not` (04 R119). -/
def execCellNot (w : SlotWord) (s : State) : Out :=
  s.fire 0x04E w elementForms false (fun f s => some (f.map1 (fun a => 2 ^ width f.ty - 1 - a), s))
/-- `shl` (04 R119). -/
def execShl (w : SlotWord) (s : State) : Out :=
  s.fire 0x04F w elementForms false (fun f s => some (f.map2 (fun a b => (a <<< (b % width f.ty)) % 2 ^ width f.ty), s))
/-- `shr` (04 R119). -/
def execShr (w : SlotWord) (s : State) : Out :=
  s.fire 0x050 w elementForms false (fun f s => some (f.map2 (fun a b => a >>> (b % width f.ty)), s))
/-- `sar` (04 R119). -/
def execSar (w : SlotWord) (s : State) : Out :=
  s.fire 0x051 w elementForms false (fun f s => some (f.map2 (opSar f.ty), s))
/-- `popc` (04 R119). -/
def execPopc (w : SlotWord) (s : State) : Out :=
  s.fire 0x052 w elementForms false (fun f s => some (f.map1 (opPopc f.ty), s))
/-- `clz` (04 R119). -/
def execClz (w : SlotWord) (s : State) : Out :=
  s.fire 0x053 w elementForms false (fun f s => some (f.map1 (opClz f.ty), s))
/-- `icmp` (04 R121). -/
def execIcmp (w : SlotWord) (s : State) : Out :=
  s.fire 0x054 w elementForms false
    (fun f s => some (f.map2 (fun a b => condMask (width f.ty) (intCond f.w.fn.toNat (iv f.ty a) (iv f.ty b))), s))
/-- `sel` (04 R120). -/
def execSel (w : SlotWord) (s : State) : Out :=
  s.fire 0x055 w elementForms false (fun f s => some (f.map3 (fun a b c => if a != 0 then b else c), s))
/-- `agen` (04 R122). -/
def execAgen (w : SlotWord) (s : State) : Out :=
  s.fire 0x056 w elementForms false (fun f s => some (f.map2 (opAgen f.ty f.w.fn.toNat), s))

/-! ## Lane instructions (04 R123, R124): every firing is a vector firing -/

/-- Lane 0 of an operand as UINT32. -/
def lane0 (o : Opnd) : Nat := o.pay % 2 ^ 32

/-- `bcast` (04 R123). -/
def execBcast (w : SlotWord) (s : State) : Out :=
  s.fire 0x057 w laneForms true (fun f s =>
    let n := f.count (width f.ty)
    let j := if f.w.sb == 10 then 0 else lane0 (f.op 1) % n
    some (f.out f.ty (List.replicate n ((f.es 0).getD j 0)), s))
/-- `shuf` (04 R124). -/
def execShuf (w : SlotWord) (s : State) : Out :=
  s.fire 0x058 w laneForms true (fun f s =>
    let n := f.count (width f.ty)
    some (f.out f.ty ((f.es 1).map (fun i => (f.es 0).getD (i % n) 0)), s))
/-- `rot` (04 R124). -/
def execRot (w : SlotWord) (s : State) : Out :=
  s.fire 0x059 w laneForms true (fun f s =>
    let n := f.count (width f.ty)
    let r := lane0 (f.op 1)
    some (f.out f.ty ((List.range n).map (fun k => (f.es 0).getD ((k + r) % n) 0)), s))
/-- The format of half or twice the width and the same sign (04 R124). -/
def halfType (ty : Nat) : Nat := match ty with | 0 => 2 | 1 => 3 | 2 => 4 | _ => 5
def doubleType (ty : Nat) : Nat := match ty with | 2 => 0 | 3 => 1 | 4 => 2 | _ => 3
/-- `pack` (04 R124). -/
def execPack (w : SlotWord) (s : State) : Out :=
  s.fire 0x05A w laneForms true (fun f s =>
    some (f.out (halfType f.ty) ((f.es 0 ++ f.es 1).map (fun a => cvt f.ty (halfType f.ty) a 0 f.w.sat 0)), s))
/-- `unpack` (04 R124). -/
def execUnpack (w : SlotWord) (s : State) : Out :=
  s.fire 0x05B w laneForms true (fun f s =>
    let n := f.count (width f.ty)
    let es := (f.es 0).drop (if f.w.fn.getLsbD 0 then n / 2 else 0) |>.take (n / 2)
    some (f.out (doubleType f.ty) (es.map (fun a => cvt f.ty (doubleType f.ty) a 0 false 0)), s))

end Sys2Proof.Machine
end

