-- ==== Sys2Proof/Machine/CellFp.lean ====
section
/-!
DEFINITION. Floating-point, conversion, quantising and reducing instructions of cells (04 R125 to R132).
-/

namespace Sys2Proof.Machine
open Sys2Proof.Num

/-- A rounding instruction of two sources. -/
def FireIn.round2 (f : FireIn) (s : State) (h : Val → Val → Val) : FireOut × State :=
  f.rounded s f.ty (List.zipWith h (f.vals 0) (f.vals 1))
/-- A rounding instruction of one source. -/
def FireIn.round1 (f : FireIn) (s : State) (h : Val → Val) : FireOut × State := f.rounded s f.ty ((f.vals 0).map h)

/-- `fadd` (04 R125). -/
def execFadd (w : SlotWord) (s : State) : Out := s.fire 0x0C0 w elementForms false (fun f s => some (f.round2 s addV))
/-- `fsub` (04 R125). -/
def execFsub (w : SlotWord) (s : State) : Out :=
  s.fire 0x0C1 w elementForms false (fun f s => some (f.round2 s (fun a b => addV a (negV b))))
/-- `fmul` (04 R125). -/
def execFmul (w : SlotWord) (s : State) : Out := s.fire 0x0C2 w elementForms false (fun f s => some (f.round2 s mulV))
/-- `ffma`: no rounding of the product (04 R125). -/
def execFfma (w : SlotWord) (s : State) : Out :=
  s.fire 0x0C3 w elementForms false (fun f s =>
    some (f.rounded s f.ty (List.zipWith addV (List.zipWith mulV (f.vals 0) (f.vals 1)) (f.vals 2))))
/-- `fmin` (04 R126). -/
def execFmin (w : SlotWord) (s : State) : Out :=
  s.fire 0x0C4 w elementForms false (fun f s => some (f.map2 (fun a b => fminmax f.ty a b false), s))
/-- `fmax` (04 R126). -/
def execFmax (w : SlotWord) (s : State) : Out :=
  s.fire 0x0C5 w elementForms false (fun f s => some (f.map2 (fun a b => fminmax f.ty a b true), s))
/-- A sign operation; a NaN becomes canonical (04 R126). -/
def signOp (ty a : Nat) (h : Nat → Nat) : Nat := if isNan (value ty a) then canonNan ty else h a
/-- `fabs` (04 R126). -/
def execFabs (w : SlotWord) (s : State) : Out :=
  s.fire 0x0C6 w elementForms false (fun f s => some (f.map1 (fun a => signOp f.ty a (fun a => a % 2 ^ (width f.ty - 1))), s))
/-- `fneg` (04 R126). -/
def execFneg (w : SlotWord) (s : State) : Out :=
  s.fire 0x0C7 w elementForms false (fun f s => some (f.map1 (fun a => signOp f.ty a (fun a => a ^^^ 2 ^ (width f.ty - 1))), s))
/-- `frcp` (04 R127). -/
def execFrcp (w : SlotWord) (s : State) : Out := s.fire 0x0C8 w elementForms false (fun f s => some (f.round1 s recip))
/-- `frsq` (04 R127). -/
def execFrsq (w : SlotWord) (s : State) : Out :=
  s.fire 0x0C9 w elementForms false (fun f s => some (f.round1 s (fun v => match v with
    | .fin true 0 _ _ => .inf true
    | v => recipSqrt v)))
/-- `fexp2` (04 R127). -/
def execFexp2 (w : SlotWord) (s : State) : Out := s.fire 0x0CA w elementForms false (fun f s => some (f.round1 s exp2))
/-- `flog2` (04 R127). -/
def execFlog2 (w : SlotWord) (s : State) : Out := s.fire 0x0CB w elementForms false (fun f s => some (f.round1 s log2V))
/-- `fcmp` (04 R128). -/
def execFcmp (w : SlotWord) (s : State) : Out :=
  s.fire 0x0CC w elementForms false (fun f s =>
    some (f.map2 (fun a b => condMask (width f.ty) (floatCond f.w.fn.toNat (value f.ty a) (value f.ty b))), s))
/-- `cvt`: SRCT is FN, the destination is TYPE (04 R129). -/
def execCvt (w : SlotWord) (s : State) : Out :=
  s.fire 0x0CD w elementForms false (fun f s =>
    let src := f.w.fn.toNat
    let md := f.w.rnd.toNat
    let n := f.count (max (width src) (width f.ty))
    let draw := cvtDraws src f.ty md
    let (g, es) := drawMap draw (fun g a => cvt src f.ty a md f.w.sat g) (s.gen f.l.g f.l.cell) ((f.op 0).elems (width src) n)
    some (f.out f.ty es, if draw then s.setGen f.l.g f.l.cell g else s))
/-- `scale`: 2^n of lane 0 of B, which for a scalar is its payload in every TYPE (04 R130; log 66). -/
def execScale (w : SlotWord) (s : State) : Out :=
  s.fire 0x0CF w elementForms false (fun f s =>
    let b := lane0 (f.op 1)
    let m : Val := if f.w.fn.getLsbD 0 then value 13 (b % 256) else .fin false 1 (intOf 0 b) false
    some (f.round1 s (fun a => match m with
      | .nan => .nan
      | _ => mulV a m)))
/-- A codebook register's 16 entries. -/
def State.codebook (s : State) (g : RegionNo) (c : CellNo) (n : Nat) : List Nat :=
  elems 16 256 ((Tab.get (s.reg g).cb (4 * c.toNat + n)).getD (s.boot.cbs.getD n 0)).toNat
/-- `quant`: blocks of a CB4 vector formed or expanded (04 R131). -/
def execQuant (w : SlotWord) (s : State) : Out :=
  s.fire 0x0CE w laneForms true (fun f s =>
    let cb := s.codebook f.l.g f.l.cell (f.w.fn.toNat % 4)
    let j := f.w.fn.toNat / 4
    let nb := if f.ty == 6 then 1 else 2
    if f.w.mode.getLsbD 2 then
      if !(f.op 0).vec then none
      else
        let bytes := (lineBytes (BitVec.ofNat 1024 (f.op 0).pay)).map BitVec.toNat
        let es := (List.range nb).flatMap (fun i =>
          let (ix, sc) := cb4Read (bytes.drop (18 * (j + i)))
          ix.map (fun k => roundFmt f.ty (cb4Value cb k sc) 0 false 0))
        some (f.out f.ty es, s)
    else if f.w.sb != 10 && !(f.op 1).vec then none
    else
      let old := if f.w.sb == 10 then List.replicate 128 0 else (lineBytes (BitVec.ofNat 1024 (f.op 1).pay)).map BitVec.toNat
      let vs := f.vals 0
      let new := (List.range nb).flatMap (fun i => cb4Bytes (cb4Quant ((vs.drop (32 * i)).take 32) cb))
      let out := (old.take (18 * j) ++ new ++ old.drop (18 * (j + nb))).take 126
      some ({ pay := join 8 out, form := .vector }, s))
/-- A reduction over the lanes: a scalar result whatever the firing (04 R132). -/
def FireIn.reduce (f : FireIn) (op : Nat) : FireOut :=
  let r := if (f.op 0).vec then ctree (redOp f.ty op) 0 (elems (width f.ty) 1024 (f.op 0).pay)
    else
      let a := (f.op 0).pay % 2 ^ width f.ty
      if isFloat f.ty && isNan (value f.ty a) then canonNan f.ty else a
  { pay := scalarPay f.ty r }
/-- `vsum` (04 R132). -/
def execVsum (w : SlotWord) (s : State) : Out := s.fire 0x0D0 w laneForms false (fun f s => some (f.reduce 0, s))
/-- `vmax` (04 R132). -/
def execVmax (w : SlotWord) (s : State) : Out := s.fire 0x0D1 w laneForms false (fun f s => some (f.reduce 1, s))

end Sys2Proof.Machine
end

