-- ==== Sys2Proof/Machine/CellCtl.lean ====
section
/-!
DEFINITION. Control and fan-out instructions of cells, markers, and the writing of results (04 R112 to R118; 05 R161 to R163;
01 R25, R35).
-/

namespace Sys2Proof.Machine
open SlotWord

/-- A token a moving instruction accepts as its data source: kinds 0, 3 and 4, every form (04 R107). -/
def movable (o : Opnd) : Bool := match o.tok with
  | some t => t.kind == .data || t.kind == .control || t.kind == .completion
  | none => true

/-- The token that carries a moved source on: kind, FORM, P and TAG of a token are kept; a register forms a vector and an
immediate a scalar data token (04 R112). -/
def movedToken (o : Opnd) (x : CtxNo) (round : Byte) : Token :=
  match o.tok with
  | some t => { t with ctx := x, round := round }
  | none => { kind := .data, form := if o.vec then .vector else .scalar, ctx := x, round := round, p := true, tag := 0,
              pay := BitVec.ofNat 1024 o.pay }

/-- The value `lr` and a destination register take from a token: lane 0 holds the low bits of one that is no vector (01 R25; 04 R112, R113;
log 57). -/
def tokLine (t : Token) : Line := if t.form == .vector then t.pay else BitVec.ofNat 1024 (t.pay.toNat % 2 ^ 32)

/-- The flight of a firing that sends one token to either target or both. -/
def State.moveFlight (s : State) (l : SlotLoc) (w : SlotWord) (t : Token) (to0 to1 : Bool) : State :=
  let fl : Flight :=
    { seq := s.tick, ctx := l.ctx, slot := l.slot, lr := some (tokLine t),
      dest := if w.dk == 0 then none else some (destOf w, tokLine t),
      t0 := if to0 && route w.t0 != 7 then some t else none, t1 := if to1 && route w.t1 != 7 then some t else none }
  ((s.stamp l.g).updCell l.g l.cell (fun c => { c with flights := c.flights ++ [fl] })).updSlot l (fun t => { t with pend := t.pend - 1 })

/-- `cpy` and `sink`: the source moved on unchanged (04 R112, R113). -/
def State.fireCopy (s : State) (op : BitVec 9) (w : SlotWord) : Out :=
  match s.slotAgent with
  | none => .fault .wrongAgent
  | some l =>
    let ps := SlotRules.positions op w
    if !s.slotFree l w || !s.mayFire l ps then .next s
    else match s.source l 0 w w.sa with
      | none => .next s
      | some o =>
        if !movable o then .next (s.fireFault l ps Cause.illegal 0 false)
        else .next ((s.pullAll l ps).moveFlight l w (movedToken o l.ctx (s.roundOf l ps)) true true)

/-- `cpy` (04 R112). -/
def execCpy (w : SlotWord) (s : State) : Out := s.fireCopy 0x001 w
/-- `sink` (04 R113). -/
def execSink (w : SlotWord) (s : State) : Out := s.fireCopy 0x002 w

/-- The condition token of `gate` and `steer`: kinds 0 and 3, FORM 0 (04 R107). -/
def condOk (t : Token) : Bool := (t.kind == .data || t.kind == .control) && t.form == .scalar

/-- `gate` and `steer`: data and condition pulled together; P of the result is that of the data alone (04 R114). -/
def State.fireChoice (s : State) (op : BitVec 9) (w : SlotWord) (send : Bool → Bool × Bool) : Out :=
  match s.slotAgent with
  | none => .fault .wrongAgent
  | some l =>
    let ps := SlotRules.positions op w
    if !s.slotFree l w then .next s
    else match s.source l 0 w w.sa, s.headAt l 3 with
      | some o, some (_, k) =>
        if k.kind == .marker then .next s
        else
          let d := movedToken o l.ctx (s.roundOf l ps)
          let kout := w.fn.getLsbD 0
          if !movable o || !condOk k || (kout && d.form != .scalar) then .next (s.fireFault l ps Cause.illegal 0 false)
          else
            let d := if kout then { d with kind := .control } else d
            let c := fld k.pay 0 32 != 0
            .next ((s.pullAll l ps).moveFlight l w d (send c).1 (send c).2)
      | _, _ => .next s

/-- `gate`: both targets when the condition is not zero, else none (04 R114). -/
def execGate (w : SlotWord) (s : State) : Out := s.fireChoice 0x003 w (fun c => (c, c))
/-- `steer`: target 0 when the condition is not zero, else target 1 (04 R114). -/
def execSteer (w : SlotWord) (s : State) : Out := s.fireChoice 0x004 w (fun c => (c, !c))

/-- `merge`: the token at A if a token that is no marker stands there, else the one at B (04 R115, 05 R162). -/
def execMerge (w : SlotWord) (s : State) : Out :=
  match s.slotAgent with
  | none => .fault .wrongAgent
  | some l =>
    let take (p : BitVec 2) (o : Opnd) : Out :=
      if !movable o then .next (s.fireFault l [p] Cause.illegal 0 false)
      else .next ((s.pullAll l [p]).moveFlight l w (movedToken o l.ctx (s.roundOf l [p])) true true)
    if !s.slotFree l w then .next s
    else match s.source l 0 w w.sa with
      | some o => take (BitVec.ofNat 2 w.sa.toNat) o
      | none => match s.source l 0 w w.sb with
        | some o => take (BitVec.ofNat 2 w.sb.toNat) o
        | none => .next s

/-- `const`: the source emitted once at each activation (04 R116). -/
def execConst (w : SlotWord) (s : State) : Out :=
  s.fire 0x006 w [] false (fun f s => some (if (f.op 0).vec then { pay := (f.op 0).pay, form := .vector } else f.map1 id, s))

/-! ## Sequences (04 R117) -/

/-- The step of an `iter` (04 R106, R117). -/
def iterStep (w : SlotWord) : Int := if w.fn == 0 then 1 else w.fn.toInt

/-- One value of a sequence emitted; after the last a marker follows when EMARK is set, with P = 1 (log 85). -/
def State.iterEmit (s : State) (l : SlotLoc) (w : SlotWord) (q : IterSeq) : State :=
  let ty := w.ty.toNat
  let v := Num.iwrap (Num.width ty) ((q.start : Int) + q.i * iterStep w)
  let o : FireOut := { pay := scalarPay ty v }
  let s := s.launchFlight l w o (o.token l.ctx q.round q.p)
  let last := q.count == some (q.i + 1)
  let t := s.slotAt l
  let mark : Token := { kind := .marker, form := .scalar, ctx := l.ctx, round := t.rc, p := true, tag := 0, pay := 0 }
  s.updSlot l (fun t => { t with iter := if last then none else some { q with i := q.i + 1 },
                                 after := if last && w.mode.getLsbD 2 then some mark else t.after })

/-- `iter`: a sequence starts with its first value, or with its marker alone when the count is 0 (04 R117). -/
def execIter (w : SlotWord) (s : State) : Out :=
  match s.slotAgent with
  | none => .fault .wrongAgent
  | some l =>
    let ps := SlotRules.positions 0x007 w
    let ty := w.ty.toNat
    if !s.slotFree l w || !s.mayFire l ps || (s.slotAt l).iter.isSome then .next s
    else match s.sources l ty w [w.sa, w.sb] with
      | none => .next s
      | some os =>
        if !os.all (accepts ty [.scalar]) then .next (s.fireFault l ps Cause.illegal 0 false)
        else
          let wd := Num.width ty
          let unb := w.mode.getLsbD 1
          let n := (os.getD 0 {}).pay % 2 ^ wd
          let q : IterSeq := { count := if unb then none else some n, start := (os.getD 1 {}).pay % 2 ^ wd, p := andP os,
                               round := s.roundOf l ps }
          let s := s.pullAll l ps
          if !unb && n == 0 then
            let rc := (s.slotAt l).rc
            let mark : Token := { kind := .marker, form := .scalar, ctx := l.ctx, round := rc, p := true, tag := 0, pay := 0 }
            .next (s.updSlot l (fun t => if w.mode.getLsbD 2
              then { t with pend := t.pend - 1, res := markerReg w mark s.tick, rc := rc + 1 }
              else { t with pend := t.pend - 1 }))
          else .next (s.iterEmit l w q)

/-- A further value of a sequence in progress (04 R117). -/
def execIterNextValue (l : SlotLoc) (s : State) : Out :=
  let t := s.slotAt l
  let w := slotFields t.word
  match t.iter with
  | some q => if s.slotFree l w then .next ((s.issued l).iterEmit l w q) else .next s
  | none => .next s

/-- `tid`: one coordinate of an admitted thread token (04 R118). -/
def execTid (w : SlotWord) (s : State) : Out :=
  match s.slotAgent with
  | none => .fault .wrongAgent
  | some l =>
    match s.slotFree l w, (s.slotAt l).tids with
    | true, cs :: rest =>
      let o : FireOut := { pay := (cs.getD (w.fn.toNat % 4) 0).toNat }
      let s := (s.issued l).launchFlight l w o (o.token l.ctx (s.slotAt l).rc true)
      .next (s.updSlot l (fun t => { t with tids := rest }))
    | _, _ => .next s

/-! ## Markers (05 R161 to R163) -/

/-- `mark`: a round ends with a marker toward both targets (05 R161), whose P is 1 (log 85). -/
def execMark (w : SlotWord) (s : State) : Out :=
  match s.slotAgent with
  | none => .fault .wrongAgent
  | some l =>
    let ps := SlotRules.positions 0x1C0 w
    if !s.slotFree l w || !s.mayFire l ps then .next s
    else match s.source l 0 w w.sa with
      | none => .next s
      | some o =>
        if !movable o then .next (s.fireFault l ps Cause.illegal 0 false)
        else
          let rc := (s.slotAt l).rc
          let mark : Token := { kind := .marker, form := .scalar, ctx := l.ctx, round := rc, p := true, tag := 0, pay := 0 }
          .next ((s.pullAll l ps).updSlot l (fun t =>
            { t with pend := t.pend - 1, res := markerReg w mark s.tick, rc := rc + 1 }))

/-- The marker at the lowest of the positions when every one of them holds a marker. -/
def State.allMarkers (s : State) (l : SlotLoc) (ps : List (BitVec 2)) : Option Token :=
  if !ps.isEmpty && ps.all (fun p => match s.headAt l p with | some (_, t) => t.kind == .marker | none => false) then
    match ps.head? with
    | some p => (s.headAt l p).map (fun h => h.2)
    | none => none
  else none

/-- Whether a slot has a memory firing whose results are not delivered (05 R162). -/
def State.slotPending (s : State) (l : SlotLoc) : Bool :=
  (s.core l.g).accs.any (fun a => a.port == .slot l.cell l.ctx l.slot)

/-- Every position of a slot that is not stateful holds a marker: all are pulled, one marker is sent, RC follows it. `sink` sends
nothing, `own` ends its range; `isect` decides by its own procedure (05 R154, R162; log 69). P and payload are those of the marker at the lowest
position (log 85). -/
def execMarkerJoin (l : SlotLoc) (s : State) : Out :=
  let t := s.slotAt l
  let w := slotFields t.word
  let op := fld t.word 55 9
  let ps := SlotRules.positions op w
  if w.m || op == 0x186 || t.iter.isSome || !s.slotFree l w || s.slotPending l then .next s
  else match s.allMarkers l ps with
    | none => .next s
    | some m =>
      let m := { m with ctx := l.ctx }
      .next ((s.pullAll l ps).updSlot l (fun t =>
        { t with res := if op == 0x002 then {} else markerReg w m s.tick, rc := m.round + 1,
                 own := none, held := none }))

/-- The release firing of a stateful slot: its last result, then the marker (05 R163). -/
def execStatefulRelease (l : SlotLoc) (s : State) : Out :=
  let t := s.slotAt l
  let w := slotFields t.word
  let op := fld t.word 55 9
  let ps := SlotRules.positions op w
  if !w.m || !s.slotFree l w || !s.ctxWritten l then .next s
  else match s.allMarkers l ps with
    | none => .next s
    | some m =>
      let m := { m with ctx := l.ctx }
      let s1 := s.pullAll l ps
      let s2 := s1.updCell l.g l.cell (fun c => c.writeReg (s.grant l.g l.ctx) l.ctx (destOf w) 0)
      .next (s2.updSlot l (fun t => match t.last with
        | some d =>
          let d := { d with round := m.round, p := t.lastP }
          Slot.follow { t with res := markerReg w d s.tick, after := some m, last := none, lastP := true, held := none } s.tick
        | none => { t with res := markerReg w m s.tick, rc := m.round + 1, lastP := true, held := none }))

/-! ## Results (01 R25, R35; 04 R110) -/

/-- A firing writes: `lr` unless a later-started firing has written it, its destination register, its result register (04 R109,
R110). -/
def execResultWrite (g : RegionNo) (cell : CellNo) (seq : Nat) (s : State) : Out :=
  let c := s.cell g cell
  match c.flights.find? (fun f => f.seq == seq) with
  | none => .next s
  | some f =>
    let gr := s.grant g f.ctx
    let later : Bool := Tab.getD c.lrSeq f.ctx.toNat > f.seq
    let s := (s.stamp g).updCell g cell (fun c =>
      let c := { c with flights := c.flights.filter (fun h => h.seq != seq) }
      let c := match f.lr with
        | some v => if later then c
            else { c with lr := Tab.set c.lr f.ctx.toNat v, lrSeq := Tab.set c.lrSeq f.ctx.toNat f.seq }
        | none => c
      match f.dest with
      | some (d, v) => c.writeReg gr f.ctx d v
      | none => c)
    .next (s.updSlot ⟨g, cell, f.ctx, f.slot⟩ (fun t =>
      if (slotFields t.word).m then t else Slot.follow { t with res := ⟨f.t0, f.t1, s.tick⟩ } s.tick))

end Sys2Proof.Machine
end

