-- ==== Sys2Proof/Machine/CellMem.lean ====
section
/-!
DEFINITION. Starting the memory instructions of cells: addresses, data, the limits of the memory port; owners, barriers and the
sparse intersection (05 R135 to R146, R154 to R159).
-/

namespace Sys2Proof.Machine
open SlotWord Sys2Proof.Num

/-! ## Addresses and data (05 R138, R139, R142) -/

/-- A token at an address or data source: kinds 0, 3 and 4, FORM 0 or 1 (log 23). -/
def memToken (o : Opnd) : Bool := match o.tok with
  | some t => movable o && (t.form == .scalar || t.form == .vector)
  | none => true

/-- Source A as a bank address: an immediate is zero-extended (05 R138). -/
def addrA (w : SlotWord) (o : Opnd) : Nat := if w.sa == 9 then w.ix.toNat else lane0 o

/-- Source B as an offset, read as INT32; an immediate is sign-extended (05 R138). -/
def offB (w : SlotWord) (o : Opnd) : Int :=
  if w.sb == 9 then w.ix.toInt else if w.sb == 10 then 0 else toSigned 32 (lane0 o)

/-- A bank address with its offset, 32 bits kept (05 R138). -/
def bankAddr (w : SlotWord) (a b : Opnd) (off : Bool) : Nat := iwrap 32 ((addrA w a : Int) + if off then offB w b else 0)

/-- A 64-bit address from lanes 0 and 1 of a register or a FORM 1 token (05 R139). -/
def wideAddr (w : SlotWord) (a b : Opnd) (off : Bool) : Option Nat :=
  if a.vec then some (iwrap 64 (((a.pay % 2 ^ 64 : Nat) : Int) + if off then offB w b else 0)) else none

/-- The class 0xC address of a bank address (17 R322). -/
def bankVa (a : Nat) : Nat := 0xC * 2 ^ 60 + a

/-- The bytes a store moves: LINE = 0 takes a FORM 0 token, an immediate or `zero`, LINE = 1 a register or a FORM 1 token (05
R142). -/
def storeData (line : Bool) (n : Nat) (o : Opnd) : Option (List Byte) :=
  if o.vec == line then some (natToBytes n (o.pay % 2 ^ (8 * n))) else none

/-- Why an access ends before it starts: cause and address (05 R141). -/
abbrev MemErr := Byte × Nat

/-- A bank access ready at its place (05 R138). -/
def bankAcc (g : RegionNo) (gr : Grant) (a : Acc) (off n : Nat) : Except MemErr Acc :=
  match bankPlace g gr off n with
  | .error c => .error (c, bankVa off)
  | .ok pl => .ok { a with addr := bankVa off, n := n, phase := .ready pl }

/-- An access of a 64-bit address of class 0x0 or 0xC (05 R139, R142). -/
def wideAcc (g : RegionNo) (gr : Grant) (a : Acc) (va n : Nat) : Except MemErr Acc :=
  match classFault va with
  | some c => .error (c, va)
  | none =>
    if clsOf va == 0xC then
      match bankPlace g gr (va % 2 ^ 24) n with
      | .error c => .error (c, va)
      | .ok pl => .ok { a with addr := va, n := n, phase := .ready pl }
    else if va % n != 0 then .error (Cause.misaligned, va)
    else .ok { a with addr := va, n := n }

/-- The class of a stream address (05 R143). -/
def streamCls (va : Nat) : Option Byte :=
  if clsOf va == 4 then none else if clsOf va == 8 then some Cause.drawerAccess else some Cause.addrClass

/-- An access of a stream (05 R139, R143). -/
def streamAcc (a : Acc) (va n : Nat) : Except MemErr Acc :=
  match streamCls va with
  | some c => .error (c, va)
  | none => if va % 2 ^ 48 % n != 0 then .error (Cause.misaligned, va) else .ok { a with addr := va, n := n, phase := .entering }

/-! ## Starting (05 R135, R136) -/

/-- Whether an access is that of an `mfire`, which is no memory operation (05 R135). -/
def Acc.steps (a : Acc) : Bool := match a.op with
  | .moving .. => true
  | _ => false

/-- At most four firings of a slot in flight and sixteen accesses of a cell not performed (05 R136). -/
def State.memRoom (s : State) (l : SlotLoc) : Bool :=
  let k := s.core l.g
  (k.accs.filter (fun a => a.port == .slot l.cell l.ctx l.slot)).length < 4
    && (k.accs.filter (fun a => a.cell? == some l.cell && a.pending && !a.steps)).length < 16

/-- A memory firing starts an access: header of its tokens, generation, place in the issue queue (05 R135, 09 R230). -/
def State.startAcc (s : State) (l : SlotLoc) (w : SlotWord) (a : Acc) (round : Byte) (p : Bool) : State :=
  let gr := s.grant l.g l.ctx
  let a := { a with id := s.tick, seq := s.tick, port := .slot l.cell l.ctx l.slot, ctxid := gr.ctxid, gen := s.genOf gr.ctxid,
                    p := p, round := round, ty := w.ty.toNat, dest := destOf w }
  let s := s.updSlot l (fun t => { t with pend := t.pend - 1, held := none })
  match a.phase with
  | .ready _ => s.joinAcc l.g a
  | _ => if clsOf a.addr == 4 then s.joinAcc l.g { a with phase := .entering } else s.startOrdinary l.g a

/-- A firing that starts an access: held while an operand is absent or the port has no room, else the operands are pulled and the access
starts, or the firing ends with a cause (05 R136, R141). -/
def State.fireAcc (s : State) (op : BitVec 9) (w : SlotWord) (wr : Bool) (room : SlotLoc → Bool)
    (build : SlotLoc → Grant → Opnd → Opnd → Except MemErr Acc) : Out :=
  match s.slotAgent with
  | none => .fault .wrongAgent
  | some l =>
    let ps := SlotRules.positions op w
    if !s.slotFree l w || !s.mayFire l ps || !room l then .next s
    else match s.source l w.ty.toNat w w.sa, s.source l w.ty.toNat w w.sb with
      | some a, some b =>
        if !memToken a || !memToken b then .next (s.fireFault l ps Cause.illegal 0 wr)
        else match build l (s.grant l.g l.ctx) a b with
          | .error (c, va) => .next (s.fireFault l ps c va wr)
          | .ok acc => .next ((s.pullAll l ps).startAcc l w { acc with wr := wr } (s.roundOf l ps) (andP [a, b]))
      | _, _ => .next s

/-- A memory firing: the limits of R136 hold it (05 R135, R136). -/
def State.fireMem (s : State) (op : BitVec 9) (w : SlotWord) (wr : Bool)
    (build : SlotLoc → Grant → Opnd → Opnd → Except MemErr Acc) : Out := s.fireAcc op w wr s.memRoom build

/-- LINE (05 R134). -/
def lineOf? (w : SlotWord) : Bool := w.fn.getLsbD 0
/-- Bytes a plain access moves (05 R142). -/
def accBytes (w : SlotWord) : Nat := if lineOf? w then 128 else width w.ty.toNat / 8

/-- `ld` (05 R142). -/
def execLd (w : SlotWord) (s : State) : Out :=
  s.fireMem 0x140 w false (fun l gr a b =>
    bankAcc l.g gr { op := .read, line := lineOf? w } (bankAddr w a b true) (accBytes w))
/-- `st` (05 R142). -/
def execSt (w : SlotWord) (s : State) : Out :=
  s.fireMem 0x141 w true (fun l gr a b =>
    match storeData (lineOf? w) (accBytes w) b with
    | none => .error (Cause.illegal, bankVa (bankAddr w a b false))
    | some d => bankAcc l.g gr { op := .write d, line := lineOf? w } (bankAddr w a b false) (accBytes w))
/-- `ldg` (05 R142). -/
def execLdg (w : SlotWord) (s : State) : Out :=
  s.fireMem 0x142 w false (fun l gr a b =>
    match wideAddr w a b true with
    | none => .error (Cause.illegal, 0)
    | some va => wideAcc l.g gr { op := .read, line := lineOf? w } va (accBytes w))
/-- `stg` (05 R142). -/
def execStg (w : SlotWord) (s : State) : Out :=
  s.fireMem 0x143 w true (fun l gr a b =>
    match wideAddr w a b false, storeData (lineOf? w) (accBytes w) b with
    | some va, some d => wideAcc l.g gr { op := .write d, line := lineOf? w } va (accBytes w)
    | va, _ => .error (Cause.illegal, va.getD 0))
/-- `sld` (05 R143). -/
def execSld (w : SlotWord) (s : State) : Out :=
  s.fireMem 0x144 w false (fun _ _ a b =>
    match wideAddr w a b true with
    | none => .error (Cause.illegal, 0)
    | some va => streamAcc { op := .read, line := lineOf? w } va (accBytes w))
/-- `sst` (05 R143). -/
def execSst (w : SlotWord) (s : State) : Out :=
  s.fireMem 0x145 w true (fun _ _ a b =>
    match wideAddr w a b false, storeData (lineOf? w) (accBytes w) b with
    | some va, some d => streamAcc { op := .write d, line := lineOf? w } va (accBytes w)
    | va, _ => .error (Cause.illegal, va.getD 0))
/-- A publish or a release touches no byte of the ring. -/
def controlAcc (op : AccOp) (va : Nat) : Except MemErr Acc :=
  match streamCls va with
  | some c => .error (c, va)
  | none => .ok { op := op, addr := va, phase := .entering }
/-- `srel`: a release of reader slot RDR (05 R144). -/
def execSrel (w : SlotWord) (s : State) : Out :=
  s.fireMem 0x146 w true (fun _ _ a b =>
    match wideAddr w a b false with
    | none => .error (Cause.illegal, 0)
    | some va => controlAcc (.release (w.fn.toNat % 8)) va)
/-- `spub`: a publish (05 R144). -/
def execSpub (w : SlotWord) (s : State) : Out :=
  s.fireMem 0x147 w true (fun _ _ a b =>
    match wideAddr w a b false with
    | none => .error (Cause.illegal, 0)
    | some va => controlAcc .publish va)

/-! ## Spill and fill (05 R145, R146) -/

/-- The spill line of a register of a context: the bank offset counted from the base of the lease (05 R145). -/
def spillLine (cell : CellNo) (gr : Grant) (n : Nat) : Nat := cell.toNat * 65536 + ((gr.lease - 1 - gr.krel) * 32 + n) * 128

/-- An access to a spill line. -/
def spillAcc (l : SlotLoc) (gr : Grant) (op : AccOp) (n : Nat) : Acc :=
  let off := spillLine l.cell gr n
  { op := op, addr := bankVa off, n := 128, line := true,
    phase := .ready { bank := true, g := l.g, pa := off + gr.base * 4096 } }

/-- `spill`: the register's value read in the start cycle (05 R146). -/
def execSpill (w : SlotWord) (s : State) : Out :=
  s.fireMem 0x148 w true (fun l gr a _ => .ok (spillAcc l gr (.spill (vreg w.sa w.xh) (BitVec.ofNat 1024 a.pay)) (vreg w.sa w.xh)))
/-- `fill`: the destination of its register for 04 R110 (05 R146); it is held while the register is still to be written, as every
source and destination is. -/
def execFill (w : SlotWord) (s : State) : Out :=
  s.fireMem 0x149 w false (fun l gr _ _ => .ok (spillAcc l gr (.fill (vreg w.sa w.xh)) (vreg w.sa w.xh)))

/-! ## Atomics, owners, barriers (05 R155 to R159) -/

/-- `aupd` (05 R155). -/
def execAupd (w : SlotWord) (s : State) : Out :=
  s.fireMem 0x1C1 w true (fun l gr a b =>
    let opn := w.fn.toNat % 8
    let acc : Acc := { op := .update opn w.ty.toNat (lane0 b) }
    if w.fn.getLsbD 3 then
      match wideAddr w a b false with
      | none => .error (Cause.illegal, 0)
      | some va => wideAcc l.g gr acc va 4
    else bankAcc l.g gr acc (bankAddr w a b false) 4)

/-- `barr`: an arrival (05 R158). -/
def execBarr (w : SlotWord) (s : State) : Out :=
  s.fireMem 0x1C3 w true (fun l gr a b => bankAcc l.g gr { op := .arrive } (bankAddr w a b false) 16)

/-- `bwait`: the ticket is a FORM 0 token of 05 R158 (05 R159). -/
def execBwait (w : SlotWord) (s : State) : Out :=
  s.fireMem 0x1C4 w false (fun l gr a _ =>
    let t := lane0 a
    if a.vec || bits t 24 27 != 0 then .error (Cause.illegal, bankVa (t % 2 ^ 24))
    else bankAcc l.g gr { op := .await (bits t 28 31) } (t % 2 ^ 24) 16)

/-- `own`: the slot owns a range of its own cell; the previous range ends (05 R156). -/
def execOwn (w : SlotWord) (s : State) : Out :=
  match s.slotAgent with
  | none => .fault .wrongAgent
  | some l =>
    let ps := SlotRules.positions 0x1C2 w
    if !s.slotFree l w || !s.mayFire l ps then .next s
    else match s.source l 0 w w.sa, s.source l 0 w w.sb with
      | some a, some b =>
        let off := addrA w a
        let len := if w.sb == 9 then w.ix.toNat else lane0 b
        let bad (c : Byte) : Out := .next (s.fireFault l ps c (bankVa off) false)
        if !memToken a || !memToken b then bad Cause.illegal
        else if bits off 16 23 != l.cell.toNat || len % 4 != 0 || len < 4 || len > 4096 then bad Cause.illegal
        else if off % 4 != 0 then bad Cause.misaligned
        else match bankPlace l.g (s.grant l.g l.ctx) off 4 with
          | .error c => bad c
          | .ok _ =>
            let round := s.roundOf l ps
            .next ((s.pullAll l ps).updSlot l (fun t =>
              { t with pend := t.pend - 1, own := some (off, len), ownP := andP [a, b], ownRound := round }))
      | _, _ => .next s

/-! ## Sparse intersection (05 R154) -/

/-- A data token of FORM 3 or a marker. -/
def sparseOk (t : Token) : Bool := t.kind == .marker || (t.kind == .data && t.form == .sparse)

/-- `isect`: one decision (05 R154); a fault pulls the offending positions alone (log 68). -/
def execIsect (w : SlotWord) (s : State) : Out :=
  match s.slotAgent with
  | none => .fault .wrongAgent
  | some l =>
    let pa : BitVec 2 := BitVec.ofNat 2 w.sa.toNat
    let pb : BitVec 2 := BitVec.ofNat 2 w.sb.toNat
    match s.slotFree l w, s.headAt l pa, s.headAt l pb with
    | true, some (_, a), some (_, b) =>
      let ma := a.kind == .marker
      let mb := b.kind == .marker
      if !sparseOk a || !sparseOk b then
        .next (s.fireFault l ((if sparseOk a then [] else [pa]) ++ (if sparseOk b then [] else [pb])) Cause.illegal 0 false)
      else if ma && mb then .next ((s.pullAll l [pa, pb]).updSlot l (fun t => { t with res := markerReg w a s.tick }))
      else if ma || (!mb && b.tag < a.tag) then .next (s.pullAll l [pb])
      else if mb || a.tag < b.tag then .next (s.pullAll l [pa])
      else
        let fl : Flight :=
          { seq := s.tick, ctx := l.ctx, slot := l.slot, lr := some (tokLine a), dest := none,
            t0 := if route w.t0 == 7 then none else some a, t1 := if route w.t1 == 7 then none else some b }
        .next ((s.pullAll l [pa, pb]).updCell l.g l.cell (fun c => { c with flights := c.flights ++ [fl] }))
    | _, _, _ => .next s

end Sys2Proof.Machine
end

