-- ==== Sys2Proof/Machine/CellMat.lean ====
section
/-!
DEFINITION. The matrix node: tiles, swaps, steps, drains and their holds (05 R147 to R153; 14 R294; log 6).
-/

namespace Sys2Proof.Machine
open SlotWord Sys2Proof.Num

/-! ## Tiles in the bank (05 R147) -/

/-- Logical k of one step without SP (05 R151). -/
def tileK (fmt : Nat) : Nat := if fmt == 7 then 16 else 32

/-- End of the n-th BC8 token of a list of bytes that starts at byte p; none when more bytes are needed (02 R67). -/
def bc8End : Nat → List Nat → Nat → Option Nat
  | 0, _, p => some p
  | n + 1, bs, p =>
    match bs with
    | a :: b :: _ =>
      let k := bc8Length (a + 256 * b)
      if bs.length < k then none else bc8End n (bs.drop k) (p + k)
    | _ => none

/-- n BC8 tokens back to back, decoded. -/
def bc8Tokens : Nat → List Nat → List (List Nat)
  | 0, _ => []
  | n + 1, bs =>
    let k := bc8Length (bs.getD 0 0 + 256 * bs.getD 1 0)
    bc8Decode (bs.take k) :: bc8Tokens n (bs.drop k)

/-- Bytes of a tile; a BC8 tile takes at most this many (05 R147). -/
def tileBytes (fmt : Nat) (sp : Bool) : Nat := if fmt == 12 then 288 else if fmt == 11 then 864 else if sp then 1024 else 512

/-- Whether the bytes read so far hold a whole tile (05 R148). -/
def tileWhole (fmt : Nat) (sp : Bool) (bs : List Byte) : Bool :=
  if fmt == 11 then (bc8End 16 (bs.map BitVec.toNat) 0).isSome else bs.length ≥ tileBytes fmt sp

/-- The address of `mload`, `msmeta` and `mfire`: own bank, aligned, inside the lease (05 R147). -/
def ownBank (l : SlotLoc) (gr : Grant) (off align n : Nat) : Except Byte Place :=
  if bits off 16 23 != l.cell.toNat then .error Cause.illegal
  else if off % align != 0 then .error Cause.misaligned
  else match bankPlace l.g gr off (min n 128) with
    | .error c => .error c
    | .ok pl => if inLease gr off n then .ok pl else .error Cause.pagePermission

/-- What `tl` takes from the bytes of a stationary tile: BC8 tokens become the E4M3 layout, 32 rows k of 16 columns (05 R148). -/
def stationary (fmt : Nat) (bs : List Byte) : List Byte :=
  if fmt == 11 then
    let cols := bc8Tokens 16 (bs.map BitVec.toNat)
    (List.range 512).map (fun i => BitVec.ofNat 8 ((cols.getD (i % 16) []).getD (i / 16) 0))
  else bs.take (tileBytes fmt false)

/-! ## One step (05 R151) -/

/-- The little-endian element of a list of bytes. -/
def elemAt (bs : List Nat) (i w : Nat) : Nat := if w == 16 then bs.getD (2 * i) 0 + 256 * bs.getD (2 * i + 1) 0 else bs.getD i 0

/-- The rows of a moving tile: their values by logical k and their scale (05 R147). -/
def movingRows (fmt : Nat) (sp : Bool) (cb : List Nat) (bs : List Nat) : List (List Val × Val) :=
  let one : Val := .fin false 1 0 false
  let kk := tileK fmt * (if sp then 2 else 1)
  if fmt == 12 then
    (List.range 16).map (fun m =>
      let (ix, sc) := cb4Read ((bs.drop (18 * m)).take 18)
      (ix.map (fun i => value 8 (cb.getD i 0)), value 7 sc))
  else if fmt == 11 then (bc8Tokens 16 bs).map (fun t => (t.map (value 9), one))
  else (List.range 16).map (fun m => ((List.range kk).map (fun k => value fmt (elemAt bs (m * kk + k) (width fmt))), one))

/-- The columns of `ta`: their values by row of the stored tile and their scale (05 R147). -/
def tileCols (t : Tile) (cb : List Nat) : List (List Val × Val) :=
  let one : Val := .fin false 1 0 false
  let bs := t.bytes.map BitVec.toNat
  let f := if t.fmt == 11 then 9 else t.fmt
  if t.fmt == 12 then
    (List.range 16).map (fun n =>
      let (ix, sc) := cb4Read ((bs.drop (18 * n)).take 18)
      (ix.map (fun i => value 8 (cb.getD i 0)), value 7 sc))
  else (List.range 16).map (fun n => ((List.range (tileK t.fmt)).map (fun k => value f (elemAt bs (16 * k + n) (width f))), one))

/-- The logical k that stored row k of column n stands for: k itself, or with SP what the metadata names (05 R147, R149). -/
def logicalK (t : Tile) (sp : Bool) (n k : Nat) : Nat :=
  if !sp then k
  else
    let col := leNat ((t.mdata.drop (8 * n)).take 8)
    4 * (k / 2) + (col >>> (4 * (k / 2) + 2 * (k % 2))) % 4

/-- One step into an accumulator's 256 elements (05 R151, 02 R72). -/
def matrixStep (acc : List Nat) (mv : List (List Val × Val)) (ta : Tile) (cbt : List Nat) (sp : Bool) (bitmap : Nat) : List Nat :=
  let cols := tileCols ta cbt
  let kk := tileK ta.fmt
  let grp := kk * (if sp then 2 else 1) / 16
  (List.range 256).map (fun i =>
    let row := mv.getD (i / 16) ([], .nan)
    let col := cols.getD (i % 16) ([], .nan)
    let ps := (List.range kk).filterMap (fun k =>
      let lk := logicalK ta sp (i % 16) k
      if bitmap.testBit (lk / grp) then some (row.1.getD lk .nan, col.1.getD k .nan) else none)
    mstep (acc.getD i 0) ps row.2 col.2)

/-- An accumulator's elements in row-major order. -/
def Cell.accVals (c : Cell) (n : Nat) : List Nat := (List.range 256).map (fun i => (Tab.getD c.acc (256 * n + i) : W32).toNat)

/-- An accumulator's elements replaced; an element of +0 is not listed. -/
def Cell.setAcc (c : Cell) (n : Nat) (vs : List Nat) : Cell :=
  let rest := c.acc.filter (fun e => e.1 / 256 != n)
  let new : Tab W32 := (List.range 256).filterMap (fun i =>
    if vs.getD i 0 == 0 then none else some (256 * n + i, BitVec.ofNat 32 (vs.getD i 0)))
  { c with acc := rest.filter (fun e => e.1 / 256 < n) ++ new ++ rest.filter (fun e => n < e.1 / 256) }

/-! ## Holds (05 R148 to R153; 14 R294) -/

/-- The chain walker holds the node of a cell (14 R294). -/
def Core.chainHolds (k : Core) (c : CellNo) : Bool := k.cmds.any (fun e => match e.2.nodes with
  | some n => c.toNat ≤ n
  | none => false)

/-- A matrix firing held by the walker: a wait of kind 11 (14 R294, 17 R339). -/
def State.holdMatrix (s : State) (l : SlotLoc) : State :=
  s.updSlot l (fun t => { t with held := t.held.or (some
    { kind := 11, obj := (cellIdent l.g l.cell).toNat + 65536 * l.slot.toNat, since := s.tick }) })

/-- An unperformed access of the cell, of any context, of a kind (05 R148, R150 to R153). -/
def Core.nodeBusy (k : Core) (c : CellNo) (f : AccOp → Bool) : Bool := k.accs.any (fun a => a.cell? == some c && a.pending && f a.op)

/-- An access that writes `tl` or an `mfire`: a swap waits for it (05 R150). -/
def AccOp.holdsSwap : AccOp → Bool
  | .tile | .metadata | .moving .. => true
  | _ => false

/-- An `mfire` into one of some accumulators (05 R152, R153). -/
def AccOp.into (ns : List Nat) : AccOp → Bool
  | .moving n .. => ns.contains n
  | _ => false

/-- A matrix firing of a trigger that acts on the node alone: its token carries a value (05 R150, R152). -/
def State.fireTrigger (s : State) (op : BitVec 9) (w : SlotWord) (held : SlotLoc → Bool)
    (effect : SlotLoc → Option (Nat × (Cell → Cell))) : Out :=
  match s.slotAgent with
  | none => .fault .wrongAgent
  | some l =>
    let ps := SlotRules.positions op w
    if !s.slotFree l w || !s.mayFire l ps then .next s
    else match s.source l 0 w w.sa with
      | none => .next s
      | some a =>
        if (s.core l.g).chainHolds l.cell then .next (s.holdMatrix l)
        else if held l then .next s
        else if !movable a then .next (s.fireFault l ps Cause.illegal 0 false)
        else match effect l with
          | none => .next (s.fireFault l ps Cause.illegal 0 false)
          | some (v, f) =>
            let o : FireOut := { pay := v }
            let round := s.roundOf l ps
            let s := ((s.pullAll l ps).updCell l.g l.cell f).launchFlight l w o (o.token l.ctx round (andP [a]))
            .next (s.updSlot l (fun t => { t with held := none }))

/-- `mswap`: `ta` and `tl` exchanged; the token carries the format of `ta` (05 R150). -/
def execMswap (w : SlotWord) (s : State) : Out :=
  s.fireTrigger 0x181 w (fun l => (s.core l.g).nodeBusy l.cell AccOp.holdsSwap) (fun l =>
    let c := s.cell l.g l.cell
    if c.tl.owner != some l.ctx then none
    else some (c.tl.fmt % 16, fun c => { c with ta := c.tl, tl := c.ta }))

/-- `mzero`: an accumulator set to +0 once every `mfire` into it has written (05 R152). -/
def execMzero (w : SlotWord) (s : State) : Out :=
  s.fireTrigger 0x184 w (fun l => (s.core l.g).nodeBusy l.cell (AccOp.into [w.fn.toNat % 4])) (fun _ =>
    let n := w.fn.toNat % 4
    some (n, fun c => c.setAcc n []))

/-- A firing of the matrix node that starts an access: the walker may hold it (14 R294). -/
def State.fireNode (s : State) (op : BitVec 9) (w : SlotWord) (wr : Bool) (room : SlotLoc → Bool)
    (build : SlotLoc → Grant → Opnd → Opnd → Except MemErr Acc) : Out :=
  match s.slotAgent with
  | some l =>
    if (s.core l.g).chainHolds l.cell then
      (if (s.source l 0 w w.sa).isSome && s.mayFire l (SlotRules.positions op w) then .next (s.holdMatrix l) else .next s)
    else s.fireAcc op w wr room build
  | none => .fault .wrongAgent

/-- An access of the node to its own bank. -/
def nodeAcc (l : SlotLoc) (gr : Grant) (a : Acc) (off align check n : Nat) : Except MemErr Acc :=
  match ownBank l gr off align check with
  | .error c => .error (c, bankVa off)
  | .ok pl => .ok { a with addr := bankVa off, n := n, line := true, phase := .ready pl }

/-- `mload`: a tile into `tl`, or a codebook (05 R148). -/
def execMload (w : SlotWord) (s : State) : Out :=
  s.fireNode 0x180 w false s.memRoom (fun l gr a b =>
    let off := bankAddr w a b false
    let cbn := w.fn.toNat / 2 % 4
    if w.fn.getLsbD 0 then nodeAcc l gr { op := .codebook cbn } off 32 32 32
    else
      let n := tileBytes w.ty.toNat false
      nodeAcc l gr { op := .tile, reg := cbn } off 128 (if w.ty == 11 then 128 else n) n)

/-- `msmeta`: the metadata of `tl` (05 R149). -/
def execMsmeta (w : SlotWord) (s : State) : Out :=
  s.fireNode 0x185 w false s.memRoom (fun l gr a b => nodeAcc l gr { op := .metadata } (bankAddr w a b false) 128 128 128)

/-- `mfire`: a step into an accumulator starts. The owner and the format of `ta` are checked and the codebooks read in its start cycle; its
moving tile is read line by line, and the step is added when the last line has been read (05 R151; log 6). -/
def execMfire (w : SlotWord) (s : State) : Out :=
  s.fireNode 0x182 w false (fun l => !s.slotPending l) (fun l gr a b =>
    let off := addrA w a
    let fmt := w.ty.toNat
    let sp := w.mode.getLsbD 2
    let n := tileBytes fmt sp
    let ta := (s.cell l.g l.cell).ta
    let bitmap := if w.sb == 10 then 0xFFFF else if w.sb == 9 then w.ix.toNat else lane0 b % 65536
    let cbm := s.codebook l.g l.cell (if w.fn.getLsbD 4 then 1 else 0)
    if ta.owner != some l.ctx || ta.fmt != w.fn.toNat % 16 then .error (Cause.illegal, bankVa off)
    else nodeAcc l gr { op := .moving (w.mode.toNat % 4) sp bitmap cbm (s.codebook l.g l.cell ta.cbn) } off 128
      (if fmt == 11 then 128 else n) n)

/-- The values of rows of an accumulator or a pair (05 R153). -/
def Cell.drainRows (c : Cell) (n : Nat) (pair : Bool) : List (List Nat) :=
  let a := c.accVals n
  let b := if pair then c.accVals (n + 1) else []
  (List.range 16).map (fun m => (a.drop (16 * m)).take 16 ++ (b.drop (16 * m)).take 16)

/-- The bytes of a drain and the generator after it (05 R153). -/
def drainBytes (ty md : Nat) (sat : Bool) (cb : List Nat) (g : BitVec 16) (rows : List (List Nat)) : BitVec 16 × List Nat :=
  if ty == 6 then (g, rows.flatten.flatMap (fun v => (natToBytes 4 v).map BitVec.toNat))
  else if ty == 11 then
    (g, rows.flatMap (fun r => bc8Encode (r.map (fun v => roundFmt 9 (value 6 v) 0 sat 0))))
  else if ty == 12 then (g, rows.flatMap (fun r => cb4Bytes (cb4Quant (r.map (value 6)) cb)))
  else
    let (g, es) := drawMap (md == 2) (fun g v => roundFmt ty (value 6 v) md sat g) g rows.flatten
    (g, es.flatMap (fun v => (natToBytes (width ty / 8) v).map BitVec.toNat))

/-- `mdrain`: an accumulator or a pair converted and written once every `mfire` into it has written; the data result counts the bytes (05
R153). The reading, the conversion and CLR happen at the start of the firing, its lines perform one by one (log 6). -/
def execMdrain (w : SlotWord) (s : State) : Out :=
  match s.slotAgent with
  | none => .fault .wrongAgent
  | some l =>
    let n := w.fn.toNat % 4
    let pair := w.fn.getLsbD 2
    let ty := w.ty.toNat
    let c := s.cell l.g l.cell
    let md := w.rnd.toNat
    let cb := s.codebook l.g l.cell md
    let (gen, bytes) := drainBytes ty md w.sat cb (s.gen l.g l.cell) (c.drainRows n pair)
    let data := bytes.map (BitVec.ofNat 8)
    let busy := (s.core l.g).nodeBusy l.cell (AccOp.into (if pair then [n, n + 1] else [n]))
    let out := s.fireNode 0x183 w true (fun l => s.memRoom l && !busy) (fun l gr a b =>
      let off := bankAddr w a b false
      if off % 128 != 0 then .error (Cause.misaligned, bankVa off)
      else match bankPlace l.g gr off 128 with
        | .error e => .error (e, bankVa off)
        | .ok pl =>
          if !inLease gr off data.length then .error (Cause.pagePermission, bankVa off)
          else .ok { op := .drain data, addr := bankVa off, n := data.length, line := true, phase := .ready pl })
    match out with
    | .next t =>
      if (t.core l.g).accs.length == (s.core l.g).accs.length then out
      else
        let t := if md == 2 && 7 ≤ ty && ty ≤ 10 then t.setGen l.g l.cell gen else t
        .next (if w.fn.getLsbD 3 then t.updCell l.g l.cell (fun c =>
          let c := c.setAcc n []
          if pair then c.setAcc (n + 1) [] else c) else t)
    | o => o

/-! ## Lines of an access (05 R147, R148, R151, R153) -/

/-- Format and SP of the tile that an access reads. -/
def Acc.tileForm (a : Acc) : Option (Nat × Bool) := match a.op with
  | .tile => some (a.ty, false)
  | .moving _ sp .. => some (a.ty, sp)
  | _ => none

/-- The bytes of the lines that an access has read, in order. -/
def Acc.gathered (a : Acc) : List Byte := a.parts.flatMap (fun e => e.2)

/-- Whether an access is performed line by line: a tile, a codebook, a drain. -/
def Acc.byLine (a : Acc) : Bool := match a.op with
  | .tile | .moving .. | .codebook _ | .drain _ => true
  | _ => false

/-- The lines of an access of several lines that have still to perform, by number: a BC8 tile is read upward until its sixteenth token ends (05
R148). -/
def Acc.linesLeft (a : Acc) : List Nat :=
  let rest (n : Nat) : List Nat := (List.range ((n + 127) / 128)).filter (fun i => !Tab.has a.parts i)
  match a.op, a.tileForm with
  | .drain d, _ => rest d.length
  | .codebook _, _ => rest 32
  | _, some (fmt, sp) =>
    if fmt == 11 then (if tileWhole fmt sp a.gathered then [] else [a.parts.length]) else rest (tileBytes fmt sp)
  | _, none => []

/-- Bytes of a line of an access: the last line of a drain or of a tile may be short. -/
def Acc.lineBytes (a : Acc) (i : Nat) : Nat := match a.op, a.tileForm with
  | .drain d, _ => min 128 (d.length - 128 * i)
  | .codebook _, _ => 32
  | _, some (fmt, sp) => if fmt == 11 then 128 else min 128 (tileBytes fmt sp - 128 * i)
  | _, none => a.n

/-- The lines that a BC8 tile at a place takes as its bytes stand now (05 R148). -/
def State.bc8Lines (s : State) (pl : Place) : Nat := ((bc8End 16 ((s.readPlace pl 896).map BitVec.toNat) 0).getD 896 + 127) / 128

/-- The ranges of an access that have still to perform, counted from its start. -/
def State.spans (s : State) (a : Acc) (pl : Option Place) : List (Nat × Nat) :=
  if !a.byLine then [(0, a.n)]
  else
    let ls := match a.tileForm, pl with
      | some (11, _), some p => (List.range (s.bc8Lines p)).filter (fun i => !Tab.has a.parts i)
      | _, _ => a.linesLeft
    ls.map (fun i => (128 * i, a.lineBytes i))

/-! ## Bytes that accesses share (05 R140, 09 R231) -/

/-- The place of the bytes of an access, where it has one: the place it was translated to, else the place its address or its ring byte
has now. -/
def State.placeOf (s : State) (a : Acc) : Option Place := match a.phase with
  | .ready pl => some pl
  | .walk va | .parked _ va => s.placeNow a.ctxid va
  | .entering =>
    let b := s.scb a.scb
    if clsOf a.addr != 4 || b.state == 0 || b.state == 4 then none
    else if b.bk then some (b.bankAt (a.off % b.win)) else s.placeNow a.ctxid (b.base + a.off % b.win)
  | _ => none

/-- Whether what an access has still to perform overlaps n bytes at a place, or at an address where a place is not known. An access of no
byte, a publish or a release, overlaps nothing. -/
def State.touches (s : State) (a : Acc) (pl : Option Place) (va n : Nat) : Bool :=
  let p? := s.placeOf a
  0 < n && (s.spans a p?).any (fun r => 0 < r.2 && (match p?, pl with
    | some p, some q => p.bank == q.bank && p.g == q.g && p.pa + r.1 < q.pa + n && q.pa < p.pa + r.1 + r.2
    | _, _ => a.addr + r.1 < va + n && va < a.addr + r.1 + r.2))

end Sys2Proof.Machine
end

