-- ==== Sys2Proof/Machine/Access.lean ====
section
/-!
DEFINITION. Accesses at their serialisation points: admission of stream accesses, performing under the holds of 09 R231, and
delivery (05 R135, R140, R146 to R149, R153, R155 to R159; 07 R204 to R207; 09 R230, R231, R238, R239).
-/

namespace Sys2Proof.Machine
open SlotWord Sys2Proof.Num

/-! ## Admission at a stream's control point -/

/-- An access waits for a kind of event; it keeps the instant at which it began (17 R339). -/
def State.waitAcc (s : State) (g : RegionNo) (a : Acc) (kind obj agent : Nat) : State :=
  s.updAcc g a.id (fun a => { a with wait := some { (a.wait.getD { since := s.tick }) with kind := kind, obj := obj, agent := agent } })

/-- An access of a ring admitted: it is ready at its bank place, or its ring byte is translated (17 R335, R339). -/
def State.admitAcc (s : State) (g : RegionNo) (a : Acc) (ring : Nat) : State :=
  let b := s.scb a.scb
  let s := (s.clearWait a.scb (.acc g a.id)).updAcc g a.id (fun a => { a with opens := b.opens, wait := none })
  if b.bk then s.updAcc g a.id (fun a => { a with phase := .ready (b.bankAt ring) }) else s.walkAcc g a (b.base + ring)

/-- Whether a thread's access may act at a control point: every earlier one of the thread has performed (06 R172). An access of a cell
may. -/
def Core.inOrder (k : Core) (a : Acc) : Bool := match a.port with
  | .thread x => !(k.accs.takeWhile (fun e => e.id != a.id)).any (fun e => e.port == .thread x && !e.done)
  | .slot .. => true

/-- One attempt of a stream access at its control point (07 R204, R205). -/
def State.tryStream (s : State) (g : RegionNo) (a : Acc) : State :=
  let b := s.scb a.scb
  let r := if a.wr then b.tryWrite (.acc g a.id) a.off a.n else b.read a.off a.n
  let wait (kind : Nat) : State :=
    (s.noteWait a.scb (.acc g a.id) a.off a.n a.wr kind).waitAcc g a kind a.addr (b.waitsFor kind)
  match r with
  | .fault c => (s.clearWait a.scb (.acc g a.id)).failAcc g a.id c
  | .wait k => wait k
  | .perform ring => if a.wr && b.overtaken (.acc g a.id) then s.waitAcc g a 4 a.addr (b.waitsFor 4) else s.admitAcc g a ring

/-- A stream read is admitted, waits or faults (07 R204). -/
def execStreamRead (g : RegionNo) (id : Nat) (s : State) : Out :=
  match s.acc g id with
  | some a => if a.phase == .entering && a.op == .read && (s.core g).inOrder a then .next (s.tryStream g a) else .next s
  | none => .next s

/-- A stream write is admitted, waits or faults (07 R205). -/
def execStreamWrite (g : RegionNo) (id : Nat) (s : State) : Out :=
  match s.acc g id with
  | some a => match a.phase, a.op with
    | .entering, .write _ => .next (if (s.core g).inOrder a then s.tryStream g a else s)
    | _, _ => .next s
  | none => .next s

/-! ## Holds (09 R231) -/

/-- Whether an access is on a sequentially consistent page. -/
def State.isSc (s : State) (a : Acc) : Bool := (s.placeOf a).any (fun pl => pl.sc)

/-- Whether a row of 09 R231 holds n bytes of an access, counted from its byte o. An access that has faulted has not performed. -/
def State.heldAt (s : State) (g : RegionNo) (a : Acc) (o n : Nat) : Bool :=
  let earlier := ((s.core g).accs.takeWhile (fun e => e.id != a.id)).filter (fun e => !e.done)
  match a.port with
  | .thread x => earlier.any (fun e => e.port == .thread x)
  | .slot c x _ =>
    let own := earlier.filter (fun e => e.cell? == some c && e.ctx == x)
    if a.op == .arrive || s.isSc a || own.any s.isSc then !own.isEmpty
    else own.any (fun e => s.touches e ((s.placeOf a).map (fun pl => { pl with pa := pl.pa + o })) (a.addr + o) n)

/-- Whether a row of 09 R231 holds an access: every line that it has still to perform, where it has several. -/
def State.holds (s : State) (g : RegionNo) (a : Acc) : Bool :=
  if a.byLine then !a.linesLeft.isEmpty && a.linesLeft.all (fun i => s.heldAt g a (128 * i) (a.lineBytes i)) else s.heldAt g a 0 a.n

/-- Whether the access is an `mload`: those of a cell write in start order (05 R148). -/
def AccOp.loadsNode : AccOp → Bool
  | .tile | .codebook _ => true
  | _ => false

/-- Whether an access of the cell that started before this one is of a kind and has not performed. -/
def State.behind (s : State) (g : RegionNo) (a : Acc) (f : AccOp → Bool) : Bool :=
  ((s.core g).accs.takeWhile (fun e => e.id != a.id)).any (fun e => e.cell? == a.cell? && e.pending && f e.op)

/-! ## Effects -/

/-- An access has performed with a value; a thread that it held stands past its word (06 R171). -/
def State.performed (s : State) (g : RegionNo) (a : Acc) (val : Nat) : State :=
  let s := (s.stamp g).updAcc g a.id (fun a => { a with phase := .performed val, wait := none })
  match a.port with
  | .thread x => s.updThread g x (fun t => match t.hold with
    | some (id, stay) => if id == a.id then { (if stay then t.step else t) with hold := none } else t
    | none => t)
  | .slot .. => s

/-- A data result written to `lr`, unless a later-started firing has written it, and to the destination register (01 R25, 04
R110). -/
def State.writeResult (s : State) (g : RegionNo) (a : Acc) (v : Line) : State :=
  match a.port with
  | .thread _ => s
  | .slot c x _ =>
    let gr := s.grant g x
    s.updCell g c (fun c =>
      let c := if Tab.getD c.lrSeq x.toNat > a.seq then c
        else { c with lr := Tab.set c.lr x.toNat v, lrSeq := Tab.set c.lrSeq x.toNat a.seq }
      c.writeReg gr x a.dest v)

/-- The value a load's token carries (05 R142, 02 R51). -/
def Acc.loadValue (a : Acc) (bs : List Byte) : Nat := if a.line then leNat bs else scalarPay a.ty (leNat bs)

/-- The value an update writes (05 R155). -/
def updateValue (ty opn old val : Nat) : Nat :=
  match opn with
  | 0 => if ty == 6 then roundFmt 6 (addV (value 6 old) (value 6 val)) 0 false 0 else (old + val) % 2 ^ 32
  | 1 => if ty == 6 then fminmax 6 old val false else if intOf ty old < intOf ty val then old else val
  | 2 => if ty == 6 then fminmax 6 old val true else if intOf ty old < intOf ty val then val else old
  | 3 => old &&& val
  | 4 => old ||| val
  | 5 => old ^^^ val
  | _ => val

/-- The slot whose `own` range holds a bank address of the context: the lowest-numbered one (05 R156). -/
def State.ownerOf (s : State) (g : RegionNo) (x : CtxNo) (off : Nat) : Option SlotLoc :=
  let c : CellNo := BitVec.ofNat 8 (off / 65536)
  ((s.cell g c).slots.find? (fun e => e.1 / 64 == x.toNat && (match e.2.own with
    | some (b, n) => b ≤ off && off < b + n
    | none => false))).map (fun e => ⟨g, c, x, BitVec.ofNat 6 e.1⟩)

/-- The token an owner places for an update (05 R156). -/
def State.emitOwn (s : State) (l : SlotLoc) (off new : Nat) : State :=
  let t := s.slotAt l
  let w := slotFields t.word
  let base := (t.own.getD (0, 0)).1
  let tok : Token := { kind := .data, form := .sparse, ctx := l.ctx, round := t.ownRound, p := t.ownP,
                       tag := BitVec.ofNat 16 ((off - base) / 4), pay := BitVec.ofNat 1024 new }
  let s := s.updCell l.g l.cell (fun c =>
    { c with lr := Tab.set c.lr l.ctx.toNat (BitVec.ofNat 1024 new), lrSeq := Tab.set c.lrSeq l.ctx.toNat s.tick })
  s.updSlot l (fun t => { t with res := { t0 := if route w.t0 == 7 then none else some tok,
                                          t1 := if route w.t1 == 7 then none else some tok, seq := s.tick } })

/-- A barrier object (05 R157). -/
structure Barrier where
  gen  : Nat := 0
  exp  : Nat := 0
  pend : Nat := 0
  inb  : Nat := 0
  outb : Nat := 0
  deriving DecidableEq, Repr, Inhabited

/-- A barrier read from its 16 bytes. -/
def Barrier.of (bs : List Byte) : Barrier :=
  let v := leNat bs
  { gen := bits v 0 3, exp := bits v 4 31, pend := bits v 32 63, inb := bits v 64 95, outb := bits v 96 127 }

/-- Its 16 bytes. -/
def Barrier.bytes (b : Barrier) : List Byte :=
  natToBytes 16 (b.gen % 16 + b.exp % 2 ^ 28 * 16 + b.pend % 2 ^ 32 * 2 ^ 32 + b.inb % 2 ^ 32 * 2 ^ 64 + b.outb % 2 ^ 32 * 2 ^ 96)

/-- A barrier whose counts are all zero opens (05 R157). -/
def Barrier.settle (b : Barrier) : Barrier :=
  if b.pend == 0 && b.inb == 0 && b.outb == 0 then { b with gen := (b.gen + 1) % 16, pend := b.exp } else b

/-- An arrival: none while it must wait (05 R158). -/
def Barrier.arrive (b : Barrier) : Option Barrier := if b.pend == 0 then none else some ({ b with pend := b.pend - 1 }).settle

/-- A free location for a spill: kind and LOC (01 R28, R29; 05 R146). -/
def Core.spillPlace (k : Core) (c : Cell) : Option (Bool × Nat) :=
  let used := c.spills.map (fun e => (e.2.kind, e.2.loc))
  let pairs := (List.range 4).flatMap (fun a =>
    if k.grants.any (fun gr => gr.2.acc.testBit a) then [] else (List.range 8).map (fun p => (false, a * 32 + p * 4)))
  let regs := (List.range 32).filterMap (fun r => if k.grants.any (fun gr => gr.2.mrf.contains r) then none else some (true, r * 4))
  (pairs ++ regs).find? (fun p => !used.contains p)

/-- The spill map entry of a register of a context. -/
def Cell.spillOf (c : Cell) (x : CtxNo) (n : Nat) : Option (Nat × Spill) := c.spills.find? (fun e => e.2.ctx == x && e.2.vreg == n)

/-- `spill` takes effect (05 R146). -/
def State.doSpill (s : State) (g : RegionNo) (c : CellNo) (x : CtxNo) (n : Nat) (v : Line) (pl : Place) : State :=
  let cell := s.cell g c
  match cell.spillOf x n with
  | some (i, e) => s.updCell g c (fun c => { c with spills := Tab.set c.spills i { e with val := v } })
  | none => match Tab.free cell.spills 64, (s.core g).spillPlace cell with
    | some i, some (kind, loc) =>
      s.updCell g c (fun c => { c with spills := Tab.set c.spills i { ctx := x, vreg := n, kind := kind, loc := loc, val := v } })
    | _, _ => s.writePlace pl (lineBytes v)

/-- The value that `fill` moves: that of the register's spill map entry, else the line at its bank place (05 R146). -/
def State.fillValue (s : State) (g : RegionNo) (c : CellNo) (x : CtxNo) (n : Nat) (pl : Place) : Line :=
  match (s.cell g c).spillOf x n with
  | some (_, e) => e.val
  | none => lineOf (s.readPlace pl 128)

/-- `fill` takes effect (05 R146): the register is written and its entry freed. -/
def State.doFill (s : State) (g : RegionNo) (c : CellNo) (x : CtxNo) (n : Nat) (v : Line) : State :=
  s.updCell g c (fun k => { k.writeReg (s.grant g x) x ⟨2, n⟩ v with spills := match k.spillOf x n with
    | some (i, _) => Tab.erase k.spills i
    | none => k.spills })

/-- Metadata whose groups are all in order (05 R149): 8 groups of a BF16 tile, 16 of another. -/
def metaOk (fmt : Nat) (bs : List Byte) : Bool :=
  (List.range 16).all (fun n =>
    let col := leNat ((bs.drop (8 * n)).take 8)
    (List.range (if fmt == 7 then 8 else 16)).all (fun g => bits col (4 * g) (4 * g + 1) < bits col (4 * g + 2) (4 * g + 3)))

/-- What an access of one action touches at its place, and whether it writes it: a spill or fill whose register has an entry in the map touches no
bank. -/
def State.touched (s : State) (g : RegionNo) (a : Acc) (pl : Place) : List (Place × Nat × Bool) :=
  let entry (n : Nat) : Bool := ((s.cell g (a.cell?.getD 0)).spillOf a.ctx n).isSome
  match a.op with
  | .write d => [(pl, d.length, true)]
  | .spill n _ => if entry n then [] else [(pl, 128, true)]
  | .fill n => if entry n then [] else [(pl, 128, false)]
  | .drain _ => a.linesLeft.map (fun i => ({ pl with pa := pl.pa + 128 * i }, a.lineBytes i, true))
  | .tile | .moving .. | .codebook _ => a.linesLeft.map (fun i => ({ pl with pa := pl.pa + 128 * i }, a.lineBytes i, false))
  | .publish | .release _ => []
  | .arrive | .await _ => [(pl, 16, false)]
  | .update .. => [(pl, 4, false)]
  | .metadata => [(pl, 128, false)]
  | .read => [(pl, a.n, false)]

/-- Whether an access of one action meets an uncorrectable error (19 R365). -/
def State.accSpoiled (s : State) (g : RegionNo) (a : Acc) (pl : Place) : Bool :=
  !a.byLine && (s.touched g a pl).any (fun t => s.spoiled t.1 t.2.1 t.2.2)

/-- One of the lines of an access that no hold keeps is read or written (09 R229, R233); a tile line beyond the lease ends the firing (05
R138, R148). -/
def State.lineStep (s : State) (g : RegionNo) (a : Acc) (pl : Place) : State :=
  let ls := a.linesLeft.filter (fun i => !s.heldAt g a (128 * i) (a.lineBytes i))
  let (k, s) := s.pick ls.length
  match ls[k]? with
  | none => s
  | some i =>
    let at_ : Place := { pl with pa := pl.pa + 128 * i }
    let did (s : State) (bs : List Byte) : State := s.updAcc g a.id (fun a => { a with parts := Tab.set a.parts i bs })
    match a.op with
    | .drain d => if s.spoiled at_ (a.lineBytes i) true then s.uncorrectable g a else did (s.writePlace at_ ((d.drop (128 * i)).take 128)) []
    | _ =>
      if s.spoiled at_ (a.lineBytes i) false then s.uncorrectable g a
      else if !inLease (s.grant g a.ctx) (a.addr % 2 ^ 24) (128 * i + a.lineBytes i) then s.failAcc g a.id Cause.pagePermission
      else did s (s.readPlace at_ (a.lineBytes i))

/-- What an access of several lines does once it has performed all of them: `tl` or a codebook is written, in the start order of the cell's `mload`s (05
R148); a step is added to its accumulator, in the start order of its `mfire`s (05 R151); a drain has its count (05 R153). -/
def State.linesDone (s : State) (g : RegionNo) (a : Acc) : State :=
  let c : CellNo := a.cell?.getD 0
  match a.op with
  | .tile =>
    if s.behind g a AccOp.loadsNode then s
    else (s.updCell g c (fun c => { c with tl := { c.tl with bytes := stationary a.ty a.gathered, fmt := a.ty, cbn := a.reg, owner := some a.ctx } })).performed
      g a 0
  | .codebook n =>
    if s.behind g a AccOp.loadsNode then s
    else
      let v : BitVec 256 := BitVec.ofNat 256 (leNat a.gathered)
      (s.setReg g { s.reg g with cb := Tab.set (s.reg g).cb (4 * c.toNat + n) v }).performed g a 0
  | .moving n sp bitmap cbm cbt =>
    if s.behind g a (fun o => match o with | .moving .. => true | _ => false) then s
    else
      let cell := s.cell g c
      let new := matrixStep (cell.accVals n) (movingRows a.ty sp cbm (a.gathered.map BitVec.toNat)) cell.ta cbt sp bitmap
      ((s.updCell g c (fun c => c.setAcc n new)).writeResult g a (BitVec.ofNat 1024 n)).performed g a n
  | .drain d => (s.writeResult g a (BitVec.ofNat 1024 d.length)).performed g a d.length
  | _ => s

/-- An access of several lines goes on: a line performs, and with the last one the access does what it gathers them for. -/
def State.byLines (s : State) (g : RegionNo) (a : Acc) (pl : Place) : State :=
  let s := s.lineStep g a pl
  match s.acc g a.id with
  | some b => if b.pending && b.linesLeft.isEmpty then s.linesDone g b else s
  | none => s

/-- The effect of an access at its place (09 R230). Metadata are checked against the format that `tl` holds now (05 R149; log 67). A firing
whose only result is a completion token writes no `lr` (log 82). -/
def State.effect (s : State) (g : RegionNo) (a : Acc) (pl : Place) : State :=
  let cell : CellNo := a.cell?.getD 0
  match a.op with
  | .read =>
    let bs := s.readPlace pl a.n
    match a.port with
    | .thread _ => s.performed g a (leNat bs)
    | .slot .. =>
      let v := a.loadValue bs
      let line := if a.line then BitVec.ofNat 1024 v else BitVec.ofNat 1024 (v % 2 ^ 32)
      (s.writeResult g a line).performed g a v
  | .write d =>
    let s := (s.writePlace pl d).performed g a 0
    if clsOf a.addr == 4 && (s.scb a.scb).auto then s.changeScb a.scb ((s.scb a.scb).autoAdvance a.off a.n) else s
  | .update opn ty val =>
    let old := leNat (s.readPlace pl 4)
    let new := updateValue ty opn old val
    let off := a.addr % 2 ^ 24
    let done (s : State) : State :=
      ((s.writePlace pl (natToBytes 4 new)).writeResult g a (BitVec.ofNat 1024 old)).performed g a old
    if pl.bank then
      match s.ownerOf g a.ctx off with
      | none => done s
      | some l =>
        let t := s.slotAt l
        if t.res.empty && t.after.isNone then (done s).emitOwn l off new else s
    else done s
  | .publish | .release _ => s
  | .arrive =>
    let b := Barrier.of (s.readPlace pl 16)
    if b.exp == 0 then s.failAcc g a.id Cause.illegal
    else match b.arrive with
      | none => s.waitAcc g a 8 (a.addr % 2 ^ 24) 0xFF
      | some b' =>
        let v := b.gen * 2 ^ 28 + a.addr % 2 ^ 24
        ((s.writePlace pl b'.bytes).writeResult g a (BitVec.ofNat 1024 v)).performed g a v
  | .await gen =>
    let b := Barrier.of (s.readPlace pl 16)
    if b.gen == gen then s.waitAcc g a 8 (a.addr % 2 ^ 24) 0xFF
    else
      let v := b.gen * 2 ^ 28 + a.addr % 2 ^ 24
      (s.writeResult g a (BitVec.ofNat 1024 v)).performed g a v
  | .fill n =>
    let v := s.fillValue g cell a.ctx n pl
    ((s.doFill g cell a.ctx n v).writeResult g a v).performed g a 0
  | .spill n v => ((s.doSpill g cell a.ctx n v pl).writeResult g a v).performed g a 0
  | .tile | .moving .. | .codebook _ | .drain _ => s.byLines g a pl
  | .metadata =>
    let bs := s.readPlace pl 128
    if metaOk (s.cell g cell).tl.fmt bs then
      (s.updCell g cell (fun c => { c with tl := { c.tl with mdata := bs } })).performed g a 0
    else s.failAcc g a.id Cause.illegal

/-- A write of an auto stream waits while PENDING is full (07 R205). -/
def State.pendingFull (s : State) (a : Acc) : Bool :=
  clsOf a.addr == 4 && a.wr && (s.scb a.scb).auto && a.off != (s.scb a.scb).hwm && (s.scb a.scb).pending.length ≥ 16

/-- Whether the ring of an admitted stream access has been given up since (07 R222). -/
def State.ringGone (s : State) (a : Acc) : Bool :=
  let b := s.scb a.scb
  clsOf a.addr == 4 && (b.state == 0 || b.state == 4 || b.opens != a.opens)

/-- An access performs, unless a hold applies (09 R230, R231); a place the host owns is fetched first (17 R349). A write that finds PENDING
full stands at the control point again (07 R205), and one whose ring was given up ends with STREAM_CLOSED (07 R222); one that
meets bad bits ends with UNCORRECTABLE (19 R365). -/
def execAccessPerform (g : RegionNo) (id : Nat) (s : State) : Out :=
  match s.acc g id with
  | none => .next s
  | some a => match a.phase, a.op with
    | .walk va, _ => .next (s.walkAnew g a va)
    | .ready pl, _ =>
      if s.ringGone a then .next (s.failAcc g id Cause.streamClosed)
      else if s.holds g a then .next s
      else if s.pendingFull a then .next ((s.updAcc g id (fun a => { a with phase := .entering })).tryStream g a)
      else if s.ownedOk pl && s.accSpoiled g a pl then .next (s.uncorrectable g a)
      else if s.ownedOk pl then .next (match a.port with
        | .thread x => (s.effect g a pl).ownCxl s.cxl.length (g, (s.grant g x).kernel)
        | .slot .. => s.effect g a pl)
      else .next (s.claim (.event (.accessPerform g id)) pl a.va a.wr)
    | .entering, .publish =>
      if s.holds g a || a.wait.isSome then .next s else .next (ask a 8 2)
    | .entering, .release n =>
      if s.holds g a || a.wait.isSome then .next s else .next (ask a n 3)
    | _, _ => .next s
where
  /-- A publish or release asked at the control point (07 R206, R207). -/
  ask (a : Acc) (slot kind : Nat) : State :=
    let s := s.askStream a.scb (.acc g a.id) a.off slot
    match s.acc g a.id with
    | some b => if b.phase == .entering then s.waitAcc g b kind a.addr ((s.scb a.scb).waitsFor kind) else s
    | none => s

/-! ## Delivery (05 R135, R136; 09 R230) -/

/-- Whether the data token of an access is a vector. -/
def Acc.vector (a : Acc) : Bool := a.line && a.op == .read

/-- The tokens of an access toward a target (05 R135). -/
def Acc.token (a : Acc) (x : CtxNo) (val : Nat) (t : BitVec 12) : Option Token :=
  let hd (kind : TokKind) (form : TokForm) (pay : Nat) : Token :=
    { kind := kind, form := form, ctx := x, round := a.round, p := a.p, tag := 0, pay := BitVec.ofNat 1024 pay }
  match (route t).toNat with
  | 6 => some (hd .completion .scalar 0)
  | 7 => none
  | _ => some (hd .data (if a.vector then .vector else .scalar) val)

/-- The register a Lectern load writes (06 R170, R174). -/
def Thread.deliver (t : Thread) (reg size val : Nat) : Thread :=
  if reg ≥ 32 then { t with c := Tab.set t.c (reg - 32) (BitVec.ofNat 128 val) }
  else t.wg (BitVec.ofNat 5 reg) (BitVec.ofNat 64 (iwrap 64 (toSigned (8 * size) val)))

/-- The results of a performed access are delivered: to its slot's result register in firing order, or to its thread's
register. -/
def execAccessDeliver (g : RegionNo) (id : Nat) (s : State) : Out :=
  match s.acc g id with
  | none => .next s
  | some a => match a.phase, a.port with
    | .performed val, .thread x =>
      let s := if a.op == .read then s.updThread g x (fun t => t.deliver a.reg a.size val) else s
      .next (s.dropAcc g id)
    | .performed val, .slot c x n =>
      let l : SlotLoc := ⟨g, c, x, n⟩
      let t := s.slotAt l
      let w := slotFields t.word
      let earlier := ((s.core g).accs.takeWhile (fun e => e.id != id)).any (fun e => e.port == a.port)
      if earlier || !t.res.empty || t.after.isSome then .next s
      else .next (((s.stamp g).dropAcc g id).updSlot l (fun t =>
        Slot.follow { t with res := ⟨a.token x val w.t0, a.token x val w.t1, s.tick⟩ } s.tick))
    | _, _ => .next s

end Sys2Proof.Machine
end

