-- ==== Sys2Proof/Machine/Sha.lean ====
section
/-!
DEFINITION. SHA-256 (FIPS 180-4), which the measurements, quotes and audit records of the service die use (19 R357, R360).
Its constants are the fractional parts the standard gives (log 11).
-/

namespace Sys2Proof.Sha

/-- Floor of the k-th root of n by bits from the top. -/
def rootGo (k : Nat) : Nat → Nat → Nat → Nat
  | 0, _, r => r
  | b + 1, n, r => let c := r + 2 ^ b; rootGo k b n (if c ^ k ≤ n then c else r)

/-- The first 64 primes. -/
def primes : List Nat :=
  [2, 3, 5, 7, 11, 13, 17, 19, 23, 29, 31, 37, 41, 43, 47, 53, 59, 61, 67, 71, 73, 79, 83, 89, 97, 101, 103, 107, 109, 113, 127, 131]
  ++ [137, 139, 149, 151, 157, 163, 167, 173, 179, 181, 191, 193, 197, 199, 211, 223, 227, 229, 233, 239, 241, 251, 257, 263, 269,
      271, 277, 281, 283, 293, 307, 311]

/-- Round constants: the first 32 fraction bits of the cube roots of the primes. -/
def k256 : List W32 := primes.map (fun p => BitVec.ofNat 32 (rootGo 3 36 (p * 2 ^ 96) 0))

/-- Initial hash value: the first 32 fraction bits of the square roots of the first eight primes. -/
def h256 : List W32 := (primes.take 8).map (fun p => BitVec.ofNat 32 (rootGo 2 38 (p * 2 ^ 64) 0))

/-- Message schedule: the next n words after a window of sixteen. -/
def schedule : Nat → List W32 → List W32
  | 0, _ => []
  | n + 1, w =>
    let s0 := fun x : W32 => x.rotateRight 7 ^^^ x.rotateRight 18 ^^^ (x >>> 3)
    let s1 := fun x : W32 => x.rotateRight 17 ^^^ x.rotateRight 19 ^^^ (x >>> 10)
    let x := s1 (w.getD 14 0) + w.getD 9 0 + s0 (w.getD 1 0) + w.getD 0 0
    x :: schedule n (w.drop 1 ++ [x])

/-- One round over the eight working words. -/
def round (v : List W32) (kw : W32) : List W32 :=
  let a := v.getD 0 0; let b := v.getD 1 0; let c := v.getD 2 0; let d := v.getD 3 0
  let e := v.getD 4 0; let f := v.getD 5 0; let g := v.getD 6 0; let h := v.getD 7 0
  let t1 := h + (e.rotateRight 6 ^^^ e.rotateRight 11 ^^^ e.rotateRight 25) + ((e &&& f) ^^^ (~~~e &&& g)) + kw
  let t2 := (a.rotateRight 2 ^^^ a.rotateRight 13 ^^^ a.rotateRight 22) + ((a &&& b) ^^^ (a &&& c) ^^^ (b &&& c))
  [t1 + t2, a, b, c, d + t1, e, f, g]

/-- The words of a block, big-endian. -/
def blockWords : Nat → List Byte → List W32
  | 0, _ => []
  | n + 1, bs => (bs.getD 0 0 ++ bs.getD 1 0 ++ bs.getD 2 0 ++ bs.getD 3 0 : W32) :: blockWords n (bs.drop 4)

/-- The blocks of a padded message. -/
def blocks : Nat → List Byte → List W32 → List W32
  | 0, _, h => h
  | n + 1, bs, h =>
    let w := blockWords 16 bs
    let w := w ++ schedule 48 w
    let v := (List.zipWith (· + ·) k256 w).foldl round h
    blocks n (bs.drop 64) (List.zipWith (· + ·) h v)

/-- The bytes of a number, the most significant first. -/
def bigEndian : Nat → Nat → List Byte
  | 0, _ => []
  | n + 1, v => BitVec.ofNat 8 (v >>> (8 * n)) :: bigEndian n v

/-- The 32 bytes of the SHA-256 of a message. -/
def sha256 (bs : List Byte) : List Byte :=
  let len := bs.length
  let msg := bs ++ [0x80#8] ++ List.replicate ((119 - len % 64) % 64) 0#8 ++ bigEndian 8 (8 * len)
  (blocks (msg.length / 64) msg h256).flatMap (fun w => bigEndian 4 w.toNat)

end Sys2Proof.Sha
end

