-- ==== Sys2Proof/Machine/Lms.lean ====
section
/-!
DEFINITION. Verification of LMS signatures of the types LMS_SHA256_M32_H10 and LMOTS_SHA256_N32_W8 (RFC 8554; 19 R355, R357; log 11).
-/

namespace Sys2Proof.Lms
open Sha

/-- The type codes. -/
def lmsType : List Byte := bigEndian 4 6
def otsType : List Byte := bigEndian 4 4

/-- A chain of hashes of one 8-bit digit, from step j; the number counts the steps. -/
def chain (pre : List Byte) : Nat → Nat → List Byte → List Byte
  | 0, _, x => x
  | n + 1, j, x => chain pre n (j + 1) (sha256 (pre ++ bigEndian 1 j ++ x))

/-- The digits of a hash with their checksum. -/
def digits (q : List Byte) : List Nat :=
  let ds := q.map BitVec.toNat
  let sum := (ds.map (fun d => 255 - d)).sum
  ds ++ [sum / 256, sum % 256]

/-- The candidate for a one-time public key: identifier and number of the leaf, 1,124 bytes of one-time signature, message. -/
def otsKey (ident : List Byte) (q : Nat) (sig msg : List Byte) : List Byte :=
  let head := ident ++ bigEndian 4 q
  let rand := (sig.drop 4).take 32
  let ds := digits (sha256 (head ++ [0x81, 0x81] ++ rand ++ msg))
  let ys := (List.zip (List.range 34) ds).flatMap (fun d =>
    chain (head ++ bigEndian 2 d.1) (255 - d.2) d.2 ((sig.drop (36 + 32 * d.1)).take 32))
  sha256 (head ++ [0x80, 0x80] ++ ys)

/-- The root above a node along a path of n hashes. -/
def climb (ident : List Byte) : Nat → Nat → List Byte → List Byte → List Byte
  | 0, _, x, _ => x
  | n + 1, node, x, path =>
    let p := path.take 32
    let pair := if node % 2 == 1 then p ++ x else x ++ p
    climb ident n (node / 2) (sha256 (ident ++ bigEndian 4 (node / 2) ++ [0x83, 0x83] ++ pair)) (path.drop 32)

/-- Whether 1,452 bytes are a signature of a message under a 56-byte public key: type, one-time type, I, root. -/
def valid (key msg sig : List Byte) : Bool :=
  let ident := (key.drop 8).take 16
  let q := bytesToNat (sig.take 4).reverse
  let ots := (sig.drop 4).take 1124
  let leaf := sha256 (ident ++ bigEndian 4 (1024 + q) ++ [0x82, 0x82] ++ otsKey ident q ots msg)
  key.length == 56 && sig.length == 1452 && key.take 8 == lmsType ++ otsType && ots.take 4 == otsType && (sig.drop 1128).take 4 == lmsType
    && q < 1024 && climb ident 10 (1024 + q) leaf (sig.drop 1132) == (key.drop 24).take 32

end Sys2Proof.Lms
end

