-- ==== Sys2Proof/Machine/Image.lean ====
section
/-!
DEFINITION. Thesil images: sections and records, the checks of LAUNCH, the checks of a configuration (03 R99 to R103; 01 R24,
R39, R41; 03 R79 to R86; 04 R114; 05 R145, R151 to R154; 10 R253, R254, R258, R262).
-/

namespace Sys2Proof.Machine
open SlotWord

/-- The number in n bytes from offset a. -/
def le (bs : List Byte) (a n : Nat) : Nat := leNat ((bs.drop a).take n)

/-- Whether a range of bytes is zero. -/
def zeros (bs : List Byte) (a n : Nat) : Bool := ((bs.drop a).take n).all (· == 0)

/-! ## Sections (03 R101) -/

/-- A section entry. -/
structure Sect where
  ty    : Nat := 0
  reg   : Nat := 0
  block : Nat := 0
  stage : Nat := 0
  ctx   : Nat := 0
  rsvd  : Nat := 0
  off   : Nat := 0
  size  : Nat := 0
  deriving DecidableEq, Repr, Inhabited

/-- The section entry in 16 bytes. -/
def Sect.of (e : List Byte) : Sect :=
  ⟨le e 0 2, le e 2 1, le e 3 1, le e 4 1, le e 5 1, le e 6 2, le e 8 4, le e 12 4⟩

/-- n section entries from an offset. -/
def sectsOf (bs : List Byte) (at_ n : Nat) : List Sect := (List.range n).map (fun i => Sect.of ((bs.drop (at_ + 16 * i)).take 16))

/-- The sections of an image. -/
def imageSects (bs : List Byte) : List Sect := sectsOf bs 64 (le bs 12 2)

/-- The contents of a section. -/
def Sect.bytes (t : Sect) (bs : List Byte) : List Byte := (bs.drop t.off).take t.size

/-! ## Records (03 R102) -/

/-- A record of a configuration. -/
inductive Rec where
  | cell (num first : Nat) (words : List W64)
  | chan (n : Nat) (d : W64)
  | filt (key : Nat) (w : W64)
  deriving DecidableEq, Repr, Inhabited

/-- 64-bit words. -/
def words64 (bs : List Byte) : List W64 := (List.range (bs.length / 8)).map (fun i => BitVec.ofNat 64 (word8 bs i))

/-- 32-bit words. -/
def words32 (bs : List Byte) : List W32 := (List.range (bs.length / 4)).map (fun i => BitVec.ofNat 32 (le bs (4 * i) 4))

/-- CELLS records; none where one is out of form. The fuel bounds their number. -/
def cellRecs : Nat → List Byte → Option (List Rec)
  | _, [] => some []
  | 0, _ => none
  | n + 1, bs =>
    let first := le bs 1 1
    let count := le bs 2 1
    if bs.length < 8 || count == 0 || count > 64 || first + count > 64 || !zeros bs 3 5 || bs.length < 8 + 8 * count then none
    else (cellRecs n (bs.drop (8 + 8 * count))).map (.cell (le bs 0 1) first (words64 ((bs.drop 8).take (8 * count))) :: ·)

/-- A router coded as SRC of R41: 256 cells, or an edge stream port 256 + p. -/
def routerOk (r : Nat) : Bool := r < 256 + 64

/-- Records of 16 bytes. -/
def recs16 (f : List Byte → Option Rec) (bs : List Byte) : Option (List Rec) :=
  if bs.length % 16 != 0 then none
  else ((List.range (bs.length / 16)).map (fun i => f ((bs.drop (16 * i)).take 16))).mapM id

/-- A CHANNELS record. -/
def chanRec (e : List Byte) : Option Rec :=
  if le e 0 1 > 127 || !zeros e 1 7 then none else some (.chan (le e 0 1) (BitVec.ofNat 64 (le e 8 8)))

/-- A FILTERS record. -/
def filtRec (e : List Byte) : Option Rec :=
  if !routerOk (le e 0 2) || le e 2 1 > 3 || le e 3 1 > 15 || !zeros e 4 4 then none
  else some (.filt (64 * le e 0 2 + 16 * le e 2 1 + le e 3 1) (BitVec.ofNat 64 (le e 8 8)))

/-- The records of a section of types 1 to 3. -/
def Sect.recs (t : Sect) (bs : List Byte) : Option (List Rec) :=
  let c := t.bytes bs
  match t.ty with
  | 1 => cellRecs c.length c
  | 2 => recs16 chanRec c
  | 3 => recs16 filtRec c
  | _ => some []

/-- The records of several sections, in table order. -/
def recsOf (bs : List Byte) (ss : List Sect) : Option (List Rec) := (ss.mapM (fun t : Sect => t.recs bs)).map List.flatten

/-- Numbers a record claims, to find two that claim one. -/
def Rec.names : Rec → List Nat
  | .cell num first ws => (List.range ws.length).map (fun i => 64 * num + first + i)
  | .chan n _ => [2 ^ 20 + n]
  | .filt k _ => [2 ^ 21 + k]

/-- Whether no number stands twice. -/
def distinct : List Nat → Bool
  | [] => true
  | a :: r => !r.contains a && distinct r

/-- The slot words of a record: 64 × cell + slot. -/
def Rec.slots : Rec → List (Nat × W64)
  | .cell num first ws => (List.zip (List.range ws.length) ws).map (fun e => (64 * num + first + e.1, e.2))
  | _ => []

/-- A configuration of records. -/
def cfgOf (stage : Nat) (rs : List Rec) : Cfg :=
  { stage := stage, slots := rs.flatMap Rec.slots,
    chans := rs.filterMap (fun r => match r with | .chan n d => some (n, d) | _ => none),
    filters := rs.filterMap (fun r => match r with | .filt k w => some (k, w) | _ => none) }

/-! ## Filters (10 R253, R254) -/

/-- A type code that CONVERT refuses. -/
def cvtRefuses (ty : Nat) : Bool := ty == 12 || ty == 14 || ty == 15

/-- Fields of a filter entry. -/
def fKIND (e : W64) : Nat := (fld e 60 4).toNat
def fFROM (e : W64) : Nat := (fld e 56 4).toNat
def fTO (e : W64) : Nat := (fld e 52 4).toNat
def fRND (e : W64) : Nat := (fld e 50 2).toNat
def fSAT (e : W64) : Bool := e.getLsbD 49

/-- A filter entry alone. -/
def entryOk (e : W64) : Bool :=
  fld e 0 49 == 0 && (match fKIND e with
    | 1 => fRND e != 3 && !cvtRefuses (fFROM e) && !cvtRefuses (fTO e)
    | 3 => fFROM e ≤ 2 && fTO e == 0 && fRND e == 0 && !fSAT e
    | 0 | 2 => fld e 49 11 == 0
    | _ => false)

/-- The entry a descriptor names: 64 × router + 16 × VC + FILT. -/
def filtKey (d : W64) : Nat := 64 * dDST d + 16 * dVC d + dFILT d

/-- A descriptor alone (01 R41). -/
def descOk (d : W64) : Bool :=
  let port := fun p : Nat => p < 256 + 64
  dVC d != 3 && dFMT d != 15 && fld d 0 24 == 0 && port (dSRC d) && port (dDST d)
    && (dDST d < 256 || (dDSLOT d == 0 && dDOP d == 0)) && (dDST d ≥ 256 || dDSLOT d < 64)

/-- The width of a format's elements, 0 for BC8 and CB4, whose width varies (10 R254). -/
def elemWidth (ty : Nat) : Nat := if ty == 11 || ty == 12 then 0 else Num.width ty

/-- A descriptor beside the entry that it names (10 R253). -/
def descFits (d e : W64) : Bool :=
  match fKIND e with
  | 1 => fFROM e == dFMT d && (dVC d != 1 || elemWidth (fFROM e) == elemWidth (fTO e))
  | 2 | 3 => dVC d != 1
  | _ => true

/-- The format a channel delivers (10 R258). -/
def delivered (d e : W64) : Nat := if fKIND e == 1 then fTO e else dFMT d

/-! ## The whole configuration (03 R103; log 25) -/

/-- What a context was granted, for the checks. -/
structure CfgEnv where
  g     : RegionNo := 0
  krel  : Nat := 0
  ctxn  : Nat := 1
  mrf   : Nat := 0
  acc   : Nat := 0
  lease : Nat := 0
  deriving DecidableEq, Repr, Inhabited

/-- The environment of a grant. -/
def Grant.env (gr : Grant) (g : RegionNo) : CfgEnv := ⟨g, gr.krel, gr.ctxn, gr.mrf.length, gr.acc, gr.lease⟩

/-- Main registers that a word names (01 R24). -/
def regsNamed (op : BitVec 9) (w : SlotWord) : List Nat :=
  (([w.sa, w.sb] ++ (if SlotRules.third op then [w.fn] else [])).filter (fun c => c.toNat ≥ 16)).map (fun c => vreg c w.xh)
    ++ (if w.dk == 2 then [w.dreg.toNat] else [])

/-- Accumulators that a word names (05 R151 to R153). -/
def accsNamed (op : BitVec 9) (w : SlotWord) : List Nat :=
  match op.toNat with
  | 0x182 => [w.mode.toNat % 4]
  | 0x184 => [w.fn.toNat % 4]
  | 0x183 => if w.fn.getLsbD 2 then [w.fn.toNat % 4, w.fn.toNat % 4 + 1] else [w.fn.toNat % 4]
  | _ => []

/-- The cell that a route reaches from a cell: 0 the cell itself, 1 N, 2 E, 3 S, 4 W (03 R84, 01 R17). -/
def routeCell (c r : Nat) : Option Nat :=
  let x := c % 16
  let y := c / 16
  match r with
  | 0 | 6 => some c
  | 1 => if y > 0 then some (c - 16) else none
  | 2 => if x < 15 then some (c + 1) else none
  | 3 => if y < 15 then some (c + 16) else none
  | 4 => if x > 0 then some (c - 1) else none
  | _ => none

/-- The slot and position that a target of a slot names: 4 × (64 × cell + slot) + position. -/
def edgeTo (c : Nat) (t : BitVec 12) : Option Nat :=
  (routeCell c (route t).toNat).map (fun d => 4 * (64 * d + (tslot t).toNat) + (tpos t).toNat)

/-- The edges that a record of a context's configuration makes. A channel that another context owns ends at a slot of that context, whose
configurations this one does not hold: its destination is not checked here (log 91). -/
def Rec.edges (krel : Nat) : Rec → List Nat
  | .chan _ d => if dEN d && dDST d < 256 && (dCTX d).toNat == krel then [4 * (64 * dDST d + dDSLOT d) + (dDOP d).toNat] else []
  | .filt .. => []
  | r => r.slots.flatMap (fun e =>
      let w := slotFields e.2
      if e.2 == 0 then [] else ([w.t0, w.t1].filterMap (edgeTo (e.1 / 64))))

/-- The positions that the slot of a number reads; none where it is empty. -/
def Cfg.reads (c : Cfg) (n : Nat) : List (BitVec 2) :=
  match Tab.get c.slots n with
  | some w => if w == 0 then [] else SlotRules.positions (fld w 55 9) (slotFields w)
  | none => []

/-- Whether an edge ends at a position that its consumer reads (03 R79, 01 R39). -/
def Cfg.edgeOk (c : Cfg) (e : Nat) : Bool := (c.reads (e / 4)).contains (BitVec.ofNat 2 e)

/-- One slot word in its configuration; `edges` are those of every record. -/
def slotOk (env : CfgEnv) (c : Cfg) (edges : List Nat) (n : Nat) (v : W64) : Bool :=
  if v == 0 then true
  else match (decodeSlot v).toOption with
    | none => false
    | some i => match i.slotOp? with
      | none => false
      | some (op, w) =>
        let target (t : BitVec 12) : Bool := match (route t).toNat with
          | 0 => (tslot t).toNat != n % 64
          | 5 => match Tab.get c.chans (tslot t).toNat with
            | some d => dEN d && (dCTX d).toNat == env.krel && dSRC d == n / 64
            | none => false
          | 7 => true
          | r => (routeCell (n / 64) r).isSome
        SlotRules.wordOk op w && (regsNamed op w).all (· < env.mrf) && (accsNamed op w).all (fun a => env.acc.testBit a)
          && ((op != 0x148 && op != 0x149) || env.krel < env.lease) && target w.t0 && target w.t1
          && ((op != 0x003 && op != 0x004) || edges.contains (4 * n + 3))

/-- Whether a record offends, given the configuration, all its edges and the edges of the records before it. A descriptor whose CTX the kernel
was not granted has no number to receive (03 R102): it is rejected too (log 91). -/
def Rec.bad (env : CfgEnv) (c : Cfg) (all before : List Nat) (r : Rec) : Bool :=
  let es := r.edges env.krel
  !es.all c.edgeOk || es.any before.contains || !distinct es
    || (match r with
      | .cell num _ _ =>
        !r.slots.all (fun e => slotOk env c all e.1 e.2)
          || (c.slots.filter (fun e => e.1 / 64 == num && fld e.2 55 9 == 0x186#9)).length > 2
      | .chan _ d => !descOk d || (dCTX d).toNat ≥ env.ctxn || (dEN d && !descFits d (Tab.getD c.filters (filtKey d)))
      | .filt _ w => !entryOk w)

/-- What a rejection names: the cell identifier of the record, or 0xFFFF (06 R180). -/
def Rec.ident (g : RegionNo) : Rec → Nat
  | .cell num _ _ => (cellIdent g (BitVec.ofNat 8 num)).toNat
  | _ => 0xFFFF

/-- The first offending record of a configuration. -/
def firstBad (env : CfgEnv) (c : Cfg) (all : List Nat) : List Nat → List Rec → Option Nat
  | _, [] => none
  | before, r :: rs => if r.bad env c all before then some (r.ident env.g) else firstBad env c all (before ++ r.edges env.krel) rs

/-- A configuration checked over all its records: what a rejection names, or the configuration. -/
def checkCfg (env : CfgEnv) (stage : Nat) (rs : List Rec) : Except Nat Cfg :=
  let c := cfgOf stage rs
  let c := { c with slots := c.slots.foldl (fun t e => Tab.set t e.1 e.2) [],
                    chans := c.chans.foldl (fun t e => Tab.set t e.1 e.2) [],
                    filters := c.filters.foldl (fun t e => Tab.set t e.1 e.2) [] }
  match firstBad env c (rs.flatMap (Rec.edges env.krel)) [] rs with
  | some i => .error i
  | none => .ok c

/-! ## Configurations of an image -/

/-- The sections of one configuration. -/
def cfgSects (bs : List Byte) (kreg block : Nat) : List Sect :=
  (imageSects bs).filter (fun t => 1 ≤ t.ty && t.ty ≤ 3 && t.reg == kreg && t.block == block)

/-- The kernel-relative context that a block's records name, 0 with none (log 26). -/
def cfgCtx (bs : List Byte) (kreg block : Nat) : Nat := ((cfgSects bs kreg block).head?.map Sect.ctx).getD 0

/-- The stage that a block's records give. -/
def cfgStage (bs : List Byte) (kreg block : Nat) : Nat := ((cfgSects bs kreg block).head?.map Sect.stage).getD 0

/-- The image's configuration of a block for a context, checked; a block without records for the context is the empty
configuration (16 R309). -/
def imageCfg (bs : List Byte) (kreg block : Nat) (env : CfgEnv) : Except Nat Cfg :=
  let ss := (cfgSects bs kreg block).filter (fun t => t.ctx == env.krel)
  checkCfg env (cfgStage bs kreg block) ((recsOf bs ss).getD [])

/-! ## Fields of an image (03 R99, R100, R102) -/

/-- Kernel header fields. -/
def hMRF (bs : List Byte) : Nat := le bs 16 1
def hLEASE (bs : List Byte) : Nat := le bs 17 1
def hACC (bs : List Byte) : Nat := le bs 18 1
def hCTXN (bs : List Byte) : Nat := le bs 19 1
def hNREG (bs : List Byte) : Nat := le bs 20 1
def hNBLK (bs : List Byte) : Nat := le bs 21 1

/-- The LECTERN section of a kernel-relative region. -/
def imageProg (bs : List Byte) (kreg : Nat) : List W32 :=
  match (imageSects bs).find? (fun t => t.ty == 5 && t.reg == kreg) with
  | some t => words32 (t.bytes bs)
  | none => []

/-- A PORTS record: kernel-relative region, port, KIND, ARG. -/
structure PortRec where
  reg  : Nat := 0
  port : Nat := 0
  kind : Nat := 0
  arg  : Nat := 0
  rsvd : Nat := 0
  deriving DecidableEq, Repr, Inhabited

/-- The PORTS records of an image. -/
def imagePorts (bs : List Byte) : List PortRec :=
  ((imageSects bs).filter (fun t => t.ty == 4)).flatMap (fun t =>
    let c := t.bytes bs
    (List.range (c.length / 16)).map (fun i =>
      let e := (c.drop (16 * i)).take 16
      ⟨t.reg, le e 0 1, le e 1 1, le e 8 8, le e 2 6⟩))

/-- The DATA sections: load address and bytes. -/
def imageData (bs : List Byte) : List (Nat × List Byte) :=
  ((imageSects bs).filter (fun t => t.ty == 6)).map (fun t => (le (t.bytes bs) 0 8, (t.bytes bs).drop 16))

/-! ## The checks of LAUNCH (03 R103) -/

/-- One section entry in its image. -/
def Sect.ok (bs : List Byte) (t : Sect) : Bool :=
  let c := t.bytes bs
  1 ≤ t.ty && t.ty ≤ 6 && t.rsvd == 0 && t.off % 16 == 0 && t.off ≥ 64 + 16 * le bs 12 2 && t.off + t.size ≤ le bs 8 4
    && (if t.ty == 6 then t.reg == 0 else t.reg < hNREG bs)
    && (if t.ty ≥ 4 then t.block == 0 && t.stage == 0 && t.ctx == 0 else t.block < hNBLK bs && t.stage ≤ 15 && t.ctx < hCTXN bs)
    && (match t.ty with
      | 5 => t.size % 4 == 0 && t.size ≤ 16384
      | 6 => t.size ≥ 16 && zeros c 8 8 && (clsOf (le c 0 8) == 0 || clsOf (le c 0 8) == 0xC)
      | 4 => t.size % 16 == 0
      | _ => (t.recs bs).isSome)

/-- Two sections share a byte. -/
def Sect.overlaps (a b : Sect) : Bool := a.off < b.off + b.size && b.off < a.off + a.size

/-- No two sections overlap. -/
def disjoint : List Sect → Bool
  | [] => true
  | a :: r => !r.any a.overlaps && disjoint r

/-- One PORTS record. -/
def PortRec.ok (nreg : Nat) (p : PortRec) : Bool :=
  p.port < 64 && p.rsvd == 0 && (match p.kind with
    | 0 => p.arg == 0
    | 1 => p.arg / 2 ^ 13 == 0 && bits p.arg 6 7 == 0 && p.arg / 256 < nreg
    | 2 => p.arg / 2 ^ 17 == 0 && bits p.arg 12 15 == 0
    | 3 => p.arg / 2 ^ 16 == 0 && bits p.arg 4 7 == 0 && p.arg / 256 != 255
    | 4 => p.arg / 2 ^ 12 == 0
    | _ => false)

/-- Every enabled channel of a region's configurations, with the entry that it names. -/
def regionChans (bs : List Byte) (kreg : Nat) : List (W64 × W64) :=
  (List.range 16).flatMap (fun b =>
    let c := cfgOf 0 ((recsOf bs (cfgSects bs kreg b)).getD [])
    (c.chans.filter (fun e => dEN e.2)).map (fun e => (e.2, Tab.getD c.filters (filtKey e.2))))

/-- Channels joined by a KIND 1 record have formats that CONVERT takes, or the same (10 R258). -/
def PortRec.joins (bs : List Byte) (p : PortRec) : Bool :=
  p.kind != 1 || ((regionChans bs p.reg).filter (fun c => dDST c.1 == 256 + p.port)).all (fun u =>
    ((regionChans bs (p.arg / 256)).filter (fun c => dSRC c.1 == 256 + p.arg % 64)).all (fun d =>
      delivered u.1 u.2 == dFMT d.1 || (!cvtRefuses (delivered u.1 u.2) && !cvtRefuses (dFMT d.1))))

/-- A block's sections agree on STAGE and CTX and name nothing twice. -/
def blockOk (bs : List Byte) (kreg block : Nat) : Bool :=
  let ss := cfgSects bs kreg block
  ss.all (fun t => t.stage == cfgStage bs kreg block && t.ctx == cfgCtx bs kreg block)
    && distinct (((recsOf bs ss).getD []).flatMap Rec.names)

/-- Whether LAUNCH accepts an image (03 R103). -/
def imageOk (bs : List Byte) : Bool :=
  let len := le bs 8 4
  let n := le bs 12 2
  let ss := imageSects bs
  let ports := imagePorts bs
  le bs 0 4 == 0x4C534854 && le bs 4 2 == 1 && zeros bs 6 2 && zeros bs 14 2 && len % 16 == 0 && bs.length ≥ len
    && 1 ≤ n && n ≤ 4096 && 64 + 16 * n ≤ len && zeros bs 22 10
    && hMRF bs ≤ 32 && hLEASE bs ≤ 16 && hACC bs < 16 && 1 ≤ hCTXN bs && hCTXN bs ≤ 4 && 1 ≤ hNREG bs && hNREG bs ≤ 32
    && 1 ≤ hNBLK bs && hNBLK bs ≤ 16
    && (bs.drop 32).take 32 == Sha.sha256 ((bs.drop 64).take (len - 64))
    && ss.all (fun t => t.ok bs) && disjoint (ss.filter (fun t => t.size != 0))
    && (List.range (hNREG bs)).all (fun r => (ss.filter (fun t => t.ty == 5 && t.reg == r)).length == 1
      && (List.range (hNBLK bs)).all (blockOk bs r)
      && distinct ((ports.filter (fun p => p.reg == r)).map PortRec.port))
    && ports.all (fun p => p.ok (hNREG bs)) && ports.all (fun p => p.joins bs)

end Sys2Proof.Machine
end

