-- ==== Sys2Proof/Machine/HostBase.lean ====
section
/-!
DEFINITION. Host commands between their acceptance and their completion: journals and control blocks, the order of a queue, completion
entries, entries of no command (16 R300 to R303; 19 R366, R369).
-/

namespace Sys2Proof.Machine

/-- Whether the Bureau serves host queues: the image runs and no rebuild has stopped it, as its step 2 does (19 R357, R369). -/
def State.bureau (s : State) : Bool := s.boot.bstate == 2 && s.arm.rebuild < 2

/-- A host command changed. -/
def State.updHCmd (s : State) (k : Nat) (f : HCmd → HCmd) : State :=
  match Tab.get s.hcmds k with
  | some h => { s with hcmds := Tab.set s.hcmds k (f h) }
  | none => s

/-! ## Control blocks and journals (19 R366) -/

/-- Regions that hold an image of a context. -/
def State.ctxRegions (s : State) (ctxid : Nat) : List Nat :=
  (s.regions.filter (fun r => r.2.core.grants.any (fun e => e.2.ctxid == ctxid)
    || r.2.images.any (fun i => i.core.grants.any (fun e => e.2.ctxid == ctxid)))).map (fun r => r.1)

/-- One journal record: bytes 0 to 59, STEP, zeros. -/
def journalRec (r : Nat × List Byte) : List Byte := (r.2 ++ List.replicate 60 0).take 60 ++ natToBytes 4 (r.1 % 256)

/-- The live threads of a context, resident and saved. -/
def State.threadsOf (s : State) (ctxid : Nat) : List Thread :=
  s.regions.flatMap (fun r => (r.2.core :: r.2.images.map (fun i => i.core)).flatMap (fun k =>
    (k.threads.filter (fun t => t.2.live && t.2.ctxid == ctxid)).map (fun t => t.2)))

/-- PRIO and QUANT of a context now in force: the highest and the lowest among its threads, those of its creation where it has none (19 R366; 16 R311;
log 60). -/
def State.inForce (s : State) (ctxid : Nat) (c : Ctx) : Nat × Nat :=
  let ts := s.threadsOf ctxid
  (((ts.map (fun t => t.prio.toNat)).max?).getD c.ceil.toNat, ((ts.map (fun t => t.quantNow.toNat)).min?).getD c.quant.toNat)

/-- The 512 bytes of a control block. -/
def State.ctrlBytes (s : State) (ctxid : Nat) (c : Ctx) : List Byte :=
  let st := if c.ending then 2 else if c.live then 1 else 0
  let param := c.o4.toNat % 4 + (if c.spriv then 4 else 0) + (s.inForce ctxid c).1 * 16 + (s.inForce ctxid c).2 * 2 ^ 32
  let regs := ((s.ctxRegions ctxid).map (fun g => 2 ^ g)).sum
  natToBytes 2 ctxid ++ natToBytes 1 c.func ++ natToBytes 1 st ++ natToBytes 2 (s.genOf ctxid).toNat ++ natToBytes 2 0
    ++ natToBytes 8 c.root ++ natToBytes 8 c.stable ++ natToBytes 8 c.save ++ natToBytes 8 param ++ natToBytes 8 c.o5.toNat
    ++ natToBytes 4 regs ++ List.replicate 204 (0 : Byte)
    ++ (List.range 4).flatMap (fun i => match Tab.get c.journal i with
        | some r => journalRec r
        | none => List.replicate 64 (0 : Byte))

/-- The Bureau writes a context's control block. -/
def State.syncCtrl (s : State) (ctxid : Nat) : State :=
  match Tab.get s.ctxs ctxid with
  | some c => s.writeFunc true c.func c.ctrl (s.ctrlBytes ctxid c)
  | none => s

/-- The control block written for a PRIO or QUANT that has come into force, where it is the accelerator's; else the next write brings it up to date
(log 60). -/
def State.syncParam (s : State) (ctxid : Nat) : State :=
  match Tab.get s.ctxs ctxid with
  | some c => if (s.heldFunc c.func c.ctrl 512).isSome then s else s.syncCtrl ctxid
  | none => s

/-- A context changed, and its control block with it. -/
def State.updCtx (s : State) (ctxid : Nat) (f : Ctx → Ctx) : State :=
  match Tab.get s.ctxs ctxid with
  | some c => { s with ctxs := Tab.set s.ctxs ctxid (f c) }.syncCtrl ctxid
  | none => s

/-- Bytes 0 to 59 of a command's journal record. -/
def HCmd.record (h : HCmd) : List Byte :=
  [h.e.o0, h.e.o1, h.e.o2, h.e.o3, h.e.o4, h.e.o5, h.e.o6].flatMap (fun o => natToBytes 8 o.toNat)
    ++ natToBytes 1 h.opc.toNat ++ natToBytes 1 h.q ++ natToBytes 2 h.e.cid.toNat

/-- Whether a command names a context that lives: its journal is then that context's (19 R366). -/
def HCmd.names (h : HCmd) : Option Nat :=
  if h.opc == 0x01 || h.opc == 0x08 || h.opc == 0x09 || h.opc == 0x0A || h.opc == 0x0C then none else some (h.e.o0.toNat % 4096)

/-- A journal record's STEP written, or the record freed. -/
def State.journalPut (s : State) (h : HCmd) (step : Option Nat) : State :=
  let put (t : Tab (Nat × List Byte)) : Tab (Nat × List Byte) := match step with
    | some n => Tab.set t h.jrec (n, h.record)
    | none => Tab.erase t h.jrec
  match h.jctx with
  | some c => s.updCtx c (fun x => { x with journal := put x.journal })
  | none => { s with journal := put s.journal }

/-- Whether every earlier command of a queue has completed. -/
def State.firstOf (s : State) (h : HCmd) : Bool := !s.hcmds.any (fun e => e.2.f == h.f && e.2.q == h.q && e.2.seq < h.seq)

/-- A journal record taken with STEP 1, if one is free and no earlier command waits for one: a command that ORDER holds does not yet. -/
def State.journalTake (s : State) (k : Nat) (h : HCmd) : Option State :=
  let waits (e : HCmd) : Bool := e.step == 1 && !e.journalled && e.seq < h.seq && e.names == h.names && (!e.e.flags.getLsbD 0 || s.firstOf e)
  if s.hcmds.any (fun e => waits e.2) then none
  else
    let go (jctx : Option Nat) (n : Nat) : State :=
      let h := { h with jctx := jctx, jrec := n, journalled := true }
      { s with hcmds := Tab.set s.hcmds k h }.journalPut h (some 1)
    match h.names with
    | some c => match Tab.get s.ctxs c with
      | some x => (Tab.free x.journal 4).map (go (some c))
      | none => none
    | none => (Tab.free s.journal 64).map (go none)

/-! ## Effects and completions (16 R302) -/

/-- A command's effects are performed: its completion follows. -/
def State.hostEffect (s : State) (k : Nat) (cause : Byte) (value : Nat) : State :=
  match Tab.get s.hcmds k with
  | some h =>
    if h.step ≥ 3 then s
    else
    let h := { h with step := 3, cause := cause, value := BitVec.ofNat 64 value }
    let s := { s with hcmds := Tab.set s.hcmds k h }
    if !h.journalled then s else s.journalPut h (some 3)
  | none => s

/-- A command that ends with a cause for which the manual states no VALUE: it is a free value (log 7). -/
def State.hostFail (s : State) (k : Nat) (cause : Byte) : State :=
  let (v, s) := s.free 64
  s.hostEffect k cause v.toNat

/-- A command that is aborted: ABRT = 1, CAUSE 0 and VALUE 0. -/
def State.hostAbort (s : State) (k : Nat) : State := (s.updHCmd k (fun h => { h with abrt := h.abrt || h.step < 3 })).hostEffect k 0 0

/-- A queue of a function. -/
def State.queue (s : State) (f q : Nat) : HQueue := Tab.getD (Tab.getD s.funcs f : Func).queues q
/-- A queue changed. -/
def State.updQueue (s : State) (f q : Nat) (h : HQueue → HQueue) : State :=
  { s with funcs := Tab.upd s.funcs f (fun x => { x with queues := Tab.upd x.queues q h }) }
/-- log2 of a queue's entries, and its completion ring: those of queue 0 are AQS and ACBASE (16 R300). -/
def State.queueSize (s : State) (f q : Nat) : Nat := if q == 0 then (Tab.getD s.funcs f : Func).aqs.toNat else (s.queue f q).qs
def State.queueRing (s : State) (f q : Nat) : Nat := if q == 0 then (Tab.getD s.funcs f : Func).aqbase.toNat else (s.queue f q).ring
def State.queueCring (s : State) (f q : Nat) : Nat := if q == 0 then (Tab.getD s.funcs f : Func).acbase.toNat else (s.queue f q).cring

/-- A completion entry written at CTAIL, which advances; PHASE inverts on each pass. -/
def State.complete (s : State) (f q : Nat) (cid : BitVec 16) (cause : Byte) (abrt : Bool) (value : W64) : State :=
  let h := s.queue f q
  let flg := (if h.phase then 1 else 0) + (if abrt then 2 else 0)
  let bs := natToBytes 2 q ++ natToBytes 2 cid.toNat ++ natToBytes 1 cause.toNat ++ natToBytes 1 flg ++ natToBytes 2 0
    ++ natToBytes 8 value.toNat
  let n := (h.ctail + 1) % 2 ^ s.queueSize f q
  (s.writeFunc false f (s.queueCring f q + 16 * h.ctail) bs).updQueue f q (fun h =>
    { h with ctail := n, phase := if n == 0 then !h.phase else h.phase, unread := h.unread + 1 })

/-- A command whose effects are performed completes, and its journal record is freed. -/
def State.hostComplete (s : State) (k : Nat) (h : HCmd) : State :=
  let s := { s with hcmds := Tab.erase s.hcmds k }
  let s := s.complete h.f h.q h.e.cid h.cause h.abrt h.value
  let s := if !h.journalled then s else s.journalPut h none
  match h.jctx with
  | some c => match Tab.get s.ctxs c with
    | some x => if x.live then s else { s with ctxs := Tab.erase s.ctxs c }
    | none => s
  | none => s

/-! ## The steps of a command -/

/-- MAP or UNMAP of stage 2 by the physical function: it names a context for its function (17 R348). -/
def HCmd.stage2 (h : HCmd) : Bool := h.f == 0 && (h.opc == 0x03 || h.opc == 0x04) && h.e.o0.getLsbD 16

/-- Why a command has no effect: a reserved byte, ABORT outside QUEUE_DESTROY, a context that is not live or of another function. -/
def State.hostRefusal (s : State) (h : HCmd) : Option Byte :=
  let bad := h.e.rsvd != 0 || h.e.flags.toNat ≥ 4 || (h.e.flags.getLsbD 1 && h.opc != 0x09)
  let ctx := match h.names with
    | some c => match Tab.get s.ctxs c with
      | some x => !x.live || x.ending || (x.func != h.f && !h.stage2)
      | none => true
    | none => false
  if bad || ctx then some Cause.cmdInvalid else none

/-- A place that a step of a command would write and that the host owns: in the control block of its context, or in its queue's completion
ring. The step waits until it is the accelerator's (17 R349). -/
def State.hostHeld (s : State) (h : HCmd) : Option Place :=
  ((h.names.bind (fun c => Tab.get s.ctxs c)).bind (fun c => s.heldFunc c.func c.ctrl 512)).or
    (if h.step ≥ 3 then s.heldFunc h.f (s.queueCring h.f h.q + 16 * (s.queue h.f h.q).ctail) 16 else none)

/-- What a step of a command does, once what it writes is the accelerator's. -/
def State.hostOwn (s : State) (k : Nat) (h : HCmd) (go : State → State) : Out := match s.hostHeld h with
  | some pl => .next (s.claim (.hostCmd k) pl 0 true)
  | none => .next (go s)

/-- An entry whose OPC names no command completes with CMD_INVALID and has no effect (16 R302). -/
def State.hostUndefined (s : State) (k : Nat) : State :=
  match Tab.get s.hcmds k with
  | none => s
  | some h =>
    if !s.bureau || (hostOf h.opc h.e).isSome then s
    else match s.hostHeld h with
    | some pl => s.claim (.hostCmd k) pl 0 true
    | none =>
    if h.step ≥ 3 then s.hostComplete k h
    else if h.e.flags.getLsbD 0 && !s.firstOf h then s
    else s.hostFail k Cause.cmdInvalid

/-- A journalled command starts: its record's STEP is 2. -/
def State.hostRun (s : State) (k : Nat) (h : HCmd) : State :=
  let h := { h with step := 2 }
  { s with hcmds := Tab.set s.hcmds k h }.journalPut h (some 2)

/-- A step of a host command: it waits while the Bureau does not serve; with ORDER = 1 until it is the first of its queue; for a journal
record, which it takes with STEP 1 and sets to 2 as it starts; then its own steps, and its completion. `pre` gives a cause from its operands alone. -/
def State.hostStep (s : State) (e : HostEntry) (pre : HCmd → State → Option Byte) (f : Nat → HCmd → State → State) : Out :=
  match s.cur with
  | .hostCmd k =>
    match Tab.get s.hcmds k with
    | none => .next s
    | some h =>
      let h := { h with e := e }
      if !s.bureau then .next s
      else s.hostOwn k h (fun s =>
        if h.step ≥ 3 then s.hostComplete k h
        else if h.step == 2 then f k h s
        else if h.journalled then match s.hostRefusal h with
          | some c => s.hostFail k c
          | none => s.hostRun k h
        else if h.e.flags.getLsbD 0 && !s.firstOf h then s
        else match (pre h s).or (s.hostRefusal h) with
          | some c => s.hostFail k c
          | none => (s.journalTake k h).getD s)
  | _ => .fault .wrongAgent

end Sys2Proof.Machine
end

