-- ==== Sys2Proof/Machine/Lectern.lean ====
section
/-!
DEFINITION. Lectern words: integer words, loads and stores, branches, command registers and ports, counters, bonds, barriers,
phases and fences (06 R164 to R184).
-/

namespace Sys2Proof.Machine
open Sys2Proof.Num

/-! ## Issue (06 R165, R167) -/

/-- Whether a load that has not been delivered writes the register: 0 to 31 general, 32 + c command registers. -/
def Core.loadDue (k : Core) (x : CtxNo) (n : Nat) : Bool :=
  n != 0 && k.accs.any (fun a => a.port == .thread x && a.op == .read && a.reg == n)

/-- Whether an access of a thread is parked. -/
def Core.threadParked (k : Core) (x : CtxNo) : Bool := k.accs.any (fun a => a.port == .thread x && (match a.phase with
  | .parked .. => true
  | _ => false))

/-- Whether the thread may issue: it lives, it is not halted, ending or held at a parked access, its context is not frozen and
its region runs (06 R171, R190, R192, R194; 16 R307, R314). -/
def State.runnable (s : State) (w : Who) : Bool :=
  match w with
  | .prog g x =>
    let t := s.thread g x
    let r := s.reg g
    t.live && !t.halted && t.ending.isNone && t.hold.isNone && !r.core.threadParked x && !(Tab.getD r.core.frozen x.toNat) && r.runs
  | .micro g => (s.reg g).micro.running && !(s.reg g).micro.stopped && !(s.reg g).micro.ofService

/-- Whether no register of a list awaits a load (06 R167). -/
def State.regsReady (s : State) (w : Who) (regs : List Nat) : Bool :=
  match w with
  | .prog g x => !regs.any (fun n => (s.core g).loadDue x n)
  | .micro _ => true

/-- A word of either kind of thread: held while it may not issue. -/
def State.issue (s : State) (regs : List Nat) (f : Who → Thread → State) : Out :=
  match s.who with
  | none => .fault .wrongAgent
  | some w => if s.runnable w && s.regsReady w regs then .next (f w (s.th w)) else .next s

/-- A word that only a program thread has the registers for: in the microprogram thread it is a trap condition (06 R165, R186;
log 20). -/
def State.issueProg (s : State) (regs : List Nat) (f : RegionNo → CtxNo → Thread → State) : Out :=
  s.issue regs (fun w t => match w with
    | .prog g x => f g x t
    | .micro g => s.microStop g)

/-- A word that writes one register. -/
def State.setWord (s : State) (d : BitVec 5) (regs : List (BitVec 5)) (f : Thread → W64) : Out :=
  s.issue ((d :: regs).map BitVec.toNat) (fun w t => s.updTh w (fun _ => (t.wg d (f t)).step))

/-- A thread waits at its word (17 R339). -/
def State.waitTh (s : State) (g : RegionNo) (x : CtxNo) (kind obj agent : Nat) : State :=
  s.updThread g x (fun t => { t with wait := some { (match t.wait with
    | some w => if w.kind == kind then w else { since := s.tick }
    | none => { since := s.tick }) with kind := kind, obj := obj, agent := agent } })

/-! ## Integer words (06 R169) -/

/-- A word of two registers. -/
def State.alu (s : State) (d a b : BitVec 5) (f : W64 → W64 → W64) : Out := s.setWord d [a, b] (fun t => f (t.rg a) (t.rg b))
/-- A word of a register and an immediate. -/
def State.aluImm (s : State) (d a : BitVec 5) (f : W64 → W64) : Out := s.setWord d [a] (fun t => f (t.rg a))

/-- `add`. -/
def execAdd (d a b : BitVec 5) (s : State) : Out := s.alu d a b (· + ·)
/-- `sub`. -/
def execSub (d a b : BitVec 5) (s : State) : Out := s.alu d a b (· - ·)
/-- `mul`. -/
def execMul (d a b : BitVec 5) (s : State) : Out := s.alu d a b (· * ·)
/-- `mulh`: bits 127 to 64 of the signed product. -/
def execMulh (d a b : BitVec 5) (s : State) : Out := s.alu d a b (fun x y => BitVec.ofInt 64 (x.toInt * y.toInt / 2 ^ 64))
/-- `div`: divisor 0 gives −1 (02 R52). -/
def execDiv (d a b : BitVec 5) (s : State) : Out :=
  s.alu d a b (fun x y => if y == 0 then BitVec.allOnes 64 else BitVec.ofInt 64 (x.toInt.tdiv y.toInt))
/-- `rem`: divisor 0 gives a (02 R52). -/
def execRem (d a b : BitVec 5) (s : State) : Out :=
  s.alu d a b (fun x y => if y == 0 then x else BitVec.ofInt 64 (x.toInt.tmod y.toInt))
/-- `and`. -/
def execLecternAnd (d a b : BitVec 5) (s : State) : Out := s.alu d a b (· &&& ·)
/-- `or`. -/
def execLecternOr (d a b : BitVec 5) (s : State) : Out := s.alu d a b (· ||| ·)
/-- `xor`. -/
def execLecternXor (d a b : BitVec 5) (s : State) : Out := s.alu d a b (· ^^^ ·)
/-- `sll`. -/
def execSll (d a b : BitVec 5) (s : State) : Out := s.alu d a b (fun x y => x <<< (y.toNat % 64))
/-- `srl`. -/
def execSrl (d a b : BitVec 5) (s : State) : Out := s.alu d a b (fun x y => x >>> (y.toNat % 64))
/-- `sra`. -/
def execSra (d a b : BitVec 5) (s : State) : Out := s.alu d a b (fun x y => x.sshiftRight (y.toNat % 64))
/-- `slt`. -/
def execSlt (d a b : BitVec 5) (s : State) : Out := s.alu d a b (fun x y => if x.slt y then 1 else 0)
/-- `sltu`. -/
def execSltu (d a b : BitVec 5) (s : State) : Out := s.alu d a b (fun x y => if x.ult y then 1 else 0)
/-- `addi`. -/
def execAddi (d a : BitVec 5) (imm : BitVec 16) (s : State) : Out := s.aluImm d a (· + imm.signExtend 64)
/-- `andi`. -/
def execAndi (d a : BitVec 5) (imm : BitVec 16) (s : State) : Out := s.aluImm d a (· &&& imm.zeroExtend 64)
/-- `ori`. -/
def execOri (d a : BitVec 5) (imm : BitVec 16) (s : State) : Out := s.aluImm d a (· ||| imm.zeroExtend 64)
/-- `xori`. -/
def execXori (d a : BitVec 5) (imm : BitVec 16) (s : State) : Out := s.aluImm d a (· ^^^ imm.zeroExtend 64)
/-- `slli`. -/
def execSlli (d a : BitVec 5) (n : BitVec 6) (s : State) : Out := s.aluImm d a (· <<< n.toNat)
/-- `srli`. -/
def execSrli (d a : BitVec 5) (n : BitVec 6) (s : State) : Out := s.aluImm d a (· >>> n.toNat)
/-- `srai`. -/
def execSrai (d a : BitVec 5) (n : BitVec 6) (s : State) : Out := s.aluImm d a (·.sshiftRight n.toNat)
/-- `slti`. -/
def execSlti (d a : BitVec 5) (imm : BitVec 16) (s : State) : Out :=
  s.aluImm d a (fun x => if x.slt (imm.signExtend 64) then 1 else 0)
/-- `lui`. -/
def execLui (d : BitVec 5) (imm : BitVec 16) (s : State) : Out := s.setWord d [] (fun _ => (imm ++ (0#16)).signExtend 64)
/-- `adr`. -/
def execAdr (d : BitVec 5) (imm : BitVec 16) (s : State) : Out := s.setWord d [] (fun t => t.pc + (imm.signExtend 64 <<< 2))

/-! ## Loads and stores (06 R170 to R172) -/

/-- The check of a thread's address, in the order of 06 R171: the place of a bank address, or none for the classes that are
translated later. -/
def lecternCheck (g : RegionNo) (gr : Grant) (va n : Nat) : Except Byte (Option Place) :=
  if va % n != 0 then .error Cause.misaligned
  else if clsOf va == 4 then .ok none
  else match classFault va with
    | some c => .error c
    | none => if clsOf va == 0xC then (bankPlace g gr (va % 2 ^ 24) n).map some else .ok none

/-- A thread's access issues: its word is passed unless its translation fails, when the thread stands at it (06 R171, 17 R335). -/
def State.issueAcc (s : State) (g : RegionNo) (x : CtxNo) (t : Thread) (a : Acc) (va n : Nat) : State :=
  match lecternCheck g (s.grant g x) va n with
  | .error c => s.trapEntry g x c (BitVec.ofNat 64 va) t.pc
  | .ok pl =>
    let a := { a with id := s.tick, seq := s.tick, port := .thread x, ctxid := t.ctxid, gen := t.gen, addr := va, n := n, size := n }
    match pl with
    | some pl => (s.updThread g x Thread.step).joinAcc g { a with phase := .ready pl }
    | none =>
      if clsOf va == 4 then (s.updThread g x Thread.step).joinAcc g { a with phase := .entering }
      else
        let s := s.startOrdinary g a
        let parked := match s.acc g a.id with
          | some b => (match b.phase with | .parked .. => true | _ => false)
          | none => false
        s.updThread g x (fun t => if parked then { t with hold := some (a.id, true) } else t.step)

/-- A load or store of the microprogram thread: it reaches the banks of its region (log 20). -/
def State.microAcc (s : State) (g : RegionNo) (va n : Nat) (wr : Bool) (f : Nat → State) : State :=
  if va % n != 0 || clsOf va != 0xC || bits va 24 59 != 0 || s.spoiled { bank := true, g := g, pa := va % 2 ^ 24 } n wr then s.microStop g
  else f (g.toNat * 2 ^ 24 + va % 2 ^ 24)

/-- A load of n bytes (06 R170). -/
def State.loadWord (s : State) (d a : BitVec 5) (off : BitVec 16) (n : Nat) : Out :=
  s.issue [d.toNat, a.toNat] (fun w t =>
    let va := (t.rg a + off.signExtend 64).toNat
    match w with
    | .prog g x => s.issueAcc g x t { op := .read, reg := d.toNat } va n
    | .micro g => s.microAcc g va n false (fun p =>
        s.updTh w (fun t => (t.deliver d.toNat n (leNat (s.banks.readN p n))).step)))

/-- A store of n bytes: it waits while eight stores of the thread have not performed (06 R170, R172). -/
def State.storeWord (s : State) (a b : BitVec 5) (off : BitVec 16) (n : Nat) : Out :=
  s.issue [a.toNat, b.toNat] (fun w t =>
    let va := (t.rg a + off.signExtend 64).toNat
    let d := natToBytes n ((t.rg b).toNat % 2 ^ (8 * n))
    match w with
    | .prog g x =>
      if ((s.core g).accs.filter (fun e => e.port == .thread x && e.wr && !e.done)).length ≥ 8 then s.waitTh g x 15 va 0xFF
      else s.issueAcc g x t { op := .write d, wr := true } va n
    | .micro g => s.microAcc g va n true (fun p =>
        (s.writePlace { bank := true, g := g, pa := p - g.toNat * 2 ^ 24 } d).updTh w Thread.step))

/-- `ld.b`. -/
def execLdB (d a : BitVec 5) (off : BitVec 16) (s : State) : Out := s.loadWord d a off 1
/-- `ld.h`. -/
def execLdH (d a : BitVec 5) (off : BitVec 16) (s : State) : Out := s.loadWord d a off 2
/-- `ld.w`. -/
def execLdW (d a : BitVec 5) (off : BitVec 16) (s : State) : Out := s.loadWord d a off 4
/-- `ld.d`. -/
def execLdD (d a : BitVec 5) (off : BitVec 16) (s : State) : Out := s.loadWord d a off 8
/-- `st.b`. -/
def execStB (a b : BitVec 5) (off : BitVec 16) (s : State) : Out := s.storeWord a b off 1
/-- `st.h`. -/
def execStH (a b : BitVec 5) (off : BitVec 16) (s : State) : Out := s.storeWord a b off 2
/-- `st.w`. -/
def execStW (a b : BitVec 5) (off : BitVec 16) (s : State) : Out := s.storeWord a b off 4
/-- `st.d`. -/
def execStD (a b : BitVec 5) (off : BitVec 16) (s : State) : Out := s.storeWord a b off 8

/-! ## Branches and jumps (06 R173) -/

/-- A branch. -/
def State.branch (s : State) (a b : BitVec 5) (off : BitVec 16) (cond : W64 → W64 → Bool) : Out :=
  s.issue [a.toNat, b.toNat] (fun w t => s.updTh w (fun t' =>
    if cond (t.rg a) (t.rg b) then { t' with pc := t.pc + (off.signExtend 64 <<< 2) } else t'.step))

/-- `beq`. -/
def execBeq (a b : BitVec 5) (off : BitVec 16) (s : State) : Out := s.branch a b off (fun x y => x == y)
/-- `bne`. -/
def execBne (a b : BitVec 5) (off : BitVec 16) (s : State) : Out := s.branch a b off (fun x y => x != y)
/-- `blt`. -/
def execBlt (a b : BitVec 5) (off : BitVec 16) (s : State) : Out := s.branch a b off (fun x y => x.slt y)
/-- `bge`. -/
def execBge (a b : BitVec 5) (off : BitVec 16) (s : State) : Out := s.branch a b off (fun x y => !x.slt y)
/-- `bltu`. -/
def execBltu (a b : BitVec 5) (off : BitVec 16) (s : State) : Out := s.branch a b off (fun x y => x.ult y)
/-- `bgeu`. -/
def execBgeu (a b : BitVec 5) (off : BitVec 16) (s : State) : Out := s.branch a b off (fun x y => !x.ult y)
/-- `jal`. -/
def execJal (off : BitVec 26) (s : State) : Out :=
  s.issue [31] (fun w t => s.updTh w (fun _ => { t.wg 31 (t.pc + 4) with pc := t.pc + (off.signExtend 64 <<< 2) }))
/-- `jalr`: the base is read before the destination is written; a misaligned target traps and writes nothing. -/
def execJalr (d a : BitVec 5) (off : BitVec 16) (s : State) : Out :=
  s.issue [d.toNat, a.toNat] (fun w t =>
    let target := t.rg a + off.signExtend 64
    if target.toNat % 4 != 0 then s.trap w Cause.misaligned target t.pc
    else s.updTh w (fun _ => { t.wg d (t.pc + 4) with pc := target }))

/-! ## Command registers and ports (06 R174 to R176) -/

/-- `cld`: one load of 16 bytes. -/
def execCld (c : BitVec 3) (g : BitVec 5) (n : BitVec 10) (s : State) : Out :=
  s.issueProg [32 + c.toNat, g.toNat] (fun r x t =>
    s.issueAcc r x t { op := .read, reg := 32 + c.toNat } (t.rg g + (n.signExtend 64 <<< 4)).toNat 16)

/-- Lowest bit and width of a part of a command register. -/
def partBits (part : BitVec 3) : Nat × Nat :=
  match part.toNat with
  | 0 => (0, 32) | 1 => (32, 32) | 2 => (64, 32) | 3 => (0, 64) | 4 => (96, 16) | 5 => (112, 16) | 6 => (0, 128) | _ => (32, 64)

/-- A part of a command register replaced; `clr` writes zero. -/
def setPart (w : W128) (part : BitVec 3) (v : W64) : W128 :=
  let (lo, n) := partBits part
  let mask : W128 := BitVec.ofNat 128 ((2 ^ n - 1) <<< lo)
  (w &&& ~~~mask) ||| (if part == 6 then 0 else BitVec.ofNat 128 ((v.toNat % 2 ^ n) <<< lo))

/-- `cset`. -/
def execCset (c : BitVec 3) (g : BitVec 5) (part : BitVec 3) (s : State) : Out :=
  s.issueProg [32 + c.toNat, g.toNat] (fun r x t =>
    s.updThread r x (fun t' => { t'.step with c := Tab.set t'.c c.toNat (setPart (t.creg c) part (t.rg g)) }))

/-- `cget`. -/
def execCget (c : BitVec 3) (g : BitVec 5) (part : BitVec 3) (s : State) : Out :=
  s.issueProg [32 + c.toNat, g.toNat] (fun r x t =>
    let (lo, n) := partBits part
    s.updThread r x (fun t' => (t'.wg g (BitVec.ofNat 64 (((t.creg c).toNat >>> lo) % 2 ^ n))).step))

/-- A response element (03 R89). -/
def respElem (w : W128) (cause : Byte) (value : W32) : W64 := fld w 120 8 ++ cause ++ fld w 96 16 ++ value

/-- Why a command is refused at `cissue`: cause and VALUE (03 R89, R91; 00 R16). -/
def refusal (spriv : Bool) (w : W128) : Option (Byte × W32) :=
  let code : BitVec 8 := fld w 120 8
  if FrameRules.needsService code && !spriv then some (Cause.privileged, 0xFE)
  else if (frameOf code (frameFields w)).isNone then some (Cause.cmdInvalid, 0xFF)
  else (FrameRules.offending code (frameFields w)).map (fun n => (Cause.cmdInvalid, BitVec.ofNat 32 n))

/-- A port of a thread. -/
def Thread.port (t : Thread) (p : BitVec 4) : Port := Tab.getD t.ports p.toNat

/-- A port of a thread changed. -/
def Thread.updPort (t : Thread) (p : BitVec 4) (f : Port → Port) : Thread := { t with ports := Tab.upd t.ports p.toNat f }

/-- `cissue`: the command joins its port's issue queue; a refused one takes its place with its response and the thread traps
(06 R175, 03 R91). -/
def execCissue (c : BitVec 3) (port : BitVec 4) (s : State) : Out :=
  s.issueProg [32 + c.toNat] (fun r x t =>
    let p := t.port port
    let w := t.creg c
    let id := s.tick
    let cmd : Cmd := { x := x, port := port, w := w, ctxid := t.ctxid, gen := t.gen, kernel := t.kernel, g := r, after := id, seq := id }
    if p.iq.length ≥ 8 then s.waitTh r x 7 (16 + port.toNat) 0xFF
    else if (refusal t.spriv w).isSome && s.loadsOut r x then s
    else
      let join (cmd : Cmd) : State :=
        (s.updCore r (fun k => { k with cmds := Tab.set k.cmds id cmd })).updThread r x (fun t =>
          t.updPort port (fun p => { p with iq := p.iq ++ [id] }))
      match refusal t.spriv w with
      | none => (join cmd).updThread r x Thread.step
      | some (cause, value) =>
        let e := respElem w cause value
        let s := if p.iq.isEmpty && p.order.isEmpty && p.rq.length < 8 then
            s.updThread r x (fun t => { t.updPort port (fun p => { p with rq := p.rq ++ [e] }) with woken := true })
          else join { cmd with done := true, cause := cause, value := value, w := w }
        s.trapEntry r x cause e t.pc)

/-- `cwait`: the oldest response is taken; with NB an empty queue gives 0 (06 R176). -/
def execCwait (g : BitVec 5) (port : BitVec 4) (nb : Bool) (s : State) : Out :=
  s.issueProg [g.toNat] (fun r x t =>
    match (t.port port).rq with
    | e :: rest => s.updThread r x (fun t => ((t.updPort port (fun p => { p with rq := rest })).wg g e).step)
    | [] => if nb then s.updThread r x (fun t => (t.wg g 0).step) else s.waitTh r x 7 port.toNat 0xFF)

/-! ## Counters (06 R177, R178) -/

/-- The comparand of a counter word. -/
def Thread.comparand (t : Thread) (g : BitVec 5) (imm : BitVec 10) : W32 := (t.rg g).truncate 32 + imm.zeroExtend 32

/-- A counter set, the condition of a `kwait` at which the thread waits noted (06 R177). -/
def Thread.putCounter (t : Thread) (k : BitVec 4) (v : W32) : Thread :=
  let t := t.setCounter k v
  match t.wait, decodeLectern (t.prog.getD (t.pc.toNat / 4) 0) with
  | some w, .ok (.kwait k' cond g imm) =>
    if w.kind == 6 && k' == k && kCond cond v (t.comparand g imm) then { t with latched := true } else t
  | _, _ => t

/-- A counter incremented by a completion or an armed port (06 R178). -/
def State.bump (s : State) (g : RegionNo) (x : CtxNo) (k : BitVec 4) : State :=
  s.updThread g x (fun t => t.putCounter k (t.counter k + 1))

/-- `kset`. -/
def execKset (k : BitVec 4) (g : BitVec 5) (imm : BitVec 10) (s : State) : Out :=
  s.issueProg [g.toNat] (fun r x t => s.updThread r x (fun t' => (t'.setCounter k (t.comparand g imm)).step))
/-- `kadd`. -/
def execKadd (k : BitVec 4) (g : BitVec 5) (imm : BitVec 10) (s : State) : Out :=
  s.issueProg [g.toNat] (fun r x t => s.updThread r x (fun t' => (t'.setCounter k (t.counter k + t.comparand g imm)).step))
/-- `krd`. -/
def execKrd (k : BitVec 4) (g : BitVec 5) (s : State) : Out :=
  s.issueProg [g.toNat] (fun r x t => s.updThread r x (fun t' => (t'.wg g ((t.counter k).zeroExtend 64)).step))
/-- `kwait` (06 R177). -/
def execKwait (k : BitVec 4) (cond : BitVec 3) (g : BitVec 5) (imm : BitVec 10) (s : State) : Out :=
  s.issueProg [g.toNat] (fun r x t =>
    if t.latched || kCond cond (t.counter k) (t.comparand g imm) then s.updThread r x Thread.step
    else s.waitTh r x 6 k.toNat 0xFF)

/-! ## Bonds, barriers, phases, fences (06 R181 to R184) -/

/-- `bdset`: a value of 1 to 256 (06 R181). -/
def execBdset (b : BitVec 4) (g : BitVec 5) (imm : BitVec 10) (s : State) : Out :=
  s.issueProg [g.toNat] (fun r x t =>
    let n := t.rg g + imm.zeroExtend 64
    if 1 ≤ n.toNat && n.toNat ≤ 256 then s.updThread r x (fun t' => { t'.step with bd := Tab.set t'.bd b.toNat (n.truncate 16) })
    else s.trapEntry r x Cause.bondRange n t.pc)
/-- `bdrd` (06 R181). -/
def execBdrd (b : BitVec 4) (g : BitVec 5) (s : State) : Out :=
  s.issueProg [g.toNat] (fun r x t => s.updThread r x (fun t' => (t'.wg g ((t.bond b).zeroExtend 64)).step))

/-- Whether every load and store that the thread has issued has performed. -/
def Core.threadDone (k : Core) (x : CtxNo) : Bool := !k.accs.any (fun a => a.port == .thread x && !a.done)

/-- `bwarr`: an arrival once the thread's accesses have performed, then a wait for the opening (06 R182). -/
def execBwarr (g : BitVec 5) (s : State) : Out :=
  s.issueProg [g.toNat] (fun r x t =>
    let v := t.rg g
    let off := v.toNat % 2 ^ 24
    let trap (c : Byte) : State := s.trapEntry r x c v t.pc
    match t.bwarr with
    | some (o, gen) =>
      let b := Barrier.of (s.banks.readN (r.toNat * 2 ^ 24 + o) 16)
      if s.spoiled { bank := true, g := r, pa := o } 16 false then s.threadFatal r x s.tick v.toNat false else
      if b.gen == gen then s.waitTh r x 8 off 0xFF else s.updThread r x (fun t => { t.step with bwarr := none })
    | none =>
      if off % 16 != 0 then trap Cause.misaligned
      else if v.toNat ≥ 2 ^ 24 then trap Cause.addrClass
      else match bankPlace r (s.grant r x) off 16 with
        | .error c => trap c
        | .ok pl =>
          if !(s.core r).threadDone x then s.waitTh r x 8 off 0xFF
          else if s.spoiled pl 16 false then s.threadFatal r x s.tick v.toNat true
          else
            let b := Barrier.of (s.readPlace pl 16)
            if b.exp == 0 then trap Cause.illegal
            else match b.arrive with
              | none => s.waitTh r x 8 off 0xFF
              | some b' =>
                let s := s.writePlace pl b'.bytes
                if b'.gen != b.gen then s.updThread r x Thread.step
                else (s.updThread r x (fun t => { t with bwarr := some (pl.pa, b.gen) })).waitTh r x 8 off 0xFF)

/-- Whether a cell access of a resident context has not performed; one that has faulted has not (06 R183; 09 R232, R233). -/
def Core.cellsOut (k : Core) (x : CtxNo) : Bool := k.accs.any (fun a => a.cell?.isSome && a.ctx == x && !a.done)

/-- A phase counter (09 R232). -/
def Core.bumpPhase (k : Core) (x : CtxNo) : Core := { k with phase := Tab.upd k.phase x.toNat (· + 1) }

/-- `phase`: held until the accesses of the context's cells and of the thread have performed (06 R183). The manual lists no wait kind for
it: its wait has kind 15 and no object (log 64). -/
def execPhase (g : BitVec 5) (s : State) : Out :=
  s.issueProg [g.toNat] (fun r x _ =>
    let k := s.core r
    if k.cellsOut x || !k.threadDone x then s.waitTh r x 15 0 0xFF
    else
      let s := s.updCore r (fun k => k.bumpPhase x)
      let v : BitVec 16 := Tab.getD (s.core r).phase x.toNat
      s.updThread r x (fun t => (t.wg g (v.zeroExtend 64)).step))

/-- Whether every command of the thread has posted its response. -/
def Thread.allPosted (t : Thread) : Bool := t.ports.all (fun p => p.2.iq.isEmpty && p.2.order.isEmpty)

/-- Whether every CXL write completion and Voing acknowledgement of a thread's accesses and commands has come (09 R235); a kernel has one
thread in a region. -/
def State.visible (s : State) (g : RegionNo) (kernel : Nat) : Bool :=
  !s.cxl.any (fun e => e.2 == some (g, kernel)) && s.links.all (fun l => !l.2.unacked.any (fun e => e.1 == some (g, kernel)))

/-- `fence`: every access that the cells have started in the context has performed (09 R233), and the events of its scope have come (06 R184,
09 R235; log 24). -/
def execFence (scope : BitVec 4) (s : State) : Out :=
  s.issueProg [] (fun r x t =>
    let done := !(s.core r).cellsOut x && (s.core r).threadDone x && (scope.toNat == 0 || t.allPosted)
      && (scope.toNat != 4 || s.visible r t.kernel)
    if done then s.updThread r x Thread.step else s)

end Sys2Proof.Machine
end

