-- ==== Sys2Proof/Machine/LecternSys.lean ====
section
/-!
DEFINITION. Status registers, traps, the end of threads, the microprogram thread, the debugger (06 R185 to R196; 08 R226; 17 R336,
R338; 18 R351).
-/

namespace Sys2Proof.Machine

/-! ## Status registers (06 R168, R185) -/

/-- A status register's value. -/
def Thread.status (t : Thread) (w : Who) (r : BitVec 4) : W64 :=
  let (g, x, mp) := match w with
    | .prog g x => (g, x, false)
    | .micro g => (g, 0, true)
  match r.toNat with
  | 0 => t.lstat mp
  | 1 => t.lcause.zeroExtend 64
  | 2 => t.lepcReg
  | 3 => t.ltvec
  | 4 => t.lval
  | 5 => t.lctx g x
  | 6 => t.lprio
  | _ => t.lquant

/-- A status register written: only its RW fields change. -/
def Thread.setStatus (t : Thread) (r : Nat) (v : W64) : Thread :=
  match r with
  | 1 => { t with lcause := v.truncate 8 }
  | 2 => { t with lepc := v.extractLsb' 2 12 }
  | 3 => { t with vec := v.extractLsb' 2 12, en := v.getLsbD 0 }
  | 4 => { t with lval := v }
  | 6 => { t with prio := if (v.toNat % 4) > t.ceil.toNat then t.ceil else v.truncate 2 }
  | 7 => if t.spriv then { t with quant := if v.toNat % 2 ^ 32 < 100 then 100 else v.truncate 32 } else t
  | _ => t

/-- The status registers that the microprogram thread holds: `lstat`, `lcause`, `lepc` and `lval` (06 R165, R186, R192). -/
def microStatus (r : BitVec 4) : Bool := r == 0 || r == 1 || r == 2 || r == 4

/-- A word on a status register: one that the microprogram thread does not hold is a trap condition there (log 20). -/
def State.statusWord (s : State) (r : BitVec 4) (g : BitVec 5) (f : Who → Thread → State) : Out :=
  s.issue [g.toNat] (fun w t => match w with
    | .micro h => if microStatus r then f w t else s.microStop h
    | _ => f w t)

/-- `rdst`. -/
def execRdst (r : BitVec 4) (g : BitVec 5) (s : State) : Out :=
  s.statusWord r g (fun w t => s.updTh w (fun t' => (t'.wg g (t.status w r)).step))

/-- The generators that `wrst lseed` names: one cell, or every cell of the region (06 R168, 02 R58). -/
def State.seedGens (s : State) (g : RegionNo) (imm : BitVec 10) (sd : BitVec 16) : State :=
  let seed (s : State) (c : CellNo) : State := s.setGen g c (Num.seed sd (cellIdent g c))
  if imm.getLsbD 8 then (List.range 256).foldl (fun s c => seed s (BitVec.ofNat 8 c)) s else seed s (imm.truncate 8)

/-- `wrst`. -/
def execWrst (r : BitVec 4) (g : BitVec 5) (imm : BitVec 10) (s : State) : Out :=
  s.statusWord r g (fun w t =>
    let v := t.rg g
    let s := if r.toNat == 8 then s.seedGens w.g imm (v.truncate 16) else s.updTh w (fun t => t.setStatus r.toNat v)
    let s := if r.toNat == 6 then s.syncParam t.ctxid else s
    s.updTh w Thread.step)

/-! ## Traps (06 R186 to R188, R196; 03 R94) -/

/-- `trap`: `lepc` is the next word. -/
def execTrap (code : BitVec 10) (s : State) : Out :=
  s.issue [] (fun w t => s.trap w Cause.trap (code.zeroExtend 64) (t.pc + 4))

/-- The word of an instruction. -/
def wordOf (i : Instr) : W64 := ((encodeLectern i).getD 0).zeroExtend 64

/-- `eret`: return from a trap; without one ILLEGAL_INSTRUCTION; in the microprogram thread the end of its run (06 R188, R192). -/
def execEret (s : State) : Out :=
  s.issue [] (fun w t => match w with
    | .prog g x => if t.tr then s.updThread g x Thread.eret else s.trapEntry g x Cause.illegal (wordOf .eret) t.pc
    | .micro g => s.setReg g { s.reg g with micro := { (s.reg g).micro with running := false } })

/-- `brk`: the thread halts for a debugger, or traps (06 R196). -/
def execBrk (s : State) : Out :=
  s.issue [] (fun w t =>
    if t.dbge then s.updTh w (fun t => { t.step with halted := true })
    else s.trap w Cause.breakpoint t.pc (t.pc + 4))

/-- A word of no meaning: PRIVILEGED_INSTRUCTION for op 0x3F outside microprogram mode, else ILLEGAL_INSTRUCTION (03 R94). -/
def execUndefinedWord (word : W32) (s : State) : Out :=
  s.issue [] (fun w t =>
    let c := match w with
      | .prog .. => if fld word 26 6 == 0x3F#6 then Cause.privileged else Cause.illegal
      | .micro _ => Cause.illegal
    s.trap w c (word.zeroExtend 64) t.pc)

/-- A fetch at or beyond the section's length (06 R166). -/
def execFetchBeyondSection (s : State) : Out := s.issue [] (fun w t => s.trap w Cause.illegal t.pc t.pc)

/-- A stream fault reaches its thread, once the loads before it have been delivered: the access and every later one not performed are
discarded, and the thread traps at the word at which it stands, which it abandons; a thread in `lexit` ends (08 R226). -/
def execStreamAccessFault (g : RegionNo) (x : CtxNo) (s : State) : Out :=
  match (s.core g).accs.find? (fun a => a.port == .thread x && (match a.phase with | .faulted _ => true | _ => false)) with
  | none => .next s
  | some a =>
    let c := match a.phase with
      | .faulted c => if c == Cause.streamPeerGone then Cause.streamClosed else c
      | _ => 0
    let drop (e : Acc) : Bool := e.port == .thread x && e.id ≥ a.id && !e.done
    if (s.core g).accs.any (fun e => e.port == .thread x && e.op == .read && e.id < a.id) then .next s
    else
    let gone := (s.core g).accs.filter drop
    let s := gone.foldl (fun s e => if clsOf e.addr == 4 then s.clearWait e.scb (.acc g e.id) else s) s
    let s := s.updCore g (fun k => { k with accs := k.accs.filter (fun e => !drop e) })
    let s := s.updThread g x (fun t => { t with hold := none })
    let t := s.thread g x
    let v : W64 := BitVec.ofNat 64 a.addr
    .next (match t.ending with
      | some e => if e.kill then (s.updThread g x (fun t => { t with ending := none })).trapEntry g x c v t.pc else s.stopThread g x c v
      | none => s.trapEntry g x c v t.pc)

/-! ## Waiting for events, ending (06 R189 to R191) -/

/-- `idle`: held from its issue until an event of the thread (06 R189). -/
def execIdle (s : State) : Out :=
  s.issueProg [] (fun g x t =>
    match t.wait with
    | some w =>
      if w.kind == 13 then
        (if t.woken then s.updThread g x (fun t => { t.step with woken := false }) else s)
      else (s.updThread g x (fun t => { t with woken := false })).waitTh g x 13 0 0xFF
    | none => (s.updThread g x (fun t => { t with woken := false })).waitTh g x 13 0 0xFF)

/-- Response elements discarded, their places freed. -/
def Thread.discard (t : Thread) : Thread := { t with ports := Tab.mapVal t.ports (fun _ p => { p with rq := [] }) }

/-- A thread ends with an exit code: its registers are discarded and the code is kept for its kernel (06 R190, R191). -/
def State.endThread (s : State) (g : RegionNo) (x : CtxNo) (code : W32) : State :=
  let t := s.thread g x
  let s := s.updKernel t.kernel (fun k => { k with exits := Tab.set k.exits t.kreg code })
  (s.updCore g (fun c => c.disarm x)).updThread g x (fun _ => { ctxid := t.ctxid, gen := t.gen, kernel := t.kernel, kreg := t.kreg })

/-- One attempt to finish an end that has begun: every access performed, every command posted. -/
def State.finish (s : State) (g : RegionNo) (x : CtxNo) (e : Ending) : State :=
  let t := (s.thread g x).discard
  let s := s.updThread g x (fun _ => t)
  if (s.core g).threadDone x && t.allPosted then s.endThread g x e.code else s

/-- Whether a thread that is ending goes on. -/
def State.endingThread (s : State) : Option (RegionNo × CtxNo × Ending) :=
  match s.cur with
  | .lectern g x => match (s.thread g x).live, (s.thread g x).ending with
    | true, some e => some (g, x, e)
    | _, _ => none
  | _ => none

/-- `lexit`: the thread ends with an exit code; it stays at the word until nothing of it is outstanding (06 R190). -/
def execLexit (g : BitVec 5) (s : State) : Out :=
  match s.endingThread with
  | some (r, x, e) => .next (s.finish r x e)
  | none => s.issueProg [g.toNat] (fun r x t =>
      let e : Ending := { code := (t.rg g).truncate 32 }
      (s.updThread r x (fun t => { t with ending := some e, wait := none })).finish r x e)

/-- `lkill`: as `lexit` with exit code 0xFFFF_FFFF; commands not started are removed, but refused ones, whose responses stand (06
R191). -/
def execLkill (s : State) : Out :=
  match s.endingThread with
  | some (r, x, e) => .next (s.finish r x e)
  | none => s.issueProg [] (fun r x t =>
      let e : Ending := { code := 0xFFFFFFFF, kill := true }
      let gone := t.ports.flatMap (fun p => p.2.iq.filter (fun id => !(s.cmd r id).done))
      let s := s.updCore r (fun k => { k with cmds := k.cmds.filter (fun c => !gone.contains c.1) })
      let s := s.updThread r x (fun t =>
        { t with ending := some e, wait := none,
                 ports := Tab.mapVal t.ports (fun _ p => { p with iq := p.iq.filter (fun id => !gone.contains id) }) })
      s.finish r x e)

/-! ## Microprogram mode (06 R192, R193; 17 R336; 18 R351) -/

/-- A privileged word: in a program thread PRIVILEGED_INSTRUCTION (03 R94). -/
def State.privileged (s : State) (i : Instr) (f : RegionNo → Thread → State) : Out :=
  s.issue [] (fun w t => match w with
    | .prog g x => s.trapEntry g x Cause.privileged (wordOf i) t.pc
    | .micro g => f g t)

/-- The microprogram thread past its word. -/
def State.microStep (s : State) (g : RegionNo) : State := s.updTh (.micro g) Thread.step

/-- `xinv`: cached translations of the region dropped (06 R193). -/
def execXinv (x : BitVec 4) (g : BitVec 5) (s : State) : Out :=
  s.privileged (.xinv x g) (fun r t =>
    let ctx := (s.reg r).micro.cur.ctxid
    let va := (t.rg g).toNat
    let drop (e : Tlb) : Bool := match x.toNat with
      | 0 => e.ctxid == ctx && e.page * 4096 / 2 ^ e.shift == va / 2 ^ e.shift
      | 1 => e.ctxid == ctx
      | _ => true
    (s.setReg r { s.reg r with tlb := (s.reg r).tlb.filter (fun e => !drop e) }).microStep r)

/-- Whether every firing of a resident context has written. -/
def Core.quiet (k : Core) (x : CtxNo) : Bool := k.cells.all (fun c => !c.2.flights.any (fun f => f.ctx == x))

/-- Firing and token movement of a resident context stopped. -/
def State.freeze (s : State) (g : RegionNo) (x : CtxNo) (on : Bool) : State :=
  s.updCore g (fun k => { k with frozen := if on then Tab.set k.frozen x.toNat true else Tab.erase k.frozen x.toNat })

/-- `frz`: firing stops at once; the word waits until every started firing has written (06 R193). -/
def execFrz (g : BitVec 5) (s : State) : Out :=
  s.privileged (.frz g) (fun r t =>
    let x : CtxNo := (t.rg g).truncate 2
    let s := s.freeze r x true
    if (s.core r).quiet x then s.microStep r else s)

/-- `thaw` (06 R193). -/
def execThaw (g : BitVec 5) (s : State) : Out :=
  s.privileged (.thaw g) (fun r t => (s.freeze r ((t.rg g).truncate 2) false).microStep r)

/-- The 32 bytes of a record (17 R338). -/
def Report.bytes (r : Report) (time : Nat) : List Byte :=
  let w3 := time % 2 ^ 40 * 2 ^ 24 + r.g.toNat * 2 ^ 19
  let flg := (if r.wr then 1 else 0) + (if r.s2 then 2 else 0) + (if r.cont then 4 else 0) + (if r.fatal then 8 else 0)
  let w2 := r.cause.toNat * 2 ^ 56 + flg * 2 ^ 48 + r.ctxid % 4096 * 2 ^ 36 + r.rep.toNat * 2 ^ 20 + r.level % 16 * 2 ^ 16 + r.count % 65536
  natToBytes 8 (r.addr % 2 ^ 64) ++ natToBytes 8 (r.aux % 2 ^ 64) ++ natToBytes 8 w2 ++ natToBytes 8 w3

/-- The record that 32 bytes hold, over what the run knows of its access. -/
def Report.of (cur : Report) (bs : List Byte) : Report :=
  let w2 := word8 bs 2
  { cur with addr := word8 bs 0, aux := word8 bs 1, cause := BitVec.ofNat 8 (bits w2 56 63), wr := w2.testBit 48, s2 := w2.testBit 49,
             cont := w2.testBit 50, fatal := w2.testBit 51, ctxid := bits w2 36 47, rep := BitVec.ofNat 16 (bits w2 20 35),
             level := bits w2 16 19 }

/-- Key of a context's fault stream, and whether it is open (17 R341). -/
def faultStream (ctxid : Nat) : Nat := scbKey ctxid 4095
def State.faultOpen (s : State) (ctxid : Nat) : Bool := (s.scb (faultStream ctxid)).state == 1
/-- Records of a context that wait in the root core. -/
def State.waitingFor (s : State) (ctxid : Nat) : Nat := (s.ringWait.filter (fun q => !q.s2 && q.ctxid == ctxid)).length

/-- Whether the `ftok` of a record waits: the root core holds a write that waits and 64 later entries of the context, counting those on their
way to it (17 R341). -/
def State.ftokHeld (s : State) (r : Report) : Bool :=
  !r.s2 && s.faultOpen r.ctxid && s.waitingFor r.ctxid + (s.records.filter (fun q => !q.s2 && q.ctxid == r.ctxid)).length > 64

/-- `ftok`: a fault token with the record at a bank address (06 R193); a misaligned address is a trap condition (log 20). -/
def execFtok (g : BitVec 5) (s : State) : Out :=
  s.privileged (.ftok g) (fun r t =>
    let a := (t.rg g).toNat % 2 ^ 24
    if a % 32 != 0 || s.spoiled { bank := true, g := r, pa := a } 32 false then s.microStop r
    else
      let f := (s.reg r).micro.cur.of (s.banks.readN (r.toNat * 2 ^ 24 + a) 32)
      if s.ftokHeld f then s else (s.record f).microStep r)

/-- Whether the report at the head of the queue may be taken: every access that its cell has started has been translated, admitted
or set waiting (18 R351). A publish or release that 09 R231 holds has nothing to translate. -/
def State.reportDue (s : State) (g : RegionNo) (r : Report) : Bool :=
  !(s.core g).accs.any (fun a => a.reporter g == r.rep && a.cell?.isSome && (match a.phase, a.op with
    | .walk _, _ => true
    | .entering, .publish | .entering, .release _ => a.wait.isNone && !s.holds g a
    | .entering, _ => a.wait.isNone
    | _, _ => false))

/-- The service image's programs (17 R336): cause 0 thaws every resident context with no parked access left; every other cause
freezes the context and, once its firings have written, builds its record in the scratch line and sends it. -/
def State.serviceProgram (s : State) (g : RegionNo) (r : Report) : State :=
  let stop (s : State) : State := s.setReg g { s.reg g with micro := { (s.reg g).micro with running := false } }
  if r.cause == 0 then
    stop (s.updCore g (fun k => { k with frozen := k.frozen.filter (fun e => k.hasParked (BitVec.ofNat 2 e.1) || (s.reg g).hopParked (Tab.getD k.grants e.1 : Grant).ctxid) }))
  else
    let s := s.freeze g r.x true
    let line (s : State) : State :=
      s.setReg g { s.reg g with micro := { (s.reg g).micro with scratch := ({ r with count := 0 }).bytes 0 } }
    if (s.core g).quiet r.x && !s.ftokHeld r then stop (line (s.record { r with count := 0 })) else s

/-- A microprogram run: it begins with the oldest report and, where no microprogram words are loaded, runs as the service image's
program does (06 R192, 17 R336; log 17). -/
def execMicroprogramRun (g : RegionNo) (s : State) : Out :=
  let m := (s.reg g).micro
  if m.stopped then .next s
  else if m.running then .next (if m.ofService then s.serviceProgram g m.cur else s)
  else match m.queue with
    | [] => .next s
    | r :: rest =>
      if !s.reportDue g r then .next s
      else
        let th := ((({ m.th with pc := BitVec.ofNat 64 (64 * r.cause.toNat), wait := none }.wg 1 (r.cause.zeroExtend 64)).wg 2
          (r.rep.zeroExtend 64)).wg 3 (BitVec.ofNat 64 r.addr)).wg 4 (r.x.zeroExtend 64)
        let s := s.setReg g { s.reg g with micro := { m with running := true, cur := r, queue := rest, th := th } }
        .next (if m.ofService then s.serviceProgram g r else s)

/-! ## The debugger (06 R194 to R196; 01 R30) -/

/-- Which saved image holds the thread that the debugger reaches by its region and resident number: none where the resident image does, or no
image has one (log 79). -/
def State.debugImage (s : State) (g : RegionNo) (x : CtxNo) : Option Nat :=
  if (s.thread g x).live then none
  else (s.reg g).images.findIdx? (fun i => (Tab.get i.core.threads x.toNat).any Thread.live)

/-- What holds the thread that the debugger reaches. -/
def State.debugCore (s : State) (g : RegionNo) (x : CtxNo) : Core := match s.debugImage g x with
  | some n => ((s.reg g).images.getD n {}).core
  | none => s.core g

/-- The thread that the debugger reaches. -/
def State.debugThread (s : State) (g : RegionNo) (x : CtxNo) : Thread := Tab.getD (s.debugCore g x).threads x.toNat

/-- What holds the thread that the debugger reaches, changed; an image of which no thread was running is ready from now on (16 R311). -/
def State.updDebug (s : State) (g : RegionNo) (x : CtxNo) (f : Core → Core) : State := match s.debugImage g x with
  | some n => s.setReg g { s.reg g with images := (s.reg g).images.modify n (fun i =>
      { i with core := f i.core, since := if i.core.threads.any (fun e => e.2.live && !e.2.halted) then i.since else s.now }) }
  | none => s.updCore g f

/-- The thread that the debugger reaches, changed. -/
def State.updDebugThread (s : State) (g : RegionNo) (x : CtxNo) (f : Thread → Thread) : State :=
  s.updDebug g x (fun k => { k with threads := Tab.upd k.threads x.toNat f })

/-- A debugger attached to a thread, or detached. -/
def execDebugAttach (g : RegionNo) (x : CtxNo) (on : Bool) (s : State) : Out :=
  .next (s.updDebugThread g x (fun t => { t with dbge := on }))

/-- A word boundary for a halt: a waiting word is abandoned and restarts on resume, `idle` completes, a `bwarr` whose arrival has
performed resumes waiting (06 R189, R194). -/
def Thread.haltWord (t : Thread) : Thread :=
  let idle := match t.wait with
    | some w => w.kind == 13
    | none => false
  { (if idle then t.step else t) with wait := none, latched := false, going := none, hold := none }

/-- The access at which a thread stands, resident or in a saved image, is abandoned with its word (06 R171, R194). -/
def State.abandon (s : State) (g : RegionNo) (x : CtxNo) : State := match (s.debugThread g x).hold with
  | some (id, true) => s.updDebug g x (fun k => { k with accs := k.accs.filter (fun a => a.id != id) })
  | _ => s

/-- A debugger halts a thread at the word boundary (06 R194). -/
def execDebugHalt (g : RegionNo) (x : CtxNo) (s : State) : Out :=
  if !(s.debugThread g x).dbge then .next s
  else .next (((s.abandon g x).updDebugThread g x (fun t => { t.haltWord with halted := true })).closeFaults)

/-- The thread resumes (06 R194, R195). -/
def execDebugResume (g : RegionNo) (x : CtxNo) (s : State) : Out :=
  .next (if (s.debugThread g x).dbge then s.updDebugThread g x (fun t => { t with halted := false }) else s)

/-- A register written by the attached debugger: a counter as by `kset`, a status register in its RW fields (06 R194, R195). A bond takes the
low 16 bits as they are, and a main register above the context's count is the physical one of its number (log 83). -/
def execDebugRegisterWrite (g : RegionNo) (x : CtxNo) (tg : DebugTarget) (v : Line) (s : State) : Out :=
  let v64 : W64 := v.truncate 64
  let th (f : Thread → Thread) : Out := .next (s.updDebugThread g x f)
  if !(s.debugThread g x).dbge then .next s
  else match tg with
  | .g n => th (fun t => t.wg n v64)
  | .c n => th (fun t => { t with c := Tab.set t.c n.toNat (v.truncate 128) })
  | .k n => th (fun t => t.putCounter n (v.truncate 32))
  | .bd n => th (fun t => { t with bd := Tab.set t.bd n.toNat (v.truncate 16) })
  | .pc => th (fun t => { t with pc := v64 &&& 0x3FFC, wait := none, latched := false, bwarr := none })
  | .lcause => th (fun t => t.setStatus 1 v64)
  | .lepc => th (fun t => t.setStatus 2 v64)
  | .ltvec => th (fun t => t.setStatus 3 v64)
  | .lval => th (fun t => t.setStatus 4 v64)
  | .lprio => th (fun t => t.setStatus 6 v64)
  | .lquant => th (fun t => t.setStatus 7 v64)
  | .v cell n => .next (s.updDebug g x (fun k =>
      { k with cells := Tab.upd k.cells cell.toNat (fun c => c.writeReg (Tab.getD k.grants x.toNat) x ⟨2, n.toNat⟩ v) }))

end Sys2Proof.Machine
end

