-- ==== Sys2Proof/Machine/Engine.lean ====
section
/-!
DEFINITION. Engines: how a started command takes its steps, the accesses a command makes, the start and the completion of
commands (03 R87, R88, R91, R372; 06 R175; 09 R234; 13 R284; 19 R371).
-/

namespace Sys2Proof.Machine

/-! ## Operands of commands -/

/-- The address that W2 and W1 hold. -/
def frameAddr (c : Frame) : Nat := c.w2.toNat * 2 ^ 32 + c.w1.toNat
/-- A 48-bit offset (07 R219). -/
def frameOff (c : Frame) : Nat := c.w1.toNat % 65536 * 2 ^ 32 + c.w0.toNat
/-- The code of a command. -/
def Cmd.code (c : Cmd) : Nat := (c.w.extractLsb' 120 8).toNat
/-- The handle of a command. -/
def Cmd.handle (c : Cmd) : Nat := (c.w.extractLsb' 96 16).toNat
/-- ORD of a command. -/
def Cmd.ord (c : Cmd) : Bool := c.w.getLsbD 119
/-- A copy command (03 R88). -/
def Cmd.isCopy (c : Cmd) : Bool := 0x20 ≤ c.code && c.code ≤ 0x24
/-- A command that has started and not completed. -/
def Cmd.running (c : Cmd) : Bool := c.started && !c.done

/-! ## Steps of a started command -/

/-- A step of a command: it is resident, started, not done and not parked, and its region runs. -/
def State.runCmd (s : State) (f : RegionNo → Nat → Cmd → State) : Out :=
  match s.cur with
  | .command g id =>
    let c := s.cmd g id
    if Tab.has (s.core g).cmds id && c.running && c.parked.isNone && (s.reg g).runs
      then .next (f g id c) else .next s
  | _ => .fault .wrongAgent

/-- The progress of a command changed as a stage of it ends: its issue queue is empty, and it waits for nothing. -/
def State.progress (s : State) (g : RegionNo) (id : Nat) (f : Prog → Prog) : State :=
  (s.stamp g).updCmd g id (fun c => { c with prog := { f c.prog with io := [] }, wait := none })

/-- The accesses of a command's current stage changed; it waits for nothing. -/
def State.updIo (s : State) (g : RegionNo) (id : Nat) (f : List EAcc → List EAcc) : State :=
  (s.stamp g).updCmd g id (fun c => { c with prog := { c.prog with io := f c.prog.io }, wait := none })

/-- Why a command's access does not go on: it parks, it ends the command, or the command's step ends with it. -/
inductive Stop where
  /-- the failing address and, for a ring byte, the stream address of the access -/
  | park (f : XFault) (addr : Nat) (elem : Option Nat)
  | fail (c : Byte)
  | hold
  deriving DecidableEq, Repr, Inhabited

/-- A command stopped at an access (03 R372, 10 R244). -/
def State.onStop (s : State) (g : RegionNo) (id : Nat) (t : Stop) (aux : Nat) (wr : Bool) : State :=
  match t with
  | .park f a e => s.parkCmd g id f a (e.getD aux) wr
  | .fail c => s.failCmd g id c
  | .hold => s

/-! ## Accesses of a command (09 R229, R230, R234; log 6)

A stage of a command reads and writes through its issue queue: each access of a line starts in one step and performs in a later one, in any
order, and when all of them have performed the stage goes on with what was read. -/

/-- Accesses of n bytes from an address, one for each line; the fuel bounds the lines. -/
def linesOf (wr : Option (List Byte)) : Nat → Nat → Nat → List EAcc
  | 0, _, _ => []
  | f + 1, a, n =>
    let k := min n (128 - a % 128)
    if n == 0 then []
    else { addr := a, n := k, wr := wr.map (·.take k) } :: linesOf (wr.map (·.drop k)) f (a + k) (n - k)

/-- The accesses of a read. -/
def readLines (a n : Nat) : List EAcc := linesOf none (n / 128 + 2) a n
/-- The accesses of a write. -/
def writeLines (a : Nat) (bs : List Byte) : List EAcc := linesOf (some bs) (bs.length / 128 + 2) a bs.length

/-- Whether two entries are one access of the command. -/
def EAcc.same (e q : EAcc) : Bool := e.tag == q.tag && e.addr == q.addr && e.n == q.n && e.wr.isSome == q.wr.isSome
/-- An access in the issue queue of a command, or performed in its current stage. -/
def Prog.find (p : Prog) (e : EAcc) : Option EAcc := p.io.find? e.same
/-- Whether an access has performed in the current stage. -/
def Prog.did (p : Prog) (e : EAcc) : Bool := ((p.find e).bind (·.got)).isSome

/-- The start of an access to a class 0x0 or 0xC address: its place (17 R322, R335, R349; 05 R138). -/
def State.engStart (s : State) (g : RegionNo) (who : Agent) (c : Cmd) (e : EAcc) : State × Except Stop EAcc :=
  match classFault e.addr with
  | some f => (s, .error (.fail f))
  | none =>
    if clsOf e.addr == 0xC then
      (s, (bankRange g (s.grant g c.x) (e.addr % 2 ^ 24) e.n).map (fun pl => { e with pl := pl, va := e.addr }) |>.mapError Stop.fail)
    else match s.translate g c.ctxid e.addr { wr := e.wr.isSome } with
      | (s, .error (.fail f)) => (s, .error (.park f e.addr none))
      | (s, .error (.hold pl)) => (s.claim who pl e.addr e.wr.isSome, .error .hold)
      | (s, .ok pl) => (s, .ok { e with pl := pl, va := e.addr })

/-- An access starts: it joins the issue queue. -/
def State.ioStart (s : State) (g : RegionNo) (id : Nat) (start : State → EAcc → State × Except Stop EAcc) (e : EAcc) : State × Stop :=
  match start s e with
  | (s, .error t) => (s, t)
  | (s, .ok e) => (s.updIo g id (fun io => io ++ [e]), .hold)

/-- The effect of a started access at its place: the state, and what it has read. -/
def State.ioEffect (s : State) (e : EAcc) : State × List Byte := match e.wr with
  | none => (s, s.readPlace e.pl e.n)
  | some bs => (s.writePlace e.pl bs, [])

/-- Whether a command holds a delivered tuple, which is written whatever its unit meets (11 R280). -/
def Cmd.delivers (c : Cmd) : Bool := 0x62 ≤ c.code && c.code ≤ 0x64 && c.prog.stage ≥ 2

/-- A started access performs; a place the host owns is fetched first (17 R349), and bad bits end the command (19 R365). -/
def State.ioPerform (s : State) (g : RegionNo) (id : Nat) (e : EAcc) : State × Stop :=
  if !s.ownedOk e.pl then (s.claim (.command g id) e.pl e.va e.wr.isSome, .hold)
  else if s.spoiled e.pl e.n e.wr.isSome && !(s.cmd g id).delivers then (s, .fail Cause.uncorrectable)
  else
    let n := s.cxl.length
    let (s, bs) := s.ioEffect e
    let s := s.ownCxl n (g, (s.cmd g id).kernel)
    (s.updIo g id (fun io => io.map (fun q => if q.same e then { q with got := some bs } else q)), .hold)

/-- One action on one of the accesses: it starts, or it performs. -/
def State.ioOne (s : State) (g : RegionNo) (id : Nat) (start : State → EAcc → State × Except Stop EAcc) (e : EAcc) : State × Stop :=
  match (s.cmd g id).prog.find e with
  | none => s.ioStart g id start e
  | some q => s.ioPerform g id { q with wr := e.wr }

/-- The accesses of a part of a stage: what they read, once all have performed; else one of them acts. -/
def State.ioAll (s : State) (g : RegionNo) (id : Nat) (start : State → EAcc → State × Except Stop EAcc) (es : List EAcc) :
    State × Except Stop (List Byte) :=
  let q := (s.cmd g id).prog
  match es.filter (fun e => !q.did e) with
  | [] => (s, .ok (es.flatMap (fun e => ((q.find e).bind (·.got)).getD [])))
  | e :: rest =>
    let (i, s) := s.pick (rest.length + 1)
    let (s, t) := s.ioOne g id start ((e :: rest).getD i e)
    (s, .error t)

/-- The accesses of a part of a stage started, in any order: done once every one stands in the queue. -/
def State.ioReady (s : State) (g : RegionNo) (id : Nat) (start : State → EAcc → State × Except Stop EAcc) (es : List EAcc) :
    State × Except Stop Unit :=
  let q := (s.cmd g id).prog
  match es.filter (fun e => (q.find e).isNone) with
  | [] => (s, .ok ())
  | e :: rest =>
    let (i, s) := s.pick (rest.length + 1)
    let (s, t) := s.ioStart g id start ((e :: rest).getD i e)
    (s, .error t)

/-- A read of n bytes. -/
def State.eRead (s : State) (g : RegionNo) (id : Nat) (c : Cmd) (a n : Nat) : State × Except Stop (List Byte) :=
  s.ioAll g id (fun s e => s.engStart g (.command g id) c e) (readLines a n)

/-- A range translated for writing, before any of it is written. -/
def State.eCheck (s : State) (g : RegionNo) (id : Nat) (c : Cmd) (a n : Nat) : State × Except Stop Unit :=
  s.ioReady g id (fun s e => s.engStart g (.command g id) c e) (writeLines a (List.replicate n 0))

/-- A write of bytes. -/
def State.eWrite (s : State) (g : RegionNo) (id : Nat) (c : Cmd) (a : Nat) (bs : List Byte) : State × Except Stop Unit :=
  match s.ioAll g id (fun s e => s.engStart g (.command g id) c e) (writeLines a bs) with
  | (s, .ok _) => (s, .ok ())
  | (s, .error t) => (s, .error t)

/-- The address of a command's own structure: of class 0x0 or 0xC and a multiple of n; the lowest-numbered cause (00 R16). -/
def structFault (a n : Nat) : Option Byte :=
  if a % n != 0 then some Cause.misaligned else classFault a

/-! ## Stream elements of engines (10 R246; 07 R204, R205) -/

/-- The stream of a class 0x4 address in a context. -/
def elemScb (ctxid a : Nat) : Nat := scbKey ctxid (bits a 48 59)

/-- A stream wait of a command. -/
def State.waitElem (s : State) (g : RegionNo) (id : Nat) (c : Cmd) (a n kind : Nat) (wr : Bool) : State :=
  let k := elemScb c.ctxid a
  (s.noteWait k (.cmd g id) (a % 2 ^ 48) n wr kind).waitCmd g id kind (streamAddr (bits a 48 59) (a % 2 ^ 48)) ((s.scb k).waitsFor kind)

/-- The waits of a command at every stream of its context ended (07 R227). -/
def State.clearElems (s : State) (g : RegionNo) (id ctxid : Nat) : State :=
  { s with streams := Tab.mapVal s.streams (fun k b => if k / 4096 == ctxid then { b with waits := b.waits.filter (fun w => w.who != .cmd g id) } else b) }

/-- The pieces of n bytes of a ring from an offset, none across a line or the ring's end: offset of the piece and its bytes; the fuel bounds
the pieces. -/
def ringPieces (win : Nat) : Nat → Nat → Nat → List (Nat × Nat)
  | 0, _, _ => []
  | f + 1, off, n =>
    let r := off % win
    let k := min n (min (128 - r % 128) (win - r))
    if n == 0 then [] else (off, k) :: ringPieces win f (offAdd off k) (n - k)

/-- Accesses that write bytes to pieces, one after another. -/
def cutWrites : List (Nat × Nat) → List Byte → List EAcc
  | [], _ => []
  | q :: qs, bs => { addr := q.1, n := q.2, wr := some (bs.take q.2) } :: cutWrites qs (bs.drop q.2)

/-- The accesses of n bytes of a ring from an offset, one for each line or ring end (09 R229). -/
def ringAccs (six win off n : Nat) (wr : Option (List Byte)) : List EAcc :=
  let ps := (ringPieces win (n + 1) off n).map (fun q => (streamAddr six q.1, q.2))
  match wr with
  | some bs => cutWrites ps bs
  | none => ps.map (fun q => { addr := q.1, n := q.2 })

/-- The place of a ring byte: it parks with the address of the ring byte, and a place the host owns is fetched first (17 R339, R349). -/
def State.ringStop (s : State) (g : RegionNo) (who : Agent) (ctxid : Nat) (b : Scb) (elem ring : Nat) (wr : Bool) :
    State × Except Stop Place :=
  match s.ringPlace g ctxid b ring wr with
  | (s, .error (.fail f)) => (s, .error (.park f (b.base + ring) (some elem)))
  | (s, .error (.hold pl)) => (s.claim who pl (b.base + ring) wr, .error .hold)
  | (s, .ok pl) => if s.ownedOk pl then (s, .ok pl) else (s.claim who pl (b.base + ring) wr, .error .hold)

/-- Places of ring bytes from an offset, a piece at a time: all of them, or what stops the first that has none. -/
def State.ringAll (s : State) (g : RegionNo) (who : Agent) (ctxid : Nat) (b : Scb) (elem : Nat) (wr : Bool) :
    List (Nat × Nat) → State × Except Stop (List Place)
  | [] => (s, .ok [])
  | p :: ps => match s.ringStop g who ctxid b elem (p.1 % b.win) wr with
    | (s, .error e) => (s, .error e)
    | (s, .ok pl) => match s.ringAll g who ctxid b elem wr ps with
      | (s, .ok r) => (s, .ok (pl :: r))
      | (s, .error e) => (s, .error e)

/-- Bytes written at places, one after another. -/
def State.writePieces (s : State) : List (Place × Nat) → List Byte → State
  | [], _ => s
  | p :: ps, bs => (s.writePlace p.1 (bs.take p.2)).writePieces ps (bs.drop p.2)

/-- A stream write of the root core: every piece is translated before any is written (07 R205, 17 R341). -/
def State.ringWrite (s : State) (g : RegionNo) (who : Agent) (ctxid : Nat) (b : Scb) (elem off : Nat) (bs : List Byte) :
    State × Except Stop Unit :=
  let ps := ringPieces b.win (bs.length + 1) off bs.length
  match s.ringAll g who ctxid b elem true ps with
  | (s, .ok pls) => (s.writePieces (List.zip pls (ps.map (·.2))) bs, .ok ())
  | (s, .error e) => (s, .error e)

/-- The start of an access to ring bytes of an element: its ring byte is translated (17 R335). -/
def State.ringStart (s : State) (g : RegionNo) (id : Nat) (c : Cmd) (e : EAcc) : State × Except Stop EAcc :=
  let b := s.scb (elemScb c.ctxid e.addr)
  let ring := e.addr % 2 ^ 48 % b.win
  match s.ringPlace g c.ctxid b ring e.wr.isSome with
  | (s, .error (.fail f)) => (s, .error (.park f (b.base + ring) (some e.addr)))
  | (s, .error (.hold pl)) => (s.claim (.command g id) pl (b.base + ring) e.wr.isSome, .error .hold)
  | (s, .ok pl) => (s, .ok { e with pl := pl, va := b.base + ring, opens := b.opens })

/-- Whether the ring of a started access has been given up since (07 R222). -/
def State.ringLost (s : State) (c : Cmd) (e : EAcc) : Bool :=
  let b := s.scb (elemScb c.ctxid e.addr)
  clsOf e.addr == 4 && (b.state == 0 || b.state == 4 || b.opens != e.opens)

/-- A stream read of an engine starts once the stream admits it (07 R204). -/
def State.elemStart (s : State) (g : RegionNo) (id : Nat) (c : Cmd) (e : EAcc) : State × Except Stop EAcc :=
  let k := elemScb c.ctxid e.addr
  match (s.scb k).read (e.addr % 2 ^ 48) e.n with
  | .fault f => (s, .error (.fail f))
  | .wait kind => (s.waitElem g id c e.addr e.n kind false, .error .hold)
  | .perform _ => (s.clearOne k (.cmd g id) (e.addr % 2 ^ 48) false).ringStart g id c e

/-! ## Start (03 R88, 06 R175, 11 R277, 13 R284, 14 R297, 16 R318) -/

/-- Whether the unit that runs a command can take it. A started command of a saved image keeps its place in the Drawer request unit (11
R282, 16 R312). The memory-service unit takes any number of commands (log 63). -/
def Region.unitFree (r : Region) (c : Cmd) : Bool :=
  let n (p : Cmd → Bool) : Nat := (r.core.cmds.filter (fun e => e.2.running && p e.2)).length
  let saved (p : Cmd → Bool) : Nat := (r.images.flatMap (fun i => i.core.cmds.filter (fun e => e.2.running && p e.2))).length
  let drawer (e : Cmd) : Bool := 0x60 ≤ e.code && e.code ≤ 0x64
  if c.isCopy then n (fun e => e.isCopy && e.port.toNat % 4 == c.port.toNat % 4) == 0
  else if c.code == 0x70 || c.code == 0x71 then n (fun e => e.code == 0x70 || e.code == 0x71) == 0
  else if 0x40 ≤ c.code && c.code ≤ 0x43 then n (fun e => 0x40 ≤ e.code && e.code ≤ 0x43) == 0
  else if drawer c then n drawer + saved drawer < 64
  else if c.code == 0x51 then
    n (fun e => e.code == 0x51 && e.ctxid == c.ctxid) < 16 && n (fun e => e.code == 0x51 && e.ctxid == c.ctxid && e.handle == c.handle) == 0
  else true

/-- A command of the counting unit is carried out as soon as it starts (10 R248): its step is the next. -/
def State.carryOut (s : State) (g : RegionNo) (id code : Nat) : State :=
  if 0x30 ≤ code && code ≤ 0x33 then { s with agenda := .command g id :: s.agenda } else s

/-- A command leaves its issue queue and starts (06 R175): a place of the response queue is free, the thread's stores issued
before it have performed or, after a stream fault, have been discarded (log 89), with ORD every earlier command of the port has completed, its unit
can take it. -/
def execCommandStart (g : RegionNo) (x : CtxNo) (port : BitVec 4) (s : State) : Out :=
  let t := s.thread g x
  let p := t.port port
  match p.iq with
  | [] => .next s
  | id :: rest =>
    let c := s.cmd g id
    let k := s.core g
    let stores := k.accs.any (fun a => a.port == .thread x && a.wr && !a.done && a.id < c.after)
    let place := p.order.length + p.rq.length < 8
    let take (s : State) : State := s.updThread g x (fun t => t.updPort port (fun p => { p with iq := rest, order := p.order ++ [id] }))
    if !place || !(s.reg g).runs then .next s
    else if c.done then .next (take s)
    else if stores || (c.ord && !p.order.isEmpty) then .next s
    else if !(s.reg g).unitFree c then
      .next (if 0x60 ≤ c.code && c.code ≤ 0x64 then s.waitCmd g id 9 (c.handle + (if c.code ≤ 0x62 then 0 else c.code - 0x62) * 2 ^ 24) 0xFF
        else if c.code == 0x51 then s.waitCmd g id 12 c.handle 0xFF else s)
    else .next (((take s).updCmd g id (fun c => { c with started := true, wait := none })).carryOut g id c.code)

/-! ## Completion (09 R234, 03 R88, R89; 19 R371) -/

/-- Responses of a port moved into its queue while the oldest command has completed. -/
def Port.post (rs : Nat → Option W64) : Nat → Port → Port
  | 0, p => p
  | n + 1, p => match p.order with
    | id :: rest => match rs id with
      | some e => Port.post rs n { p with order := rest, rq := p.rq ++ [e] }
      | none => p
    | [] => p

/-- A command's response is queued behind all earlier ones of its port and its KEN increment applied; the responses of a thread
that is ending are discarded (06 R190); a command of another generation of its context is dropped (19 R371). -/
def execCommandComplete (g : RegionNo) (x : CtxNo) (port : BitVec 4) (s : State) : Out :=
  let p := (s.thread g x).port port
  let k := s.core g
  match p.order.find? (fun id => let c := Tab.getD k.cmds id; c.done && !c.posted) with
  | none => .next s
  | some id =>
    let c := Tab.getD k.cmds id
    if c.gen != s.genOf c.ctxid then
      .next (((s.dropStale).updCore g (fun k => { k with cmds := Tab.erase k.cmds id })).updThread g x (fun t =>
        t.updPort port (fun p => { p with order := p.order.filter (· != id) })))
    else
      let s := s.updCmd g id (fun c => { c with posted := true })
      let s := if c.started && c.w.getLsbD 118 then s.bump g x (fld c.w 114 4) else s
      let k := s.core g
      let rs (i : Nat) : Option W64 :=
        let c := Tab.getD k.cmds i
        if c.posted then some (respElem c.w c.cause c.value) else none
      let gone := p.order.takeWhile (fun i => (rs i).isSome)
      let s := s.updThread g x (fun t =>
        let t := { t.updPort port (Port.post rs p.order.length) with woken := t.woken || !gone.isEmpty }
        if t.ending.isSome then t.discard else t)
      .next (s.updCore g (fun k => { k with cmds := k.cmds.filter (fun e => !gone.contains e.1) }))

end Sys2Proof.Machine
end

