-- ==== Sys2Proof/Machine/Chan.lean ====
section
/-!
DEFINITION. Mesh channels: source ports, flits from router to router, destination ports with their filters, joined regions,
block entry from ports, Voing token channels (01 R38, R41 to R46; 09 R237; 10 R249, R253 to R258, R265; 16 R308, R310).
-/

namespace Sys2Proof.Machine

/-! ## Places (01 R21, R41, R42) -/

/-- The cell at the region edge where edge stream port p stands. -/
def edgeCell (p : Nat) : Nat :=
  if p < 16 then p else if p < 32 then (p - 16) * 16 + 15 else if p < 48 then 240 + (p - 32) else (p - 48) * 16

/-- The side of port p as a router port: 1 N, 2 E, 3 S, 4 W. -/
def edgeSide (p : Nat) : Nat := if p < 16 then 1 else if p < 32 then 2 else if p < 48 then 3 else 4

/-- The router of a source or destination code. -/
def codeRouter (d : Nat) : Nat := if d < 256 then d else edgeCell (d % 64)
/-- The router port of a source or destination code: 0 the cell. -/
def codeSide (d : Nat) : Nat := if d < 256 then 0 else edgeSide (d % 64)

/-- The output a flit takes at a router toward a destination code, in dimension order (01 R42). -/
def outputTo (r d : Nat) : Nat :=
  let q := codeRouter d
  if r % 16 < q % 16 then 2 else if r % 16 > q % 16 then 4
  else if r / 16 < q / 16 then 3 else if r / 16 > q / 16 then 1 else codeSide d

/-- The router that an output reaches and the input it reaches there. -/
def hop (r out : Nat) : Nat × Nat :=
  match out with
  | 1 => (r - 16, 3)
  | 2 => (r + 1, 4)
  | 3 => (r + 16, 1)
  | _ => (r - 1, 2)

/-! ## The source FIFO (01 R38, R45) -/

/-- The virtual channel a token travels on (01 R32); kinds 6 and 7 are never formed. -/
def tokVC (d : W64) (t : Token) : Nat :=
  match t.kind with
  | .preempt | .control => 2
  | .fault => 3
  | _ => dVC d

/-- The flits of a token. -/
def flitsFor (ch tid : Nat) (d : W64) (t : Token) : List Flit :=
  let n := flitsOf t
  (List.range n).map (fun i => { ch := ch, tok := t, tid := tid, idx := i, of := n, vc := tokVC d t })

/-- A VC1 channel between a marker and its acknowledgement takes no token of the next round. -/
def Chan.open_ (c : Chan) : Bool := !(dVC c.desc == 1 && c.unacked)

/-- Whether the source FIFO takes a token now (01 R38, R46). -/
def Chan.takes (c : Chan) (t : Token) : Bool := c.open_ && c.sfifo.length + flitsOf t ≤ 8

/-- A token placed in the source FIFO: on VC1 a marker carries the count of its round (01 R45). -/
def Chan.place (c : Chan) (ch tid : Nat) (t : Token) : Chan :=
  let mark := t.kind == .marker
  let one := t.kind == .data || t.kind == .completion
  let t := if mark && dVC c.desc == 1 then { t with form := .scalar, pay := BitVec.ofNat 1024 c.sent } else t
  { c with sfifo := c.sfifo ++ flitsFor ch tid c.desc t, sent := if mark then 0 else if one then c.sent + 1 else c.sent,
           unacked := c.unacked || (mark && dVC c.desc == 1) }

/-- A probe placed in the source FIFO (09 R237). No rule has it wait for room, as 10 R252 has a marker: it takes a further place in a FIFO that is
full (log 90). -/
def Chan.placeProbe (c : Chan) (ch tid cmd : Nat) : Chan :=
  { c with sfifo := c.sfifo ++ [{ ch := ch, kind := .probe cmd, tid := tid, vc := dVC c.desc }] }

/-! ## CONVERT (10 R254, R255) -/

/-- Elements of a FORM 1 token in a format; a BC8 token holds two blocks of 64 bytes. -/
def inElems (ty : Nat) (pay : Nat) : List Nat :=
  if ty == 11 then
    let bs := (natToBytes 128 pay).map BitVec.toNat
    Num.bc8Decode (bs.take 64) ++ Num.bc8Decode (bs.drop 64)
  else Num.elems (Num.width ty) 1024 pay

/-- Elements of a full FORM 1 token. -/
def outCount (ty : Nat) : Nat := if ty == 11 then 64 else 1024 / Num.width ty

/-- The payload of a FORM 1 token of elements, completed with +0. -/
def outPay (ty : Nat) (es : List Nat) : Nat :=
  let es := (es ++ List.replicate (outCount ty) 0).take (outCount ty)
  if ty == 11 then
    let blk (b : List Nat) : List Byte := ((Num.bc8Encode b).map (BitVec.ofNat 8) ++ List.replicate 64 0).take 64
    bytesToNat (blk (es.take 32) ++ blk (es.drop 32))
  else Num.join (Num.width ty) es

/-- Elements converted in order, with the generator. For BC8 encoding the E4M3 row of 10 R254 rounds to nearest, whatever mode the entry gives
(02 R56; log 65). -/
def convElems (src dst md : Nat) (sat : Bool) (g : BitVec 16) (es : List Nat) : BitVec 16 × List Nat :=
  let md := if dst == 11 then 0 else md
  let a := if src == 11 then 9 else src
  let b := if dst == 11 then 9 else dst
  Num.drawMap (Num.cvtDraws a b md) (fun g v => Num.cvt a b v md sat g) g es

/-- What a CONVERT keeps between tokens: elements not sent, the AND of the P bits that they rest on, their ROUND. -/
structure ConvSt where
  elems : List Nat := []
  p     : Bool := true
  round : Byte := 0
  deriving DecidableEq, Repr, Inhabited

/-- Full outputs of gathered elements: P of the first rests on what was gathered before. The fuel bounds them. -/
def convOut (dst : Nat) (t : Token) : Nat → ConvSt → List Token × ConvSt
  | 0, st => ([], st)
  | n + 1, st =>
    if st.elems.length < outCount dst then ([], st)
    else
      let o : Token := { kind := .data, form := .vector, ctx := t.ctx, round := st.round, p := st.p, tag := 0,
                         pay := BitVec.ofNat 1024 (outPay dst (st.elems.take (outCount dst))) }
      let (os, st) := convOut dst t n { st with elems := st.elems.drop (outCount dst), p := t.p }
      (o :: os, st)

/-- A token through CONVERT: what is sent, what is kept, the generator, and whether it is discarded and reported. -/
def convTok (src dst md : Nat) (sat : Bool) (g : BitVec 16) (st : ConvSt) (t : Token) : List Token × ConvSt × BitVec 16 × Bool :=
  match t.kind with
  | .marker =>
    if st.elems.isEmpty then ([t], {}, g, false)
    else
      let o : Token := { kind := .data, form := .vector, ctx := t.ctx, round := st.round, p := st.p, tag := 0,
                         pay := BitVec.ofNat 1024 (outPay dst st.elems) }
      ([o, t], {}, g, false)
  | .data =>
    match t.form with
    | .tile => ([t], st, g, false)
    | .vector =>
      if src == 11 && dst == 11 then ([t], st, g, false)
      else
        let (g, es) := convElems src dst md sat g (inElems src t.pay.toNat)
        let st : ConvSt := { elems := st.elems ++ es, p := (st.elems.isEmpty || st.p) && t.p, round := t.round }
        let (os, st) := convOut dst t (st.elems.length + 1) st
        (os, st, g, false)
    | _ =>
      if src == 11 || dst == 11 then ([], st, g, true)
      else
        let (g, es) := convElems src dst md sat g [t.pay.toNat % 2 ^ Num.width src]
        ([{ t with pay := BitVec.ofNat 1024 (scalarPay dst (es.headD 0)) }], st, g, false)
  | _ => ([t], st, g, false)

/-! ## ZERO_DROP and TRANSPOSE16 (10 R256, R257) -/

/-- A token through ZERO_DROP, with its counter. -/
def dropTok (q : Nat) (t : Token) : List Token × Nat :=
  match t.kind, t.form with
  | .marker, _ => ([t], 0)
  | .data, .vector =>
    let ls := Num.elems 32 1024 t.pay.toNat
    ((List.zip (List.range 32) ls).filterMap (fun e => if e.2 == 0 then none
      else some { t with form := .sparse, tag := BitVec.ofNat 16 (32 * q + e.1), pay := BitVec.ofNat 1024 e.2 }), q + 1)
  | .data, .scalar =>
    (if fld t.pay 0 32 == 0 then [] else [{ t with form := .sparse, tag := BitVec.ofNat 16 (32 * q) }], q + 1)
  | _, _ => ([t], q)

/-- The transposed tile of up to 16 rows, missing rows zero. -/
def transpose (w : Nat) (rows : List Line) (t : Token) (round : Byte) (p : Bool) : List Token :=
  let ins := rows.map (fun r => Num.elems w 1024 r.toNat)
  (List.range 16).map (fun c =>
    let es := (List.range (1024 / w)).map (fun k => (ins.getD (k % 16) []).getD (16 * (k / 16) + c) 0)
    { kind := .data, form := .vector, ctx := t.ctx, round := round, p := p, tag := 0, pay := BitVec.ofNat 1024 (Num.join w es) })

/-- A token through TRANSPOSE16, with the rows gathered, the AND of their P bits and their ROUND. -/
def transTok (w : Nat) (rows : List Line) (p : Bool) (round : Byte) (t : Token) : List Token × List Line × Bool × Byte × Bool :=
  match t.kind with
  | .marker => (if rows.isEmpty then [t] else transpose w rows t round p ++ [t], [], true, 0, false)
  | .data =>
    if t.form != .vector then ([], rows, p, round, true)
    else
      let rs := rows ++ [t.pay]
      let q := (rows.isEmpty || p) && t.p
      if rs.length == 16 then (transpose w rs t t.round q, [], true, 0, false) else ([], rs, q, t.round, false)
  | _ => ([t], rows, p, round, false)

/-! ## The destination port (01 R45, R46; 10 R253) -/

/-- Outputs in order, with the probes that stood behind the elements of the first n of them. -/
def behindFirst (n : Nat) (probes : List Nat) (os : List Token) : List DItem :=
  let items : List DItem := os.map (fun t => { tok := t })
  items.take n ++ probes.map (fun p => { probe := some p }) ++ items.drop n

/-- Whether the outputs of a token hold what was gathered before it: a row of a marker or of FORM 1 data. -/
def takesGathered (t : Token) (os : List Token) : Bool :=
  !os.isEmpty && (t.kind == .marker || (t.kind == .data && t.form == .vector))

/-- Outputs of a filter for a token staged for the destination FIFO, the first n of them with what was gathered before: a probe that followed
those elements stands behind them (09 R237; log 90). -/
def Chan.stage (c : Chan) (n : Nat) (t : Token) (os : List Token) : Chan :=
  let out := takesGathered t os
  let c := { c with fout := c.fout ++ behindFirst n (if out then c.fwait else []) os, fwait := if out then [] else c.fwait }
  Chan.settle (c.fout.length + 1) c

/-- A probe at its destination port: behind what the filter has gathered, or behind the outputs that wait for room. -/
def Chan.arriveProbe (c : Chan) (cmd : Nat) : Chan :=
  if !c.fElems.isEmpty || !c.fRows.isEmpty then { c with fwait := c.fwait ++ [cmd] }
  else
    let c := { c with fout := c.fout ++ [{ probe := some cmd }] }
    Chan.settle (c.fout.length + 1) c

/-- A token that a filter discards is reported by its port (10 R255). -/
def State.reportFilter (s : State) (g : RegionNo) (d : W64) : State :=
  if dDST d < 256 then s.cellFault ⟨g, BitVec.ofNat 8 (dDST d), dCTX d, 0⟩ Cause.illegal 0 false
  else s.portFault g (dDST d % 64) (dCTX d) Cause.illegal 0

/-- A token passes the filter entry of its channel into the destination FIFO (10 R253 to R257). -/
def State.deliver (s : State) (g : RegionNo) (ch : Nat) (t : Token) : State :=
  let c : Chan := Tab.getD (s.core g).chans ch
  let e := c.entry
  let cell : CellNo := BitVec.ofNat 8 (codeRouter (dDST c.desc))
  match fKIND e with
  | 1 =>
    let (os, st, gen, bad) := convTok (fFROM e) (fTO e) (fRND e) (fSAT e) (s.gen g cell) ⟨c.fElems, c.fP, c.fRound⟩ t
    let s := if fRND e == 2 then s.setGen g cell gen else s
    let s := s.updChan g ch (fun c => { c with fElems := st.elems, fP := st.p, fRound := st.round }.stage 1 t os)
    if bad then s.reportFilter g c.desc else s
  | 2 =>
    let (os, q) := dropTok c.fq t
    s.updChan g ch (fun c => { c with fq := q }.stage 1 t os)
  | 3 =>
    let (os, rows, p, round, bad) := transTok (8 <<< (fFROM e % 4)) c.fRows c.fP c.fRound t
    let s := s.updChan g ch (fun c => { c with fRows := rows, fP := p, fRound := round }.stage 16 t os)
    if bad then s.reportFilter g c.desc else s
  | _ => s.updChan g ch (fun c => c.stage 1 t [t])

/-- A VC1 marker whose tokens have all arrived is presented (01 R45). -/
def State.presentMark (s : State) (g : RegionNo) (ch : Nat) : State :=
  let c : Chan := Tab.getD (s.core g).chans ch
  match c.heldMark with
  | some m =>
    if c.arrived ≥ m.pay.toNat then
      (s.updChan g ch (fun c => { c with heldMark := none, arrived := 0, ackDue := true })).deliver g ch m
    else s
  | none => s

/-- A token has arrived at its destination port. -/
def State.arrive (s : State) (g : RegionNo) (ch : Nat) (t : Token) : State :=
  let c : Chan := Tab.getD (s.core g).chans ch
  if dVC c.desc != 1 then s.deliver g ch t
  else if t.kind == .marker then (s.updChan g ch (fun c => { c with heldMark := some t })).presentMark g ch
  else if t.kind == .data || t.kind == .completion then
    ((s.updChan g ch (fun c => { c with arrived := c.arrived + 1 })).deliver g ch t).presentMark g ch
  else s.deliver g ch t

/-! ## Flits (01 R42 to R46; 10 R265) -/

/-- Number of a router output on a virtual channel; that of an input that a source FIFO feeds has out = 8 + side. -/
def lockKey (r out vc : Nat) : Nat := (r * 16 + out) * 4 + vc
/-- Whether a token may send a flit under a lock: no other token holds it. -/
def Core.lockFree (k : Core) (key tid : Nat) : Bool := match Tab.get k.locks key with
  | some t => t == tid
  | none => true
/-- The lock after a flit has passed: its token holds it until the last one has. -/
def Core.pass (k : Core) (key : Nat) (f : Flit) : Core :=
  { k with locks := if f.idx + 1 ≥ f.of then Tab.erase k.locks key else Tab.set k.locks key f.tid }

/-- Flits in an input buffer. -/
def Core.buffered (k : Core) (loc inp vc : Nat) : Nat :=
  (k.flits.filter (fun f => f.loc == loc && f.inp == inp && f.vc == vc)).length

/-- Whether a sender may send a flit into the buffer of a router input (01 R43): ready is high while three places are free; once it has
dropped, the sender stops from the next cycle but one, and a free bit says whether that cycle has come (log 71). -/
def State.ready (s : State) (g : RegionNo) (loc inp vc : Nat) : State × Bool :=
  let k := s.core g
  let n := k.buffered loc inp vc
  let key := (8 * loc + inp) * 4 + vc
  if n ≤ 1 then (s.updCore g (fun k => { k with low := k.low.erase key }), true)
  else if n ≥ 4 || k.low.contains key then (s, false)
  else
    let (b, s) := s.free 1
    if b == 1 then (s, true) else (s.updCore g (fun k => { k with low := key :: k.low }), false)

/-- Where a flit goes: acknowledgements go back to the channel's source. -/
def Flit.toward (f : Flit) (d : W64) : Nat := if f.kind == .ack then dSRC d else dDST d

/-- Whether a channel's tokens move: its context is not frozen, or thawed by a drain, and its region runs (06 R193, 17 R342). -/
def State.moves (s : State) (g : RegionNo) (d : W64) : Bool :=
  let r := s.reg g
  (r.draining || !(Tab.getD r.core.frozen (dCTX d).toNat)) && !(Tab.getD r.core.stopped (dCTX d).toNat) && r.meshRuns
/-- Whether an edge stream port takes the channel's tokens: they move, and neither its image is leaving nor its cells are being stopped (16 R312,
R320). -/
def State.portMoves (s : State) (g : RegionNo) (d : W64) : Bool := s.moves g d && (s.reg g).runs && !(s.core g).passingCtx (dCTX d)

/-- Whether a flit may leave its buffer: it is the first of its buffer, or on VC1 the first of its token there. -/
def Core.firstFlit (k : Core) (i : Nat) (f : Flit) : Bool :=
  let ahead := (k.flits.take i).filter (fun e => e.loc == f.loc && e.inp == f.inp && e.vc == f.vc)
  if f.vc == 1 then !ahead.any (fun e => e.tid == f.tid && e.ch == f.ch) else ahead.isEmpty

/-- A flit of a router moves one hop or into its destination port (01 R44, R46). -/
def State.flitHop (s : State) (g : RegionNo) (i : Nat) : State :=
  let k := s.core g
  match k.flits[i]? with
  | none => s
  | some f =>
    let c : Chan := Tab.getD k.chans f.ch
    let d := f.toward c.desc
    let out := outputTo f.loc d
    let at_ := f.loc == codeRouter d
    let key := lockKey f.loc out f.vc
    let fits := f.kind == .ack || f.idx != 0
      || (c.fout.isEmpty && dflits c.dfifo + (if f.kind == .token then flitsOf f.tok else 1) ≤ 8)
    if !s.moves g c.desc || !k.firstFlit i f || !k.lockFree key f.tid then s
    else
      let last := f.idx + 1 ≥ f.of
      let rest := k.flits.eraseIdx i
      if !at_ then
        let (r, inp) := hop f.loc out
        match s.ready g r inp f.vc with
        | (s, false) => s
        | (s, true) => (s.stamp g).updCore g (fun k => { k.pass key f with flits := rest ++ [{ f with loc := r, inp := inp }] })
      else if !fits then s
      else
        let s := (s.stamp g).updCore g (fun k => { k.pass key f with flits := rest })
        match f.kind with
        | .ack => s.updChan g f.ch (fun c => { c with unacked := false })
        | .probe cmd => s.updChan g f.ch (fun c => c.arriveProbe cmd)
        | .token => if last then s.arrive g f.ch f.tok else s

/-- Whether the next flit of a source FIFO keeps the channel's order (09 R236, R237): one that takes another VC than an earlier token of a
VC0 or VC2 channel enters once that token has arrived (log 70). -/
def Core.inTurn (k : Core) (ch : Nat) (d : W64) (f : Flit) : Bool :=
  dVC d == 1 || !k.flits.any (fun e => e.ch == ch && e.kind != .ack && e.vc != f.vc)

/-- The head flit of a source FIFO enters its router; the flits of a token enter its input together (01 R44). -/
def State.flitEnter (s : State) (g : RegionNo) (ch : Nat) : State :=
  let k := s.core g
  let c : Chan := Tab.getD k.chans ch
  match c.sfifo with
  | [] => s
  | f :: rest =>
    let loc := codeRouter (dSRC c.desc)
    let inp := codeSide (dSRC c.desc)
    let key := lockKey loc (8 + inp) f.vc
    if !s.moves g c.desc || k.buffered loc inp f.vc ≥ 4 || !k.lockFree key f.tid || !k.inTurn ch c.desc f then s
    else ((s.stamp g).updChan g ch (fun c => { c with sfifo := rest })).updCore g (fun k =>
      { k.pass key f with flits := k.flits ++ [{ f with ch := ch, loc := loc, inp := inp }] })

/-- The acknowledgement of a presented marker enters the mesh on VC3 (01 R45): the marker is at the head of the FIFO, or pulled. -/
def State.flitAck (s : State) (g : RegionNo) (ch : Nat) : State :=
  let k := s.core g
  let c : Chan := Tab.getD k.chans ch
  let loc := codeRouter (dDST c.desc)
  let inp := codeSide (dDST c.desc)
  let isMark (i : DItem) : Bool := i.probe.isNone && i.tok.kind == .marker
  let shown := match c.dfifo ++ c.fout with
    | i :: r => isMark i || !r.any isMark
    | [] => true
  if !c.ackDue || !shown || !s.moves g c.desc || k.buffered loc inp 3 ≥ 4 then s
  else ((s.stamp g).updChan g ch (fun c => { c with ackDue := false })).updCore g (fun k =>
    { k with flits := k.flits ++ [{ ch := ch, kind := .ack, tid := s.tick, vc := 3, loc := loc, inp := inp }] })

/-- Flits that a link's far end holds for a Voing channel (10 R265). -/
def Link.held (l : Link) (c : Nat) : Nat := ((l.outTok.filter (fun e => e.1 == c)).map (fun e => flitsOf e.2)).sum

/-- The armed counters of a port incremented (10 R249): kind 0 tokens, 1 markers. -/
def State.countPort (s : State) (g : RegionNo) (p : Nat) (t : TokKind) : State :=
  let e : EdgePort := Tab.getD (s.core g).ports p
  let arms := match t with
    | .data => e.tokArm
    | .marker => e.markArm
    | _ => []
  arms.foldl (init := s.stamp g) (fun s a => if (s.thread g (BitVec.ofNat 2 a.1)).live then s.bump g (BitVec.ofNat 2 a.1) (BitVec.ofNat 4 a.2) else s)

/-- The token at the head of a destination FIFO at a port of KIND 3 leaves on its Voing channel while the far end has room for all
its flits (10 R265). -/
def State.flitLink (s : State) (g : RegionNo) (ch : Nat) : State :=
  let k := s.core g
  let c : Chan := Tab.getD k.chans ch
  let p := dDST c.desc % 64
  let e : EdgePort := Tab.getD k.ports p
  match c.dfifo with
  | [] => s
  | i :: _ =>
    let l := e.arg.toNat % 16
    let v := e.arg.toNat / 256 % 256
    let link : Link := Tab.getD s.links l
    if dDST c.desc < 256 || e.kind != 3 || i.probe.isSome || !s.portMoves g c.desc || !link.up || link.retrain || link.held v + flitsOf i.tok > 32 then s
    else
      let s := (s.stamp g).updChan g ch Chan.pull
      let s := s.countPort g p (if i.tok.kind == .marker then .marker else .fault)
      { s with links := Tab.set s.links l { link with outTok := link.outTok ++ [(v, i.tok)], unacked := link.unacked ++ [(none, true)] } }

/-! ## Source ports (01 R38; 10 R258) -/

/-- The tokens of a cell's slots toward a channel: written when, slot, target. -/
def slotsToward (c : Cell) (x : CtxNo) (ch : Nat) : List (Nat × SlotNo × Bool × Token) :=
  (c.slots.filter (fun e => e.1 / 64 == x.toNat)).flatMap (fun e =>
    let w := slotFields e.2.word
    let n : SlotNo := BitVec.ofNat 6 e.1
    let one (second : Bool) (t : BitVec 12) (o : Option Token) := match o with
      | some k => if SlotWord.route t == 5 && (SlotWord.tslot t).toNat == ch then [(e.2.res.seq, n, second, k)] else []
      | none => []
    one false w.t0 e.2.res.t0 ++ one true w.t1 e.2.res.t1)

/-- The earliest written, and on a tie the lowest slot (01 R38). -/
def earliest : List (Nat × SlotNo × Bool × Token) → Option (Nat × SlotNo × Bool × Token)
  | [] => none
  | a :: r => match earliest r with
    | some b => if b.1 < a.1 then some b else some a
    | none => some a

/-- The port of another region that joins a port of this one: region and port (03 R102 KIND 1). -/
def State.upstream (s : State) (g : RegionNo) (q kernel : Nat) : Option (RegionNo × Nat) :=
  let k := Tab.getD s.kernels kernel
  k.regions.findSome? (fun r => ((s.core r).ports.find? (fun e => e.2.kind == 1 && e.2.kernel == kernel
      && k.regions.getD (e.2.arg.toNat / 256 % 32) 0 == g && e.2.arg.toNat % 64 == q)).map (fun e => (r, e.1)))

/-- The channel of an active configuration that ends at a port and presents a token. -/
def Core.headToward (k : Core) (p : Nat) : Option (Nat × Token) :=
  k.chans.findSome? (fun e => if dEN e.2.desc && dDST e.2.desc == 256 + p then
      match e.2.dfifo with
      | i :: _ => if i.probe.isNone then some (e.1, i.tok) else none
      | [] => none
    else none)

/-- The head of what a joining port has pulled enters the source FIFO: a token while it fits, and then it counts as placed (10 R249). -/
def State.placeJoined (s : State) (g : RegionNo) (n : Nat) : State :=
  let c : Chan := Tab.getD (s.core g).chans n
  match c.jout with
  | [] => s
  | i :: rest => match i.probe with
    | some cmd => s.updChan g n (fun c => { c with jout := rest }.placeProbe n s.tick cmd)
    | none =>
      if c.takes i.tok then
        (s.updChan g n (fun c => { c with jout := rest }.place n s.tick i.tok)).countPort g (dSRC c.desc % 64) i.tok.kind
      else s

/-- A source port pulls (01 R38, R45, R46): from the slots of its cell, or from the port of another region that joins it. While an `rmark`
waits for room it pulls nothing, and what it has pulled goes on (10 R252). A passed cell's port pulls nothing more (16 R312). -/
def execSourcePortPull (g : RegionNo) (ch : BitVec 7) (s : State) : Out :=
  let n := ch.toNat
  let k := s.core g
  let c : Chan := Tab.getD k.chans n
  let d := c.desc
  if !k.chanActive n || !s.moves g d then .next s
  else if !c.jout.isEmpty then .next (s.placeJoined g n)
  else if !c.rmark.isEmpty then .next s
  else if dSRC d < 256 then
    let cell : CellNo := BitVec.ofNat 8 (dSRC d)
    match earliest (slotsToward (s.cell g cell) (dCTX d) n) with
    | some (_, slot, second, t) =>
      if c.takes t && (s.reg g).cellRuns cell (dCTX d) then .next ((s.pull g (dCTX d) (.res cell slot second)).updChan g n (fun c => c.place n s.tick t)) else .next s
    | none => .next s
  else if !s.portMoves g d then .next s
  else
    match s.upstream g (dSRC d % 64) (s.grant g (dCTX d)).kernel with
    | none => .next s
    | some (r, p) =>
      match (s.core r).headToward p with
      | none => .next s
      | some (u, t) =>
        let up : Chan := Tab.getD (s.core r).chans u
        if !s.portMoves r up.desc then .next s
        else
          let s := (s.updChan r u Chan.pull).countPort r p (if t.kind == .marker then .marker else .fault)
          let fm := delivered up.desc up.entry
          let cell : CellNo := BitVec.ofNat 8 (edgeCell (dSRC d % 64))
          let t := { t with ctx := dCTX d }
          if fm == dFMT d then .next (s.updChan g n (fun c => { c with jout := [{ tok := t }] }))
          else
            let (os, st, _, bad) := convTok fm (dFMT d) 0 false (s.gen g cell) ⟨c.jElems, c.jP, c.jRound⟩ t
            let out := takesGathered t os
            let s := s.updChan g n (fun c => { c with jElems := st.elems, jP := st.p, jRound := st.round,
                                                      jout := behindFirst 1 (if out then c.jwait else []) os, jwait := if out then [] else c.jwait })
            .next (if bad then s.portFault g (dSRC d % 64) (dCTX d) Cause.illegal 0 else s)

/-! ## Stillness and pre-empt markers (16 R309, R312, R320; log 28, 71) -/

/-- Whether a slot can fire: its register is free and what it reads is present. -/
def State.canFire (s : State) (l : SlotLoc) (t : Slot) : Bool :=
  let w := slotFields t.word
  let op := fld t.word 55 9
  let heads := (SlotRules.positions op w).map (s.headAt l)
  let mark (h : Option (Src × Token)) : Bool := match h with
    | some (_, k) => k.kind == .marker
    | none => false
  let data (h : Option (Src × Token)) : Bool := h.isSome && !mark h
  if t.word == 0 || !t.res.empty || t.after.isSome || t.blocked then false
  else if op == 0x008 then !t.tids.isEmpty
  else if t.iter.isSome then true
  else if heads.isEmpty then t.pend > 0
  else if op == 0x005 then heads.any data || heads.all mark
  else if op == 0x186 then heads.all Option.isSome
  else heads.all data || heads.all mark

/-- Whether a change moves something in a region. -/
def State.stirs (s : State) (f : State → State) : Bool := decide ((f s).regions ≠ s.regions)

/-- Whether a token of the context still moves by itself: a flit, a source port or an acknowledgement. -/
def State.tokensMove (s : State) (g : RegionNo) (x : CtxNo) : Bool :=
  let k := s.core g
  (List.range k.flits.length).any (fun i => match k.flits[i]? with
    | some f => dCTX (Tab.getD k.chans f.ch : Chan).desc == x && s.stirs (fun s => s.flitHop g i)
    | none => false)
  || k.chans.any (fun e => dCTX e.2.desc == x && (s.stirs (fun s => s.flitEnter g e.1) || s.stirs (fun s => s.flitAck g e.1)
      || (e.1 < 128 && s.stirs (fun s => match execSourcePortPull g (BitVec.ofNat 7 e.1) s with | .next t => t | _ => s))))

/-- Whether nothing of some resident contexts moves: no firing is in flight, no token moves and no cell that still runs can fire. -/
def State.still (s : State) (g : RegionNo) (mine : CtxNo → Bool) : Bool :=
  let k := s.core g
  k.cells.all (fun c => !c.2.flights.any (fun f => mine f.ctx))
    && k.grants.all (fun e => !mine (BitVec.ofNat 2 e.1) || !s.tokensMove g (BitVec.ofNat 2 e.1))
    && !k.cells.any (fun c => c.2.slots.any (fun t =>
      let l : SlotLoc := ⟨g, BitVec.ofNat 8 c.1, BitVec.ofNat 2 (t.1 / 64), BitVec.ofNat 6 t.1⟩
      mine l.ctx && s.cellRuns l && s.canFire l t.2))

/-- The inputs of a router from which a flit can take an output toward another: in dimension order a flit turns from a row into a column, and one
from an edge stream port may travel along its row first (01 R42). -/
def feeders (r out : Nat) : List Nat :=
  let edge : List Nat := (if r < 16 then [1] else []) ++ (if r ≥ 240 then [3] else [])
  match out with
  | 1 => [2, 3, 4]
  | 2 => 4 :: edge
  | 3 => [1, 2, 4]
  | _ => 2 :: edge

/-- The router input that the pre-empt marker of number n reaches next, for the contexts that are stopped and the inputs reached before: n below 64
is port n, behind the tokens that it has taken, and 64 + 8 × router + output the link from a router, once markers have come by every input
that feeds it and behind every flit that waits there for it. Flits that can move no further, because no cell takes what stands before them, are
passed where nothing moves any more, and are saved where they stand; the marker takes no place of theirs (log 71). -/
def State.nextSwept (s : State) (g : RegionNo) (mine : CtxNo → Bool) (reached : List Nat) (n : Nat) : Option Nat :=
  let k := s.core g
  let r := (n - 64) / 8
  let out := (n - 64) % 8
  let inside := match out with
    | 1 => 16 ≤ r
    | 2 => r % 16 < 15
    | 3 => r < 240
    | 4 => 0 < r % 16
    | _ => false
  let own (ch : Nat) : Bool := mine (dCTX (Tab.getD k.chans ch : Chan).desc)
  let reach (at_ : Nat) (behind : Bool) : Option Nat := if reached.contains at_ || !(behind || s.still g mine) then none else some at_
  if n < 64 then
    reach (8 * edgeCell n + edgeSide n) (!k.chans.any (fun e => own e.1 && dSRC e.2.desc == 256 + n && (!e.2.sfifo.isEmpty || !e.2.jout.isEmpty)))
  else if r < 256 && inside && (feeders r out).all (fun i => reached.contains (8 * r + i)) then
    reach (8 * (hop r out).1 + (hop r out).2)
      (!k.flits.any (fun f => own f.ch && f.loc == r && outputTo r (f.toward (Tab.getD k.chans f.ch : Chan).desc) == out))
  else none

/-- A pre-empt marker crosses a link: one of an image that leaves (16 R312), or, numbered from 4,096, one of the kernel whose cells `ctxsave`
stops (16 R320). -/
def State.sweep (s : State) (g : RegionNo) (n : Nat) : State :=
  let k := s.core g
  if n < 4096 then
    if !(s.reg g).leaving then s
    else match s.nextSwept g (fun _ => true) k.swept n with
      | some i => s.updCore g (fun k => { k with swept := k.swept ++ [i] })
      | none => s
  else match k.passing with
    | some (kern, l) => match s.nextSwept g k.passingCtx l (n - 4096) with
      | some i => s.updCore g (fun k => { k with passing := some (kern, l ++ [i]) })
      | none => s
    | none => s

/-- A flit moves (01 R46). Number 5n + 0 names the head of channel n's source FIFO, + 1 the n-th flit in the routers, + 2 the
acknowledgement of channel n, + 3 the head of channel n's destination FIFO at a Voing port, + 4 the pre-empt marker of number n. -/
def execFlitMove (g : RegionNo) (i : Nat) (s : State) : Out :=
  .next (match i % 5 with
    | 0 => s.flitEnter g (i / 5)
    | 1 => s.flitHop g (i / 5)
    | 2 => s.flitAck g (i / 5)
    | 3 => s.flitLink g (i / 5)
    | _ => s.sweep g (i / 5))

/-! ## Block entry (16 R308) -/

/-- A token at an edge stream port of KIND 0: a FORM 2 control token joins the entry queue of block p mod 16 of its context; an
end-of-round marker is discarded; anything else is discarded and reported. -/
def execThreadTokenEntry (g : RegionNo) (port : BitVec 6) (s : State) : Out :=
  let p := port.toNat
  let k := s.core g
  let e : EdgePort := Tab.getD k.ports p
  match k.headToward p with
  | none => .next s
  | some (ch, t) =>
    let d := (Tab.getD k.chans ch : Chan).desc
    let x := dCTX d
    let block := p % 16
    let s1 := (s.updChan g ch Chan.pull).countPort g p (if t.kind == .marker then .marker else .fault)
    if !Tab.has k.ports p || e.kind != 0 || !s.portMoves g d then .next s
    else if t.kind == .marker then .next s1
    else if t.kind != .control || t.form != .tile || block ≥ hNBLK (Tab.getD s.kernels (s.grant g x).kernel : Kernel).image then
      .next (s1.portFault g p x Cause.illegal 0)
    else
      let sc : Sched := Tab.getD k.sched x.toNat
      let q : List (List (BitVec 16)) := Tab.getD sc.queues block
      if q.length ≥ 4096 then .next s
      else
        let v := t.pay.toNat
        let coords : List (BitVec 16) := (List.range 4).map (fun i => BitVec.ofNat 16 (v >>> (16 * i)))
        .next (s1.updSched g x (fun c => { c with queues := Tab.set c.queues block (q ++ [coords]) }))

/-! ## Voing tokens (10 R265; 19 R364, R371) -/

/-- The saved images in which a port names a Voing channel know that a token has come for it (16 R314; log 32). -/
def State.callImages (s : State) (names : Nat × EdgePort → Bool) : State :=
  { s with regions := Tab.mapVal s.regions (fun _ r => { r with images := r.images.map (fun i =>
      if i.core.ports.any names then { i with called := true } else i) }) }

/-- A token arrives on a Voing channel: it enters at the edge stream port whose KIND 3 record names the channel, and takes its
context; it waits while that record is in a saved image; with no such record it is discarded and counted, as a late item too where the
record belonged to a kernel that has ended. One of kind 6 or 7 is discarded and reported to the root fault core (01 R32), by its port, or
with no port by the root core, of no context (log 71). -/
def execVoingTokenReceive (link : BitVec 4) (ch : Byte) (tok : Token) (s : State) : Out :=
  let names (e : Nat × EdgePort) : Bool := e.2.kind == 3 && e.2.arg.toNat % 16 == link.toNat && e.2.arg.toNat / 256 % 256 == ch.toNat
  let home := s.regions.findSome? (fun r => (r.2.core.ports.find? names).map (fun e => (BitVec.ofNat 5 r.1, e.1)))
  let l : Link := Tab.getD s.links link.toNat
  if tok.kind == .reserved6 || tok.kind == .reserved7 then
    .next (s.record (match home with
      | some (g, p) =>
        let n := (Tab.getD (s.core g).ports p : EdgePort).kernel
        { cause := Cause.uncorrectable, rep := BitVec.ofNat 16 (0x8100 + p), g := g, x := s.portCtx g p,
          ctxid := (Tab.getD s.kernels n : Kernel).ctxid, kernel := n, fatal := true }
      | none => { cause := Cause.uncorrectable, rep := 0xFFFF, ctxid := 4096, fatal := true }))
  else match home with
  | none =>
    if s.regions.any (fun r => r.2.images.any (fun i => i.core.ports.any names)) then .next (s.callImages names)
    else
      let s := if s.regions.any (fun r => r.2.gone.contains (link.toNat + 16 * ch.toNat)) then s.dropStale else s
      .next { s with links := Tab.set s.links link.toNat { l with lost := l.lost + 1 } }
  | some (g, p) =>
    if (s.reg g).clockGated || (s.reg g).gating.isSome then .next (s.setReg g { s.reg g with called := true })
    else match (s.core g).chans.find? (fun e => dSRC e.2.desc == 256 + p && (s.core g).chanActive e.1) with
    | none => .next s
    | some (n, c) =>
      if c.rmark.isEmpty && c.jout.isEmpty && c.takes tok && s.portMoves g c.desc then
        .next ((s.updChan g n (fun c => c.place n s.tick { tok with ctx := dCTX c.desc })).countPort g p tok.kind)
      else .next s

/-- The far end has taken the oldest item of a link, a token or a packet, and acknowledged it (09 R235, 10 R265). -/
def execVoingAcknowledgement (link : BitVec 4) (s : State) : Out :=
  let l : Link := Tab.getD s.links link.toNat
  .next (match l.unacked with
    | [] => s
    | (_, true) :: r => { s with links := Tab.set s.links link.toNat { l with outTok := l.outTok.drop 1, unacked := r } }
    | (_, false) :: r => { s with links := Tab.set s.links link.toNat { l with outPk := l.outPk.drop 1, unacked := r } })

/-- A write of a host line completes over CXL (09 R235). -/
def execCxlWriteCompletion (line : Nat) (s : State) : Out := .next { s with cxl := s.cxl.eraseP (fun e => e.1 == line) }

/-! ## Probes and markers (09 R237; 10 R251, R252) -/

/-- A probe at the head of a destination FIFO returns to its command (09 R237). -/
def execProbeReturn (g : RegionNo) (ch : BitVec 7) (s : State) : Out :=
  let c : Chan := Tab.getD (s.core g).chans ch.toNat
  match c.dfifo with
  | i :: _ => match i.probe with
    | some cmd =>
      let s := (s.stamp g).updChan g ch.toNat Chan.pull
      let m := s.cmd g cmd
      if m.prog.owed ≤ 1 then .next (s.endCmd g cmd 0 m.prog.a)
      else .next (s.updCmd g cmd (fun m => { m with prog := { m.prog with owed := m.prog.owed - 1 } }))
    | none => .next s
  | [] => .next s

/-- Channels of a context that `fprobe` ALL covers: EN, of the active configuration, VC 0 or 2. -/
def Core.probed (k : Core) (x : CtxNo) : List Nat :=
  (k.chans.filter (fun e => k.chanActive e.1 && dCTX e.2.desc == x && (dVC e.2.desc == 0 || dVC e.2.desc == 2))).map (fun e => e.1)

/-- A probe placed behind every token that the source port has pulled: behind those that a joining port still holds too, and behind the
elements that its CONVERT has gathered from them, whose token a later one or a marker completes (10 R255; log 90). -/
def State.placeProbe (s : State) (g : RegionNo) (id n : Nat) : State :=
  s.updChan g n (fun c =>
    if !c.jElems.isEmpty then { c with jwait := c.jwait ++ [id] }
    else if c.jout.isEmpty then c.placeProbe n s.tick id
    else { c with jout := c.jout ++ [{ probe := some id }] })

/-- What a joining port's CONVERT has gathered becomes a token, completed with +0 as ahead of a marker (10 R255). -/
def Chan.flushJoin (c : Chan) : Chan :=
  if c.jElems.isEmpty then c
  else
    let mark : Token := { kind := .marker, form := .scalar, ctx := dCTX c.desc, round := c.jRound, p := true, tag := 0, pay := 0 }
    let os := (convTok 0 (dFMT c.desc) 0 false 0 ⟨c.jElems, c.jP, c.jRound⟩ mark).1.take 1
    { c with jout := c.jout ++ behindFirst 1 c.jwait os, jwait := [], jElems := [], jP := true, jRound := 0 }

/-- `fprobe` (10 R251). -/
def execFprobe (c : Frame) (s : State) : Out :=
  s.runCmd (fun g id m =>
    if m.prog.stage != 0 then s
    else
      let k := s.core g
      let n := c.handle.toNat % 128
      let d := (Tab.getD k.chans n : Chan).desc
      if c.cf == 0 && (!dEN d || dCTX d != m.x || dVC d == 1) then s.failCmd g id Cause.cmdInvalid
      else
        let ns := if c.cf == 0 then [n] else k.probed m.x
        let s := ns.foldl (fun s n => s.placeProbe g id n) s
        if ns.isEmpty then s.endCmd g id 0 0
        else s.progress g id (fun p => { p with stage := 1, owed := ns.length, a := ns.length }))

/-- `rmark`: a marker behind every token pulled, those that a joining port still holds and the elements gathered from them too, which it completes
(09 R236, 10 R255); it waits for room, and the port pulls nothing meanwhile (10 R252). Its wait counts for the residency timer; 17 R339 gives it no wait kind, and it has kind 0 with the channel as its object (log 73). -/
def execRmark (c : Frame) (s : State) : Out :=
  s.runCmd (fun g id m =>
    let n := c.handle.toNat % 128
    let ch : Chan := Tab.getD (s.core g).chans n
    let round : Byte := c.w0.truncate 8
    let t : Token := { kind := .marker, form := .scalar, ctx := dCTX ch.desc, round := round, p := true, tag := 0, pay := 0 }
    if m.prog.stage == 0 && (!dEN ch.desc || dCTX ch.desc != m.x) then s.failCmd g id Cause.cmdInvalid
    else
      let first := match ch.rmark with
        | [] => true
        | r :: _ => r.1 == id
      if first && ch.jElems.isEmpty && ch.jout.isEmpty && ch.takes t then
        (s.updChan g n (fun k => { k with rmark := k.rmark.drop 1 }.place n s.tick t)).endCmd g id 0 0
      else if m.prog.stage == 0 then
        ((s.updChan g n (fun k => { k.flushJoin with rmark := k.rmark ++ [(id, round)] })).updCmd g id (fun m =>
          { m with prog := { m.prog with stage := 1 } })).waitCmd g id 0 n 0xFF
      else s)

end Sys2Proof.Machine
end

