-- ==== Sys2Proof/Machine/StreamCmd.lean ====
section
/-!
DEFINITION. Stream commands, host participants, edge stream ports bound to streams (07 R211 to R214, R219 to R225, R227; 00 R16).
-/

namespace Sys2Proof.Machine

/-- The lowest-numbered cause of those whose condition holds (00 R16). -/
def lowest (cs : List (Bool × Byte)) : Option Byte :=
  (cs.filter (fun c => c.1)).foldl (fun a c => match a with
    | none => some c.2
    | some b => some (if c.2.toNat < b.toNat then c.2 else b)) none

/-- Key of the stream that a command names. -/
def cmdScb (m : Cmd) (c : Frame) : Nat := scbKey m.ctxid (c.handle.toNat % 4096)

/-- A stream without a window: FREE or CLOSED. -/
def Scb.shut (b : Scb) : Bool := b.state == 0 || b.state == 4

/-- Agent code of a region (07 R201). -/
def regionAgent (g : RegionNo) : Nat := g.toNat
/-- Agent code of a host function. -/
def hostAgent (f : Nat) : Nat := 0x80 + f

/-! ## Opening and closing (07 R220, R222) -/

/-- The edge ports bound to a stream of a context work as from their first activation (07 R214). -/
def Core.freshPorts (k : Core) (mine : Nat → Bool) (six : Nat) : Core :=
  { k with ports := Tab.mapVal k.ports (fun _ e =>
      if e.kind == 2 && mine e.kernel && e.arg.toNat % 4096 == six then { e with stopped := false, wset := false, work := none } else e) }

/-- Every port of the package bound to a stream made fresh. -/
def State.freshPorts (s : State) (ctxid six : Nat) : State :=
  let mine (k : Nat) : Bool := (Tab.getD s.kernels k : Kernel).ctxid == ctxid
  { s with regions := Tab.mapVal s.regions (fun _ r =>
      { r with core := r.core.freshPorts mine six,
               images := r.images.map (fun i => { i with core := i.core.freshPorts mine six }) }) }

/-- The cause for which `sopen` fails, if any (07 R202, R220; 17 R341). -/
def openFault (b : Scb) (gr : Grant) (six : Nat) (auto : Bool) (k wlog base : Nat) : Option Byte :=
  let bank := clsOf base == 0xC
  let off := base % 2 ^ 60
  let win := 2 ^ (k + wlog)
  let sizes := if bank then 1 ≤ k && k ≤ 21 && k + wlog ≤ 24 else 12 ≤ k && k ≤ 40 && k + wlog ≤ 40
  lowest [(!b.shut, Cause.cmdInvalid),
    ((clsOf base != 0 && !bank) || (bank && off ≥ 2 ^ 24) || (!bank && bits base 57 59 != 0), Cause.addrClass),
    (!sizes || wlog > 12 || (six == 4095 && (!auto || win < 32)), Cause.cmdInvalid),
    (base % (if bank then 128 else 4096) != 0, Cause.misaligned),
    (bank && (off + win > 2 ^ 24 || (gr.lease != 16 && off % 65536 + win > gr.lease * 4096)), Cause.pagePermission)]

/-- `sopen` (07 R220). -/
def execSopen (c : Frame) (s : State) : Out :=
  s.runCmd (fun g id m =>
    let six := c.handle.toNat % 4096
    let key := cmdScb m c
    let b := s.scb key
    let k := c.w0.toNat % 64
    let wlog := c.w0.toNat / 64 % 16
    let base := frameAddr c
    let gr := s.grant g m.x
    let auto := c.cf.getLsbD 0
    match openFault b gr six auto k wlog base with
    | some e => s.failCmd g id e
    | none =>
      let bank := clsOf base == 0xC
      let nb : Scb := { prod := if six == 4095 then 0xFF else regionAgent g, owner := m.ctxid, state := 1, auto := auto, k := k, wlog := wlog, bk := bank,
                        base := base % 2 ^ 57, greg := g, lease := gr.lease, lbase := gr.base, opens := b.opens + 1 }
      ((s.setScb key nb).freshPorts m.ctxid six).endCmd g id 0 0)

/-- A copy that has performed some writes of its chunk and has others of it still to write to a stream, and waits for nothing (10 R244). -/
def Cmd.midChunk (c : Cmd) (key : Nat) : Bool :=
  let wr (e : EAcc) : Bool := e.wr.isSome && clsOf e.addr == 4 && elemScb c.ctxid e.addr == key
  c.isCopy && c.running && c.parked.isNone && c.wait.isNone && c.prog.io.any (fun e => wr e && e.got.isSome) && c.prog.io.any (fun e => wr e && e.got.isNone)

/-- Whether a copy of the package stands so at a stream. -/
def State.chunkGoing (s : State) (key : Nat) : Bool := s.regions.any (fun r => r.2.runs && r.2.core.cmds.any (fun c => c.2.midChunk key))

/-- `sclose` (07 R222). Closing comes at the control point before or after the writes of a chunk that the stream has admitted, so that none of a
chunk's writes stands beside a fault of the others (10 R244; log 74). -/
def execSclose (c : Frame) (s : State) : Out :=
  s.runCmd (fun g id m =>
    let key := cmdScb m c
    let b := s.scb key
    if b.shut then s.failCmd g id Cause.streamClosed
    else if !c.cf.getLsbD 0 && s.chunkGoing key then s
    else
      let b := if c.cf.getLsbD 0 then { b with state := if b.state == 1 then 2 else b.state } else b.close
      (s.changeScb key b).endCmd g id 0 b.state)

/-! ## Publishing, releasing, rewinding (07 R206 to R208, R221) -/

/-- A publish (slot 8) or a release by command: its place at the control point is kept while it waits (07 R219). -/
def State.cmdAsk (s : State) (g : RegionNo) (id : Nat) (m : Cmd) (c : Frame) (slot kind : Nat) : State :=
  if m.prog.stage != 0 then s
  else
    let key := cmdScb m c
    let s := s.progress g id (fun p => { p with stage := 1 })
    let s := s.askStream key (.cmd g id) (frameOff c) slot
    if (s.cmd g id).done then s
    else s.waitCmd g id kind (streamAddr (c.handle.toNat % 4096) (frameOff c)) ((s.scb key).waitsFor kind)

/-- `spublish`. -/
def execSpublish (c : Frame) (s : State) : Out := s.runCmd (fun g id m => s.cmdAsk g id m c 8 2)
/-- `srelease`. -/
def execSrelease (c : Frame) (s : State) : Out := s.runCmd (fun g id m => s.cmdAsk g id m c (c.w2.toNat % 8) 3)

/-- A rewind of a reader slot (07 R208). -/
def Scb.rewind (b : Scb) (n o : Nat) : Except Byte Scb :=
  if b.shut then .error Cause.streamClosed
  else match Tab.get b.readers n with
    | none => .error Cause.cmdInvalid
    | some r =>
      match lowest [(before o r.rel, Cause.streamBehind), (after o r.pos, Cause.cmdInvalid)] with
      | some e => .error e
      | none => .ok { b with readers := Tab.set b.readers n { r with pos := o } }

/-- `srewind`: VALUE is POS. -/
def execSrewind (c : Frame) (s : State) : Out :=
  s.runCmd (fun g id m =>
    let key := cmdScb m c
    match (s.scb key).rewind (c.w2.toNat % 8) (frameOff c) with
    | .error e => s.failCmd g id e
    | .ok b => (s.changeScb key b).endCmd g id 0 (frameOff c))

/-! ## Status (07 R223, R227) -/

/-- Whether a noted access still waits, and has not been admitted by a change since (07 R204, R205). -/
def Scb.stillWaits (b : Scb) (w : SWait) : Bool := if w.wr then !w.adm else match b.look w with
  | .wait _ => true
  | _ => false

/-- VALUE of `sstat`. -/
def Scb.statValue (b : Scb) : Nat :=
  if b.state == 0 then 0
  else
    let act := ((List.range 8).filter (fun i => Tab.has b.readers i)).foldl (fun a i => a + 2 ^ i) 0
    b.state % 8 * 2 ^ 29 + b.free % 2 ^ 13 * 2 ^ 16 + act * 256 + min (b.waits.filter b.stillWaits).length 255

/-- `sstat`: the control block is captured at one instant; the image, if wanted, is then written and the response follows. -/
def execSstat (c : Frame) (s : State) : Out :=
  s.runCmd (fun g id m =>
    let a := frameAddr c
    let b := s.scb (cmdScb m c)
    let bad := lowest [(a % 128 != 0, Cause.misaligned), ((clsOf a != 0 && clsOf a != 0xC) || (classFault a).isSome, Cause.addrClass)]
    if m.prog.stage == 0 then
      if a == 0 then s.endCmd g id 0 b.statValue
      else match bad with
        | some e => s.failCmd g id e
        | none => s.progress g id (fun p => { p with stage := 1, hdr := b.image, a := b.statValue })
    else match s.eWrite g id m a m.prog.hdr with
      | (s, .ok ()) => s.endCmd g id 0 m.prog.a
      | (s, .error e) => s.onStop g id e 0 true)

/-! ## Participants (07 R209, R213, R224) -/

/-- The aperture that STREAM_BIND prepared for a stream of a context in its function (07 R211). -/
def State.prepared (s : State) (ctxid six ap : Nat) : Bool :=
  match Tab.get (Tab.getD s.funcs (s.funcOf ctxid) : Func).aps ap with
  | some a => a.ctxid == ctxid && a.six == six && a.gen == s.genOf ctxid
  | none => false

/-- An orderly end of a host binding (07 R213). -/
def Scb.unhost (b : Scb) : Scb :=
  if b.hrole then { b with prod := 0xFF, hb := false, hap := 0 }
  else { b.detach b.hslot with hb := false, hap := 0, hslot := 0 }

/-- What `sbind` makes of a control block; failure is CMD_INVALID (07 R224). -/
def Scb.bind (b : Scb) (op slot : Nat) (role : Bool) (g : RegionNo) (ap f : Nat) (ready : Bool) : Option Scb :=
  match op with
  | 0 => b.attach slot (regionAgent g)
  | 1 => some (b.detach slot)
  | 2 =>
    if b.hb || !ready then none
    else if role then
      if b.auto then none
      else some { b with prod := hostAgent f, hb := true, hrole := true, hslot := 0, hap := ap, hfunc := f }
    else (b.attach slot (hostAgent f)).map (fun b => { b with hb := true, hrole := false, hslot := slot, hap := ap, hfunc := f })
  | _ => if b.hb then some b.unhost else none

/-- `sbind`: VALUE is the slot number. -/
def execSbind (c : Frame) (s : State) : Out :=
  s.runCmd (fun g id m =>
    let key := cmdScb m c
    let b := s.scb key
    let slot := c.w0.toNat % 8
    let ap := c.w1.toNat % 256
    let ready := s.prepared m.ctxid (c.handle.toNat % 4096) ap
    if b.shut then s.failCmd g id Cause.streamClosed
    else match b.bind c.cf.toNat slot (c.w0.getLsbD 3) g ap (s.funcOf m.ctxid) ready with
      | none => s.failCmd g id Cause.cmdInvalid
      | some b => (s.changeScb key b).endCmd g id 0 slot)

/-! ## Host participants (07 R211, R212) -/

/-- The control block that an aperture shows: that of its stream, or a CLOSED one once the context that it was prepared for has been destroyed,
until the aperture is removed (07 R213). -/
def State.apScb (s : State) (a : Aperture) : Scb := if a.gen == s.genOf a.ctxid then s.scb (scbKey a.ctxid a.six) else { state := 4 }

/-- The stream of an aperture that its host is bound to, in a role. -/
def State.hostScb (s : State) (f ap : Nat) (role : Bool) : Option Nat :=
  match Tab.get (Tab.getD s.funcs f : Func).aps ap with
  | none => none
  | some a =>
    let key := scbKey a.ctxid a.six
    let b := s.apScb a
    if b.hb && b.hap == ap && b.hfunc == f && b.hrole == role then some key else none

/-- A host's publish or release: a later write to the field replaces a pending one (07 R211). -/
def State.hostAsk (s : State) (key : Nat) (rel : Bool) (o slot : Nat) : State :=
  let b := s.scb key
  (s.setScb key { b with waiting := b.waiting.filter (fun w => w.1 != .host rel) }).askStream key (.host rel) o slot

/-- An aligned 8 B write to HWM of a control page: a publish of a host producer, ignored for a reader. -/
def execHwmWrite (f : BitVec 5) (ap : BitVec 6) (v : W64) (s : State) : Out :=
  .next (match s.hostScb f.toNat ap.toNat true with
    | some key => s.hostAsk key false (v.toNat % 2 ^ 48) 8
    | none => s)

/-- An aligned 8 B write to HREL of a control page: a release of a host reader, ignored for a producer. -/
def execHrelWrite (f : BitVec 5) (ap : BitVec 6) (v : W64) (s : State) : Out :=
  .next (match s.hostScb f.toNat ap.toNat false with
    | some key => s.hostAsk key true (v.toNat % 2 ^ 48) (s.scb key).hslot
    | none => s)

/-! ## The data area (07 R212) -/

/-- The place of a ring byte for the host's own access: it waits for no granule (07 R212; log 76). -/
def State.hostPlace (s : State) (ctxid : Nat) (b : Scb) (ring : Nat) : State × Except XStop Place :=
  match ({ s with hostOwned := [], xfers := [] }).ringPlace b.greg ctxid b ring true with
  | (t, r) => ({ t with hostOwned := s.hostOwned, xfers := s.xfers }, r)

/-- Bytes of the data area written piece by piece; a piece whose place does not translate is lost (log 53). -/
def State.hostWrite (s : State) (ctxid : Nat) (b : Scb) : List (Nat × Nat) → List Byte → State
  | [], _ => s
  | p :: ps, bs => match s.hostPlace ctxid b p.1 with
    | (s, .ok pl) => (s.writePlace pl (bs.take p.2)).hostWrite ctxid b ps (bs.drop p.2)
    | (s, .error _) => s.hostWrite ctxid b ps (bs.drop p.2)

/-- A host write of the data area: ring bytes change without a check and without a wait, whoever owns the granule (07 R212; log 53). -/
def execApertureDataWrite (f : BitVec 5) (ap : BitVec 6) (off : Nat) (bytes : List Byte) (s : State) : Out :=
  .next (match Tab.get (Tab.getD s.funcs f.toNat : Func).aps ap.toNat with
    | none => s
    | some a =>
      let b := s.apScb a
      if b.shut || off ≥ b.win then s
      else
        let bs := bytes.take (b.win - off)
        s.hostWrite a.ctxid b (ringPieces b.win (bs.length + 1) off bs.length) bs)

/-! ## Edge stream ports bound to streams (07 R214) -/

/-- The stream that a KIND 2 port is bound to. -/
def State.portScb (s : State) (e : EdgePort) : Nat := scbKey (Tab.getD s.kernels e.kernel : Kernel).ctxid (e.arg.toNat % 4096)

/-- A port waits (07 R215). -/
def State.waitPort (s : State) (g : RegionNo) (p kind obj agent : Nat) : State :=
  s.updPort g p (fun e => { e with wait := some { (e.wait.getD { since := s.tick }) with kind := kind, obj := obj, agent := agent } })

/-- A port parks at a ring byte and reports it (17 R335, R336, R339). -/
def State.parkPort (s : State) (g : RegionNo) (p : Nat) (x : CtxNo) (f : XFault) (addr aux : Nat) (wr : Bool) : State :=
  let f := { s.parking f aux with wr := wr }
  let s := (s.forgetPage g (s.grant g x).ctxid (addr / 4096)).updPort g p (fun e => { e with parked := some (addr, f), wait := none })
  let (a, y) := f.addrs addr aux
  s.report g { cause := f.cause, rep := BitVec.ofNat 16 (0x8100 + p), addr := a, aux := y, x := x, ctxid := (s.grant g x).ctxid,
               kernel := (s.grant g x).kernel, wr := wr, s2 := f.s2, level := f.level, gpa := f.gpa, park := some f.seq }

/-- A port stopped at an access: it parks, fails or is held. -/
def State.stopPort (s : State) (g : RegionNo) (p : Nat) (x : CtxNo) (t : Stop) (wr : Bool) : State :=
  match t with
  | .park f a e => s.parkPort g p x f a (e.getD 0) wr
  | .fail c => s.failPort g p c 0
  | .hold => s

/-- A token formed by a port: the manual gives its ROUND no value (log 15). -/
def State.portToken (s : State) (kind : TokKind) (form : TokForm) (x : CtxNo) (pay : Line) : State × Token :=
  let (r, s) := s.free 8
  (s, { kind := kind, form := form, ctx := x, round := r, p := true, tag := 0, pay := pay })

/-- The channel of an active configuration that a port feeds. -/
def Core.chanFrom (k : Core) (p : Nat) : Option (Nat × Chan) :=
  k.chans.find? (fun e => dSRC e.2.desc == 256 + p && k.chanActive e.1)

/-- One action on a line of a port's access: its ring byte is translated, or it performs; a place the host owns is fetched first (09 R230; 17
R335, R349). -/
def State.ringOne (s : State) (g : RegionNo) (who : Agent) (b : Scb) (w : PortAcc) (elem : Nat) (e : EAcc) : State × Except Stop EAcc :=
  let ring := e.addr % 2 ^ 48 % b.win
  match w.io.find? e.same with
  | none => match s.ringPlace g b.owner b ring e.wr.isSome with
    | (s, .error (.fail f)) => (s, .error (.park f (b.base + ring) (some elem)))
    | (s, .error (.hold pl)) => (s.claim who pl (b.base + ring) e.wr.isSome, .error .hold)
    | (s, .ok pl) => (s, .ok { e with pl := pl, va := b.base + ring, opens := b.opens })
  | some q =>
    if !s.ownedOk q.pl then (s.claim who q.pl q.va e.wr.isSome, .error .hold)
    else if s.spoiled q.pl q.n e.wr.isSome then (s, .error (.fail Cause.uncorrectable))
    else match s.ioEffect { q with wr := e.wr } with
      | (s, bs) => (s, .ok { q with got := some bs })

/-- The lines of a port's access that have still to perform. -/
def PortAcc.todo (w : PortAcc) (es : List EAcc) : List EAcc := es.filter (fun e => !(w.io.any (fun q => q.same e && q.got.isSome)))

/-- What the lines of a port's access have read. -/
def PortAcc.got (w : PortAcc) (es : List EAcc) : List Byte := es.flatMap (fun e => ((w.io.find? e.same).bind (·.got)).getD [])

/-- A line of a port's access has started or performed. -/
def PortAcc.put (w : PortAcc) (q : EAcc) : PortAcc := { w with io := w.io.filter (fun e => !e.same q) ++ [q] }

/-- One of the lines of a port's access acts, a free choice among those that have still to perform; a write that would find PENDING full with its
last line waits for that (07 R205). -/
def State.portLine (s : State) (g : RegionNo) (p : Nat) (x : CtxNo) (who : Agent) (key : Nat) (w : PortAcc) (es : List EAcc) (wr : Bool) : State :=
  let b := s.scb key
  let addr := streamAddr (key % 4096) w.off
  let todo := w.todo es
  if wr && todo.length == 1 && b.auto && w.off != b.hwm && b.pending.length ≥ 16 then
    (s.noteWait key (.port g p) w.off w.n true 4).waitPort g p 4 addr (b.waitsFor 4)
  else
    let (i, s) := s.pick todo.length
    match todo[i]? with
    | none => s
    | some e => match s.ringOne g who b w addr e with
      | (s, .error t) => s.stopPort g p x t wr
      | (s, .ok q) => (s.stamp g).updPort g p (fun e => { e with work := some (w.put q), wait := none })

/-- Whether the ring of a port's access has been given up since the stream admitted it (07 R222). -/
def Scb.gone (b : Scb) (w : PortAcc) : Bool := b.shut || b.opens != w.opens

/-- A read-bound port's step: a read at POS is admitted (07 R204), its lines are read, and with the last of them its token is sent and POS advances;
a read whose reader slot has been rewound or detached meanwhile is dropped. -/
def execEdgePortStreamRead (g : RegionNo) (port : BitVec 6) (s : State) : Out :=
  let p := port.toNat
  let k := s.core g
  let e : EdgePort := Tab.getD k.ports p
  if e.kind != 2 || e.arg.getLsbD 16 || e.stopped || e.parked.isSome then .next s
  else match k.chanFrom p with
    | none => .next s
    | some (n, c) =>
      let d := c.desc
      let key := s.portScb e
      let six := key % 4096
      let b := s.scb key
      let send (s : State) (t : Token) : State := (s.updChan g n (fun c => c.place n s.tick t)).countPort g p t.kind
      let ready (v : Bool) : Bool :=
        s.portMoves g d && c.rmark.isEmpty && c.jout.isEmpty && c.takes { (default : Token) with form := if v then .vector else .scalar }
      let letIn (pos n : Nat) : State :=
        match b.read pos n with
        | .fault c => s.failPort g p c (streamAddr six pos)
        | .wait kind => s.waitPort g p kind (streamAddr six pos) (b.waitsFor kind)
        | .perform _ => (s.stamp g).updPort g p (fun e => { e with work := some { off := pos, n := n, opens := b.opens }, wait := none })
      match b.readers.find? (fun r => r.2.agent == regionAgent g), e.work with
      | none, none => .next (s.waitPort g p 5 (streamAddr six 0) 0xFF)
      | none, some _ => .next (s.updPort g p (fun e => { e with work := none }))
      | some (i, r), some w =>
        let es := ringAccs six b.win w.off w.n none
        if b.gone w then .next (s.failPort g p Cause.streamClosed (streamAddr six w.off))
        else if r.pos != w.off then .next (s.updPort g p (fun e => { e with work := none }))
        else if !(w.todo es).isEmpty then .next (s.portLine g p (dCTX d) (.event (.edgePortStreamRead g port)) key w es false)
        else if ready true then
          let (s, t) := s.portToken .data .vector (dCTX d) (lineOf (w.got es))
          let s := s.setScb key { b with readers := Tab.upd b.readers i (fun r => { r with pos := offAdd w.off w.n }) }
          .next (send (s.updPort g p (fun e => { e with work := none, wait := none })) t)
        else .next s
      | some (_, r), none =>
        let left := dist b.hwm r.pos
        if after (offAdd r.pos 128) b.hwm then
          if b.state == 2 || b.state == 3 then
            if left == 0 then
              if ready false then
                let (s, t) := s.portToken .marker .scalar (dCTX d) 0
                .next ((send s t).updPort g p (fun e => { e with stopped := true, wait := none }))
              else .next s
            else if ready true then .next (letIn r.pos left) else .next s
          else .next (s.waitPort g p 1 (streamAddr six r.pos) (b.waitsFor 1))
        else if ready true then .next (letIn r.pos 128) else .next s

/-- The bytes that a data token writes at a write-bound port. -/
def portBytes (t : Token) : List Byte :=
  natToBytes (match t.form with | .vector => 128 | .tile => 8 | _ => 4) t.pay.toNat

/-- The write-bound port p at work: its record, the channel that ends there and the token it presents. -/
def State.writePort (s : State) (g : RegionNo) (p : Nat) : Option (EdgePort × Nat × Token × CtxNo) :=
  let k := s.core g
  let e : EdgePort := Tab.getD k.ports p
  if e.kind != 2 || !e.arg.getLsbD 16 || e.stopped || e.parked.isSome then none
  else match k.headToward p with
    | none => none
    | some (n, t) =>
      let d := (Tab.getD k.chans n : Chan).desc
      if k.chanActive n && s.portMoves g d then some (e, n, t, dCTX d) else none

/-- A token leaves the channel at a write-bound port. -/
def State.portPull (s : State) (g : RegionNo) (p n : Nat) (t : TokKind) : State :=
  ((s.updChan g n Chan.pull).updPort g p (fun e => { e with wait := none })).countPort g p t

/-- A write-bound port's step for a token that is no marker: a data token's write is admitted at the write offset (07 R205), its lines perform, and
with the last of them HWM advances when AUTO = 1 and the token is pulled; any other token is discarded and reported. -/
def execEdgePortStreamWrite (g : RegionNo) (port : BitVec 6) (s : State) : Out :=
  let p := port.toNat
  match s.writePort g p with
  | none => .next s
  | some (e, n, t, x) =>
    if t.kind == .marker then .next s
    else if t.kind != .data then .next ((s.portPull g p n t.kind).portFault g p x Cause.illegal 0)
    else
      let key := s.portScb e
      let six := key % 4096
      let b := s.scb key
      let bs := portBytes t
      match e.work with
      | some w =>
        let es := ringAccs six b.win w.off w.n (some bs)
        if b.gone w then .next (s.failPort g p Cause.streamClosed (streamAddr six w.off))
        else
          let s := if (w.todo es).isEmpty then s else s.portLine g p x (.event (.edgePortStreamWrite g port)) key w es true
          match (Tab.getD (s.core g).ports p : EdgePort).work with
          | some w =>
            if !(w.todo es).isEmpty then .next s
            else
              let s := s.clearWait key (.port g p)
              let b := s.scb key
              let s := if b.auto then s.changeScb key (b.autoAdvance w.off w.n) else s
              .next ((s.updPort g p (fun e => { e with woff := offAdd w.off w.n, work := none })).portPull g p n .data)
          | none => .next s
      | none =>
        let off := if e.wset then e.woff else b.hwm
        let s := s.updPort g p (fun e => { e with woff := off, wset := true })
        match b.tryWrite (.port g p) off bs.length with
        | .fault c => .next (s.failPort g p c (streamAddr six off))
        | .wait kind => .next ((s.noteWait key (.port g p) off bs.length true kind).waitPort g p kind (streamAddr six off) (b.waitsFor kind))
        | .perform _ =>
          if b.overtaken (.port g p) then .next (s.waitPort g p 4 (streamAddr six off) (b.waitsFor 4))
          else .next (((s.clearWait key (.port g p)).stamp g).updPort g p (fun e =>
            { e with work := some { off := off, n := bs.length, opens := b.opens }, wait := none }))

/-- An end-of-round marker at a write-bound port: it publishes up to the write offset when AUTO = 0, and is discarded once the publish, which
may wait at the control point, has taken effect. Ahead of the first data token after an `sopen` the write offset is still that of the opening
before, or 0 (log 86). -/
def execEdgePortMarkerPublish (g : RegionNo) (port : BitVec 6) (s : State) : Out :=
  let p := port.toNat
  match s.writePort g p with
  | none => .next s
  | some (e, n, t, _) =>
    let key := s.portScb e
    let b := s.scb key
    let pull (s : State) : State := (s.updPort g p (fun e => { e with ask := 0 })).portPull g p n .marker
    if t.kind != .marker || e.ask == 1 then .next s
    else if e.ask == 2 || b.auto then .next (pull s)
    else
      let s := (s.updPort g p (fun e => { e with ask := 1 })).askStream key (.port g p) e.woff 8
      match (Tab.getD (s.core g).ports p : EdgePort).ask with
      | 1 => .next (s.waitPort g p 2 (streamAddr (key % 4096) e.woff) (b.waitsFor 2))
      | 2 => .next (pull s)
      | _ => .next s

end Sys2Proof.Machine
end

