-- ==== Sys2Proof/Machine/Copy.lean ====
section
/-!
DEFINITION. Copy engines and the counting unit: descriptors, chunks, barrier counts, `karm` and `binit` (10 R240 to R250; 09 R238).
-/

namespace Sys2Proof.Machine

/-! ## Descriptors (10 R240, R241, R243) -/

/-- A dimension: extent and the two strides. -/
structure CopyDim where
  ext  : Nat := 0
  sstr : Int := 0
  dstr : Int := 0
  deriving DecidableEq, Repr, Inhabited

/-- A copy descriptor. -/
structure CopyDesc where
  src  : Nat := 0
  dst  : Nat := 0
  barr : Nat := 0
  bin  : Bool := false
  bout : Bool := false
  /-- reserved bits of w2 -/
  rsvd : Bool := false
  esz  : Nat := 0
  aux  : Nat := 0
  dims : List CopyDim := []
  deriving DecidableEq, Repr, Inhabited

/-- The number of dimensions that the head of a descriptor gives. -/
def copyNdim (h : List Byte) : Nat := bits (word8 h 2) 32 35 + 1

/-- A dimension entry of 16 bytes. -/
def CopyDim.of (e : List Byte) : CopyDim :=
  let v := leNat e
  ⟨bits v 96 127, Num.toSigned 48 (bits v 48 95), Num.toSigned 48 (bits v 0 47)⟩

/-- A descriptor read from its bytes. -/
def CopyDesc.of (h : List Byte) : CopyDesc :=
  let w2 := word8 h 2
  { src := word8 h 0, dst := word8 h 1, barr := bits w2 40 63, bin := w2.testBit 39, bout := w2.testBit 38,
    rsvd := bits w2 36 37 != 0 || bits w2 0 28 != 0, esz := bits w2 29 31, aux := word8 h 3,
    dims := (List.range (copyNdim h)).map (fun j => CopyDim.of ((h.drop (32 + 16 * j)).take 16)) }

/-- Element size. -/
def CopyDesc.e (d : CopyDesc) : Nat := 2 ^ d.esz
/-- Number of elements. -/
def CopyDesc.total (d : CopyDesc) : Nat := (d.dims.map CopyDim.ext).foldl (· * ·) 1

/-- The class of a base address that may also be a stream. -/
def baseFault (a : Nat) : Option Byte := if clsOf a == 4 then none else classFault a

/-- Whether a number is a multiple. -/
def mult (n : Nat) (v : Int) : Bool := v % (n : Int) == 0

/-- The cause that a check of a descriptor finds, for a command code and W0 (10 R241 to R243; 00 R16). -/
def CopyDesc.fault (d : CopyDesc) (code w0 : Nat) : Option Byte :=
  let q := code == 0x21
  let fill := code == 0x22
  let table := code == 0x23 || code == 0x24
  let cls (a : Nat) (f : Nat → Option Byte) : Bool × Byte := ((f a).isSome, (f a).getD 0)
  let inv := d.rsvd
    || (q && ((w0 % 16 != 6 && w0 % 16 != 7) || d.esz != (if w0 % 16 == 6 then 2 else 1)
      || (d.dims.getLast?.map CopyDim.ext).getD 0 % 32 != 0 || d.dims.any (fun i => i.dstr != 0) || d.aux % 32 != 0))
    || (!q && !table && d.aux != 0) || (table && d.aux % 4 != 0)
    || (fill && (d.src != 0 || d.dims.any (fun i => i.sstr != 0)))
  let mis := (!fill && (d.src % d.e != 0 || d.dims.any (fun i => !mult d.e i.sstr)))
    || (if q then d.dst % 2 != 0 else d.dst % d.e != 0 || d.dims.any (fun i => !mult d.e i.dstr))
    || ((d.bin || d.bout) && d.barr % 16 != 0)
  lowest [(inv, Cause.cmdInvalid), (mis, Cause.misaligned), cls (if fill then 0 else d.src) baseFault, cls d.dst baseFault,
    cls (if q || table then d.aux else 0) classFault]

/-! ## Elements (10 R240, R242, R244) -/

/-- Indices of an element, the last dimension fastest: the list is in the order of the dimensions. -/
def indices : List CopyDim → Nat → List Nat × Nat
  | [], e => ([], e)
  | d :: ds, e => match indices ds e with
    | (is, q) => ((if d.ext == 0 then 0 else q % d.ext) :: is, if d.ext == 0 then 0 else q / d.ext)

/-- Source and destination addresses of an element; `tab` replaces index 0 for `tgather` and `tscatter`. -/
def CopyDesc.addrs (d : CopyDesc) (code : Nat) (tab : List Nat) (e : Nat) : Nat × Nat :=
  let is := (indices d.dims e).1
  let idx (on : Bool) : List Nat := if on then tab.getD (is.headD 0) 0 :: is.drop 1 else is
  let sum (base : Nat) (ks : List Nat) (st : CopyDim → Int) : Nat :=
    Num.iwrap 64 ((List.zip d.dims ks).foldl (fun a p => a + p.2 * st p.1) (base : Int))
  (sum d.src (idx (code == 0x23)) CopyDim.sstr, sum d.dst (idx (code == 0x24)) CopyDim.dstr)

/-- Elements of a progress chunk. -/
def CopyDesc.per (d : CopyDesc) (code : Nat) : Nat := if code == 0x21 then 7168 else 4096 / d.e

/-- Bytes of a `tfill` element. -/
def fillBytes (e w0 : Nat) : List Byte := (List.range e).map (fun i => BitVec.ofNat 8 (w0 >>> (8 * (i % 4))))

/-- The class that an element shares with its base (10 R241). -/
def sameClass (base a : Nat) : Bool := clsOf a == clsOf base

/-- The writes of a chunk of elements from lo: addresses and bytes; for `qcopy` one a block (10 R243). -/
def CopyDesc.writes (d : CopyDesc) (code w0 : Nat) (tab : List Nat) (lo : Nat) (es : List (List Byte)) : List (Nat × List Byte) :=
  if code == 0x21 then
    (List.range (es.length / 32)).map (fun j =>
      let xs := ((es.drop (32 * j)).take 32).map (fun b => Num.value (w0 % 16) (leNat b))
      ((d.dst + 18 * (lo / 32 + j)) % 2 ^ 64, (Num.cb4Bytes (Num.cb4Quant xs tab)).map (BitVec.ofNat 8)))
  else (List.zip (List.range es.length) es).map (fun p => ((d.addrs code tab (lo + p.1)).2, p.2))

/-! ## The engine's accesses (10 R244 to R246; log 6)

A read or a write is numbered by its element, a `qcopy` write by the first element of its block. -/

/-- The reads of n elements from number lo. -/
def CopyDesc.reads (d : CopyDesc) (code : Nat) (tab : List Nat) (lo n : Nat) : List EAcc :=
  if code == 0x22 then []
  else (List.range n).map (fun i => { tag := lo + i, addr := (d.addrs code tab (lo + i)).1, n := d.e })

/-- The accesses of the writes of a chunk, those of a write one for each line or ring piece; `win` is the window of the ring that an address
names. -/
def CopyDesc.pieces (code lo : Nat) (win : Nat → Nat) (ws : List (Nat × List Byte)) : List EAcc :=
  (List.zip (List.range ws.length) ws).flatMap (fun p =>
    let a := p.2.1
    let bs := p.2.2
    let es := if clsOf a == 4 then ringAccs (bits a 48 59) (win a) (a % 2 ^ 48) bs.length (some bs) else writeLines a bs
    es.map (fun e => { e with tag := lo + (if code == 0x21 then 32 else 1) * p.1 }))

/-- The start of an access of an element: its class is that of its base (10 R241). A write of a ring is admitted when it performs. -/
def State.copyStart (s : State) (g : RegionNo) (id : Nat) (m : Cmd) (d : CopyDesc) (e : EAcc) : State × Except Stop EAcc :=
  if !sameClass (if e.wr.isSome then d.dst else d.src) e.addr then (s, .error (.fail Cause.addrClass))
  else if clsOf e.addr != 4 then s.engStart g (.command g id) m e
  else if e.wr.isSome then s.ringStart g id m e
  else s.elemStart g id m e

/-- One action on the read of an element. -/
def State.copyRead (s : State) (g : RegionNo) (id : Nat) (m : Cmd) (d : CopyDesc) (e : EAcc) : State × Stop :=
  match m.prog.find e with
  | none => s.ioStart g id (fun s e => s.copyStart g id m d e) e
  | some q => if s.ringLost m q then (s, .fail Cause.streamClosed) else s.ioPerform g id q

/-- Whether the bytes of two started accesses overlap. -/
def EAcc.meets (p q : EAcc) : Bool :=
  p.pl.bank == q.pl.bank && p.pl.g == q.pl.g && p.pl.pa < q.pl.pa + q.n && q.pl.pa < p.pl.pa + p.n

/-- The accesses of a chunk's writes that may perform next: those whose bytes no unperformed write of an earlier element shares (10
R242). -/
def openWrites : List EAcc → List EAcc → List EAcc
  | _, [] => []
  | before, e :: r => (if before.any e.meets then [] else [e]) ++ openWrites (before ++ [e]) r

/-- What the streams answer to the writes of a chunk, taken in order with the advance of HWM that each makes: a fault, and with none the first
write that has to wait, with the kind of its wait. A place of PENDING is asked for when a write performs (10 R244, R246). -/
def State.chunkAsk (s : State) (ctxid : Nat) : Tab Scb → List (Nat × List Byte) → Option Byte × Option (Nat × Nat × Nat)
  | _, [] => (none, none)
  | bs, w :: ws =>
    let k := elemScb ctxid w.1
    let b := (Tab.get bs k).getD (s.scb k)
    let o := w.1 % 2 ^ 48
    let n := w.2.length
    match b.write o n with
    | .fault c => (some c, none)
    | r =>
      let (f, t) := s.chunkAsk ctxid (Tab.set bs k (if b.auto then b.autoAdvance o n else b)) ws
      (f, match r with
        | .wait 2 => some (w.1, n, 2)
        | _ => t)

/-- Whether a write would lie beyond the window even once all that is published now were released. -/
def Scb.neverFits (b : Scb) (o n : Nat) : Bool := after (offAdd o n) (offAdd (b.hwm - b.hwm % b.f) b.win)

/-- A write of a stream element, one access for each line or ring end: the stream admits it, unless the whole chunk has been admitted, and its
accesses then perform one at a time; with the last one HWM advances (07 R205, R206; 09 R229; 10 R246). -/
def State.elemWrite (s : State) (g : RegionNo) (id : Nat) (m : Cmd) (es : List EAcc) (q : EAcc) : State × Stop :=
  let a := (es.headD {}).addr
  let o := a % 2 ^ 48
  let n := (es.map (fun e => e.n)).foldl (· + ·) 0
  let k := elemScb m.ctxid a
  let b := s.scb k
  let last := es.all (fun e => e.got.isSome || e.same q)
  let go (s : State) : State × Stop :=
    if last && b.auto && o != b.hwm && b.pending.length ≥ 16 then (s.waitElem g id m a n 4 true, .hold)
    else
      let (s, t) := (s.clearOne k (.cmd g id) o true).ioPerform g id q
      let b := s.scb k
      (if last && b.auto && (s.cmd g id).prog.did q then s.changeScb k (b.autoAdvance o n) else s, t)
  if s.ringLost m q then (s, .fail Cause.streamClosed)
  else if m.prog.adm || es.any (fun e => e.got.isSome) then go s
  else match b.tryWrite (.cmd g id) o n with
    | .fault c => (s, .fail c)
    | .wait kind => (s.waitElem g id m a n kind true, .hold)
    | .perform _ => if b.overtaken (.cmd g id) then (s.waitCmd g id 4 a (b.waitsFor 4), .hold) else go s

/-! ## The engine's steps (10 R244) -/

/-- A copy stopped at an access: AUX of its record is its progress point. -/
def State.copyStop (s : State) (g : RegionNo) (id : Nat) (t : Stop) (wr : Bool) : State :=
  let s := match t with
    | .fail _ => s.clearElems g id (s.cmd g id).ctxid
    | _ => s
  s.onStop g id t (s.cmd g id).prog.a wr

/-- Stage 0: the descriptor is read and checked; one that is not aligned lies outside the chapter's limits (10 R240, R241). -/
def State.copyBegin (s : State) (g : RegionNo) (id : Nat) (m : Cmd) (c : Frame) : State :=
  let a := frameAddr c
  match lowest [(a % 32 != 0, Cause.cmdInvalid), ((classFault a).isSome, (classFault a).getD 0)] with
  | some e => s.failCmd g id e
  | none => match s.eRead g id m a 32 with
    | (s, .error e) => s.onStop g id e 0 false
    | (s, .ok h) => match s.eRead g id m (a + 32) (16 * copyNdim h) with
      | (s, .error e) => s.onStop g id e 0 false
      | (s, .ok ds) =>
        let h := h ++ ds
        match (CopyDesc.of h).fault m.code c.w0.toNat with
        | some e => s.failCmd g id e
        | none => s.progress g id (fun p => { p with stage := 1, hdr := h })

/-- Stage 1: the codebook, or the next line of the index table; each entry is read once. -/
def State.copyTable (s : State) (g : RegionNo) (id : Nat) (m : Cmd) : State :=
  let d := CopyDesc.of m.prog.hdr
  let go (s : State) : State := s.progress g id (fun p => { p with stage := 2 })
  if m.code == 0x21 then
    match s.eRead g id m d.aux 32 with
    | (s, .error e) => s.onStop g id e 0 false
    | (s, .ok bs) =>
      go (s.progress g id (fun p => { p with tab := (List.range 16).map (fun i => leNat ((bs.drop (2 * i)).take 2)) }))
  else if m.code == 0x23 || m.code == 0x24 then
    let n := (d.dims.head?.map CopyDim.ext).getD 0
    let have_ := m.prog.tab.length
    if have_ ≥ n then go s
    else
      let a := (d.aux + 4 * have_) % 2 ^ 64
      let k := min (n - have_) ((128 - a % 128) / 4)
      match s.eRead g id m a (4 * k) with
      | (s, .error e) => s.onStop g id e 0 false
      | (s, .ok bs) =>
        s.progress g id (fun p => { p with tab := p.tab ++ (List.range k).map (fun i => leNat ((bs.drop (4 * i)).take 4)) })
  else go s

/-- The bytes of a chunk's elements, once they are read. -/
def Cmd.chunkData (m : Cmd) (d : CopyDesc) (lo n w0 : Nat) : List (List Byte) :=
  if m.code == 0x22 then List.replicate n (fillBytes d.e w0)
  else (d.reads m.code m.prog.tab lo n).map (fun e => ((m.prog.find e).bind (·.got)).getD [])

/-- A chunk is written: the next one begins, with what has been read of it. -/
def Prog.nextChunk (p : Prog) (hi total : Nat) : Prog :=
  { p with chunk := p.chunk + 1, a := min total hi, adm := false, io := p.io.filter (fun e => e.wr.isNone && hi ≤ e.tag) }

/-- The writes of the chunk in progress, all of whose elements are read: first every one of them is let in by its stream, every access is translated and its
place the accelerator's, then they perform. A chunk that no window could hold at once is admitted element by element (10 R246; log 74). -/
def State.copyOut (s : State) (g : RegionNo) (id : Nat) (m : Cmd) (c : Frame) (d : CopyDesc) (lo n : Nat) : State :=
  let ws := d.writes m.code c.w0.toNat m.prog.tab lo (m.chunkData d lo n c.w0.toNat)
  let es := CopyDesc.pieces m.code lo (fun a => (s.scb (elemScb m.ctxid a)).win) ws
  let stream := clsOf d.dst == 4
  let fresh := es.all (fun e => !m.prog.did e)
  let ask := if stream && fresh && !m.prog.adm then s.chunkAsk m.ctxid [] ws else (none, none)
  let wide := ws.any (fun w => (s.scb (elemScb m.ctxid w.1)).neverFits (w.1 % 2 ^ 48) w.2.length)
  match ask with
  | (some f, _) => s.copyStop g id (.fail f) true
  | (none, r) =>
    match (if wide then none else r) with
    | some (a, n, kind) => s.waitElem g id m a n kind true
    | none =>
    let adm := stream && fresh && !m.prog.adm && !wide
    match s.ioReady g id (fun s e => s.copyStart g id m d e) es with
    | (s, .error t) => s.copyStop g id t true
    | (s, .ok ()) =>
      let qs := es.filterMap (fun e => (m.prog.find e).map (fun q => { q with wr := e.wr }))
      match (if fresh then qs.find? (fun q => !s.ownedOk q.pl) else none) with
      | some q => s.claim (.command g id) q.pl q.va true
      | none => if adm then (s.clearElems g id m.ctxid).updCmd g id (fun m => { m with prog := { m.prog with adm := true }, wait := none }) else match openWrites [] (qs.filter (fun q => q.got.isNone)) with
        | [] => (s.stamp g).updCmd g id (fun m => { m with prog := m.prog.nextChunk (lo + n) d.total, wait := none })
        | q :: rest =>
          let (i, s) := s.pick (rest.length + 1)
          let q := (q :: rest).getD i q
          let (s, t) := if stream then s.elemWrite g id m (qs.filter (fun e => e.tag == q.tag)) q else s.ioPerform g id q
          s.copyStop g id t true

/-- Stage 2: an element of the chunk, or of the next, is read; once the chunk is read, it is written (10 R244, R245). What stops a read of
the next chunk, or has it wait, is met again when that chunk is reached. -/
def State.copyChunk (s : State) (g : RegionNo) (id : Nat) (m : Cmd) (c : Frame) : State :=
  let d := CopyDesc.of m.prog.hdr
  let per := d.per m.code
  let lo := m.prog.chunk * per
  let n := min per (d.total - lo)
  let reads (lo n : Nat) : List EAcc := (d.reads m.code m.prog.tab lo n).filter (fun e => !m.prog.did e)
  let read (s : State) (e : EAcc) : State :=
    let (t, r) := s.copyRead g id m d e
    if e.tag < lo + n then t.copyStop g id r false else match r with
      | .hold => if ((t.cmd g id).prog.find e).isSome then t else s
      | _ => s
  if lo ≥ d.total then
    s.progress g id (fun p => { p with stage := 3, owed := (if d.bin then 1 else 0) + (if d.bout then 2 else 0) })
  else
    let now := reads lo n
    let ahead := reads (lo + n) (min per (d.total - (lo + n)))
    let (i, s) := s.pick (now.length + ahead.length + (if now.isEmpty then 1 else 0))
    match (now ++ ahead)[i]? with
    | some e => read s e
    | none => s.copyOut g id m c d lo n

/-- Stage 3: the response follows the counts (10 R242, R247). -/
def State.copyEnd (s : State) (g : RegionNo) (id : Nat) (m : Cmd) : State :=
  let d := CopyDesc.of m.prog.hdr
  if m.prog.owed != 0 then s
  else if m.prog.c != 0 then s.endCmdFree g id Cause.cmdInvalid
  else s.endCmd g id 0 (if m.code == 0x21 then d.total / 32 else d.total * d.e)

/-- A step of a copy command. -/
def State.copyStep (s : State) (c : Frame) : Out :=
  s.runCmd (fun g id m =>
    match m.prog.stage with
    | 0 => s.copyBegin g id m c
    | 1 => s.copyTable g id m
    | 2 => s.copyChunk g id m c
    | _ => s.copyEnd g id m)

/-- `tcopy`. -/
def execTcopy (c : Frame) (s : State) : Out := s.copyStep c
/-- `qcopy`. -/
def execQcopy (c : Frame) (s : State) : Out := s.copyStep c
/-- `tfill`. -/
def execTfill (c : Frame) (s : State) : Out := s.copyStep c
/-- `tgather`. -/
def execTgather (c : Frame) (s : State) : Out := s.copyStep c
/-- `tscatter`. -/
def execTscatter (c : Frame) (s : State) : Out := s.copyStep c

/-! ## Barriers (10 R247, R250; 09 R238) -/

/-- A barrier with INB or OUTB decremented: none where the count is zero already. -/
def Barrier.count (b : Barrier) (out : Bool) : Option Barrier :=
  if out then (if b.outb == 0 then none else some ({ b with outb := b.outb - 1 }).settle)
  else (if b.inb == 0 then none else some ({ b with inb := b.inb - 1 }).settle)

/-- A copy whose accesses have performed applies one count it owes: OUTB, then INB. -/
def execBarrierCount (g : RegionNo) (id : Nat) (s : State) : Out :=
  let m := s.cmd g id
  let d := CopyDesc.of m.prog.hdr
  if !m.running || !m.isCopy || m.parked.isSome || m.prog.stage != 3 || m.prog.owed == 0 || !(s.reg g).runs then .next s
  else
    let out := m.prog.owed ≥ 2
    match bankPlace g (s.grant g m.x) d.barr 16 with
    | .error e => .next (s.failCmd g id e)
    | .ok pl =>
      if s.spoiled pl 16 false then .next (s.failCmd g id Cause.uncorrectable) else
      let b := (Barrier.of (s.readPlace pl 16)).count out
      let s := match b with
        | some b => s.writePlace pl b.bytes
        | none => s
      .next (s.updCmd g id (fun m => { m with prog := { m.prog with owed := if out then m.prog.owed - 2 else 0, c := if b.isNone then 1 else m.prog.c } }))

/-- `binit` (10 R250): VALUE is GEN after. -/
def execBinit (c : Frame) (s : State) : Out :=
  s.runCmd (fun g id m =>
    match bankPlace g (s.grant g m.x) (c.w0.toNat % 2 ^ 24) 16 with
    | .error e => s.failCmd g id e
    | .ok pl =>
      let b := Barrier.of (s.readPlace pl 16)
      if s.spoiled pl 16 false then s.failCmd g id Cause.uncorrectable
      else if b.exp == 0 then s.failCmd g id Cause.cmdInvalid
      else
        let b := ({ b with inb := c.w1.toNat, outb := c.w2.toNat }).settle
        (s.writePlace pl b.bytes).endCmd g id 0 b.gen)

/-! ## Counters armed on ports (10 R249) -/

/-- `karm`: TOKENS, MARKERS or DISARM. -/
def execKarm (c : Frame) (s : State) : Out :=
  s.runCmd (fun g id m =>
    let p := c.w0.toNat % 64
    let n := c.handle.toNat % 16
    let x := m.x.toNat
    let arm (e : EdgePort) : EdgePort := match c.cf.toNat with
      | 0 => { e with tokArm := Tab.set e.tokArm x n }
      | 1 => { e with markArm := Tab.set e.markArm x n }
      | _ => { e with tokArm := Tab.erase e.tokArm x, markArm := Tab.erase e.markArm x }
    (s.updPort g p arm).endCmd g id 0 0)

end Sys2Proof.Machine
end

