-- ==== Sys2Proof/Machine/Coll.lean ====
section
/-!
DEFINITION. The collective unit: groups, packets and their hops, ALLREDUCE, pauses, the loss of a member (10 R259 to R264; 13 R284,
R285; 16 R315, R316; 19 R368, R371; 02 R74, R75; log 19).
-/

namespace Sys2Proof

/-! ## Packets (10 R262, R263) -/

/-- KIND of a route entry (10 R262). -/
def routeKind (e : BitVec 16) : Nat := e.toNat / 2 ^ 14

/-- First operation of a packet. -/
def Packet.op0 (p : Packet) : Nat := (p.ops.headD 0).toNat
/-- First route of a packet. -/
def Packet.route0 (p : Packet) : BitVec 16 := p.routes.headD 0
/-- Lists shifted down by one entry. -/
def Packet.shift (p : Packet) : Packet :=
  { p with ops := p.ops.drop 1, routes := p.routes.drop 1, nent := p.nent - 1 }

/-- Adjacent rank ranges. -/
def Packet.adjoins (p q : Packet) : Bool :=
  q.rank.toNat == p.rank.toNat + p.span.toNat || p.rank.toNat == q.rank.toNat + q.span.toNat

/-- Flits of a packet on a link: its header and its payload (01 R44, 10 R262). -/
def Packet.flits (p : Packet) : Nat := (64 + p.pay.length) / 32

/-- Whether a packet's payload is written at an address, and its write waits. -/
def Packet.writesAt (p : Packet) (va : Nat) : Bool :=
  !p.plan && (p.op0 == 3 || p.op0 == 4) && p.daddr.toNat ≤ va && va < p.daddr.toNat + p.pay.length

/-! ## The headers of an ALLREDUCE (10 R261, 02 R74; log 19) -/

/-- How many joins of `ctree` over n ranks from lo a rank's packet takes part in, at the head of its range each time: the last one as the right
range, unless it is rank lo; the fuel bounds the depth. -/
def ctreeJoins : Nat → Nat → Nat → Nat → Nat
  | 0, _, _, _ => 0
  | f + 1, own, lo, n =>
    if n ≤ 1 then 0
    else
      let m := Num.below n
      if own < lo + m then ctreeJoins f own lo m + (if own == lo then 1 else 0)
      else ctreeJoins f own (lo + m) (n - m) + (if own == lo + m then 1 else 0)

/-- OPS of a rank's packet: a hop of the operation for each join, and at rank 0 the DROP of the result. -/
def planOps (op own n : Nat) : List Byte :=
  List.replicate (ctreeJoins 14 own 0 n) (BitVec.ofNat 8 (op + 1)) ++ (if own == 0 then [4] else [])

/-- The range of ranks that `ctree` over n ranks from lo joins with len ranks from a. -/
def ctreeMate : Nat → Nat → Nat → Nat → Nat → Option (Nat × Nat)
  | 0, _, _, _, _ => none
  | f + 1, a, len, lo, n =>
    if n ≤ 1 then none
    else
      let m := Num.below n
      if a == lo && len == m then some (lo + m, n - m)
      else if a == lo + m && len == n - m then some (lo, m)
      else if a < lo + m then ctreeMate f a len lo m
      else ctreeMate f a len (lo + m) (n - m)

/-- Whether two packets of an ALLREDUCE's plan are the two of one join over n ranks. -/
def Packet.mates (p q : Packet) (n : Nat) : Bool :=
  q.plan && q.chunk == p.chunk && q.fmt == p.fmt && q.op0 == p.op0 && q.last == p.last && q.pay.length == p.pay.length
    && ctreeMate 14 p.rank.toNat p.span.toNat 0 n == some (q.rank.toNat, q.span.toNat)

end Sys2Proof

namespace Sys2Proof.Machine

/-! ## Groups (10 R260) -/

/-- Number of a group of a context. -/
def grpKey (ctxid id : Nat) : Nat := ctxid * 65536 + id % 65536

/-- A group that its context has created in a region and not deleted. -/
def Region.group? (r : Region) (key : Nat) : Option Group :=
  match Tab.get r.groups key with
  | some gr => if gr.table.isEmpty then none else some gr
  | none => none

/-- A group changed. -/
def State.updGroup (s : State) (g : RegionNo) (key : Nat) (f : Group → Group) : State :=
  s.setReg g { s.reg g with groups := Tab.upd (s.reg g).groups key f }

/-- The running `nsend` of a group in a region. -/
def Region.sender (r : Region) (key : Nat) : Option (Nat × Cmd) :=
  let ks := r.core.cmds ++ r.images.flatMap (fun i => i.core.cmds)
  ks.find? (fun e => e.2.running && e.2.code == 0x51 && grpKey e.2.ctxid e.2.handle == key)

/-- The running `nsend` of a group that has read what it is to send. -/
def Region.sending (r : Region) (key : Nat) : Option (Nat × Cmd) := (r.sender key).filter (fun e => e.2.prog.stage != 0)

/-- The running `nsend` of a group. -/
def State.sender (s : State) (g : RegionNo) (key : Nat) : Option (Nat × Cmd) := (s.reg g).sender key

/-- A route entry of a member table is bad (10 R260). -/
def entryWrong (own r e : Nat) : Bool :=
  e / 65536 != 0 || e / 2 ^ 14 == 3 || (e / 2 ^ 14 == 2) != (r == own)
    || (e / 2 ^ 14 == 0 && bits e 12 13 != 0) || (e / 2 ^ 14 == 1 && bits e 5 13 != 0) || (e / 2 ^ 14 == 2 && bits e 0 13 != 0)

/-- `ngroup` (10 R260). -/
def execNgroup (c : Frame) (s : State) : Out :=
  s.runCmd (fun g id m =>
    let key := grpKey m.ctxid c.handle.toNat
    let r := s.reg g
    if c.cf == 1 then
      if (r.group? key).isNone || (r.sender key).isSome then s.failCmd g id Cause.cmdInvalid
      else (s.updGroup g key (fun _ => { failed := true })).endCmd g id 0 0
    else
      let n := c.w0.toNat % 65536
      let own := c.w0.toNat / 65536
      let a := frameAddr c
      if (r.group? key).isSome then s.failCmd g id Cause.cmdInvalid
      else match classFault a with
        | some e => s.failCmd g id e
        | none => match s.eRead g id m a (8 * n) with
          | (s, .error e) => s.onStop g id e 0 false
          | (s, .ok bs) =>
            let es := (List.range n).map (fun i => word8 bs i)
            if (List.zip (List.range n) es).any (fun p => entryWrong own p.1 p.2) then s.failCmd g id Cause.cmdInvalid
            else (s.updGroup g key (fun _ => { table := es.map (BitVec.ofNat 16), own := own })).endCmd g id 0 0)

/-! ## Failure of a group (10 R261, R263; 19 R368) -/

/-- Packets and contributions of a group dropped at a unit. -/
def Region.dropGroup (r : Region) (key : Nat) : Region := { r with contribs := r.contribs.filter (fun q => q.grp != key) }

/-- The group's `nsend` here fails with a cause; one that was parked is so no more (17 R340). -/
def State.failGroup (s : State) (g : RegionNo) (key : Nat) (cause : Byte) : State :=
  let s := match s.sender g key with
    | some (id, _) => s.failCmd g id cause
    | none => s
  (s.setReg g ((s.reg g).dropGroup key)).closeFaults

/-- Every region of the package. -/
def allRegions : List RegionNo := (List.range 32).map (BitVec.ofNat 5)

/-- A message on a link: it leaves at once, and waits where a retrain holds its sender (19 R364); a link that is down carries none. -/
def Link.say (l : Link) (m : Nat × Nat × Nat) : Link :=
  if !l.up then l else if l.retrain then { l with heldMsg := l.heldMsg ++ [m] } else { l with outMsg := l.outMsg ++ [m] }

/-- A message on link n. -/
def State.say (s : State) (n : Nat) (m : Nat × Nat × Nat) : State := { s with links := Tab.set s.links n ((Tab.getD s.links n : Link).say m) }

/-- The regions of the package that have created a group and not lost a member of it, with what each knows of it. -/
def State.members (s : State) (key : Nat) : List (RegionNo × Group) :=
  allRegions.filterMap (fun g => match (s.reg g).group? key with
    | some x => if x.failed then none else some (g, x)
    | none => none)

/-- A message on every link that leads to a member of a group. -/
def State.sayGroup (s : State) (key kind value : Nat) : State :=
  let ns := ((s.members key).flatMap (fun m => (m.2.table.filter (fun e => routeKind e == 0)).map (fun e => e.toNat % 16))).eraseDups
  ns.foldl (fun s n => s.say n (kind, key % 65536, value)) s

/-- Whether the route of a table's entry leads over a link that is down (10 R260, 19 R368). -/
def State.routeDown (s : State) (e : BitVec 16) : Bool := routeKind e == 0 && !(Tab.getD s.links (e.toNat % 16) : Link).up

/-- The ranks that no route of a member's table reaches. -/
def State.lostRanks (s : State) (x : Group) : List Nat := (List.range x.table.length).filter (fun r => s.routeDown (x.table.getD r 0))

/-- Whether an `nsend` takes no step now: it is parked, stands in a saved image, or its region does not run. -/
def State.stuck (s : State) (g : RegionNo) (e : Nat × Cmd) : Bool := !Tab.has (s.core g).cmds e.1 || e.2.parked.isSome || !(s.reg g).runs

/-- A rank's lowest uncompleted chunk heard. -/
def Loss.hear (l : Loss) (rank chunk : Nat) : Loss := { l with heard := Tab.set l.heard rank (min chunk ((Tab.get l.heard rank).getD chunk)) }

/-- A member of the package reports its lowest uncompleted chunk to the members here and on the links (19 R368). -/
def State.reportLoss (s : State) (key rank chunk : Nat) : State :=
  let s := s.sayGroup key 6 (2 ^ 32 * rank + chunk)
  { s with losses := Tab.upd s.losses key (fun l => l.hear rank chunk) }

/-- The members of the package that can complete no chunk report: those whose `nsend` is stuck, or is a RAW one. -/
def State.stuckReports (s : State) (key : Nat) : State :=
  (s.members key).foldl (fun s m =>
    let l : Loss := Tab.getD s.losses key
    if l.gone.contains m.2.own || Tab.has l.heard m.2.own then s
    else match (s.reg m.1).sending key with
      | some e => if s.stuck m.1 e || (e.2.w.extractLsb' 112 2).toNat == 1 then s.reportLoss key m.2.own e.2.prog.chunk else s
      | none => s) s

/-- The ranks whose reports are awaited: members of the package with an `nsend` under way, and members elsewhere that a route reaches. -/
def State.lossAwaits (s : State) (key : Nat) (l : Loss) : List Nat :=
  let ms := s.members key
  (List.range ((ms.map (fun m => m.2.table.length)).foldl max 0)).filter (fun r =>
    !l.gone.contains r && !Tab.has l.heard r && (match ms.find? (fun m => m.2.own == r) with
      | some m => ((s.reg m.1).sending key).isSome
      | none => ms.any (fun m => r < m.2.table.length && routeKind (m.2.table.getD r 0) == 0 && !s.routeDown (m.2.table.getD r 0))))

/-- A group that has lost a member: no pause of it is left (19 R368, R371). -/
def Group.lose (x : Group) : Group := { table := x.table, own := x.own, next := x.next, asker := x.asker, failed := true }

/-- Once every survivor has reported, each `nsend` in the package completes with the cause and the lowest chunk reported (19 R368; 10 R261). -/
def State.settleLoss (s : State) (key : Nat) : State :=
  if !Tab.has s.losses key then s
  else
    let s := s.stuckReports key
    let l : Loss := Tab.getD s.losses key
    if !(s.lossAwaits key l).isEmpty then s
    else
      let f := (((l.heard.filter (fun (e : Nat × Nat) => !l.gone.contains e.1)).map (fun e => e.2)).min?).getD 0
      let s := (s.members key).foldl (fun s m =>
        let s := match s.sender m.1 key with
          | some (id, _) => s.endCmd m.1 id (if l.dis then Cause.cmdInvalid else Cause.collMemberLost) f
          | none => s
        let s := s.setReg m.1 ((s.reg m.1).dropGroup key)
        if l.dis then s else s.updGroup m.1 key Group.lose) s
      { s with losses := Tab.erase s.losses key }.closeFaults

/-- Every loss that can be settled is: a member may have parked since it was announced. -/
def State.settleLosses (s : State) : State := s.losses.foldl (fun s e => s.settleLoss e.1) s

/-- A loss, or a disagreement, becomes known in the package: the `nsend` of a lost member of it ends, and the others go on to their reports. -/
def State.noteLoss (s : State) (key : Nat) (dis : Bool) (gone : List Nat) : State :=
  if (s.members key).isEmpty then s
  else
    let l : Loss := (Tab.get s.losses key).getD { dis := dis }
    let s := { s with losses := Tab.set s.losses key { l with dis := l.dis && dis, gone := (l.gone ++ gone).eraseDups } }
    let s := (s.members key).foldl (fun s m => if !gone.contains m.2.own then s else match s.sender m.1 key with
      | some (id, _) => s.failCmd m.1 id Cause.collMemberLost
      | none => s) s
    s.closeFaults.settleLoss key

/-- The loss of ranks, or a disagreement, met in the package: announced on the links to the members that they reach (19 R368, 10 R261). -/
def State.loseGroup (s : State) (key : Nat) (dis : Bool) (gone : List Nat) : State :=
  let new := gone.filter (fun r => !(Tab.getD s.losses key : Loss).gone.contains r)
  let s := if dis then s.sayGroup key 4 0 else new.foldl (fun s r => s.sayGroup key 3 r) s
  s.noteLoss key dis gone

/-- A message about a loss from a member elsewhere (19 R368, 10 R261): with no chunk it announces that a rank is lost, or with `dis` that a packet
disagrees with a member's `nsend`; with chunks it is the report of a rank. -/
def execMemberLoss (cid : BitVec 12) (grp : BitVec 16) (rank : BitVec 16) (reports : LossMsg) (s : State) : Out :=
  let key := grpKey cid.toNat grp.toNat
  match (reports.chunks.map BitVec.toNat).min? with
  | none => .next (s.noteLoss key reports.dis (if reports.dis then [] else [rank.toNat]))
  | some c =>
    let s := if Tab.has s.losses key then s else s.noteLoss key reports.dis []
    .next ({ s with losses := s.losses.map (fun (e : Nat × Loss) => if e.1 == key then (e.1, e.2.hear rank.toNat c) else e) }.settleLoss key)

/-! ## Sending (10 R262, R263) -/

/-- Whether a retrain of the link that a route names holds its sender (19 R364). -/
def State.routeHeld (s : State) (e : BitVec 16) : Bool :=
  let l : Link := Tab.getD s.links (e.toNat % 16)
  routeKind e == 0 && l.up && l.retrain

/-- A packet sent on a route: false where no link carries it. -/
def State.sendPk (s : State) (g : RegionNo) (ctxid : Nat) (p : Packet) (route : BitVec 16) : State × Bool :=
  let toward (r : RegionNo) : State × Bool :=
    let a : Arrival := { ctxid := ctxid, gen := some (s.genOf ctxid), pk := p, src := some g, since := s.tick }
    (s.setReg r { s.reg r with arrivals := (s.reg r).arrivals ++ [a] }, true)
  match routeKind route with
  | 0 =>
    let n := route.toNat % 16
    let l : Link := Tab.getD s.links n
    let who := (s.sender g (grpKey ctxid p.group.toNat)).map (fun m => (g, m.2.kernel))
    if l.up then ({ s with links := Tab.set s.links n { l with outPk := l.outPk ++ [p], unacked := l.unacked ++ [(who, false)] } }, true)
    else (s, false)
  | 1 => toward (BitVec.ofNat 5 (route.toNat % 32))
  | 2 => toward g
  | _ => (s, false)

/-- Formats of reductions (02 R75). -/
def redFormat (ty : Nat) : Bool := [0, 1, 6, 7, 8].contains ty

/-- Two payloads combined element by element (02 R75): op 0 ADD, 1 MAX. -/
def redPay (ty op : Nat) (l h : List Byte) : List Byte :=
  let w := Num.width ty
  let es (b : List Byte) : List Nat := Num.elems w (8 * b.length) (leNat b)
  natToBytes l.length (Num.join w (List.zipWith (Num.redOp ty op) (es l) (es h)))

/-- Fields of an ALLREDUCE: operation, format, and the descriptor's NCH, CHB, FIRST (10 R259, R261). -/
structure Reduce where
  op    : Nat := 0
  ty    : Nat := 0
  src   : Nat := 0
  dst   : Nat := 0
  nch   : Nat := 0
  chb   : Nat := 0
  first : Nat := 0
  deriving DecidableEq, Repr, Inhabited

/-- The reduction that a started `nsend` runs. -/
def Cmd.reduce (m : Cmd) : Reduce :=
  let h := m.prog.hdr
  let w0 := (m.w.extractLsb' 0 32).toNat
  { op := w0 % 4, ty := w0 / 4 % 16, src := word8 h 0, dst := word8 h 1, nch := bits (word8 h 2) 32 63, chb := bits (word8 h 2) 0 12,
    first := bits (word8 h 3) 32 63 }

/-- CF of a command. -/
def Cmd.cf (m : Cmd) : Nat := (m.w.extractLsb' 112 2).toNat

/-- Whether a contribution agrees with a member's own `nsend` (10 R261). -/
def Reduce.agrees (d : Reduce) (p : Packet) : Bool :=
  (p.op0 == d.op + 1 || p.op0 == 4) && p.fmt.toNat == d.ty && p.pay.length == d.chb && d.first ≤ p.chunk.toNat && p.chunk.toNat < d.first + d.nch
    && p.last == (p.chunk.toNat + 1 == d.first + d.nch)

/-- A RAW `nsend` whose packet has left its first hop completes (10 R263). -/
def State.leftHop (s : State) (g : RegionNo) (cmd : Option Nat) : State :=
  match cmd with
  | some id => s.endCmd g id 0 1
  | none => s

/-- A packet sent on after a hop. On a link that is down it is discarded and counted, and the members that only this link reaches are lost (10 R260;
19 R364, R368). -/
def State.passOn (s : State) (g : RegionNo) (ctxid key : Nat) (p : Packet) (cmd : Option Nat) : State :=
  match s.sendPk g ctxid p.shift p.route0 with
  | (s, true) => s.leftHop g cmd
  | (s, false) =>
    let gone := match (s.reg g).group? key with
      | some x => (s.lostRanks x).filter (fun r => (x.table.getD r 0).toNat % 16 == p.route0.toNat % 16)
      | none => []
    let s := { s with links := Tab.upd s.links (p.route0.toNat % 16) (fun l => { l with lost := l.lost + p.flits }) }
    if gone.isEmpty then s.leftHop g cmd else s.loseGroup key false gone

/-- How a hop of a packet ends: it is taken, it is held where it stands, or one of its accesses has acted. -/
inductive HopEnd where
  | taken | held | acted
  deriving DecidableEq, Repr, Inhabited

/-- An access of the i-th packet's write joins its queue, or one there has performed. -/
def State.updArrival (s : State) (g : RegionNo) (i : Nat) (f : List EAcc → List EAcc) : State :=
  let r := s.reg g
  s.setReg g { r with arrivals := (List.zip (List.range r.arrivals.length) r.arrivals).map (fun e =>
    if e.1 == i then { e.2 with io := f e.2.io } else e.2) }

/-- The write of the i-th packet parks, with no `nsend` of its group here to park; it is reported as one of the context's commands is, with the
packet's chunk for its progress (10 R263; 17 R335, R336; log 92). -/
def State.parkHop (s : State) (g : RegionNo) (i : Nat) (f : XFault) (addr : Nat) : State :=
  let r := s.reg g
  match r.arrivals[i]? with
  | none => s
  | some a =>
    let f := { s.parking f a.pk.chunk.toNat with wr := true }
    let x := (r.core.resident a.ctxid).getD 0
    let (v, y) := f.addrs addr f.aux
    ((s.forgetPage g a.ctxid (addr / 4096)).setReg g { (s.forgetPage g a.ctxid (addr / 4096)).reg g with
      arrivals := r.arrivals.modify i (fun a => { a with parked := some (addr, f), io := [] }) }).report g
      { cause := f.cause, rep := BitVec.ofNat 16 (0x8000 + 0x40 * x.toNat), addr := v, aux := y, x := x, ctxid := a.ctxid, kernel := (s.grant g x).kernel,
        g := g, wr := true, s2 := f.s2, level := f.level, gpa := f.gpa, park := some f.seq }

/-- A line of the write at DADDR starts: it is translated in the member's context; on a fault the member's `nsend` parks at its chunk (10
R263, R244), and with no `nsend` here the packet's write does. -/
def State.hopStart (s : State) (g : RegionNo) (i : Nat) (c : Cmd) (snd : Option (Nat × Cmd)) (key : Nat) (e : EAcc) : State × HopEnd :=
  match s.engStart g (.event (.collectiveHop g none)) c e with
  | (s, .ok q) => (s.updArrival g i (fun io => io ++ [q]), .acted)
  | (s, .error (.fail f)) => (s.failGroup g key f, .taken)
  | (s, .error .hold) => (s, .held)
  | (s, .error (.park f va _)) => match snd with
    | some (id, m) => (s.parkCmd g id f va m.prog.chunk true, .acted)
    | none => (s.parkHop g i f va, .acted)

/-- A line of the write at DADDR performs, for the thread of the member's `nsend` (09 R235); one whose granule the host owns is fetched
first. -/
def State.hopPerform (s : State) (g : RegionNo) (i : Nat) (snd : Option (Nat × Cmd)) (key : Nat) (e : EAcc) : State × HopEnd :=
  if !s.ownedOk e.pl then (s.claim (.event (.collectiveHop g none)) e.pl e.va true, .held)
  else if s.spoiled e.pl e.n true then (s.failGroup g key Cause.uncorrectable, .taken)
  else
    let n := s.cxl.length
    let (s, bs) := s.ioEffect e
    let s := match snd with
      | some (_, m) => s.ownCxl n (g, m.kernel)
      | none => s
    (s.updArrival g i (fun io => io.map (fun q => if q.same e then { q with got := some bs } else q)), .acted)

/-- The write of the i-th packet's payload at DADDR in the member's context, one access in a step and none performed before all are
translated (10 R263, R244; 09 R229); held while the member is not resident, parked, or has an earlier chunk to complete, and before the send
that follows a DUP while a retrain holds it (19 R364). -/
def State.hopWrite (s : State) (g : RegionNo) (i : Nat) (a : Arrival) (key : Nat) (done : State → State) : State × HopEnd :=
  let p := a.pk
  let snd := s.sender g key
  let c : Cmd := match snd with
    | some (_, m) => m
    | none => { ctxid := a.ctxid, x := ((s.core g).resident a.ctxid).getD 0, g := g }
  let reduces := match snd with
    | some (_, m) => m.cf == 0 && m.prog.stage != 0
    | none => false
  let es := writeLines p.daddr.toNat p.pay
  let at_ (e : EAcc) : Option EAcc := a.io.find? e.same
  if c.parked.isSome || a.parked.isSome || (p.op0 == 3 && s.routeHeld p.route0) || ((s.core g).resident a.ctxid).isNone || (reduces && p.chunk.toNat > c.prog.chunk) then (s, .held)
  else match es.filter (fun e => (at_ e).isNone) with
    | e :: rest =>
      let (n, s) := s.pick (rest.length + 1)
      s.hopStart g i c snd key ((e :: rest).getD n e)
    | [] => match es.filter (fun e => (at_ e).any (fun q => q.got.isNone)) with
      | e :: rest =>
        let (n, s) := s.pick (rest.length + 1)
        let e := (e :: rest).getD n e
        s.hopPerform g i snd key { ((at_ e).getD e) with wr := e.wr }
      | [] =>
        let n := (((s.reg g).group? key).map (fun x => x.table.length)).getD 0
        match snd with
        | some (id, m) =>
          if reduces && p.rank == 0 && p.span.toNat == n && p.chunk.toNat == m.prog.chunk then
            (done (s.updCmd g id (fun c => { c with prog := { c.prog with chunk := c.prog.chunk + 1 }, wait := none })), .taken)
          else (done s, .taken)
        | none => (done s, .taken)

/-- A packet joined with its partner, the left range first, and sent on by the lists of the left one (10 R263). -/
def State.hopJoin (s : State) (g : RegionNo) (ctxid key : Nat) (p : Packet) (cmd : Option Nat) (q : Contrib) : State × HopEnd :=
  let r := s.reg g
  let (l, h) := if p.rank.toNat < q.pk.rank.toNat then (p, q.pk) else (q.pk, p)
  let s' := s.setReg g { r with contribs := r.contribs.erase q }
  if !redFormat l.fmt.toNat || l.fmt != h.fmt || l.pay.length != h.pay.length then (s'.failGroup g key Cause.cmdInvalid, .taken)
  else if s.routeHeld l.route0 then (s, .held)
  else
    let out := { l with span := l.span + h.span, pay := redPay l.fmt.toNat (l.op0 - 1) l.pay h.pay }
    ((s'.leftHop g q.cmd).passOn g ctxid key out cmd, .taken)

/-- A hop of a packet of an ALLREDUCE's plan: one that disagrees with the member's own `nsend` fails the group; one that has a join to come meets its
mate of `ctree` or waits for it; the result waits for the `nsend` to write it (10 R261, R263; log 19). -/
def State.hopPlan (s : State) (g : RegionNo) (ctxid key : Nat) (gr : Group) (p : Packet) : State × HopEnd :=
  let r := s.reg g
  let wrong := match r.sending key with
    | some (_, m) => m.cf == 0 && !m.reduce.agrees p
    | none => false
  if wrong then (s.loseGroup key true [], .taken)
  else match r.contribs.find? (fun q => q.grp == key && p.op0 != 4 && p.mates q.pk gr.table.length) with
    | some q => s.hopJoin g ctxid key p none q
    | none => (s.setReg g { r with contribs := r.contribs ++ [{ grp := key, pk := p }] }, .taken)

/-- One hop of the i-th packet at a unit (10 R263). A packet whose header has a non-zero reserved bit fails the group's `nsend` as one with a
reserved operation does (00 R11; log 19). A packet of a deleted group is a late item where it has come over a link, and waits for the group to be created
anew where it has come from a region of the package; one of a group that has lost a member is a late item (10 R260; 13 R285; 19 R371). -/
def State.hop (s : State) (g : RegionNo) (i : Nat) (a : Arrival) : State × HopEnd :=
  let p := a.pk
  let key := grpKey a.ctxid p.group.toNat
  let r := s.reg g
  if (match a.gen with | some v => v != s.genOf a.ctxid | none => false) then (s.dropStale, .taken)
  else match Tab.get r.groups key with
    | none => (s, .held)
    | some gr =>
      if gr.failed then (if gr.table.isEmpty && a.gen.isSome then (s, .held) else (s.dropStale, .taken))
      else if p.rsvd || p.nent == 0 || p.op0 ≥ 5 || routeKind p.route0 == 3 then (s.failGroup g key Cause.cmdInvalid, .taken)
      else if p.plan then s.hopPlan g a.ctxid key gr p
      else match p.op0 with
        | 0 => if s.routeHeld p.route0 then (s, .held) else (s.passOn g a.ctxid key p a.cmd, .taken)
        | 1 | 2 =>
          match r.contribs.find? (fun q => q.grp == key && !q.pk.plan && q.pk.chunk == p.chunk && q.pk.adjoins p) with
          | none => (s.setReg g { r with contribs := r.contribs ++ [{ grp := key, cmd := a.cmd, pk := p }] }, .taken)
          | some q => s.hopJoin g a.ctxid key p a.cmd q
        | k => s.hopWrite g i a key (fun s => if k == 3 then s.passOn g a.ctxid key p a.cmd else s.leftHop g a.cmd)

/-- Whether a region holds a group's packets for its creation: its context has not created it, or has deleted it (13 R285, 10 R260). -/
def Region.holdsGroup (r : Region) (key : Nat) : Bool := (Tab.get r.groups key).all (fun x => x.failed && x.table.isEmpty)

/-- The first packet that can act, in the order of arrival: one that is held holds up none of another group (13 R284), but one for a group not
created holds up those that come behind it from the same other region (13 R285). Groups are named by their keys, `ahead` lists those held and
`blocked` the regions. -/
def State.hopScan (s : State) (g : RegionNo) : Nat → List Arrival → List Nat → List (Option RegionNo) → State
  | _, [], _, _ => s
  | i, a :: rest, ahead, blocked =>
    let key := grpKey a.ctxid a.pk.group.toNat
    if a.src.isSome && blocked.contains a.src then s.hopScan g (i + 1) rest ahead blocked
    else if ahead.contains key then s.hopScan g (i + 1) rest ahead blocked
    else match s.hop g i a with
      | (s, .taken) => s.setReg g { s.reg g with arrivals := (s.reg g).arrivals.eraseIdx i }
      | (s, .acted) => s
      | (s, .held) => s.hopScan g (i + 1) rest (key :: ahead) (if (s.reg g).holdsGroup key && a.src != some g then a.src :: blocked else blocked)

/-- The context of a region whose group a packet that arrives on a link is taken to be of, as its header names none: one that has the group, else one
that has deleted it or has ended with it (19 R371; log 19). -/
def State.groupCtx (s : State) (g : RegionNo) (grp : BitVec 16) : Option Nat :=
  let its := (s.reg g).groups.filter (fun e => e.1 % 65536 == grp.toNat)
  ((its.find? (fun e => !e.2.table.isEmpty)).or its.head?).map (fun e => e.1 / 65536)

/-- A packet of a link joins a unit's packets. -/
def State.joinPk (s : State) (g : RegionNo) (ctxid : Nat) (p : Packet) : State :=
  s.setReg g { s.reg g with arrivals := (s.reg g).arrivals ++ [{ ctxid := ctxid, pk := p, since := s.tick }] }

/-- The receive buffer of a link changed. -/
def State.setHeldPk (s : State) (link : Nat) (p : Option (RegionNo × Packet × Nat)) : State :=
  { s with links := Tab.upd s.links link (fun l => { l with heldPk := p }) }

/-- The packet of a link's receive buffer whose group its region's context has created since. -/
def State.freedPk (s : State) (g : RegionNo) : Option (Nat × Nat × Packet) :=
  s.links.findSome? (fun l => match l.2.heldPk with
    | some (r, p, _) => if r == g then (s.groupCtx g p.group).map (fun c => (l.1, c, p)) else none
    | none => none)

/-- A packet arrives on a link, or the first packet that can takes its hop. One for a group not created is held in the link's receive
buffer, with what follows on the link's channel 255 behind it, whatever its region (13 R285). -/
def execCollectiveHop (g : RegionNo) (arrival : Option (BitVec 4 × Packet)) (s : State) : Out :=
  match arrival with
  | some (link, p) =>
    if (Tab.getD s.links link.toNat : Link).heldPk.isSome then .next s
    else match s.groupCtx g p.group with
      | some ctxid => .next (s.joinPk g ctxid p)
      | none => .next (s.setHeldPk link.toNat (some (g, p, s.tick)))
  | none =>
    match s.freedPk g with
    | some (link, ctxid, p) => .next ((s.setHeldPk link none).joinPk g ctxid p)
    | none =>
      let s := s.settleLosses
      .next (s.hopScan g 0 (s.reg g).arrivals [] [])

/-! ## Pauses (10 R264; 16 R315, R316) -/

/-- A message to every other member of a group: in the package to its region, else on channel 255 of its link. -/
def State.tellGroup (s : State) (g : RegionNo) (key kind value : Nat) (gr : Group) : State :=
  (List.zip (List.range gr.table.length) gr.table).foldl (fun s e =>
    if e.1 == gr.own then s
    else if routeKind e.2 == 1 then
      let r : RegionNo := BitVec.ofNat 5 (e.2.toNat % 32)
      s.setReg r { s.reg r with msgs := (s.reg r).msgs ++ [(kind, key, value)] }
    else
      s.say (e.2.toNat % 16) (kind, key % 65536, value)) (s.setReg g (s.reg g))

/-- Whether a member has completed its chunks below the pause. -/
def State.pauseDone (s : State) (g : RegionNo) (key : Nat) (gr : Group) : Bool :=
  match s.sender g key, gr.paused with
  | some (_, m), some p => gr.whole || (m.prog.stage != 0 && m.prog.chunk ≥ p)
  | _, _ => true

/-- A report to the pausing or resuming members: + 1 to those in the package, + 2 to those on the links of the table. -/
def State.sendReport (s : State) (g : RegionNo) (key : Nat) (gr : Group) (way : Nat) : State :=
  let homes := allRegions.filter (fun r => r != g && (match Tab.get (s.reg r).groups key with
    | some x => x.asker.isSome || x.switching
    | none => false))
  let s := if way % 2 == 1 then homes.foldl (fun s r => s.setReg r { s.reg r with msgs := (s.reg r).msgs ++ [(1, key, gr.own)] }) s else s
  if way ≥ 2 then
    ((gr.table.filter (fun e => routeKind e == 0)).map (fun e => e.toNat % 16)).eraseDups.foldl (fun s n => s.say n (1, key % 65536, gr.own)) s
  else s

/-- A rank's report at the pausing member: with the last one its command completes (10 R264). -/
def State.addReport (s : State) (g : RegionNo) (key rank : Nat) : State :=
  match (s.reg g).group? key with
  | none => s
  | some gr =>
    if gr.asker.isNone && !gr.switching then s
    else
      let rs := if gr.reported.contains rank then gr.reported else gr.reported ++ [rank]
      let s := s.updGroup g key (fun x => { x with reported := rs })
      match gr.asker with
      | some id =>
        if rs.length ≥ gr.table.length then
          (s.updGroup g key (fun x => { x with asker := none })).endCmd g id 0 (gr.paused.getD (s.cmd g id).prog.a)
        else s
      | none => s

/-- The reports that are owed, sent once they are due: to its own pause, and to every other member that pauses. -/
def State.pauseReport (s : State) (g : RegionNo) (key : Nat) : State :=
  match (s.reg g).group? key with
  | none => s
  | some gr =>
    if !s.pauseDone g key gr then s
    else
      let s := s.updGroup g key (fun x => { x with asked := false, owes := 0 })
      let s := if gr.asked then s.addReport g key gr.own else s
      s.sendReport g key gr gr.owes

/-- A pause begun by a member: its own next chunk to start + 4 (10 R264). -/
def State.beginPause (s : State) (g : RegionNo) (key : Nat) (gr : Group) : State × Nat :=
  let p := gr.next + 4
  let idle := (s.sender g key).isNone
  let s := s.updGroup g key (fun x => { x with paused := some p, whole := idle, asked := true, reported := [] })
  ((s.tellGroup g key (if gr.gang then 5 else 0) p gr).pauseReport g key, p)

/-- Whether an ALLREDUCE of a member has started and has still to read which chunk is its first: its next chunk to start is not known. -/
def State.firstUnknown (s : State) (g : RegionNo) (key : Nat) : Bool := (s.sender g key).any (fun e => e.2.cf == 0 && e.2.prog.stage == 0)

/-- `npause`; one of a group in which another pause or resume of this member is still under way waits for it (log 77). -/
def execNpause (c : Frame) (s : State) : Out :=
  s.runCmd (fun g id m =>
    let key := grpKey m.ctxid c.handle.toNat
    match (s.reg g).group? key with
    | none => s.endCmd g id Cause.cmdInvalid 0
    | some gr =>
      if m.prog.stage != 0 then s.pauseReport g key
      else match gr.paused with
        | some p => s.endCmd g id 0 p
        | none =>
          if gr.asker.isSome || s.firstUnknown g key then s else
          let s := (s.progress g id (fun q => { q with stage := 1, a := gr.next + 4 })).updGroup g key (fun x => { x with asker := some id })
          (s.beginPause g key gr).1)

/-- A pause ended by a member, with the messages to the others and what it owes to those that resume as well. -/
def State.beginResume (s : State) (g : RegionNo) (key : Nat) (gr : Group) : State :=
  let s := s.updGroup g key (fun x =>
    { x with paused := none, whole := false, asked := false, reported := [gr.own], switching := false, gang := false, owes := x.owes ||| x.late,
             late := 0 })
  (s.tellGroup g key 2 0 gr).pauseReport g key

/-- `nresume`; one begun while this member's pause still awaits reports waits for them (log 77). -/
def execNresume (c : Frame) (s : State) : Out :=
  s.runCmd (fun g id m =>
    let key := grpKey m.ctxid c.handle.toNat
    match (s.reg g).group? key with
    | none => s.endCmd g id Cause.cmdInvalid 0
    | some gr =>
      if m.prog.stage != 0 then s
      else match gr.paused with
        | none => s.endCmd g id 0 gr.next
        | some p =>
          if gr.asker.isSome then s else
          let s := (s.progress g id (fun q => { q with stage := 1, a := p })).updGroup g key (fun x => { x with asker := some id })
          s.beginResume g key gr)

/-- A message from a region of the package taken. -/
def State.takeMsg (s : State) (g : RegionNo) (msg : Nat × Nat × Nat) : State :=
  s.setReg g { s.reg g with msgs := (s.reg g).msgs.erase msg }

/-- How a message has come: 1 from a region of the package, 2 on a link. -/
def State.msgWay (s : State) (g : RegionNo) (msg : Nat × Nat × Nat) : Nat := if (s.reg g).msgs.contains msg then 1 else 2

/-- A member receives a pause: it completes its chunks below P, starts none at or above, and reports back. Of two pauses at once the lower
chunk holds, which no member can have started either, and each pausing member reports to the other as well (10 R264; log 77). One with no `nsend`
running has no chunk to complete, and its next `nsend` starts those below P. A gang pause
makes its region leave as well, where the group's context is resident, once the pause has been reported (16 R316; log 33). -/
def execGroupPauseReceive (g : RegionNo) (cid : BitVec 12) (grp : BitVec 16) (p : PauseMsg) (s : State) : Out :=
  let key := grpKey cid.toNat grp.toNat
  match (s.reg g).group? key with
  | none => .next s
  | some gr =>
    let msg := (if p.gang then 5 else 0, key, p.p.toNat)
    let way := s.msgWay g msg
    let s := s.takeMsg g msg
    let here := (s.core g).grants.any (fun e => e.2.ctxid == cid.toNat)
    let s := s.updGroup g key (fun x => match gr.paused with
      | some q => { x with owes := x.owes ||| way, gang := x.gang || p.gang, paused := some (min q p.p.toNat) }
      | none => { x with owes := x.owes ||| way, gang := p.gang, paused := some p.p.toNat })
    let s := if p.gang && here then s.setReg g { s.reg g with switching := true } else s
    .next (s.pauseReport g key)

/-- The pausing or resuming member receives a member's report. -/
def execGroupPauseReport (g : RegionNo) (cid : BitVec 12) (grp : BitVec 16) (rank : BitVec 16) (s : State) : Out :=
  let key := grpKey cid.toNat grp.toNat
  .next ((s.takeMsg g (1, key, rank.toNat)).addReport g key rank.toNat)

/-- The running `nsend` of a group stands in a saved image of the region. -/
def State.senderSaved (s : State) (g : RegionNo) (key : Nat) : Bool := (s.sender g key).any (fun e => !Tab.has (s.core g).cmds e.1)

/-- A paused member receives the resume: it starts chunks again and reports that it has resumed, once its own `nsend` is resident (16 R316). -/
def execGroupResumeReceive (g : RegionNo) (cid : BitVec 12) (grp : BitVec 16) (s : State) : Out :=
  let key := grpKey cid.toNat grp.toNat
  match (s.reg g).group? key with
  | none => .next s
  | some _ =>
    let way := s.msgWay g (2, key, 0)
    let s := s.takeMsg g (2, key, 0)
    if s.senderSaved g key then .next (s.updGroup g key (fun x => { x with late := x.late ||| way }))
    else .next ((s.updGroup g key (fun x => { x with paused := none, whole := false, gang := false, owes := x.owes ||| way })).pauseReport g key)

/-- The pause of a group ends for a member that is restored: one that its own switch began it resumes for all, and one whose resume has come meanwhile
it reports (16 R316). -/
def State.resumeRestored (s : State) (g : RegionNo) (key : Nat) (x : Group) : State :=
  if x.switching then s.beginResume g key x
  else if x.late != 0 then
    (s.updGroup g key (fun x => { x with paused := none, whole := false, gang := false, owes := x.owes ||| x.late, late := 0 })).pauseReport g key
  else s

/-! ## `nsend` (10 R261, R263) -/

/-- Whether a route entry has a non-zero reserved bit (10 R262); KIND 3 is refused at its hop. -/
def routeRsvd (e : BitVec 16) : Bool := match routeKind e with
  | 0 => bits e.toNat 12 13 != 0
  | 1 => bits e.toNat 5 13 != 0
  | 2 => bits e.toNat 0 13 != 0
  | _ => false

/-- A packet from its 64-byte header and what follows (10 R262). -/
def packetOf (h pay : List Byte) : Packet :=
  { daddr := BitVec.ofNat 64 (word8 h 7), ops := (h.drop 40).take 8,
    routes := (List.range 8).map (fun i => BitVec.ofNat 16 (leNat ((h.drop (24 + 2 * i)).take 2))),
    chunk := BitVec.ofNat 32 (leNat ((h.drop 16).take 4)), span := BitVec.ofNat 16 (leNat ((h.drop 14).take 2)),
    rank := BitVec.ofNat 16 (leNat ((h.drop 12).take 2)), group := BitVec.ofNat 16 (leNat ((h.drop 10).take 2)),
    fmt := BitVec.ofNat 4 ((h.getD 9 0).toNat / 16), nent := BitVec.ofNat 4 (h.getD 9 0).toNat, last := (h.getD 8 0).getLsbD 0, pay := pay,
    rsvd := word8 h 0 != 0 || word8 h 6 != 0 || (h.getD 8 0).toNat ≥ 2 || ((h.drop 40).take 8).any (fun b => b.toNat ≥ 8)
      || (List.range 8).any (fun i => routeRsvd (BitVec.ofNat 16 (leNat ((h.drop (24 + 2 * i)).take 2)))) }

/-- A RAW `nsend`: the packet found at its address starts with a hop here. -/
def State.rawSend (s : State) (g : RegionNo) (id : Nat) (m : Cmd) (a : Nat) : State :=
  if m.prog.stage != 0 then s.waitCmd g id 12 m.handle 0xFF
  else match classFault a with
    | some e => s.failCmd g id e
    | none => match s.eRead g id m a 64 with
      | (s, .error e) => s.onStop g id e 0 false
      | (s, .ok h) =>
        let len := leNat ((h.drop 20).take 4)
        if len % 128 != 0 || len < 128 || len > 4096 then s.failCmd g id Cause.cmdInvalid
        else match s.eRead g id m (a + 64) len with
          | (s, .error e) => s.onStop g id e 0 false
          | (s, .ok pay) =>
            let p := packetOf h pay
            let s := s.progress g id (fun q => { q with stage := 1, chunk := p.chunk.toNat })
            s.setReg g { s.reg g with arrivals := (s.reg g).arrivals ++ [{ ctxid := m.ctxid, gen := some m.gen, cmd := some id, pk := p,
                                                                            since := s.tick }] }

/-- The descriptor's checks (10 R261; 00 R16). -/
def Reduce.fault (h : List Byte) (d : Reduce) : Option Byte :=
  let cls (a : Nat) : Bool × Byte := ((classFault a).isSome, (classFault a).getD 0)
  lowest [(bits (word8 h 2) 13 31 != 0 || bits (word8 h 3) 0 31 != 0 || d.nch == 0 || d.chb % 128 != 0 || d.chb < 128 || d.chb > 4096,
    Cause.cmdInvalid), cls d.src, cls d.dst]

/-- The descriptor is read and checked; contributions that have come already must agree. -/
def State.reduceBegin (s : State) (g : RegionNo) (id : Nat) (m : Cmd) (a key : Nat) : State :=
  match classFault a with
  | some e => s.failCmd g id e
  | none => match s.eRead g id m a 32 with
    | (s, .error e) => s.onStop g id e 0 false
    | (s, .ok h) =>
      let s := s.progress g id (fun q => { q with hdr := h, chunk := bits (word8 h 3) 32 63 })
      let d := (s.cmd g id).reduce
      match d.fault h with
      | some e => s.failCmd g id e
      | none =>
        let s := (s.progress g id (fun q => { q with stage := 1 })).updGroup g key (fun x => { x with next := d.first })
        if (s.reg g).contribs.any (fun q => q.grp == key && q.pk.plan && !d.agrees q.pk) then s.loseGroup key true [] else s

/-- The reads or the writes of a chunk are done: those of the other kind, of another chunk, stay in the issue queue. -/
def State.chunkIo (s : State) (g : RegionNo) (id : Nat) (wr : Bool) (f : Prog → Prog) : State :=
  (s.stamp g).updCmd g id (fun c => { c with prog := { f c.prog with io := c.prog.io.filter (fun e => e.wr.isSome != wr) }, wait := none })

/-- A chunk starts: this member's contribution is read and sent to every member, with the lists of its part in `ctree` (log 19); a retrain of a link
that it needs holds it (19 R364). -/
def State.startChunk (s : State) (g : RegionNo) (id : Nat) (m : Cmd) (key : Nat) (gr : Group) (d : Reduce) : State :=
  let j := gr.next
  match s.eRead g id m (d.src + (j - d.first) * d.chb) d.chb with
  | (s, .error e) => s.onStop g id e m.prog.chunk false
  | (s, .ok pay) =>
    let ops := planOps d.op gr.own gr.table.length
    let p : Packet := { daddr := 0, ops := ops, routes := ops.map (fun _ => 0x8000), chunk := BitVec.ofNat 32 j, span := 1,
                        rank := BitVec.ofNat 16 gr.own, group := BitVec.ofNat 16 key, fmt := BitVec.ofNat 4 d.ty, nent := BitVec.ofNat 4 ops.length,
                        last := j + 1 == d.first + d.nch, pay := pay, plan := true }
    if gr.table.any s.routeHeld then s
    else
      let s := (s.updGroup g key (fun x => { x with next := j + 1 })).chunkIo g id false (fun q => q)
      let s := gr.table.foldl (fun s e => (s.sendPk g m.ctxid p e).1) s
      let gone := s.lostRanks gr
      if gone.isEmpty then s else s.loseGroup key false gone

/-- The lowest uncompleted chunk's result, when every contribution has come, is written to DST. -/
def State.finishChunk (s : State) (g : RegionNo) (id : Nat) (m : Cmd) (key : Nat) (d : Reduce) (pay : List Byte) : State :=
  let a := d.dst + (m.prog.chunk - d.first) * d.chb
  match s.eCheck g id m a pay.length with
  | (s, .error e) => s.onStop g id e m.prog.chunk true
  | (s, .ok ()) => match s.eWrite g id m a pay with
  | (s, .error e) => s.onStop g id e m.prog.chunk true
  | (s, .ok ()) =>
    let r := s.reg g
    let s := s.setReg g { r with contribs := r.contribs.filter (fun q => !(q.grp == key && q.pk.chunk.toNat == m.prog.chunk)) }
    (s.chunkIo g id true (fun q => { q with chunk := q.chunk + 1 })).pauseReport g key

/-- The result of a chunk that has come together at a region's unit (10 R261). -/
def Region.result (r : Region) (key chunk n : Nat) : Option (List Byte) :=
  (r.contribs.find? (fun q => q.grp == key && q.pk.plan && q.pk.chunk.toNat == chunk && q.pk.op0 == 4 && q.pk.rank == 0 && q.pk.span.toNat == n)).map
    (fun q => q.pk.pay)

/-- A step of an `nsend` whose group is losing a member: it completes the chunks whose results come together, starts none, and then reports its lowest
uncompleted one (19 R368; log 93). -/
def State.lossStep (s : State) (g : RegionNo) (id : Nat) (m : Cmd) (key : Nat) (gr : Group) : State :=
  let l : Loss := Tab.getD s.losses key
  if m.prog.stage == 0 || m.cf == 1 || Tab.has l.heard gr.own then s.settleLoss key
  else match (s.reg g).result key m.prog.chunk gr.table.length with
    | some pay => s.finishChunk g id m key m.reduce pay
    | none =>
      if (s.reg g).arrivals.any (fun a => a.pk.plan && grpKey a.ctxid a.pk.group.toNat == key) then s
      else (s.reportLoss key gr.own m.prog.chunk).settleLoss key

/-- A step of an ALLREDUCE. -/
def State.reduceStep (s : State) (g : RegionNo) (id : Nat) (m : Cmd) (key : Nat) (gr : Group) : State :=
  let d := m.reduce
  let j := m.prog.chunk
  let final := d.first + d.nch
  let open_ := match gr.paused with
    | some p => !gr.whole && gr.next < p
    | none => true
  if j ≥ final then (s.endCmd g id 0 d.nch).pauseReport g key
  else
    match (s.reg g).result key j gr.table.length with
    | some pay => s.finishChunk g id m key d pay
    | none =>
      if gr.next < final && gr.next < j + 4 && open_ then s.startChunk g id m key gr d
      else (s.pauseReport g key).waitCmd g id 12 (key % 65536) 0xFF

/-- `nsend`: ALLREDUCE or RAW; of a group not created CMD_INVALID with VALUE 0 (10 R260), of one that has lost a member COLL_MEMBER_LOST (log 93). -/
def execNsend (c : Frame) (s : State) : Out :=
  s.runCmd (fun g id m =>
    let key := grpKey m.ctxid c.handle.toNat
    match (s.reg g).group? key with
    | none => s.endCmd g id Cause.cmdInvalid 0
    | some gr =>
      if gr.failed then s.endCmd g id Cause.collMemberLost m.prog.chunk
      else if Tab.has s.losses key then s.lossStep g id m key gr
      else if c.cf == 1 then s.rawSend g id m (frameAddr c)
      else if m.prog.stage == 0 then s.reduceBegin g id m (frameAddr c) key
      else s.reduceStep g id m key gr)

end Sys2Proof.Machine
end

