-- ==== Sys2Proof/Machine/Drawer.lean ====
section
/-!
DEFINITION. Drawer space: tuples, patterns, the anchor and home actions of the slices, the Drawer commands (11 R267 to R283).
-/

namespace Sys2Proof.Machine

/-! ## Where a Drawer is served (11 R269) -/

/-- Key of a Drawer: its context and id. -/
def drawerKey (ctxid did : Nat) : Nat := ctxid * 65536 + did
/-- The anchor slice of a Drawer. -/
def anchorSlice (did : Nat) : Nat := did * 0x9E37 % 128
/-- The home slice of a tuple or request. -/
def homeSlice (did f0 : Nat) : Nat := ((did * 0x9E37 % 2 ^ 32) ^^^ (f0 * 0x85EB % 2 ^ 32)) % 128

/-- A slice. -/
def State.slice (s : State) (n : Nat) : Slice := Tab.getD s.slices n
/-- A slice changed. -/
def State.updSlice (s : State) (n : Nat) (f : Slice → Slice) : State := { s with slices := Tab.upd s.slices n f }

/-- Key of the Drawer of a request. -/
def DReq.key (q : DReq) : Nat := drawerKey q.ctxid q.did
/-- Whether the anchor holds a Drawer live (11 R279). -/
def State.anchorLive (s : State) (key : Nat) : Bool := match Tab.get s.drawers key with
  | some d => !d.dying
  | none => false

/-! ## Patterns (11 R270) -/

/-- Mode of field i. -/
def modeOf (modes i : Nat) : Nat := modes / 4 ^ i % 4
/-- A pattern that R270 forbids: f0 not in mode 1, or a field in mode 3. -/
def patternBad (modes : Nat) : Bool := modeOf modes 0 != 1 || (List.range 8).any (fun i => modeOf modes i == 3)

/-- Whether a tuple matches a request. -/
def DReq.matches (q : DReq) (t : Tuple) : Bool :=
  t.plu ≤ q.maxp && (List.range 8).all (fun i =>
    let f := t.f.getD i 0
    let v := q.v.getD i 0
    let m := q.m.getD i 0
    match modeOf q.modes i with
    | 1 => f == v
    | 2 => (f &&& m) == (v &&& m)
    | _ => true)

/-! ## Completions at the region's unit (11 R280) -/

/-- A Drawer command ends with a cause; one whose command is gone is dropped (11 R282; 19 R371). -/
def State.drawerEnd (s : State) (q : DReq) (cause : Byte) (value : Nat) : State :=
  if ((s.reg q.g).cmd? q.cmd).isSome then s.endCmd q.g q.cmd cause value else s.dropStale

/-- The bytes that a delivered tuple writes: RFLD and RPAY. -/
def Tuple.bytes (t : Tuple) : List Byte := t.f.flatMap (fun w => natToBytes 4 w.toNat) ++ t.pay

/-- A tuple delivered: it is held in the unit until it has been written. -/
def State.drawerDeliver (s : State) (q : DReq) (t : Tuple) (home : Nat) : State :=
  let value := 2 ^ 31 + t.seq % 2 ^ 20 * 2 ^ 11 + home % 128 * 16 + t.plu
  if ((s.reg q.g).cmd? q.cmd).isSome then s.progress q.g q.cmd (fun p => { p with stage := 3, hdr := t.bytes, a := value })
  else s.dropStale

/-- A command that is parked at a slice waits (11 R283; 17 R339). -/
def State.drawerWait (s : State) (q : DReq) (n : Nat) : State :=
  s.waitCmd q.g q.cmd 9 (q.did + n * 65536 + q.kind * 2 ^ 24) 0xFF

/-- A request parked at the tail of a slice's table; from a full table it goes back to its region's unit (11 R276). -/
def State.drawerPark (s : State) (n : Nat) (q : DReq) : State :=
  if (s.slice n).parked.length < 256 then (s.updSlice n (fun l => { l with parked := l.parked ++ [q] })).drawerWait q n
  else (s.setReg q.g { s.reg q.g with resend := (s.reg q.g).resend ++ [(n, q)] }).drawerWait q n

/-- Units that a take at slice h has removed, returned to the anchor of their Drawer. -/
def State.sendReturn (s : State) (h : Nat) (q : DReq) (n : Nat) : State :=
  let inc : Nat := Tab.getD (s.slice h).live q.key
  s.updSlice (anchorSlice q.did) (fun l => { l with inRet := l.inRet ++ [{ q with kind := 3, n := n, inc := inc }] })

/-- A granted deposit sent to its home slice: it waits no longer, and it belongs to the Drawer as it is now (11 R279, R283). -/
def State.sendDeposit (s : State) (q : DReq) : State :=
  let inc := ((Tab.get s.drawers q.key).map (·.inc)).getD 0
  let s := s.updCmd q.g q.cmd (fun c => { c with wait := none })
  s.updSlice (homeSlice q.did (q.tuple.f.getD 0 0).toNat) (fun l => { l with inDep := l.inDep ++ [{ q with inc := inc }] })

/-! ## The slice's steps (11 R273, R274) -/

/-- A deposit reserves capacity at the anchor. -/
def execAnchorReserve (slice : BitVec 7) (i : Nat) (s : State) : Out :=
  let n := slice.toNat
  let l := s.slice n
  match l.inRes[i]? with
  | none => .next s
  | some q =>
    let s := s.updSlice n (fun l => { l with inRes := l.inRes.eraseIdx i })
    let stuck := l.parked.any (fun p => p.kind == 0 && p.key == q.key)
    let count := Tab.getD l.count q.key
    if !s.anchorLive q.key then .next (s.drawerEnd q Cause.cmdInvalid 0)
    else if !stuck && count + q.n ≤ Tab.getD l.cap q.key then
      .next ((s.updSlice n (fun l => { l with count := Tab.set l.count q.key (count + q.n) })).sendDeposit q)
    else if q.nowait then .next (s.drawerEnd q Cause.drawerFull 0)
    else .next (s.drawerPark n q)

/-- Parked deposits of a Drawer granted in park order while the oldest fits; the fuel bounds them. -/
def State.grantParked (n key : Nat) : Nat → State → State
  | 0, s => s
  | f + 1, s =>
    let l := s.slice n
    match l.parked.find? (fun p => p.kind == 0 && p.key == key) with
    | none => s
    | some q =>
      let count := Tab.getD l.count key
      if count + q.n ≤ Tab.getD l.cap key then
        State.grantParked n key f ((s.updSlice n (fun l =>
          { l with count := Tab.set l.count key (count + q.n), parked := l.parked.erase q })).sendDeposit q)
      else s

/-- Units that a take has freed come back to the anchor; those of an earlier creation of the id do not count (11 R279). -/
def execAnchorReturn (slice : BitVec 7) (i : Nat) (s : State) : Out :=
  let n := slice.toNat
  let l := s.slice n
  match l.inRet[i]? with
  | none => .next s
  | some q =>
    let s := s.updSlice n (fun l => { l with inRet := l.inRet.eraseIdx i })
    if !((Tab.get s.drawers q.key).any (fun d => d.inc == q.inc)) then .next s
    else
    let s := s.updSlice n (fun l => { l with count := Tab.upd l.count q.key (· - q.n) })
    .next (if s.anchorLive q.key then State.grantParked n q.key (l.parked.length + 1) s else s)

/-- A deposit scans the parked copies and takes of its Drawer in park order (11 R273); the tuple that is left is stored. -/
def State.scanParked (n : Nat) (t : Tuple) (key : Nat) : List DReq → State → State × Bool
  | [], s => (s, false)
  | q :: rest, s =>
    if q.kind == 0 || q.key != key || !q.matches t then State.scanParked n t key rest s
    else
      let s := (s.updSlice n (fun l => { l with parked := l.parked.erase q })).drawerDeliver q t n
      if q.kind == 2 then (s.sendReturn n q (1 + t.plu), true) else State.scanParked n t key rest s

/-- A granted deposit arrives at its home slice; one granted before its Drawer was destroyed stores nothing after the sweep, even where the id
has been created again (11 R279). -/
def execHomeDeposit (slice : BitVec 7) (i : Nat) (s : State) : Out :=
  let n := slice.toNat
  let l := s.slice n
  match l.inDep[i]? with
  | none => .next s
  | some q =>
    let s := s.updSlice n (fun l => { l with inDep := l.inDep.eraseIdx i })
    if Tab.get l.live q.key != some q.inc then .next (s.drawerEnd q Cause.cmdInvalid 0)
    else
      let t := { q.tuple with seq := Tab.getD l.seqs q.key }
      let s := s.updSlice n (fun l => { l with seqs := Tab.set l.seqs q.key ((t.seq + 1) % 2 ^ 64) })
      let (s, taken) := State.scanParked n t q.key l.parked s
      let s := if taken then s else s.updSlice n (fun l => { l with bags := Tab.upd l.bags q.key (· ++ [t]) })
      .next (s.drawerEnd q 0 n)

/-- A copy or take arrives at its home slice (11 R274). -/
def execHomeMatch (slice : BitVec 7) (i : Nat) (s : State) : Out :=
  let n := slice.toNat
  let l := s.slice n
  match l.inMat[i]? with
  | none => .next s
  | some q =>
    let s := s.updSlice n (fun l => { l with inMat := l.inMat.eraseIdx i })
    if !(Tab.has l.live q.key) then .next (s.drawerEnd q Cause.cmdInvalid 0)
    else
      let bag : List Tuple := Tab.getD l.bags q.key
      match bag.find? q.matches with
      | some t =>
        let s := s.drawerDeliver q t n
        if q.kind == 2 then .next ((s.updSlice n (fun l => { l with bags := Tab.set l.bags q.key (bag.erase t) })).sendReturn n q (1 + t.plu))
        else .next s
      | none => if q.nowait then .next (s.drawerEnd q 0 0) else .next (s.drawerPark n q)

/-- A request sent back for a full table is sent again (11 R276). -/
def execDrawerResend (g : RegionNo) (i : Nat) (s : State) : Out :=
  match (s.reg g).resend[i]? with
  | none => .next s
  | some (n, q) =>
    let s := s.setReg g { s.reg g with resend := (s.reg g).resend.eraseIdx i }
    .next (s.updSlice n (fun l => if q.kind == 0 then { l with inRes := l.inRes ++ [q] } else { l with inMat := l.inMat ++ [q] }))

/-! ## Creating and destroying (11 R267, R278, R279) -/

/-- Capacity granted to live Drawers. -/
def State.drawerUnits (s : State) : Nat := (s.drawers.map (fun p => p.2.cap)).sum

/-- The cause for which a Drawer cannot be created. -/
def State.createFault (s : State) (key cap : Nat) : Option Byte :=
  if Tab.has s.drawers key || cap == 0 || cap > 524288 then some Cause.cmdInvalid
  else if s.drawers.length ≥ 4096 || s.drawerUnits + cap > 524288 then some Cause.outOfMemory
  else none

/-- A Drawer created at its anchor, its live marks sent to every slice. -/
def State.createDrawer (s : State) (ctxid did cap : Nat) (cmd : Option (RegionNo × Nat)) (host : Option Nat) : State :=
  let key := drawerKey ctxid did
  let s := { s with drawers := Tab.set s.drawers key { cap := cap, inc := s.tick, owed := 128, cmd := cmd, host := host } }
  let s := s.updSlice (anchorSlice did) (fun l => { l with cap := Tab.set l.cap key cap, count := Tab.set l.count key 0 })
  (List.range 128).foldl (fun s n => s.updSlice n (fun l => { l with inLive := l.inLive ++ [key] })) s

/-- A Drawer that is being destroyed holds a `dcreate` of its id, and one being created a `ddestroy` (log 54). -/
def State.drawerBusy (s : State) (key : Nat) : Bool := match Tab.get s.drawers key with
  | some d => d.owed != 0
  | none => false

/-- `dcreate`: VALUE is CAP. -/
def execDcreate (c : Frame) (s : State) : Out :=
  s.runCmd (fun g id m =>
    let did := c.handle.toNat
    let key := drawerKey m.ctxid did
    let cap := c.w0.toNat % 2 ^ 20
    if m.prog.stage != 0 || (s.drawerBusy key && !s.anchorLive key) then s
    else match s.createFault key cap with
      | some e => s.failCmd g id e
      | none => (s.progress g id (fun p => { p with stage := 1 })).createDrawer m.ctxid did cap (some (g, id)) none)

/-- A slice takes a live mark; with the last one the command completes. -/
def execDrawerLiveMark (slice : BitVec 7) (i : Nat) (s : State) : Out :=
  let n := slice.toNat
  match (s.slice n).inLive[i]? with
  | none => .next s
  | some key =>
    match Tab.get s.drawers key with
    | none => .next (s.updSlice n (fun l => { l with inLive := l.inLive.eraseIdx i }))
    | some d =>
      let s := s.updSlice n (fun l => { l with inLive := l.inLive.eraseIdx i, live := Tab.set l.live key d.inc })
      let s := { s with drawers := Tab.set s.drawers key { d with owed := d.owed - 1 } }
      if d.owed != 1 then .next s
      else
        let s := match d.cmd with
          | some (g, id) => s.endCmd g id 0 d.cap
          | none => s
        match d.host with
        | some k => .next (s.hostEffect k 0 d.cap)
        | none => .next s

/-- `ddestroy`. -/
def execDdestroy (c : Frame) (s : State) : Out :=
  s.runCmd (fun g id m =>
    let did := c.handle.toNat
    let key := drawerKey m.ctxid did
    let a := anchorSlice did
    if m.prog.stage != 0 then s
    else if !s.anchorLive key then s.failCmd g id Cause.cmdInvalid
    else if s.drawerBusy key then s
    else
      let mine (q : DReq) : Bool := q.kind == 0 && q.key == key
      let parked := (s.slice a).parked.filter mine
      let s := s.updSlice a (fun l => { l with parked := l.parked.filter (fun q => !mine q) })
      let s := parked.foldl (fun s q => s.drawerEnd q Cause.cmdInvalid 0) s
      let s := { s with drawers := Tab.upd s.drawers key (fun d => { d with dying := true, owed := 128, cmd := some (g, id), host := none }) }
      let s := s.progress g id (fun p => { p with stage := 1 })
      (List.range 128).foldl (fun s n => s.updSlice n (fun l => { l with inSweep := l.inSweep ++ [key] })) s)

/-- A sweep at a slice: bag, mark and parked requests of the Drawer go; with the last one the command completes. -/
def execDrawerSweep (slice : BitVec 7) (i : Nat) (s : State) : Out :=
  let n := slice.toNat
  match (s.slice n).inSweep[i]? with
  | none => .next s
  | some key =>
    let mine (q : DReq) : Bool := q.kind != 0 && q.key == key
    let parked := (s.slice n).parked.filter mine
    let s := s.updSlice n (fun l => { l with inSweep := l.inSweep.eraseIdx i, live := Tab.erase l.live key, bags := Tab.erase l.bags key,
                                             seqs := Tab.erase l.seqs key, parked := l.parked.filter (fun q => !mine q) })
    let s := parked.foldl (fun s q => s.drawerEnd q Cause.cmdInvalid 0) s
    match Tab.get s.drawers key with
    | none => .next s
    | some d =>
      if d.owed != 1 then .next { s with drawers := Tab.set s.drawers key { d with owed := d.owed - 1 } }
      else
        let a := anchorSlice (key % 65536)
        let s := { s with drawers := Tab.erase s.drawers key }
        let s := s.updSlice a (fun l => { l with cap := Tab.erase l.cap key, count := Tab.erase l.count key })
        match d.cmd with
        | some (g, id) => .next (s.endCmd g id 0 0)
        | none => .next s

/-! ## Deposits, copies, takes (11 R280) -/

/-- Eight 32-bit words from an offset. -/
def words8 (bs : List Byte) (at_ : Nat) : List W32 := (List.range 8).map (fun i => BitVec.ofNat 32 (leNat ((bs.drop (at_ + 4 * i)).take 4)))

/-- `ddeposit`: the record is read and the deposit sent to the anchor; the slices complete it. -/
def execDdeposit (c : Frame) (s : State) : Out :=
  s.runCmd (fun g id m =>
    let a := frameAddr c
    let did := c.handle.toNat
    let plu := c.w0.toNat % 16
    if m.prog.stage != 0 then s
    else match structFault a 32 with
      | some e => s.failCmd g id e
      | none => match s.eRead g id m a (32 + 32 * plu) with
        | (s, .error e) => s.onStop g id e 0 false
        | (s, .ok bs) =>
          let q : DReq := { kind := 0, did := did, ctxid := m.ctxid, g := g, cmd := id, nowait := c.cf.getLsbD 0, n := 1 + plu,
                            tuple := { f := words8 bs 0, pay := bs.drop 32, plu := plu } }
          (s.progress g id (fun p => { p with stage := 2 })).updSlice (anchorSlice did) (fun l => { l with inRes := l.inRes ++ [q] }))

/-- A copy or take: the request is checked and sent to its home slice; a delivered tuple is written and the response follows. -/
def State.drawerAsk (s : State) (c : Frame) (kind : Nat) : Out :=
  s.runCmd (fun g id m =>
    let a := frameAddr c
    let did := c.handle.toNat
    let modes := c.w0.toNat % 65536
    let maxp := c.w0.toNat / 65536 % 16
    if m.prog.stage == 3 then
      match s.eCheck g id m (a + 64) m.prog.hdr.length with
      | (s, .error e) => s.onStop g id e 0 true
      | (s, .ok ()) => match s.eWrite g id m (a + 64) m.prog.hdr with
        | (s, .error e) => s.onStop g id e 0 true
        | (s, .ok ()) => s.endCmd g id 0 m.prog.a
    else if m.prog.stage != 0 then s
    else match lowest [((structFault a 64).isSome, (structFault a 64).getD 0), (patternBad modes, Cause.drawerPattern)] with
      | some e => s.failCmd g id e
      | none => match s.eRead g id m a 64 with
        | (s, .error e) => s.onStop g id e 0 false
        | (s, .ok bs) => match s.eCheck g id m (a + 64) (32 + 32 * maxp) with
          | (s, .error e) => s.onStop g id e 0 true
          | (s, .ok ()) =>
            let v := words8 bs 0
            let q : DReq := { kind := kind, did := did, ctxid := m.ctxid, g := g, cmd := id, nowait := c.cf.getLsbD 0, modes := modes,
                              maxp := maxp, v := v, m := words8 bs 32 }
            (s.progress g id (fun p => { p with stage := 2 })).updSlice (homeSlice did (v.getD 0 0).toNat) (fun l =>
              { l with inMat := l.inMat ++ [q] }))

/-- `dcopy`. -/
def execDcopy (c : Frame) (s : State) : Out := s.drawerAsk c 1
/-- `dtake`. -/
def execDtake (c : Frame) (s : State) : Out := s.drawerAsk c 2

end Sys2Proof.Machine
end

