-- ==== Sys2Proof/Machine/Trestle.lean ====
section
/-!
DEFINITION. The chain walker: headers, steps, checks, what each step computes, its status words (14 R286 to R299).
-/

namespace Sys2Proof.Machine

/-! ## Headers and steps (14 R286, R287) -/

/-- A chain header. -/
structure Chain where
  input : Nat := 0
  ping  : Nat := 0
  pong  : Nat := 0
  r0    : Nat := 0
  size  : Nat := 0
  cb    : Nat := 0
  nstep : Nat := 0
  ncm   : Nat := 0
  acc   : Nat := 0
  rsvd  : Bool := false
  deriving DecidableEq, Repr, Inhabited

/-- The header in 64 bytes. -/
def Chain.of (h : List Byte) : Chain :=
  let w := word8 h
  { input := w 0, ping := w 1, pong := w 2, r0 := bits (w 3) 0 31, size := bits (w 3) 32 63, cb := w 4, nstep := bits (w 5) 48 63,
    ncm := bits (w 5) 40 47, acc := bits (w 5) 38 39, rsvd := bits (w 5) 0 37 != 0 || bits (w 6) 32 39 != 0 }

/-- A step descriptor. -/
structure ChainStep where
  kind : Nat := 0
  d    : Nat := 0
  bin  : Nat := 0
  bout : Nat := 0
  fmt  : Nat := 0
  sat  : Bool := false
  rsvd : Bool := false
  addr : Nat := 0
  deriving DecidableEq, Repr, Inhabited

/-- The descriptor in two words. -/
def ChainStep.of (w0 w1 : Nat) : ChainStep :=
  { kind := bits w1 60 63, d := bits w1 51 59, bin := bits w1 47 50, bout := bits w1 43 46, fmt := bits w1 39 42, sat := w1.testBit 38,
    rsvd := bits w1 0 37 != 0, addr := w0 }

/-- Whether two ranges share a byte. -/
def meet (a n b m : Nat) : Bool := a < b + m && b < a + n

/-- A base address of class 0x0 or 0xC that is a multiple of 128. -/
def baseOk (a : Nat) : Bool := (structFault a 128).isNone

/-- Whether R298 accepts a header. -/
def Chain.ok (h : Chain) (acc j0 : Nat) : Bool :=
  !h.rsvd && 1 ≤ h.nstep && h.nstep ≤ 4096 && h.r0 ≥ 1 && h.size % 16 == 0 && 16 ≤ h.size && h.size ≤ 2 ^ 32 - 16 && j0 < h.nstep
    && acc.testBit h.acc && baseOk h.input && baseOk h.ping && baseOk h.pong && !meet h.ping h.size h.pong h.size

/-! ## Checks of a step (14 R291) -/

/-- Order 1. -/
def ChainStep.formOk (t : ChainStep) (cb : Nat) : Bool :=
  !t.rsvd && (match t.kind with
    | 0 | 1 => 1 ≤ t.d && t.d ≤ 256 && t.fmt == 0 && !t.sat
    | 2 => t.d == 0 && t.fmt == 0 && !t.sat
    | 3 => t.d == 0 && t.bout == 0 && [6, 7, 9, 10, 11, 12].contains t.fmt && (!t.sat || [7, 9, 10, 11].contains t.fmt)
        && (t.fmt != 12 || cb != 0)
    | _ => false)

/-- Rows after a step. -/
def ChainStep.rows (t : ChainStep) (r : Nat) : Nat := match t.kind with
  | 0 => r / t.d
  | 1 => r * t.d
  | _ => r

/-- The source of a step with count n (14 R289). -/
def Chain.source (h : Chain) (n : Nat) : Nat := if n == 0 then h.input else if (n - 1) % 2 == 0 then h.ping else h.pong
/-- The buffer that a step with count n writes. -/
def Chain.target (h : Chain) (n : Nat) : Nat := if n % 2 == 0 then h.ping else h.pong

/-- Bytes that a FINAL may write (14 R291). -/
def finalBytes (fmt n : Nat) : Nat :=
  if fmt == 11 then 54 * ((n + 31) / 32) else if fmt == 12 then 18 * ((n + 31) / 32) else n * (Num.width fmt / 8)

/-- The first check that fails, in the order of R291, and NEED: R rows, χ columns of the boundary, none at a command's first step; the
values of the two bond registers. -/
def ChainStep.check (t : ChainStep) (h : Chain) (n r : Nat) (chi : Option Nat) (bin bout : Nat) : Option (Byte × Nat) :=
  let x := chi.getD bin
  let r' := t.rows r
  let x' := if t.kind ≤ 1 then bout else x
  let need := r' * x' * 4
  let wr : Nat × Nat := if t.kind == 3 then (t.addr, finalBytes t.fmt (r * x)) else (h.target n, need)
  if !t.formOk h.cb then some (Cause.cmdInvalid, 0)
  else if bin != x || (t.kind == 2 && bout != bin) then some (Cause.bondRange, 0)
  else if t.kind == 0 && r % t.d != 0 then some (Cause.cmdInvalid, 0)
  else match classFault t.addr with
    | some e => some (e, 0)
    | none =>
      if t.addr % 128 != 0 then some (Cause.misaligned, 0)
      else if t.kind != 3 && need > h.size then some (Cause.boundaryOverflow, need)
      else if meet (h.source n) (r * x * 4) wr.1 wr.2 then some (Cause.cmdInvalid, 0)
      else none

/-! ## What a step computes (14 R290) -/

/-- `contract` of an M × K matrix in FP32 and a K × N matrix in BF16, both row-major. -/
def contract (x y : List Nat) (m k n : Nat) : List Nat :=
  let one : Num.Val := .fin false 1 0 false
  (List.range m).flatMap (fun i => (List.range n).map (fun j =>
    (List.range ((k + 15) / 16)).foldl (fun acc b =>
      let ps := ((List.range 16).filter (fun q => 16 * b + q < k)).map (fun q =>
        (Num.value 7 (Num.roundFmt 7 (Num.value 6 (x.getD (i * k + 16 * b + q) 0)) 0 false 0), Num.value 7 (y.getD ((16 * b + q) * n + j) 0)))
      Num.mstep acc ps one one) 0))

/-- Elements of width w in bytes. -/
def elemsOf (w : Nat) (bs : List Byte) : List Nat := Num.elems w (8 * bs.length) (leNat bs)

/-- Bytes of elements of width w. -/
def bytesOf (w : Nat) (es : List Nat) : List Byte := natToBytes (es.length * w / 8) (Num.join w es)

/-- Groups of 32 values, the last completed with +0. -/
def groups32 (es : List Nat) : List (List Nat) :=
  (List.range ((es.length + 31) / 32)).map (fun i => (es.drop (32 * i) ++ List.replicate 32 0).take 32)

/-- The bytes that a FINAL writes. -/
def finalOut (fmt : Nat) (sat : Bool) (cb es : List Nat) : List Byte :=
  let rnd (ty v : Nat) : Nat := Num.roundFmt ty (Num.value 6 v) 0 sat 0
  match fmt with
  | 6 => bytesOf 32 es
  | 11 => (groups32 es).flatMap (fun g => (Num.bc8Encode (g.map (rnd 9))).map (BitVec.ofNat 8))
  | 12 => (groups32 es).flatMap (fun g => (Num.cb4Bytes (Num.cb4Quant (g.map (Num.value 6)) cb)).map (BitVec.ofNat 8))
  | ty => bytesOf (Num.width ty) (es.map (rnd ty))

/-- Bytes of the second operand of a step: the core or the scale vector. -/
def ChainStep.operandBytes (t : ChainStep) (chi chi' : Nat) : Nat :=
  if t.kind ≤ 1 then 2 * chi * t.d * chi' else if t.kind == 2 then 4 * chi else 0

/-- The element (a, i, c) of a core (14 R288). -/
def coreAt (g : List Nat) (d chi' a i c : Nat) : Nat := g.getD ((a * d + i) * chi' + c) 0

/-- The target of ABSORB, EMIT and SCALE. -/
def ChainStep.compute (t : ChainStep) (r chi chi' : Nat) (src op : List Byte) : List Byte :=
  let b := elemsOf 32 src
  match t.kind with
  | 0 =>
    let g := elemsOf 16 op
    let y := (List.range t.d).flatMap (fun i => (List.range chi).flatMap (fun a => (List.range chi').map (coreAt g t.d chi' a i)))
    bytesOf 32 (contract b y (r / t.d) (t.d * chi) chi')
  | 1 => bytesOf 32 (contract b (elemsOf 16 op) r chi (t.d * chi'))
  | _ =>
    let v := elemsOf 32 op
    bytesOf 32 ((List.zip (List.range b.length) b).map (fun e =>
      Num.roundFmt 6 (Num.mulV (Num.value 6 e.2) (Num.value 6 (v.getD (e.1 % chi) 0))) 0 false 0))

/-! ## The walker (14 R291 to R298) -/

/-- The step a captured command runs: descriptor, rows and columns before and after. -/
def Prog.chainStep (p : Prog) : ChainStep := ChainStep.of (p.tab.getD 0 0) (p.tab.getD 1 0)

/-- The command stops: status words are to be written before the response (14 R286, R292). -/
def State.chainStop (s : State) (g : RegionNo) (id : Nat) (cause : Byte) (value need : Nat) : State :=
  s.progress g id (fun p => { p with stage := 3, tab := [cause.toNat, value, need] })

/-- A cause that ends a chain command at an access (14 R292, R293, R298): of its header with no status written, of its status words with the
VALUE that it would have carried, of anything else at the step it is at. -/
def State.chainFail (s : State) (g : RegionNo) (id : Nat) (cause : Byte) : State :=
  let p := (s.cmd g id).prog
  match p.stage with
  | 0 => s.failCmd g id cause
  | 3 => s.endCmd g id cause (p.tab.getD 1 0)
  | _ => s.chainStop g id cause p.chunk 0

/-- A chain command stopped at an access: it parks at the start of its step or stops with the cause (14 R293). -/
def State.chainAccess (s : State) (g : RegionNo) (id : Nat) (t : Stop) (wr : Bool) : State :=
  match t with
  | .park f a e => s.parkCmd g id f a (e.getD (s.cmd g id).prog.chunk) wr
  | .fail c => s.chainFail g id c
  | .hold => s

/-- The start of a chain command: its header is read and checked (14 R298). -/
def State.chainBegin (s : State) (g : RegionNo) (id : Nat) (m : Cmd) (a j0 : Nat) : State :=
  let s := s.updCmd g id (fun c => { c with prog := { c.prog with chunk := j0 } })
  match structFault a 64 with
  | some e => s.failCmd g id e
  | none => match s.eRead g id m a 64 with
    | (s, .error e) => s.chainAccess g id e false
    | (s, .ok hb) =>
      let h := Chain.of hb
      if !h.ok (s.grant g m.x).acc j0 then s.failCmd g id Cause.cmdInvalid
      else s.progress g id (fun p => { p with stage := if j0 == 0 then 1 else 4, hdr := hb, chunk := 0, a := h.r0, b := 0, c := 0 })

/-- An earlier descriptor of a `chainstep` from step j0: orders 1 and 3 of R291; a failure stops the command there (14 R298). -/
def State.chainBefore (s : State) (g : RegionNo) (id : Nat) (m : Cmd) (a j0 : Nat) : State :=
  let h := Chain.of m.prog.hdr
  let j := m.prog.chunk
  let r := m.prog.a
  match s.eRead g id m (a + 64 + 16 * j) 16 with
  | (s, .error e) => s.chainAccess g id e false
  | (s, .ok bs) =>
    let t := ChainStep.of (word8 bs 0) (word8 bs 1)
    if !t.formOk h.cb || (t.kind == 0 && r % t.d != 0) then s.chainStop g id Cause.cmdInvalid j 0
    else s.progress g id (fun p => { p with stage := if j + 1 == j0 then 1 else 4, chunk := j + 1, a := t.rows r,
                                            c := if t.kind == 3 then p.c else p.c + 1 })

/-- Whether a matrix firing that started before the walker took the nodes has still to write `ta`, `tl` or an accumulator of one of them: the
walker starts its first step after it (log 6). -/
def Core.nodesBusy (k : Core) (m : Cmd) : Bool := match m.nodes with
  | some n => (List.range (n + 1)).any (fun c => k.nodeBusy (BitVec.ofNat 8 c) AccOp.holdsSwap)
  | none => false

/-- The walker starts a step: its descriptor and its bonds are read once and the checks made (14 R291; 06 R181). -/
def execChainStepStart (g : RegionNo) (id : Nat) (s : State) : Out :=
  let m := s.cmd g id
  let chain := m.code == 0x70 || m.code == 0x71
  let r := s.reg g
  if !(Tab.has r.core.cmds id) || !chain || !m.running || m.parked.isSome || m.prog.stage != 1 || !r.runs || r.core.nodesBusy m then .next s
  else
    let h := Chain.of m.prog.hdr
    let j := m.prog.chunk
    match s.eRead g id m (frameAddr (frameFields m.w) + 64 + 16 * j) 16 with
    | (s, .error e) => .next (s.chainAccess g id e false)
    | (s, .ok bs) =>
      let t := ChainStep.of (word8 bs 0) (word8 bs 1)
      let th := s.thread g m.x
      let bin := (th.bond (BitVec.ofNat 4 t.bin)).toNat
      let bout := (th.bond (BitVec.ofNat 4 t.bout)).toNat
      let rows := m.prog.a
      let chi := if m.prog.b == 0 then none else some m.prog.b
      match t.check h m.prog.c rows chi bin bout with
      | some (e, need) => .next (s.chainStop g id e j need)
      | none =>
        let x := chi.getD bin
        .next (s.progress g id (fun p => { p with stage := 2, tab := [word8 bs 0, word8 bs 1, x, if t.kind ≤ 1 then bout else x] }))

/-- The element of a step's result that a byte of its target belongs to: an FP32 value, a value of a FINAL's format, or a CB4 block. -/
def ChainStep.outElem (t : ChainStep) (b : Nat) : Nat :=
  if t.kind ≤ 2 || t.fmt == 6 then b / 4 else if t.fmt == 12 then b / 18 else b / (Num.width t.fmt / 8)

/-- Whether an element of the result depends on element j of the source (14 R290): x columns before the step, y after it. A BC8 token stands behind
all earlier ones. -/
def ChainStep.needsSrc (t : ChainStep) (x y e j : Nat) : Bool := match t.kind with
  | 0 => e / y == j / (t.d * x)
  | 1 => e / (t.d * y) == j / x
  | 2 => e == j
  | _ => t.fmt == 11 || e == (if t.fmt == 12 then j / 32 else j)

/-- Whether an element of the result depends on element j of the core or scale vector. -/
def ChainStep.needsOp (t : ChainStep) (x y e j : Nat) : Bool := match t.kind with
  | 0 => e % y == j % y
  | 1 => e % (t.d * y) == j % (t.d * y)
  | _ => e % x == j

/-- A step as it runs: its descriptor, rows and columns, and where its source, codebook, operand and target stand. -/
structure StepRun where
  t   : ChainStep := {}
  r   : Nat := 0
  x   : Nat := 0
  y   : Nat := 0
  src : Nat := 0
  cb  : Nat := 0
  dst : Nat := 0
  deriving DecidableEq, Repr, Inhabited

/-- The step that a chain command has started. -/
def Cmd.stepRun (m : Cmd) : StepRun :=
  let h := Chain.of m.prog.hdr
  let t := m.prog.chainStep
  { t := t, r := m.prog.a, x := m.prog.tab.getD 2 0, y := m.prog.tab.getD 3 0, src := h.source m.prog.c, cb := h.cb,
    dst := if t.kind == 3 then t.addr else h.target m.prog.c }

/-- Bytes of its source and of its codebook. -/
def StepRun.size (p : StepRun) : Nat := p.r * p.x * 4
def StepRun.book (p : StepRun) : Nat := if p.t.kind == 3 && p.t.fmt == 12 then 32 else 0

/-- Its reads: 0 of the source, 1 of the codebook, 2 of the core or scale vector. -/
def StepRun.reads (p : StepRun) : List EAcc :=
  let as_ (n : Nat) (es : List EAcc) : List EAcc := es.map (fun e => { e with tag := n })
  as_ 0 (readLines p.src p.size) ++ as_ 1 (readLines p.cb p.book) ++ as_ 2 (readLines p.t.addr (p.t.operandBytes p.x p.y))

/-- The bytes that it writes, of what it has read. -/
def StepRun.out (p : StepRun) (bs : List Byte) : List Byte :=
  if p.t.kind == 3 then finalOut p.t.fmt p.t.sat (elemsOf 16 ((bs.drop p.size).take p.book)) (elemsOf 32 (bs.take p.size))
  else p.t.compute p.r p.x p.y (bs.take p.size) (bs.drop (p.size + p.book))

/-- Whether what a read answers goes into the bytes of a write. -/
def StepRun.feeds (p : StepRun) (q w : EAcc) : Bool :=
  let es := ((List.range w.n).map (fun i => p.t.outElem (w.addr - p.dst + i))).eraseDups
  match q.tag with
  | 0 => (List.range (q.n / 4)).any (fun i => es.any (fun e => p.t.needsSrc p.x p.y e ((q.addr - p.src) / 4 + i)))
  | 1 => true
  | _ =>
    let k := if p.t.kind ≤ 1 then 2 else 4
    (List.range (q.n / k)).any (fun i => es.any (fun e => p.t.needsOp p.x p.y e ((q.addr - p.t.addr) / k + i)))

/-- A step's accesses and its result (14 R290, R293), each access a step of the machine (14 R295; 09 R229): they are taken in any order, but a write
starts once the reads that its bytes depend on have performed (log 94). -/
def State.chainStep (s : State) (g : RegionNo) (id : Nat) (m : Cmd) (j0 : Nat) : State :=
  let p := m.stepRun
  let j := m.prog.chunk
  let n := m.prog.c
  match (if p.book == 0 then none else structFault p.cb 32) with
  | some e => s.chainAccess g id (.fail e) false
  | none =>
    let got (e : EAcc) : List Byte := ((m.prog.find e).bind (·.got)).getD (List.replicate e.n 0)
    let writes := (writeLines p.dst (p.out (p.reads.flatMap got))).map (fun e => { e with tag := 3 })
    let may (e : EAcc) : Bool := e.wr.isNone || (m.prog.find e).isSome || p.reads.all (fun q => m.prog.did q || !p.feeds q e)
    match (p.reads ++ writes).filter (fun e => !m.prog.did e && may e) with
    | e :: rest =>
      let (i, s) := s.pick (rest.length + 1)
      let e := (e :: rest).getD i e
      let (s, t) := s.ioOne g id (fun s e => s.engStart g (.command g id) m e) e
      s.chainAccess g id t e.wr.isSome
    | [] =>
      let s := s.progress g id (fun q =>
        { q with stage := 1, chunk := j + 1, a := p.t.rows p.r, b := p.y, c := if p.t.kind == 3 then n else n + 1, tab := [] })
      if j + 1 ≥ (Chain.of m.prog.hdr).nstep then s.chainStop g id 0 ((Chain.of m.prog.hdr).nstep - j0) 0 else s

/-- The status words are written, then the response follows; the nodes are given up (14 R286, R292 to R294). -/
def State.chainStatus (s : State) (g : RegionNo) (id : Nat) (m : Cmd) (a : Nat) : State :=
  let cause := m.prog.tab.getD 0 0
  let value := m.prog.tab.getD 1 0
  let w6 := m.prog.chunk * 2 ^ 48 + cause * 2 ^ 40 + m.prog.a % 2 ^ 32
  match s.eWrite g id m (a + 48) (natToBytes 8 w6 ++ natToBytes 8 (m.prog.tab.getD 2 0 % 2 ^ 64)) with
  | (s, .error e) => s.chainAccess g id e true
  | (s, .ok ()) => s.endCmd g id (BitVec.ofNat 8 cause) value

/-- A step of a chain command from step j0. -/
def State.chainRun (s : State) (c : Frame) (j0 : Nat) : Out :=
  s.runCmd (fun g id m =>
    match m.prog.stage with
    | 0 => s.chainBegin g id m (frameAddr c) j0
    | 1 => s
    | 2 => s.chainStep g id m j0
    | 4 => s.chainBefore g id m (frameAddr c) j0
    | _ => s.chainStatus g id m (frameAddr c))

/-- `chainrun`: VALUE is NSTEP. -/
def execChainrun (c : Frame) (s : State) : Out := s.chainRun c 0
/-- `chainstep`: VALUE is NSTEP − j0. -/
def execChainstep (c : Frame) (s : State) : Out := s.chainRun c (c.w0.toNat % 65536)

end Sys2Proof.Machine
end

