-- ==== Sys2Proof/Machine/Waits.lean ====
section
/-!
DEFINITION. The waits of a region, as residency timers and hang reports see them, and the passing of time (16 R311, R314, R316;
17 R338, R339).
-/

namespace Sys2Proof.Machine

/-- A wait with the reporter code and the context of its agent (06 R192, 17 R339). -/
structure Waiter where
  w   : Wait := {}
  rep : BitVec 16 := 0
  x   : CtxNo := 0
  deriving DecidableEq, Repr, Inhabited

/-- Whether any access, command or port of the resident image is parked. -/
def Core.anyParked (k : Core) : Bool :=
  k.accs.any (fun a => match a.phase with | .parked .. => true | _ => false)
    || k.cmds.any (fun c => c.2.parked.isSome) || k.ports.any (fun e => e.2.parked.isSome)

/-- Whether anything of a region's resident image is parked, the writes of packets to its contexts among them. -/
def Region.anyParked (r : Region) : Bool := r.core.anyParked || r.arrivals.any (fun a => a.parked.isSome && (r.core.resident a.ctxid).isSome)

/-- Whether a group of a resident context of the region is paused (16 R316). -/
def Region.paused (r : Region) : Bool :=
  r.groups.any (fun e => e.2.paused.isSome && !e.2.table.isEmpty && r.core.grants.any (fun q => q.2.ctxid == e.1 / 65536))

/-- A slot held at a join: a marker stands at one of its positions and not at all (05 R162). The hold began when the marker was written;
one in a channel's FIFO counts as the oldest (log 44). -/
def State.joinHold (s : State) (g : RegionNo) (c : CellNo) (key : Nat) (t : Slot) : Option Waiter :=
  let l : SlotLoc := ⟨g, c, BitVec.ofNat 2 (key / 64), BitVec.ofNat 6 key⟩
  let ps := SlotRules.positions (fld t.word 55 9) (slotFields t.word)
  let heads := ps.map (s.headAt l)
  let marks := heads.filterMap (fun h => match h with
    | some (p, k) => if k.kind == .marker then some p else none
    | none => none)
  if t.word == 0 || marks.isEmpty || marks.length == ps.length then none
  else
    let since := marks.map (fun p => match p with
      | .res c n _ => (s.slotAt ⟨g, c, l.ctx, n⟩).res.seq
      | .chan _ => 0)
    some { w := { kind := 10, obj := (cellIdent g c).toNat + 65536 * (key % 64), since := (since.min?).getD 0 },
           rep := cellIdent g c, x := l.ctx }

/-- Whether a port is that of a halted thread, which is exempt from hang reports (06 R194). -/
def Core.haltedPort (k : Core) (p : AccPort) : Bool := match p with
  | .thread x => (Tab.getD k.threads x.toNat : Thread).halted
  | .slot .. => false

/-- Waits of the packets that a region holds for a group not yet created: on its links, and from regions of the package (13 R285). A packet
on a link names no context, and its wait is that of the region's first resident one (log 19). -/
def State.heldPackets (s : State) (g : RegionNo) : List Waiter :=
  let k := s.core g
  let at_ (f : Nat × Grant → Bool) : CtxNo := ((k.grants.find? f).map (fun e => BitVec.ofNat 2 e.1)).getD 0
  s.links.filterMap (fun l => match l.2.heldPk with
    | some (r, p, t) => if r == g then some { w := { kind := 12, obj := p.group.toNat + 65536 * (l.1 % 16), since := t }, x := at_ (fun _ => true) }
      else none
    | none => none)
  ++ (s.reg g).arrivals.filterMap (fun a =>
      if (Tab.get (s.reg g).groups (a.ctxid * 65536 + a.pk.group.toNat)).any (fun x => !x.table.isEmpty) then none
      else some { w := { kind := 12, obj := a.pk.group.toNat, since := a.since }, x := at_ (fun e => e.2.ctxid == a.ctxid) })

/-- Every wait that is outstanding in a region: of threads that are not halted, accesses, commands, ports, slots and held packets. -/
def State.waits (s : State) (g : RegionNo) : List Waiter :=
  let r := s.reg g
  let k := r.core
  let one (w : Option Wait) (rep : BitVec 16) (x : CtxNo) : List Waiter := (w.map (fun w => ⟨w, rep, x⟩)).toList
  k.threads.flatMap (fun e => if e.2.live && !e.2.halted then
      one e.2.wait (BitVec.ofNat 16 (0xC000 + e.1)) (BitVec.ofNat 2 e.1) else [])
    ++ k.accs.flatMap (fun a => if a.pending && !k.haltedPort a.port then one a.wait (match a.port with
        | .slot c _ _ => cellIdent g c
        | .thread x => BitVec.ofNat 16 (0xC000 + x.toNat)) a.ctx else [])
    ++ k.cmds.flatMap (fun c => if c.2.done then [] else one c.2.wait (cmdReporter c.2) c.2.x)
    ++ k.ports.flatMap (fun e => one e.2.wait (BitVec.ofNat 16 (0x8100 + e.1))
        (((k.grants.find? (fun q => q.2.kernel == e.2.kernel)).map (fun q => BitVec.ofNat 2 q.1)).getD 0))
    ++ k.cells.flatMap (fun c => c.2.slots.flatMap (fun t =>
        one t.2.held (cellIdent g (BitVec.ofNat 8 c.1)) (BitVec.ofNat 2 (t.1 / 64))
          ++ (s.joinHold g (BitVec.ofNat 8 c.1) t.1 t.2).toList))
    ++ s.heldPackets g

/-- The oldest of the waits. -/
def oldestWait : List Waiter → Option Waiter
  | [] => none
  | a :: r => match oldestWait r with
    | some b => if b.w.since < a.w.since then some b else some a
    | none => some a

/-- Whether the region schedulers take decisions: they stand still during a rebuild (19 R369). -/
def State.schedulersRun (s : State) : Bool := s.arm.rebuild == 0

/-- The timers of a region after some µs: the quantum timer counts while an image is resident and not paused, the residency timer while a
wait is outstanding, nothing is parked and no group is paused (16 R311, R314, R316). -/
def State.tickRegion (s : State) (us g : Nat) (r : Region) : Region :=
  if r.core.grants.isEmpty || r.paused || !s.schedulersRun then r
  else
    let r := { r with quantum := r.quantum + us }
    if r.anyParked || (s.waits (BitVec.ofNat 5 g)).isEmpty then r else { r with residency := r.residency + us }

/-- Time passes: nothing changes but clocks and timers (00 R9, 17 R338). -/
def State.elapse (s : State) (us : Nat) : State :=
  { s with now := s.now + us, regions := Tab.mapVal s.regions (fun g r => s.tickRegion us g r) }

end Sys2Proof.Machine
end

