-- ==== Sys2Proof/Machine/Sched.lean ====
section
/-!
DEFINITION. The block scheduler: staging, decisions, activation, admission of thread tokens (04 R111, R118; 06 R180; 09 R232; 16
R308 to R310).
-/

namespace Sys2Proof.Machine

/-! ## Staging (06 R180, 03 R103; log 26) -/

/-- The kernel of a resident context. -/
def State.kernelOf (s : State) (g : RegionNo) (x : CtxNo) : Kernel := Tab.getD s.kernels (s.grant g x).kernel
/-- The scheduler of a resident context. -/
def State.sched (s : State) (g : RegionNo) (x : CtxNo) : Sched := Tab.getD (s.core g).sched x.toNat

/-- The resident context of the same kernel with a kernel-relative number. -/
def Core.sibling (k : Core) (x : CtxNo) (krel : Nat) : CtxNo :=
  let n := (Tab.getD k.grants x.toNat).kernel
  ((k.grants.find? (fun e => e.2.kernel == n && e.2.krel == krel)).map (fun e => BitVec.ofNat 2 e.1)).getD x
/-- The same in a region. -/
def State.sibling (s : State) (g : RegionNo) (x : CtxNo) (krel : Nat) : CtxNo := (s.core g).sibling x krel

/-- The resident context that a thread's block belongs to: that of its records (log 26). -/
def State.blockCtx (s : State) (g : RegionNo) (x : CtxNo) (b : Nat) : CtxNo :=
  s.sibling g x (cfgCtx (s.kernelOf g x).image (s.grant g x).kreg b)

/-- The thread of a resident context's kernel in its region. -/
def State.threadOf (s : State) (g : RegionNo) (x : CtxNo) : CtxNo := s.sibling g x 0

/-- Whether another resident context's active configuration holds a channel of a configuration: it is then activated later (log 27). -/
def Core.chanClash (k : Core) (x : CtxNo) (c : Cfg) : Bool :=
  k.sched.any (fun e => e.1 != x.toNat && e.2.loaded.chans.any (fun h => c.chans.any (fun d => d.1 == h.1 && dEN d.2)))

/-- The image's configuration of a block, checked for a resident context (03 R103). -/
def State.imageBlock (s : State) (g : RegionNo) (x : CtxNo) (b : Nat) : Except Nat Cfg :=
  imageCfg (s.kernelOf g x).image (s.grant g x).kreg b ((s.grant g x).env g)

/-- A block staged, by `cfgput` or from the image: its configuration is loaded (05 R160). -/
def State.stage (s : State) (g : RegionNo) (x : CtxNo) (b : Nat) (c : Cfg) (put : Bool) : State :=
  s.updSched g x (fun t => { t with staged := Tab.set t.staged b c, fresh := b :: t.fresh.erase b,
                                    put := if put then b :: t.put.erase b else t.put.erase b })

/-- A block staged from the image by `cfgload`: an active one that was last staged so is the same, and nothing changes (06 R180). -/
def State.stageImage (s : State) (g : RegionNo) (x : CtxNo) (b : Nat) (c : Cfg) : State :=
  let sc := s.sched g x
  if sc.active == some b && Tab.get sc.staged b == some c && !sc.put.contains b then s else s.stage g x b c false

/-- `cfgload` (06 R180). -/
def execCfgload (b : BitVec 4) (s : State) : Out :=
  s.issueProg [] (fun g x t =>
    let n := b.toNat
    if n ≥ hNBLK (s.kernelOf g x).image then s.trapEntry g x Cause.illegal (BitVec.ofNat 64 n) t.pc
    else
      let y := s.blockCtx g x n
      match s.imageBlock g y n with
      | .error i => s.trapEntry g x Cause.cfgBadSlot (BitVec.ofNat 64 i) t.pc
      | .ok c => (s.stageImage g y n c).updThread g x Thread.step)

/-- `cfggo`: the block is staged if it is not, becomes the next choice, and the word waits until it is active (06 R180). -/
def execCfggo (b : BitVec 4) (s : State) : Out :=
  s.issueProg [] (fun g x t =>
    let n := b.toNat
    if n ≥ hNBLK (s.kernelOf g x).image then s.trapEntry g x Cause.illegal (BitVec.ofNat 64 n) t.pc
    else
      let y := s.blockCtx g x n
      let sc := s.sched g y
      if sc.active == some n then s.updThread g x Thread.step
      else if t.going == some n then s
      else
        let go (s : State) : State :=
          ((s.updSched g y (fun c => { c with forced := some n })).waitTh g x 14 n 0xFF).updThread g x (fun t => { t with going := some n })
        if Tab.has sc.staged n then go s
        else match s.imageBlock g y n with
          | .error i => s.trapEntry g x Cause.cfgBadSlot (BitVec.ofNat 64 i) t.pc
          | .ok c => go (s.stage g y n c false))

/-! ## Quiescence (16 R309; log 28) -/

/-- Whether the context of a region runs: neither frozen nor stopped, nor being stopped. -/
def State.ctxRuns (s : State) (g : RegionNo) (x : CtxNo) : Bool :=
  (s.reg g).runs && !(Tab.getD (s.core g).frozen x.toNat) && !(Tab.getD (s.core g).stopped x.toNat) && !(s.core g).passingCtx x

/-- Whether a cell access of a resident context has performed and its result is still to be delivered. -/
def Core.accOwed (k : Core) (x : CtxNo) : Bool := k.accs.any (fun a => a.cell?.isSome && a.ctx == x && (match a.phase with
  | .performed _ => true
  | _ => false))

/-- Whether the active block of a context is quiescent: no result of a started firing or access is still to be delivered either. A token on its way
is none of the rule's conditions (log 28). -/
def State.quiescent (s : State) (g : RegionNo) (x : CtxNo) : Bool :=
  let k := s.core g
  (s.sched g x).batch.isEmpty && k.quiet x && !k.cellsOut x && !k.accOwed x
    && !k.cells.any (fun c => c.2.slots.any (fun t => t.1 / 64 == x.toNat
      && s.canFire ⟨g, BitVec.ofNat 8 c.1, x, BitVec.ofNat 6 t.1⟩ t.2))

/-! ## Decisions (16 R309) -/

/-- Entry queue of a block. -/
def Sched.queue (c : Sched) (b : Nat) : List (List (BitVec 16)) := Tab.getD c.queues b
/-- The counter W of a block. -/
def Sched.passed (c : Sched) (b : Nat) : Nat := Tab.getD c.w b

/-- Whether a block goes before another: higher value, then lower stage, then lower id. -/
def ahead (value stage : Nat → Nat) (a b : Nat) : Bool :=
  value a > value b || (value a == value b && (stage a < stage b || (stage a == stage b && a < b)))

/-- The first of blocks in an order. -/
def firstBlock (lt : Nat → Nat → Bool) : List Nat → Option Nat
  | [] => none
  | b :: r => match firstBlock lt r with
    | some c => if lt c b then some c else some b
    | none => some b

/-- The scheduler's own choice: a block passed over 48 times, else the block with the most waiting tokens. -/
def Sched.choice (c : Sched) (stage : Nat → Nat) : Option Nat :=
  let bs := (List.range 16).filter (fun b => !(c.queue b).isEmpty)
  (firstBlock (ahead c.passed stage) (bs.filter (fun b => c.passed b ≥ 48))).or
    (firstBlock (ahead (fun b => (c.queue b).length) stage) bs)

/-- A decision for a block: its W returns to 0, that of every other block with waiting tokens rises. -/
def Sched.decide (c : Sched) (b : Nat) (force : Bool) : Sched :=
  let w := (List.range 16).foldl (fun w i =>
    if i == b then Tab.set w i 0 else if (c.queue i).isEmpty then w else Tab.set w i (c.passed i + 1)) c.w
  { c with w := w, chosen := some b, force := force, forced := if force then none else c.forced }

/-- The stage of a block: that of its staged configuration, else of the image's records. -/
def State.stageOf (s : State) (g : RegionNo) (x : CtxNo) (b : Nat) : Nat :=
  match Tab.get (s.sched g x).staged b with
  | some c => c.stage
  | none => cfgStage (s.kernelOf g x).image (s.grant g x).kreg b

/-- Slots of a resident context: 64 × cell + slot. -/
def Core.ctxSlots (k : Core) (x : CtxNo) : List (Nat × Slot) :=
  k.cells.flatMap (fun c => (c.2.slots.filter (fun e => e.1 / 64 == x.toNat)).map (fun e => (64 * c.1 + e.1 % 64, e.2)))

/-- No slot of a resident context holds a word. -/
def Core.clearSlots (k : Core) (x : CtxNo) : Core :=
  { k with cells := Tab.mapVal k.cells (fun _ c => { c with slots := c.slots.filter (fun e => e.1 / 64 != x.toNat) }) }

/-- Slots of a resident context put in place. -/
def Core.putSlots (k : Core) (x : CtxNo) (ts : List (Nat × Slot)) : Core :=
  { k with cells := ts.foldl (fun cs e => Tab.upd cs (e.1 / 64) (fun c => { c with slots := Tab.set c.slots (64 * x.toNat + e.1 % 64) e.2 })) k.cells }

/-- The active configuration of a context ends: the state of its slots is kept with its block, but for the ranges of its `own` slots, which end
(05 R156), and with it the accesses performed and not delivered; thread tokens not admitted return to their queue (log 29). -/
def Core.deactivate (k : Core) (x : CtxNo) : Core :=
  let sc : Sched := Tab.getD k.sched x.toNat
  let mine (a : Acc) : Bool := a.cell?.isSome && a.ctx == x && !a.pending
  let sc' : Sched := match sc.active with
    | some b => { sc with kept := Tab.set sc.kept b ((k.ctxSlots x).map (fun e => (e.1, { e.2 with own := none }))), keptAccs := Tab.set sc.keptAccs b (k.accs.filter mine),
                          queues := Tab.set sc.queues b (sc.batch ++ sc.queue b) }
    | none => sc
  let k := k.clearSlots x
  { k with accs := k.accs.filter (fun a => !mine a), sched := Tab.set k.sched x.toNat { sc' with active := none, batch := [], loaded := {} } }

/-- A decision of the block scheduler (16 R309, 06 R180): with every queue empty no block is active. -/
def execBlockDecision (g : RegionNo) (x : CtxNo) (s : State) : Out :=
  let sc := s.sched g x
  if !Tab.has (s.core g).grants x.toNat || !s.schedulersRun || !s.ctxRuns g x || sc.chosen.isSome then .next s
  else match sc.forced with
    | some b => .next (s.updSched g x (fun c => c.decide b true))
    | none =>
      if sc.active.isSome && !s.quiescent g x then .next s
      else match sc.choice (s.stageOf g x) with
        | some b => .next (s.updSched g x (fun c => c.decide b false))
        | none => .next (if sc.active.isSome then s.updCore g (fun k => k.deactivate x) else s)

/-! ## Activation (04 R111; 09 R232; 16 R305, R309, R310) -/

/-- Whether a channel holds anything. -/
def Core.chanBusy (k : Core) (n : Nat) (c : Chan) : Bool :=
  decide (c ≠ { desc := c.desc, entry := c.entry }) || k.flits.any (fun f => f.ch == n)

/-- A channel moved to another key, its flits with it. -/
def Core.moveChan (k : Core) (a b : Nat) : Core :=
  match Tab.get k.chans a with
  | some c => { k with chans := Tab.set (Tab.erase k.chans a) b c,
                       flits := k.flits.map (fun f => if f.ch == a then { f with ch := b } else f) }
  | none => k

/-- A channel of a configuration loaded: one with the same words stands as it is; one with others that still holds tokens is set aside
until its own configuration is active again (16 R310). Its CTX receives the resident number of the kernel-relative context that it names
(03 R102, 16 R304). -/
def Core.loadChan (k : Core) (x : CtxNo) (filters : List (Nat × W64)) (e : Nat × W64) : Core :=
  let n := e.1
  let d : W64 := (e.2 &&& ~~~(3#64 <<< 24)) ||| ((k.sibling x (dCTX e.2).toNat).zeroExtend 64 <<< 24)
  let entry : W64 := Tab.getD filters (filtKey e.2)
  let same (c : Chan) : Bool := c.desc == d && c.entry == entry
  let back (k : Core) : Core :=
    match k.chans.find? (fun h => h.1 ≥ 128 && h.1 % 128 == n && same h.2) with
    | some h => k.moveChan h.1 n
    | none => { k with chans := Tab.set k.chans n { desc := d, entry := entry } }
  match Tab.get k.chans n with
  | some c =>
    if same c then k
    else if k.chanBusy n c then
      let j := ((List.range (k.chans.length + 1)).find? (fun j => !Tab.has k.chans (128 * (1 + j) + n))).getD 0
      back (k.moveChan n (128 * (1 + j) + n))
    else back k
  | none => back k

/-- A slot at an activation: what was kept of it, with RC = 0 where its configuration has been loaded since (05 R160), and one firing more
for a slot that reads no token position; an `iter` whose last sequence has still to end, marker included, or to emit its first value, starts
none (04 R111, R117). Of a configuration that was replaced meanwhile, a slot whose word is the same keeps its state and every other slot starts
empty (log 84). -/
def activatedSlot (kept : List (Nat × Slot)) (loaded : Bool) (e : Nat × W64) : Nat × Slot :=
  let t : Slot := match Tab.get kept e.1 with
    | some t => if t.word == e.2 then (if loaded then { t with rc := 0 } else t) else { word := e.2 }
    | none => { word := e.2 }
  let op := fld e.2 55 9
  let busy := op == 0x007 && (t.iter.isSome || t.after.isSome || t.pend > 0)
  let once := (SlotRules.positions op (slotFields e.2)).isEmpty && op != 0x008 && !busy
  (e.1, if once then { t with pend := t.pend + 1 } else t)

/-- Whether a configuration holds a `tid` slot. -/
def Cfg.hasTid (c : Cfg) : Bool := c.slots.any (fun e => fld e.2 55 9 == 0x008#9)

/-- A configuration becomes the active one of a context, with its entry queue as the batch. -/
def Core.activate (k : Core) (x : CtxNo) (b : Nat) (c : Cfg) : Core :=
  let k := (k.deactivate x).bumpPhase x
  let sc : Sched := Tab.getD k.sched x.toNat
  let kept : List (Nat × Slot) := Tab.getD sc.kept b
  let k := k.putSlots x ((c.slots.filter (fun e => e.2 != 0)).map (activatedSlot kept (sc.fresh.contains b)))
  let k := c.chans.foldl (fun k e => k.loadChan x c.filters e) k
  let accs := ((Tab.getD sc.keptAccs b : List Acc)).filter (fun a => match a.port with
    | .slot cell _ n => c.slots.any (fun e => e.1 == 64 * cell.toNat + n.toNat && (Tab.get kept e.1).any (fun t => t.word == e.2))
    | .thread _ => false)
  let sc := { sc with active := some b, loaded := c, chosen := none, force := false, staged := Tab.set sc.staged b c, fresh := sc.fresh.erase b,
                      batch := if c.hasTid then sc.queue b else [], queues := Tab.set sc.queues b [],
                      kept := Tab.erase sc.kept b, keptAccs := Tab.erase sc.keptAccs b }
  { k with filters := c.filters.foldl (fun f e => Tab.set f e.1 e.2) k.filters, accs := accs ++ k.accs,
           sched := Tab.set k.sched x.toNat sc }

/-- A thread that waits in `cfggo` for a block goes on. -/
def State.goneTo (s : State) (g : RegionNo) (x : CtxNo) (b : Nat) : State :=
  if (s.thread g x).going == some b && s.blockCtx g x b == x then s.updThread g x Thread.step
  else
    let y := s.threadOf g x
    if (s.thread g y).going == some b && s.blockCtx g y b == x then s.updThread g y Thread.step else s

/-- The chosen configuration becomes active (09 R232): every access of the previous one has performed and, for one that `cfggo` forces,
every access of its thread. A configuration that is first staged now and rejected ends its kernel (16 R305). -/
def execActivate (g : RegionNo) (x : CtxNo) (s : State) : Out :=
  let k := s.core g
  let sc := s.sched g x
  match sc.chosen with
  | none => .next s
  | some b =>
    let cfg : Except Nat Cfg := match Tab.get sc.staged b with
      | some c => .ok c
      | none => s.imageBlock g x b
    if !s.ctxRuns g x || k.cellsOut x || !k.quiet x || (sc.force && !k.threadDone (s.threadOf g x)) then .next s
    else match cfg with
      | .error i =>
        .next ((s.stopThread g (s.threadOf g x) Cause.cfgBadSlot (BitVec.ofNat 64 i)).updSched g x (fun c => { c with chosen := none }))
      | .ok c =>
        if k.chanClash x c then .next s
        else .next (((s.stamp g).updCore g (fun k => k.activate x b c)).goneTo g x b)

/-- The next thread token of the batch is admitted to every `tid` slot once none of them holds a result (04 R111, R118). -/
def execThreadTokenAdmit (g : RegionNo) (x : CtxNo) (s : State) : Out :=
  let k := s.core g
  let sc := s.sched g x
  let tids := (k.ctxSlots x).filter (fun e => fld e.2.word 55 9 == 0x008#9)
  match sc.batch with
  | [] => .next s
  | c :: rest =>
    if !s.ctxRuns g x || sc.active.isNone || tids.any (fun e => !e.2.res.empty) then .next s
    else .next ((s.updCore g (fun k => k.putSlots x (tids.map (fun e => (e.1, { e.2 with tids := e.2.tids ++ [c] }))))).updSched g x
      (fun c => { c with batch := rest }))

end Sys2Proof.Machine
end

