-- ==== Sys2Proof/Machine/Images.lean ====
section
/-!
DEFINITION. Region images: priority and quantum, whole-region switches, gang pauses, gating, residency timers, the drain, `pmark` (16
R307, R311 to R316, R321; 17 R342; 07 R215 to R217; 14 R296; log 30 to 33).
-/

namespace Sys2Proof.Machine

/-! ## Priority and readiness (16 R311) -/

/-- The highest PRIO of a set of threads. -/
def Core.prio (k : Core) : Nat := ((k.threads.filter (fun e => e.2.live)).map (fun e => e.2.prio.toNat)).foldl max 0
/-- The lowest QUANT of a set of threads, each as it was when the quantum began (06 R168). -/
def Core.quant (k : Core) : Nat := (((k.threads.filter (fun e => e.2.live)).map (fun e => e.2.quantNow.toNat)).min?).getD 2000
/-- A quantum begins: what has been written to QUANT takes effect (06 R168). -/
def Core.newQuantum (k : Core) : Core := { k with threads := Tab.mapVal k.threads (fun _ t => { t with quantNow := t.quant }) }
/-- Whether a saved image is ready: it holds a thread that is not halted, or a SNAPSHOT restores it (16 R303), and neither gating nor a drain keeps it. -/
def Image.isReady (i : Image) : Bool := !i.gated && !i.drained && !i.snap && (i.due || i.core.threads.any (fun e => e.2.live && !e.2.halted))

/-- The ready image of the highest priority; among equals the one ready longest, then the first. -/
def bestImage : List (Nat × Image) → Option (Nat × Image)
  | [] => none
  | a :: r => match bestImage r with
    | some b => if !a.2.isReady then some b
        else if b.2.core.prio > a.2.core.prio || (b.2.core.prio == a.2.core.prio && b.2.since < a.2.since) then some b else some a
    | none => if a.2.isReady then some a else none

/-- The ready image that a region would switch to. -/
def Region.best (r : Region) : Option (Nat × Image) := bestImage (List.zip (List.range r.images.length) r.images)

/-! ## Deciding a switch (16 R311, R315, R316) -/

/-- The running `nsend`s of the resident image, by group. -/
def Core.sends (k : Core) : List Nat :=
  (k.cmds.filter (fun e => e.2.running && e.2.code == 0x51)).map (fun e => grpKey e.2.ctxid e.2.handle)

/-- Whether the pause of a group lets its region leave: every member has reported, or this member of a gang has. -/
def Group.settled (x : Group) : Bool :=
  x.paused.isSome && (if x.switching then x.reported.length ≥ x.table.length else x.gang && x.owes == 0)

/-- The groups that a switch waits for: those with an `nsend` in progress, and those of a gang pause of a resident context (16 R315, R316). -/
def Region.held (r : Region) : List Nat :=
  (r.core.sends ++ (r.groups.filter (fun e => e.2.gang && r.core.grants.any (fun q => q.2.ctxid == e.1 / 65536))).map (fun e => e.1)).eraseDups

/-- A switch goes on: a pause begins for each group with an `nsend` in progress, and once all are settled the image leaves. -/
def State.tryLeave (s : State) (g : RegionNo) : State :=
  let r := s.reg g
  if !r.switching || r.leaving then s
  else
    let s := r.core.sends.foldl (fun s key => match (s.reg g).group? key with
      | some x => if x.paused.isSome || s.firstUnknown g key then s
          else
            let s := s.updGroup g key (fun x => { x with switching := true })
            match (s.reg g).group? key with
            | some x => (s.beginPause g key x).1
            | none => s
      | none => s) s
    let r := s.reg g
    if r.held.all (fun key => match r.group? key with
      | some x => x.settled
      | none => true) then s.setReg g { r with leaving := true } else s

/-- A region decides to switch out its image; `gang` makes every member save as well. -/
def State.startSwitch (s : State) (g : RegionNo) (gang : Bool) : State :=
  let s := if gang then (s.core g).sends.foldl (fun s key => s.updGroup g key (fun x => { x with gang := true })) s else s
  (s.setReg g { s.reg g with switching := true }).tryLeave g

/-- Whether a region may decide a switch: it holds an image, none is under way and no group keeps it. -/
def State.maySwitch (s : State) (g : RegionNo) : Bool :=
  let r := s.reg g
  s.schedulersRun && !r.core.grants.isEmpty && !r.switching && !r.leaving && !r.paused

/-- The control blocks of a core's contexts written, as a quantum of it begins (19 R366). -/
def State.syncGrants (s : State) (k : Core) : State := ((k.grants.map (fun e => e.2.ctxid)).eraseDups).foldl State.syncParam s

/-- The end of the resident image's quantum. -/
def State.endQuantum (s : State) (g : RegionNo) : State × Bool :=
  let r := s.reg g
  let again := (s.setReg g { r with quantum := 0, core := r.core.newQuantum }).syncGrants r.core
  match r.best with
  | some (_, i) => if i.core.prio ≥ r.core.prio && s.maySwitch g then (s.startSwitch g false, true) else (again, false)
  | none => (again, false)

/-- The quantum runs out. -/
def execQuantumEnd (g : RegionNo) (s : State) : Out :=
  let r := s.reg g
  .next (if s.maySwitch g && r.quantum ≥ r.core.quant then (s.endQuantum g).1 else s)

/-- What an event at a stream changes: state, offsets and reader slots. -/
def Scb.face (b : Scb) : List Nat := [b.state, b.hwm, b.tail] ++ b.readers.flatMap (fun r => [r.1, r.2.agent, r.2.pos, r.2.rel])

/-- The packets of a group at a region: contributions, arrivals and those in receive buffers. -/
def State.groupPks (s : State) (g : RegionNo) (key : Nat) : List Contrib × List Arrival × List Packet :=
  let r := s.reg g
  (r.contribs.filter (fun c => c.grp == key), r.arrivals.filter (fun a => a.ctxid * 65536 + a.pk.group.toNat == key),
    s.links.filterMap (fun l => match l.2.heldPk with
      | some (h, p, _) => if h == g && p.group.toNat == key % 65536 then some p else none
      | none => none))

/-- The tokens that stand at ports of other regions toward the ports of a core (03 R102 KIND 1). -/
def State.joinedHeads (s : State) (g : RegionNo) (k : Core) : List (Option Token) :=
  (k.chans.filter (fun e => dEN e.2.desc && dSRC e.2.desc ≥ 256)).map (fun e =>
    ((s.upstream g (dSRC e.2.desc % 64) (Tab.getD k.grants (dCTX e.2.desc).toNat : Grant).kernel).bind (fun u => (s.core u.1).headToward u.2)).map (·.2))

/-- What waits of a region name, with the contents of its image (16 R314). -/
def State.watch (s : State) (g : RegionNo) (ws : List Waiter) (ctxidOf : CtxNo → Nat) (k : Core) : Watch :=
  let names := ((ws.filter (fun w => 1 ≤ w.w.kind && w.w.kind ≤ 5)).map (fun w => scbKey (ctxidOf w.x) (bits w.w.obj 48 59))).eraseDups
  let keys := ((ws.filter (fun w => w.w.kind == 12)).map (fun w => grpKey (ctxidOf w.x) (w.w.obj % 65536))).eraseDups
  { core := k, faces := names.map (fun n => (n, (s.scb n).face)), groups := keys.map (fun n => (n, s.groupPks g n)),
    joined := if ws.any (fun w => w.w.kind == 10) then some (s.joinedHeads g k) else none }

/-- Whether an event that a wait of a gated image names has happened: something of the image has changed, such as a command that has ended,
a stream has moved, a packet of a group has come or gone, or, where a join is held, a token has come to a port that joins one of the
image's or on a Voing channel (16 R314; log 32). -/
def State.woken (s : State) (g : RegionNo) (w : Watch) (k : Core) (called : Bool) : Bool :=
  decide (k ≠ w.core) || w.faces.any (fun f => (s.scb f.1).face != f.2) || w.groups.any (fun p => s.groupPks g p.1 != p.2)
    || (match w.joined with
      | some l => called || s.joinedHeads g k != l
      | none => false)

/-- The hang reports without those of a region's image, whose waits have ended. -/
def State.dropHangs (s : State) (g : RegionNo) (k : Core) : State :=
  { s with hangs := s.hangs.filter (fun h => !(h.g == g && k.grants.any (fun e => e.2.ctxid == h.ctxid))) }

/-- An image becomes ready, after an event that one of its saved waits names or once its parked accesses are released; one of a higher
priority than the resident image's makes the region switch at once (16 R311, R314; 17 R342). -/
def execImageReady (g : RegionNo) (i : Nat) (s : State) : Out :=
  let r := s.reg g
  match r.images[i]? with
  | none => .next s
  | some im =>
    let freed := im.drained && !im.core.anyParked && !im.core.grants.any (fun e => r.hopParked e.2.ctxid)
    let event := im.gated && s.woken g im.watch im.core im.called
    let wake := event || freed
    let s := if event then s.dropHangs g im.core else s
    let im := { im with gated := im.gated && !event, drained := im.drained && !freed, since := if wake then s.now else im.since }
    let s := s.setReg g { r with images := r.images.set i im }
    .next (if im.isReady && im.core.prio > r.core.prio && s.maySwitch g then s.startSwitch g false else s)

/-- `pmark` ends the quantum; its response follows the next restore, or at once with no switch (16 R321). A switch already under way is one
that follows. -/
def execPmark (_c : Frame) (s : State) : Out :=
  s.runCmd (fun g id m =>
    if m.prog.stage != 0 then s
    else
      let s := s.progress g id (fun p => { p with stage := 1 })
      if (s.reg g).switching then s
      else match s.endQuantum g with
      | (s, true) => s
      | (s, false) => s.endCmd g id 0 0)

/-! ## Saving (16 R312; 05 R136; 07 R217; 14 R296) -/

/-- Whether a region can be saved now: every started firing has written and no microprogram run is due. -/
def Region.settled (r : Region) : Bool :=
  r.core.cells.all (fun c => c.2.flights.isEmpty) && r.micro.queue.isEmpty && !r.micro.running

/-- A command as it is saved: a copy parks at its progress point, a chain command at the start of its step (10 R244, 14 R296). Any other keeps
its place; an access of it that has not performed is not started. -/
def Cmd.save (c : Cmd) : Cmd :=
  if !c.running then c
  else if c.isCopy then { c with wait := none, prog := c.prog.restart c.code }
  else if c.code == 0x70 || c.code == 0x71 then { c with prog := c.prog.restart c.code }
  else { c with prog := { c.prog with io := c.prog.io.filter (fun a => a.got.isSome) } }

/-- What is saved of a region: threads at a word boundary, accesses not performed as not started. A line of an access that has performed is
not repeated (05 R136). A thread at a parked access stays there: the access is issued again after restore and completes its word (06 R171). -/
def Core.save (k : Core) : Core :=
  { k with threads := Tab.mapVal k.threads (fun _ t => if t.live then { t.haltWord with hold := t.hold } else t),
           accs := k.accs.map (fun a => if a.pending then { a with wait := none } else a),
           cmds := Tab.mapVal k.cmds (fun _ c => c.save), swept := [], passing := k.passing.map (fun p => (p.1, [])),
           ports := Tab.mapVal k.ports (fun _ e => { e with wait := none, ask := if e.ask == 1 then 0 else e.ask,
                                                            work := e.work.map (fun w => { w with io := w.io.filter (fun q => q.got.isSome) }) }), frozen := [] }

/-- A stream without the waits of a core's accesses, ports and copies, whose every wait starts again after restore: the ports of the kernels that its
grants name. -/
def Scb.forget (b : Scb) (g : RegionNo) (k : Core) : Scb :=
  let acc (r : RegionNo) (id : Nat) : Bool := r == g && k.accs.any (fun a => a.id == id)
  let port (r : RegionNo) (p : Nat) : Bool := r == g && k.grants.any (fun e => e.2.kernel == (Tab.getD k.ports p : EdgePort).kernel && Tab.has k.ports p)
  { b with waits := b.waits.filter (fun w => match w.who with
             | .acc r id => !acc r id
             | .port r p => !port r p
             | .root => true
             | .cmd r id => !(r == g && (match Tab.get k.cmds id with | some c => c.isCopy | none => false))),
           waiting := b.waiting.filter (fun w => match w.1 with
             | .acc r id => !acc r id
             | .port r p => !port r p
             | _ => true) }

/-- Whether a bank byte lies in a lease of a region's contexts. -/
def Core.leased (k : Core) (g : RegionNo) (a : Nat) : Bool :=
  a / 2 ^ 24 == g.toNat && k.grants.any (fun e => e.2.base * 4096 ≤ a % 65536 && a % 65536 < (e.2.base + e.2.lease) * 4096)

/-- Bank bytes of a region. -/
def regionBanks (g : RegionNo) (a : Nat) : Bool := a / 2 ^ 24 == g.toNat

/-- A region is power-gated and keeps no state: it wakes as it stood after the boot, with the codebooks and the microprogram store that the service
image supplies (16 R307; 19 R355; log 31). -/
def State.powerOff (s : State) (g : RegionNo) : State :=
  let r := s.reg g
  { s with banks := s.banks.filter (fun (p : Nat × Byte) => !regionBanks g p.1),
           bad := s.bad.filter (fun u => !(u.1 && regionBanks g (8 * u.2))) }.setReg g
    { r with core := {}, rng := [], tlb := [], cb := [], powerGated := true, clockGated := false,
             micro := { r.micro with th := { prog := r.micro.th.prog }, scratch := [] } }

/-- The live control blocks of a core's contexts: function, place in its table, context and index (07 R199). -/
def State.scbsOf (s : State) (k : Core) : List (Nat × Nat × Nat) :=
  (s.streams.filter (fun e => k.grants.any (fun q => q.2.ctxid == e.1 / 4096))).map (fun e =>
    let c : Ctx := Tab.getD s.ctxs (e.1 / 4096)
    (c.func, c.stable + 128 * (e.1 % 4096), e.1))

/-- The stream tables of a core's contexts made current (07 R199). -/
def State.writeScbs (s : State) (k : Core) : State :=
  (s.scbsOf k).foldl (fun s e => s.writeFunc true e.1 e.2.1 (s.scb e.2.2).image) s

/-- What the save of a core does, once the stream tables that it writes are the accelerator's (17 R349). -/
def State.ownScbs (s : State) (who : Agent) (k : Core) (go : State → State) : State :=
  match (s.scbsOf k).findSome? (fun e => s.heldFunc e.1 e.2.1 128) with
  | some pl => s.claim who pl 0 true
  | none => go s

/-- The resident image saved, and the streams of its contexts with it in the tables of their functions (07 R199). -/
def State.saveRegion (s : State) (g : RegionNo) (drained gated : Bool) (watch : Watch) : State :=
  let r := s.reg g
  let im : Image := { core := r.core.save, banks := s.banks.filter (fun (p : Nat × Byte) => r.core.leased g p.1), drained := drained, gated := gated,
                      snap := r.core.grants.any (fun e => (Tab.getD s.ctxs e.2.ctxid : Ctx).held), since := s.now,
                      watch := { watch with core := r.core.save } }
  let s := { s with streams := Tab.mapVal s.streams (fun _ b => b.forget g r.core) }
  let s := s.writeScbs r.core
  s.setReg g { s.reg g with core := {}, images := r.images ++ [im], switching := false, leaving := false, draining := false, quantum := 0,
                            residency := 0, idle := s.now, clockGated := false, gating := none, called := false }

/-- The image that T2 makes leave saved, and its region power-gated (16 R314); it is ready at once after an event that its waits name. -/
def State.saveGated (s : State) (g : RegionNo) (w : Watch) : State :=
  let r := s.reg g
  let woken := s.woken g w { r.core with swept := [] } r.called
  ((if woken then s.dropHangs g r.core else s).saveRegion g r.draining (!woken) w).powerOff g

/-- A whole-region switch saves the outgoing image once every cell is passed and what moved behind the markers stands still (16 R312); one that T2
has made leave is power-gated with it (16 R314). -/
def execRegionSave (g : RegionNo) (s : State) : Out :=
  let s := s.tryLeave g
  let r := s.reg g
  .next (if r.leaving && r.settled && (List.range 256).all r.core.passed && s.still g (fun _ => true) && s.schedulersRun then
      s.ownScbs (.event (.regionSave g)) r.core (fun s => match r.gating with
        | some w => s.saveGated g w
        | none => s.saveRegion g r.draining false {}) else s)

/-! ## Restoring (16 R312, R313, R316, R321) -/

/-- A saved image is resident again: its leased banks are reloaded and its accesses start again. -/
def State.restoreRegion (s : State) (g : RegionNo) (i : Nat) : State :=
  let r := s.reg g
  match r.images[i]? with
  | none => s
  | some im =>
    let k := { im.core with ports := Tab.mapVal im.core.ports (fun _ e => { e with parked := none }),
                            cmds := Tab.mapVal im.core.cmds (fun _ c => { c with parked := none }) }
    let s := { s with banks := Memory.writeAll (s.banks.filter (fun (p : Nat × Byte) => !k.leased g p.1)) im.banks,
                      bad := s.bad.filter (fun u => !(u.1 && k.leased g (8 * u.2))) }.dropHangs g k
    let s := s.setReg g { r with core := k.newQuantum, images := r.images.eraseIdx i, quantum := 0, residency := 0, powerGated := false,
                                 clockGated := false }
    let s := (k.accs.filter Acc.pending).foldl (fun s a => s.restartAcc g a) s
    let s := (k.cmds.filter (fun c => c.2.running && c.2.code == 0x43 && c.2.prog.stage == 1)).foldl (fun s c => s.endCmd g c.1 0 1) s
    let its := (s.reg g).groups.filter (fun e => k.grants.any (fun q => q.2.ctxid == e.1 / 65536) && !s.senderSaved g e.1)
    ((its.foldl (fun s e => s.resumeRestored g e.1 e.2) s).closeFaults).syncGrants k

/-- A saved image is restored into its region once no image is resident: the ready one of the highest priority (16 R311). -/
def execRegionRestore (g : RegionNo) (i : Nat) (s : State) : Out :=
  let r := s.reg g
  .next (match r.best with
    | some (j, _) => if r.core.grants.isEmpty && j == i && s.schedulersRun then s.restoreRegion g i else s
    | none => s)

/-! ## Gating and residency (16 R307, R314; 07 R215, R216) -/

/-- A region without a resident context for 50 µs is power-gated (16 R307). -/
def execPowerGate (g : RegionNo) (s : State) : Out :=
  let r := s.reg g
  .next (if r.core.grants.isEmpty && !r.powerGated && s.now ≥ r.idle + 50 then s.powerOff g else s)

/-- The context of the oldest wait that the residency timer counts, when it counts. -/
def State.residencyWait (s : State) (g : RegionNo) : Option Waiter :=
  let r := s.reg g
  if r.core.grants.isEmpty || r.anyParked || r.paused || !s.schedulersRun then none else oldestWait (s.waits g)

/-- What the waits of a region's resident image name now. -/
def State.watchNow (s : State) (g : RegionNo) : Watch :=
  let k := s.core g
  s.watch g (s.waits g) (fun x => (Tab.getD k.grants x.toNat : Grant).ctxid) k

/-- At T1 the region is clock-gated. -/
def execClockGate (g : RegionNo) (s : State) : Out :=
  .next (match s.residencyWait g with
    | some w =>
      let c : Ctx := Tab.getD s.ctxs (s.grant g w.x).ctxid
      if (s.reg g).residency ≥ c.t1 && !(s.reg g).clockGated then s.setReg g { s.reg g with clockGated := true, seen := s.watchNow g, called := false } else s
    | none => s)

/-- A clock-gated region resumes after an event that its waits name (log 32). -/
def execClockGateResume (g : RegionNo) (s : State) : Out :=
  let r := s.reg g
  .next (if r.clockGated && s.woken g r.seen r.core r.called then s.setReg g { r with clockGated := false, seen := {}, called := false } else s)

/-- The cycles that a hang report closes: each report of a chain, with the agent by which it goes on, waits for the region of the next, and
the last for the first's, whose number is `home`; no agent stands twice. The fuel bounds the length. -/
def hangCycles (hs : List Report) (home : Nat) : Nat → Report → List (Report × Nat) → List (List (Report × Nat))
  | 0, _, _ => []
  | f + 1, h, done => h.agents.flatMap (fun a =>
      let path := done ++ [(h, a)]
      if a == home then [path]
      else if path.any (fun e => e.1.g.toNat == a) then []
      else (hs.filter (fun r => r.g.toNat == a)).flatMap (fun r => hangCycles hs home f r path))

/-- A STREAM_DEADLOCK entry: its head, then one continuation for each wait of the cycle (17 R339). -/
def State.deadlock (s : State) (ctxid : Nat) (cycle : List (Report × Nat)) : State :=
  let head : Report := { cause := Cause.streamDeadlock, rep := 0xFFFF, ctxid := ctxid, hang := true, count := cycle.length }
  let cont (h : Report × Nat) : Report :=
    { cause := Cause.streamDeadlock, rep := 0xFFFF, addr := h.1.addr, aux := h.1.g.toNat + 256 * h.2, ctxid := ctxid, g := h.1.g,
      hang := true, cont := true, count := 1 }
  (cycle.map cont).foldl (fun s r => s.record r) (s.record head)

/-- The hang report of a wait: its agents are those of the wait's kind at that moment (07 R215); the entry names the first (log 78). -/
def State.hangReport (s : State) (g : RegionNo) (w : Waiter) : Report :=
  let gr := s.grant g w.x
  let agents := if 1 ≤ w.w.kind && w.w.kind ≤ 5 then (s.scb (scbKey gr.ctxid (bits w.w.obj 48 59))).agentsFor w.w.kind else []
  { cause := Cause.hang, rep := w.rep, addr := w.w.obj, aux := w.w.kind + 256 * (if 1 ≤ w.w.kind && w.w.kind ≤ 5 then agents.headD 0xFF else w.w.agent), x := w.x, ctxid := gr.ctxid,
    kernel := gr.kernel, g := g, gen := s.genOf gr.ctxid, hang := true, count := 1, agents := agents, pc := if w.rep.toNat / 4096 == 12 then (s.thread g w.x).pc else 0 }

/-- A hang report joins the graph of the root core. -/
def State.addHang (s : State) (h : Report) : State := { s with hangs := s.hangs ++ [h] }

/-- At T2 the region leaves, to be saved by markers and power-gated, and one HANG entry names the oldest wait (16 R312, R314); reports that close
a cycle are named in one STREAM_DEADLOCK entry for each cycle (07 R216). -/
def execResidencyT2 (g : RegionNo) (s : State) : Out :=
  .next (match s.residencyWait g with
    | some w =>
      let gr := s.grant g w.x
      let c : Ctx := Tab.getD s.ctxs gr.ctxid
      let r := s.reg g
      if r.residency < c.t2 || r.switching then s
      else
        let hang := s.hangReport g w
        let s := s.setReg g { r with switching := true, leaving := true, gating := some (s.watchNow g), called := false }
        let s := (s.record hang).addHang hang
        (hangCycles (s.hangs.filter (fun h => h.ctxid == gr.ctxid)) g.toNat 32 hang []).foldl (fun s c => s.deadlock gr.ctxid c) s
    | none => s)

/-! ## The drain (17 R342; 10 R244) -/

/-- The parked places of a resident image: since when. -/
def Region.parkedSince (r : Region) : List Nat :=
  let k := r.core
  (r.arrivals.filter (fun a => (k.resident a.ctxid).isSome)).filterMap (fun a => a.parked.map (fun p => p.2.since)) ++ k.accs.filterMap (fun a => match a.phase with | .parked f _ => some f.since | _ => none)
    ++ k.cmds.filterMap (fun c => c.2.parked.map (fun p => p.2.since)) ++ k.ports.filterMap (fun e => e.2.parked.map (fun p => p.2.since))

/-- The parked commands of a region's resident image that meet a condition complete with the causes of their faults (10 R244). -/
def State.failParked (s : State) (g : RegionNo) (p : Cmd → Bool) : State :=
  (((s.core g).cmds.filter (fun c => c.2.parked.isSome && p c.2)).foldl (fun s c =>
    s.failCmd g c.1 ((c.2.parked.map (fun p => p.2.cause)).getD 0)) s).closeFaults

/-- An access has stayed parked for the drain limit: its region thaws for token movement, parked commands complete, and the image leaves; it
is not ready until what it has parked is released. -/
def execDrainLimit (g : RegionNo) (s : State) : Out :=
  let r := s.reg g
  .next (if r.parkedSince.any (fun t => s.now ≥ t + s.boot.drain) && !r.draining && !r.leaving && s.schedulersRun then
      let s := s.failParked g (fun _ => true)
      s.setReg g { s.reg g with draining := true, switching := true, leaving := true }
    else s)

end Sys2Proof.Machine
end

