-- ==== Sys2Proof/Machine/CtxUnit.lean ====
section
/-!
DEFINITION. The context unit: `cfgput`, `ctxsave`, `ctxload`; the end of kernels (16 R305, R317 to R320; 10 R244; log 13, 34).
-/

namespace Sys2Proof.Machine

/-! ## Parts of a region by context -/

/-- What a region holds for some of its resident contexts: cell state, channels and flits, ports, schedulers, cell accesses. Threads,
commands and grants are not parts of it. -/
def Core.keep (k : Core) (p : CtxNo → Bool) : Core :=
  let q (n : Nat) : Bool := p (BitVec.ofNat 2 n)
  let grants := k.grants.filter (fun e => q e.1)
  let own (o : Option CtxNo) : Bool := match o with
    | some x => p x
    | none => false
  let chans := k.chans.filter (fun e => p (dCTX e.2.desc))
  { cells := Tab.mapVal k.cells (fun _ c =>
      { slots := c.slots.filter (fun e => q (e.1 / 64)), lr := c.lr.filter (fun e => q e.1), lrSeq := c.lrSeq.filter (fun e => q e.1),
        o := c.o.filter (fun e => q (e.1 / 4)), v := c.v.filter (fun e => grants.any (fun g => g.2.mrf.contains e.1)),
        acc := c.acc.filter (fun e => grants.any (fun g => g.2.acc.testBit (e.1 / 256))),
        ta := if own c.ta.owner then c.ta else {}, tl := if own c.tl.owner then c.tl else {},
        spills := c.spills.filter (fun e => p e.2.ctx), flights := c.flights.filter (fun f => p f.ctx) }),
    phase := k.phase.filter (fun e => q e.1), chans := chans, flits := k.flits.filter (fun f => Tab.has chans f.ch),
    ports := k.ports.filter (fun e => e.2.kind != 4 && grants.any (fun g => g.2.kernel == e.2.kernel)),
    sched := k.sched.filter (fun e => q e.1), accs := k.accs.filter (fun a => a.cell?.isSome && p a.ctx) }

/-- One table over another. -/
def overTab {α : Type} (a b : Tab α) : Tab α := a.foldl (fun t e => Tab.set t e.1 e.2) b

/-- One cell's state over another's. -/
def Cell.overlay (a b : Cell) : Cell :=
  { slots := overTab a.slots b.slots, lr := overTab a.lr b.lr, lrSeq := overTab a.lrSeq b.lrSeq, o := overTab a.o b.o, v := overTab a.v b.v,
    acc := overTab a.acc b.acc, ta := if a.ta.owner.isSome then a.ta else b.ta, tl := if a.tl.owner.isSome then a.tl else b.tl,
    spills := overTab a.spills b.spills, flights := b.flights ++ a.flights }

/-- A part put in place over what a region holds. -/
def Core.overlay (a k : Core) : Core :=
  { k with cells := a.cells.foldl (fun t e => Tab.set t e.1 (e.2.overlay (Tab.getD k.cells e.1))) k.cells, phase := overTab a.phase k.phase,
           chans := overTab a.chans k.chans, flits := k.flits ++ a.flits, ports := overTab a.ports k.ports, sched := overTab a.sched k.sched,
           accs := a.accs ++ k.accs }

/-- A region without the slots, tokens, channels, ports, schedulers and cell accesses of some contexts; register values stay, and so do the armings
of a port, which end with their own threads (10 R249). -/
def Core.drop (k : Core) (p : CtxNo → Bool) : Core :=
  let q (n : Nat) : Bool := p (BitVec.ofNat 2 n)
  let free (t : Tile) : Tile := match t.owner with
    | some x => if p x then { t with owner := none } else t
    | none => t
  let gone := k.chans.filter (fun e => p (dCTX e.2.desc))
  let kernels := (k.grants.filter (fun e => q e.1)).map (fun e => e.2.kernel)
  { k with cells := Tab.mapVal k.cells (fun _ c =>
             { c with slots := c.slots.filter (fun e => !q (e.1 / 64)), flights := c.flights.filter (fun f => !p f.ctx), ta := free c.ta,
                      tl := free c.tl, spills := c.spills.filter (fun e => !p e.2.ctx) }),
           chans := k.chans.filter (fun e => !p (dCTX e.2.desc)), flits := k.flits.filter (fun f => !Tab.has gone f.ch),
           locks := k.locks.filter (fun e => !k.flits.any (fun f => f.tid == e.2 && Tab.has gone f.ch)),
           ports := k.ports.filterMap (fun e =>
             if e.2.kind == 4 || !kernels.contains e.2.kernel then some e
             else if e.2.tokArm.isEmpty && e.2.markArm.isEmpty then none
             else some (e.1, { tokArm := e.2.tokArm, markArm := e.2.markArm })),
           sched := k.sched.filter (fun e => !q e.1),
           accs := k.accs.filter (fun a => !(a.cell?.isSome && p a.ctx)) }

/-- Whether a resident context belongs to a kernel. -/
def Core.ofKernel (k : Core) (kern : Nat) (x : CtxNo) : Bool := match Tab.get k.grants x.toNat with
  | some g => g.kernel == kern
  | none => false

/-- Cells of a kernel's contexts stopped, or running again. -/
def Core.stop (k : Core) (kern : Nat) (on : Bool) : Core :=
  let xs := (k.grants.filter (fun e => e.2.kernel == kern)).map (fun e => e.1)
  { k with stopped := xs.foldl (fun t x => if on then Tab.set t x true else Tab.erase t x) k.stopped }

/-- Whether no firing of a kernel's contexts is in flight. -/
def Core.quietKernel (k : Core) (kern : Nat) : Bool := k.cells.all (fun c => !c.2.flights.any (fun f => k.ofKernel kern f.ctx))

/-! ## `cfgput` (16 R318, R319) -/

/-- The sections' contents, in table order. -/
def State.readSects (s : State) (g : RegionNo) (id : Nat) (m : Cmd) (a : Nat) : List Sect → State × Except Stop (List (List Byte))
  | [] => (s, .ok [])
  | t :: r => match s.eRead g id m ((a + t.off) % 2 ^ 64) t.size with
    | (s, .error e) => (s, .error e)
    | (s, .ok bs) => match s.readSects g id m a r with
      | (s, .ok rest) => (s, .ok (bs :: rest))
      | (s, .error e) => (s, .error e)

/-- Whether the section entries of a `cfgput` are in order: types 1 to 3, the region's KREG, one BLOCK, STAGE and CTX in range. -/
def sectsOk (img : List Byte) (kreg : Nat) (ss : List Sect) : Bool :=
  let h : Sect := ss.headD {}
  ss.all (fun t => 1 ≤ t.ty && t.ty ≤ 3 && t.reg == kreg && t.rsvd == 0 && t.off % 16 == 0 && t.block == h.block && t.stage == h.stage
    && t.ctx == h.ctx) && h.block < hNBLK img && h.stage ≤ 15 && h.ctx < hCTXN img

/-- `cfgput`. -/
def execCfgput (c : Frame) (s : State) : Out :=
  s.runCmd (fun g id m =>
    let a := frameAddr c
    let n := c.w0.toNat % 32
    let img := (s.kernelOf g m.x).image
    let kreg := (s.grant g m.x).kreg
    match structFault a 16 with
    | some e => s.failCmd g id e
    | none =>
      if n == 0 || n > 16 then s.failCmd g id Cause.cmdInvalid
      else match s.eRead g id m a (16 * n) with
        | (s, .error e) => s.onStop g id e 0 false
        | (s, .ok bs) =>
          let ss := sectsOf bs 0 n
          let h : Sect := ss.headD {}
          let y := s.sibling g m.x h.ctx
          if !sectsOk img kreg ss || (s.sched g y).active == some h.block then s.failCmd g id Cause.cmdInvalid
          else match s.readSects g id m a ss with
            | (s, .error e) => s.onStop g id e 0 false
            | (s, .ok cs) =>
              match (List.zip ss cs).mapM (fun p => Sect.recs { p.1 with off := 0 } p.2) with
              | none => s.failCmd g id Cause.cmdInvalid
              | some rs =>
                let rs := rs.flatten
                if !distinct (rs.flatMap Rec.names) then s.failCmd g id Cause.cmdInvalid
                else match checkCfg ((s.grant g y).env g) h.stage rs with
                  | .error i => s.endCmd g id Cause.cfgBadSlot i
                  | .ok k => (s.stage g y h.block k true).endCmd g id 0 h.block)

/-! ## `ctxsave` and `ctxload` (16 R320; log 13) -/

/-- Bytes of an image of a region. -/
def imageSize (lease : Nat) : Nat := 256 + 256 * (32768 + lease * 4096)

/-- The bytes of an image of a kernel's cells in a region: the header that 16 R320 lists, with the SHA-256 of the rest, and the rest (log 13). -/
def imageWith (img : List Byte) (kreg : Nat) (rest : List Byte) : List Byte :=
  natToBytes 4 0x49544348 ++ [kreg, hCTXN img, hMRF img, hLEASE img, hACC img].map (BitVec.ofNat 8) ++ List.replicate 183 (0 : Byte)
    ++ (img.drop 32).take 32 ++ Sha.sha256 rest ++ rest

/-- Whether bytes are an image for a kernel and region: their header and SHA-256 agree (16 R320). -/
def isImage (img : List Byte) (kreg : Nat) (bs : List Byte) : Bool := bs == imageWith img kreg (bs.drop 256)

/-- Bank bytes that a kernel leases in a region. -/
def State.kernelBanks (s : State) (g : RegionNo) (kern : Nat) : Memory :=
  let k : Core := { grants := (s.core g).grants.filter (fun e => e.2.kernel == kern) }
  s.banks.filter (fun (p : Nat × Byte) => k.leased g p.1)

/-- Whether the markers of a `ctxsave` have passed every cell of its kernel, and nothing of it moves (16 R312, R320). -/
def State.passedAll (s : State) (g : RegionNo) (kern : Nat) : Bool :=
  let k := s.core g
  (k.passing.any (fun p => p.1 == kern && (List.range 256).all (fun c => [1, 2, 3, 4].all (fun i => p.2.contains (8 * c + i)))))
    && s.still g (k.ofKernel kern)

/-- The kernel's cells as an image of the given size, noted with the bytes that it takes: those are fixed here (03 R372; log 13). -/
def State.takeImage (s : State) (g : RegionNo) (m : Cmd) (size : Nat) : State :=
  let k := s.core g
  let bs := imageWith (s.kernelOf g m.x).image (s.grant g m.x).kreg ((List.range (size - 256)).map (Config.imageByte s.saves.length))
  let sv : Saved := { g := g, kernel := m.kernel, bytes := bs, core := (k.keep (k.ofKernel m.kernel)).save, banks := s.kernelBanks g m.kernel }
  { s with saves := s.saves ++ [sv] }

/-- `ctxsave`: pre-empt markers pass the kernel's cells, which then stop and are taken as an image (16 R312 steps 2 and 3), and the image is
written; with STOP = 0 the cells go on once it has performed. -/
def execCtxsave (c : Frame) (s : State) : Out :=
  s.runCmd (fun g id m =>
    let a := frameAddr c
    let size := imageSize (s.grant g m.x).lease
    match structFault a 4096 with
    | some e => s.failCmd g id e
    | none =>
      if m.prog.stage == 0 then (s.updCore g (fun k => { k with passing := some (m.kernel, []) })).progress g id (fun p => { p with stage := 1 })
      else if m.prog.stage == 1 then
        if !s.passedAll g m.kernel then s
        else
          let n := s.saves.length
          ((s.takeImage g m size).updCore g (fun k => { k.stop m.kernel true with passing := none })).progress g id
            (fun p => { p with stage := 2, a := n })
      else match s.eWrite g id m a ((s.saves.getD m.prog.a {}).bytes) with
        | (s, .error (.fail e)) => (s.updCore g (fun k => k.stop m.kernel false)).failCmd g id e
        | (s, .error e) => s.onStop g id e 0 true
        | (s, .ok ()) => (if c.cf.getLsbD 0 then s else s.updCore g (fun k => k.stop m.kernel false)).endCmd g id 0 size)

/-- A saved image put back into its kernel and region. -/
def State.loadSaved (s : State) (g : RegionNo) (kern : Nat) (sv : Saved) : State :=
  let k := s.core g
  let old := k.keep (k.ofKernel kern)
  let s := { s with streams := Tab.mapVal s.streams (fun _ b => b.forget g { old with cmds := [] }) }
  let mine : Core := { grants := k.grants.filter (fun e => e.2.kernel == kern) }
  let s := { s with banks := Memory.writeAll (s.banks.filter (fun (p : Nat × Byte) => !mine.leased g p.1)) sv.banks,
                    bad := s.bad.filter (fun u => !(u.1 && mine.leased g (8 * u.2))) }
  let s := s.updCore g (fun k => (sv.core.overlay (k.drop (k.ofKernel kern))).stop kern false)
  (sv.core.accs.filter Acc.pending).foldl (fun s a => s.restartAcc g a) s

/-- What the bytes of an image hold: what was saved with them in the same kernel and region, else a free choice (log 13). -/
def State.savedOf (s : State) (g : RegionNo) (kern : Nat) (bs : List Byte) : Saved :=
  (s.saves.reverse.find? (fun v => v.g == g && v.kernel == kern && v.bytes == bs)).getD (Config.imageState bs)

/-- `ctxload`: an image is restored; one whose header or SHA-256 disagrees is refused and changes nothing. -/
def execCtxload (c : Frame) (s : State) : Out :=
  s.runCmd (fun g id m =>
    let a := frameAddr c
    match structFault a 4096 with
    | some e => s.failCmd g id e
    | none => match s.eRead g id m a (imageSize (s.grant g m.x).lease) with
      | (s, .error e) => s.onStop g id e 0 false
      | (s, .ok bs) =>
        if !isImage (s.kernelOf g m.x).image (s.grant g m.x).kreg bs then s.failCmd g id Cause.cmdInvalid
        else
          let held := s.updCore g (fun k => k.stop m.kernel true)
          if !(s.core g).quietKernel m.kernel then held
          else (s.loadSaved g m.kernel (s.savedOf g m.kernel bs)).endCmd g id 0 0)

/-! ## The end of kernels (16 R305, R317; 06 R190, R191; 10 R244) -/

/-- A kernel is to end with a cause, as for a thread that stops without a handler. -/
def State.stopKernel (s : State) (n : Nat) (cause : Byte) (kreg : Nat) : State :=
  s.updKernel n (fun k => { k with stop := k.stop.or (some (cause, kreg)) })

/-- A kernel is to end by `replay` with FAIL (17 R347, 18 R354). -/
def State.failKernel (s : State) (n : Nat) (cause : Byte) (kreg : Nat) : State :=
  (s.updKernel n (fun k => { k with failed := k.failed || k.stop.isNone })).stopKernel n cause kreg

/-- A kernel is to end as if every thread ran `lkill`; its LAUNCH is aborted. -/
def State.abortKernel (s : State) (n : Nat) : State :=
  s.updKernel n (fun k => { k with aborted := true })

/-- Whether the end of a kernel drops an access that has not performed: one that has faulted performs no more, and in a context that is ending the
waits end with it (07 R216; log 34). One that is parked is awaited as any other (06 R191), and what releases it may also end it (17 R347). -/
def Acc.lost (ending all : Bool) (a : Acc) : Bool := match a.phase with
  | .performed _ => false
  | .faulted _ => true
  | .parked .. => all
  | _ => all || (ending && a.wait.isSome)

/-- Whether a command is one that `lkill` removes: it has not started, and is not one that was refused (06 R191). -/
def Cmd.removed (c : Cmd) (n : Nat) : Bool := c.kernel == n && !c.started && !c.done

/-- What holds a kernel, once each thread of it ends as with `lkill`: commands not started are removed, and a thread waits for its accesses and
started commands; `left` tells the commands that are left to their units. -/
def Core.kill (k : Core) (n : Nat) (lost : Acc → Bool) (left : Cmd → Bool) : Core :=
  let mine (x : CtxNo) : Bool := k.ofKernel n x
  let keeps (id : Nat) : Bool := (Tab.get k.cmds id).any (fun c => !c.removed n && !(c.running && left c))
  { k with accs := k.accs.filter (fun a => !(mine a.ctx && lost a)), cmds := k.cmds.filter (fun c => !c.2.removed n),
           threads := Tab.mapVal k.threads (fun x t =>
             if !mine (BitVec.ofNat 2 x) || !t.live then t
             else { t with wait := none, hold := none, halted := false, latched := false, bwarr := none,
                           ending := t.ending.or (some { code := 0xFFFFFFFF, kill := true }),
                           ports := Tab.mapVal t.ports (fun _ p => { p with iq := p.iq.filter keeps, order := p.order.filter keeps }) }) }

/-- The parked commands of a kernel in a region complete with the causes of their faults, as its context is destroyed (10 R244, 14 R293). -/
def State.failKilled (s : State) (g : RegionNo) (n : Nat) : State :=
  (((s.core g).cmds ++ (s.reg g).images.flatMap (fun i => i.core.cmds)).filter (fun c => c.2.kernel == n && c.2.parked.isSome)).foldl
    (fun s c => s.failCmd g c.1 ((c.2.parked.map (fun p => p.2.cause)).getD 0)) s

/-- Whether the context of a kernel is being destroyed. -/
def State.ctxEnding (s : State) (n : Nat) : Bool := (Tab.getD s.ctxs (s.kernelCtx n) : Ctx).ending

/-- A kernel's region while the kernel is being ended against its will (16 R305, R317; log 34): its threads end as with `lkill`, once their accesses
have performed and their commands have completed, and a region that a microprogram has stopped leaves its commands to their units. -/
def State.killIn (s : State) (g : RegionNo) (n : Nat) : State :=
  let s := if s.ctxEnding n then s.failKilled g n else s
  let r := s.reg g
  let lost (a : Acc) : Bool := a.lost (s.ctxEnding n) false
  let gone := r.core.accs.filter (fun a => r.core.ofKernel n a.ctx && lost a)
  let s := { s with streams := Tab.mapVal s.streams (fun _ b => b.forget g { accs := gone }) }
  s.setReg g { r with core := r.core.kill n lost (fun c => r.micro.stopped || (s.ctxEnding n && c.wait.isSome)),
                      clockGated := r.clockGated && !r.core.grants.any (fun e => e.2.kernel == n) }

/-- Threads that are ending tried once more (06 R190, R191). -/
def State.finishIn (s : State) (g : RegionNo) (n : Nat) : State :=
  ((s.core g).threads.filter (fun t => t.2.live && t.2.kernel == n)).foldl (fun s t => match t.2.ending with
    | some e => s.finish g (BitVec.ofNat 2 t.1) e
    | none => s) s

/-- Whether a thread of a kernel has still to end in what holds it. -/
def Core.runsKernel (k : Core) (n : Nat) : Bool := k.threads.any (fun t => t.2.live && t.2.kernel == n)

/-- Whether nothing of a kernel is left to do in a region: every access that it started has performed. -/
def Core.doneKernel (k : Core) (n : Nat) : Bool :=
  !k.runsKernel n && k.quietKernel n && !k.accs.any (fun a => k.ofKernel n a.ctx && a.pending)

/-- A kernel's contexts and grants freed in what a region or an image holds; every token is discarded. -/
def Core.freeKernel (k : Core) (n : Nat) : Core :=
  let k := (k.drop (k.ofKernel n)).stop n false
  let out (x : Nat) : Bool := k.ofKernel n (BitVec.ofNat 2 x)
  let grants := k.grants.filter (fun e => e.2.kernel != n)
  { k with threads := k.threads.filter (fun e => !out e.1), accs := k.accs.filter (fun a => !out a.ctx.toNat), frozen := k.frozen.filter (fun e => !out e.1),
           grants := grants, swept := if grants.isEmpty then [] else k.swept,
           passing := k.passing.filter (fun p => p.1 != n) }

/-- What of a core waits at streams for a kernel. -/
def Core.waitsOf (k : Core) (n : Nat) : Core :=
  { grants := k.grants.filter (fun e => e.2.kernel == n), accs := k.accs.filter (fun a => k.ofKernel n a.ctx), ports := k.ports,
    cmds := k.cmds.filter (fun c => c.2.kernel == n) }

/-- A kernel freed in a region and its images, its waits at streams with it; an image left without contexts is gone. -/
def State.freeKernel (s : State) (g : RegionNo) (n : Nat) : State :=
  let r := s.reg g
  let s := { s with streams := Tab.mapVal s.streams (fun _ b => b.forget g (r.core.waitsOf n)) }
  let core := r.core.freeKernel n
  let images := (r.images.map (fun i => { i with core := i.core.freeKernel n })).filter (fun i => !i.core.grants.isEmpty)
  let voing (k : Core) : List Nat := k.ports.filterMap (fun e =>
    if e.2.kind == 3 && e.2.kernel == n then some (e.2.arg.toNat % 16 + 16 * (e.2.arg.toNat / 256 % 256)) else none)
  s.setReg g { r with core := core, images := images, gone := (r.gone ++ voing r.core ++ r.images.flatMap (fun i => voing i.core)).eraseDups,
                      idle := if core.grants.isEmpty && !r.core.grants.isEmpty then s.now else r.idle,
                      switching := r.switching && !core.grants.isEmpty, leaving := r.leaving && !core.grants.isEmpty,
                      gating := if core.grants.isEmpty then none else r.gating }

/-- The threads of a kernel that end in a saved image: killed, with nothing outstanding. -/
def Core.endsSaved (k : Core) (n : Nat) : List (Nat × Thread) :=
  k.threads.filter (fun t => t.2.live && t.2.kernel == n && t.2.ending.isSome && k.threadDone (BitVec.ofNat 2 t.1) && t.2.allPosted)

/-- The saved images of a region in which a kernel is being ended: its threads end there, or the image is ready and they end once it is
restored. An image kept saved gives its accesses up. -/
def State.killImages (s : State) (g : RegionNo) (n : Nat) : State :=
  let ending := s.ctxEnding n
  let kill (i : Image) : Image :=
    if !i.core.grants.any (fun e => e.2.kernel == n) then i
    else { i with core := i.core.kill n (Acc.lost ending i.snap) (fun c => i.snap || (ending && c.wait.isSome)), gated := false,
                  drained := false, since := if i.gated || i.drained then s.now else i.since }
  let images := (s.reg g).images.map kill
  let ends := images.flatMap (fun i => i.core.endsSaved n)
  let out (k : Core) : Core :=
    let k := (k.endsSaved n).foldl (fun k t => k.disarm (BitVec.ofNat 2 t.1)) k
    { k with threads := k.threads.filter (fun t => !(k.endsSaved n).contains t) }
  let s := s.setReg g { s.reg g with images := images.map (fun i => { i with core := out i.core }) }
  s.updKernel n (fun k => { k with exits := ends.foldl (fun t e => Tab.set t e.2.kreg ((e.2.ending.map (·.code)).getD 0)) k.exits })

/-- The exit codes of a kernel stored at O2 (16 R305). -/
def State.storeExits (s : State) (k : Kernel) : State :=
  k.exits.foldl (fun s e => s.writeFunc false (s.funcOf k.ctxid) (k.o2 + 4 * e.1) (natToBytes 4 e.2.toNat)) s

/-- A place that the end of a kernel writes and that is not the accelerator's: in its exit-code area or its context's control block (17 R349). -/
def State.heldEnd (s : State) (k : Kernel) : Option Place :=
  (s.heldFunc (s.funcOf k.ctxid) k.o2 (4 * k.regions.length)).or
    (s.heldFunc (s.funcOf k.ctxid) (Tab.getD s.ctxs k.ctxid : Ctx).ctrl 512)

end Sys2Proof.Machine
end

