-- ==== Sys2Proof/Machine/Launch.lean ====
section
/-!
DEFINITION. LAUNCH: the check of the image, placement, grants, DATA, block 0, the start of the threads (03 R99 to R103; 16 R303 to R307; 01
R24, R29; 06 R164 to R168; log 16, 35).
-/

namespace Sys2Proof.Machine

/-! ## Grants (16 R304, R306) -/

/-- Resident numbers free in a region. -/
def Core.freeCtx (k : Core) : List Nat := (List.range 4).filter (fun x => !Tab.has k.grants x)
/-- Granules free in every cell of a region: 4 registers each. -/
def Core.freeGran (k : Core) : List Nat := (List.range 8).filter (fun n => !k.grants.any (fun e => e.2.mrf.contains (4 * n)))
/-- The lowest base of lease units free in every cell (log 16). -/
def Core.freeLease (k : Core) (n : Nat) : Option Nat :=
  if n == 0 then some 0
  else (List.range (17 - n)).find? (fun b => !k.grants.any (fun e => b < e.2.base + e.2.lease && e.2.base < b + n))
/-- Granules of one resident context of a kernel. -/
def granules (img : List Byte) : Nat := (hMRF img + 3) / 4

/-- Whether a region's grants leave room for a kernel. -/
def Core.fits (k : Core) (img : List Byte) : Bool :=
  k.freeCtx.length ≥ hCTXN img && k.freeGran.length ≥ granules img * hCTXN img && (k.freeLease (hLEASE img)).isSome
    && !k.grants.any (fun e => e.2.acc &&& hACC img != 0)

/-- Whether a region is enabled, and has bank lines to spare or resident contexts still (19 R355, R363). -/
def State.usable (s : State) (g : RegionNo) : Bool :=
  let r := s.reg g
  s.boot.regions.getLsbD g.toNat && !r.micro.stopped && !(r.spares.any (fun e => e.2 ≥ 8) && r.core.grants.isEmpty)

/-- Order of placement: the cost of waking, then regions that hold a resident context, then the number (16 R306). -/
def State.placeKey (s : State) (g : RegionNo) : Nat :=
  let r := s.reg g
  (if r.powerGated then 128 else 0) + (if r.core.grants.isEmpty then 64 else 0) + g.toNat

/-- Regions in an order. -/
def insertBy (key : RegionNo → Nat) (a : RegionNo) : List RegionNo → List RegionNo
  | [] => [a]
  | b :: r => if key a ≤ key b then a :: b :: r else b :: insertBy key a r

/-- The regions that a kernel is placed on: NREG that fit, or none when fewer do. -/
def State.place? (s : State) (img : List Byte) : Option (List RegionNo) :=
  let fit := allRegions.filter (fun g => s.usable g && (s.core g).fits img)
  let best := (fit.foldr (insertBy s.placeKey) []).take (hNREG img)
  if best.length < hNREG img then none else some (best.foldr (insertBy BitVec.toNat) [])

/-- A kernel granted to what a region or an image holds: resident numbers, granules, lease and accumulators, its ports and its thread. -/
def Core.install (k : Core) (n ctxid : Nat) (gen : BitVec 16) (c : Ctx) (img : List Byte) (kreg : Nat) : Core :=
  let xs := k.freeCtx.take (hCTXN img)
  let per := granules img
  let base := (k.freeLease (hLEASE img)).getD 0
  let grant (i : Nat) : Grant :=
    { ctxid := ctxid, kernel := n, krel := i, ctxn := hCTXN img, kreg := kreg, acc := hACC img, lease := hLEASE img, base := base,
      mrf := ((k.freeGran.drop (i * per)).take per).flatMap (fun g => [4 * g, 4 * g + 1, 4 * g + 2, 4 * g + 3]) }
  let th : Thread := { ctxid := ctxid, gen := gen, kernel := n, kreg := kreg, prog := imageProg img kreg, spriv := c.spriv,
                       ceil := c.ceil, prio := c.ceil, quant := c.quant, quantNow := c.quant }
  { k with grants := (List.zip (List.range xs.length) xs).foldl (fun t e => Tab.set t e.2 (grant e.1)) k.grants,
           threads := Tab.set k.threads (xs.headD 0) th,
           ports := ((imagePorts img).filter (fun p => p.reg == kreg)).foldl (fun t p =>
             Tab.upd t p.port (fun e => { kind := p.kind, arg := BitVec.ofNat 64 p.arg, kernel := n, tokArm := e.tokArm, markArm := e.markArm })) k.ports }

/-- Block 0 staged for its context, with one thread token in its entry queue: the identifier of a rejection, or what is staged (16 R305). -/
def Core.stageFirst (k : Core) (g : RegionNo) (n : Nat) (img : List Byte) (kreg : Nat) : Except Nat Core :=
  match k.grants.find? (fun e => e.2.kernel == n && e.2.krel == cfgCtx img kreg 0) with
  | none => .ok k
  | some (x, gr) => match imageCfg img kreg 0 (gr.env g) with
    | .error i => .error i
    | .ok c =>
      let sc : Sched := { staged := [(0, c)], queues := [(0, [[0, 0, 0, 0]])] }
      .ok { k with sched := Tab.set k.sched x sc }

/-- Spills that stand in what is now granted move to the spill areas of their owners (01 R29; 05 R145). -/
def State.relocateSpills (s : State) (g : RegionNo) : State :=
  let k := s.core g
  let claimed (e : Spill) : Bool :=
    if e.kind then k.grants.any (fun gr => gr.2.mrf.contains (e.loc / 4)) else k.grants.any (fun gr => gr.2.acc.testBit (e.loc / 32))
  k.cells.foldl (fun s c => (c.2.spills.filter (fun e => claimed e.2)).foldl (fun s e =>
    let gr : Grant := Tab.getD k.grants e.2.ctx.toNat
    let cell : CellNo := BitVec.ofNat 8 c.1
    let at_ := g.toNat * 2 ^ 24 + spillLine cell gr e.2.vreg + gr.base * 4096
    { s with banks := s.banks.writeN at_ (lineBytes e.2.val) }.updCell g cell (fun c => { c with spills := Tab.erase c.spills e.1 })) s) s

/-! ## The steps of LAUNCH (16 R305) -/

/-- What a kernel's region g holds: the resident part, or the image that waits. -/
def State.homeOf (s : State) (g : RegionNo) (n : Nat) : Option Nat :=
  if (s.core g).grants.any (fun e => e.2.kernel == n) then none
  else (s.reg g).images.findIdx? (fun i => i.core.grants.any (fun e => e.2.kernel == n))

/-- What a kernel's region holds, changed. -/
def State.updHome (s : State) (g : RegionNo) (n : Nat) (f : Core → Core) : State :=
  match s.homeOf g n with
  | none => s.updCore g f
  | some i => s.setReg g { s.reg g with images := (s.reg g).images.modify i (fun m => { m with core := f m.core }) }

/-- What a kernel's region holds. -/
def State.home (s : State) (g : RegionNo) (n : Nat) : Core :=
  match s.homeOf g n with
  | none => s.core g
  | some i => ((s.reg g).images.getD i {}).core

/-- A kernel placed on regions, or in images of regions that wait there (16 R306, R307, R311). -/
def State.putKernel (s : State) (n ctxid : Nat) (img : List Byte) (gs : List RegionNo) (resident : Bool) : State :=
  let c : Ctx := Tab.getD s.ctxs ctxid
  let gen := s.genOf ctxid
  (List.zip (List.range gs.length) gs).foldl (fun s e =>
    let g := e.2
    let r := s.reg g
    if resident then
      let first := r.core.grants.isEmpty
      let k := r.core.install n ctxid gen c img e.1
      (s.setReg g { r with core := if first then k.newQuantum else k, powerGated := false, clockGated := false,
                           quantum := if first then 0 else r.quantum, residency := 0 }).relocateSpills g
    else s.setReg g { r with images := r.images ++ [{ core := ({} : Core).install n ctxid gen c img e.1, since := s.now }] }) s

/-- The kernel image of a LAUNCH, once its memory is the accelerator's (17 R349): its header first, which gives its length. -/
def State.launchImage (s : State) (k : Nat) (h : HCmd) (go : State → Except Byte (List Byte) → State) : State :=
  let a := h.e.o1.toNat
  s.ownFunc (.hostCmd k) h.f a 64 false (fun s => match s.readFunc h.f a 64 with
    | (s, .error e) => go s (.error e)
    | (s, .ok hd) =>
      let n := max 64 (le hd 8 4)
      s.ownFunc (.hostCmd k) h.f a n false (fun s =>
        let r := s.readFunc h.f a n
        go r.1 r.2))

/-- Stage 0: the image is read and checked, and the kernel is placed. -/
def State.launchPlace (s : State) (k : Nat) (h : HCmd) : State :=
  let ctxid := h.e.o0.toNat
  s.launchImage k h (fun s r => match r with
    | .error e => s.hostFail k e
    | .ok img =>
      if !imageOk img then s.hostEffect k Cause.launchBadHeader 0
      else
        let n := s.nextKernel
        let waiting := (allRegions.filter s.usable).take (hNREG img)
        let gs := s.place? img
        if gs.isNone && (waiting.length < hNREG img || !({} : Core).fits img) then s
        else
          let regions := gs.getD waiting
          let s := s.putKernel n ctxid img regions gs.isSome
          let s := { s with nextKernel := n + 1,
                            kernels := Tab.set s.kernels n { ctxid := ctxid, regions := regions, image := img, host := some k,
                                                             o2 := h.e.o2.toNat } }
          (s.updHCmd k (fun h => { h with stage := 1, kernel := some n })).syncCtrl ctxid)

/-- A launch that fails after placement: its kernel is gone. -/
def State.launchFail (s : State) (k n : Nat) (cause : Byte) (value : Nat) : State :=
  let kn : Kernel := Tab.getD s.kernels n
  let s := kn.regions.foldl (fun s g => s.freeKernel g n) s
  ({ s with kernels := Tab.erase s.kernels n }.syncCtrl kn.ctxid).hostEffect k cause value

/-- The stage of a LAUNCH whose DATA sections are written; below it a stage is one more than the lines written. -/
def dataDone : Nat := 2 ^ 48

/-- A line of a DATA section written as kernel-relative region 0, to its banks where it waits in an image (17 R323). -/
def State.dataLine (s : State) (k : Nat) (g : RegionNo) (n : Nat) (e : EAcc) : State × Except Stop Unit :=
  let gr : Grant := (((s.home g n).grants.find? (fun e => e.2.kernel == n && e.2.krel == 0)).map (fun e => e.2)).getD default
  let bs := e.wr.getD []
  match classFault e.addr with
  | some f => (s, .error (.fail f))
  | none =>
    if clsOf e.addr == 0xC then match bankRange g gr (e.addr % 2 ^ 24) e.n with
      | .error f => (s, .error (.fail f))
      | .ok pl => match s.homeOf g n with
        | none => (s.writePlace pl bs, .ok ())
        | some i => (s.setReg g { s.reg g with images := (s.reg g).images.modify i (fun m =>
            { m with banks := m.banks.writeN (g.toNat * 2 ^ 24 + pl.pa) bs }) }, .ok ())
    else match s.translate g (s.kernelCtx n) e.addr { wr := true } with
      | (s, .error (.fail f)) => (s, .error (.park f e.addr none))
      | (s, .error (.hold pl)) => (s.claim (.hostCmd k) pl e.addr true, .error .hold)
      | (s, .ok pl) => if s.ownedOk pl then (s.writePlace pl bs, .ok ()) else (s.claim (.hostCmd k) pl e.addr true, .error .hold)

/-- Stage 1: the DATA sections, a line in each step, in table order (09 R229). -/
def State.launchData (s : State) (k : Nat) (h : HCmd) (n : Nat) : State :=
  let kn : Kernel := Tab.getD s.kernels n
  match ((imageData kn.image).flatMap (fun d => writeLines d.1 d.2)).drop (h.stage - 1) with
  | [] => s.updHCmd k (fun h => { h with stage := dataDone })
  | e :: _ => match s.dataLine k (kn.regions.headD 0) n e with
    | (s, .ok ()) => s.updHCmd k (fun h => { h with stage := h.stage + 1 })
    | (s, .error .hold) => s
    | (s, .error (.park f _ _)) => s.launchFail k n f.cause 0
    | (s, .error (.fail e)) => s.launchFail k n e 0

/-- Stage 2: block 0 of every region is staged, a thread token placed, and the threads start. -/
def State.launchStage (s : State) (k n : Nat) : State :=
  let kn : Kernel := Tab.getD s.kernels n
  let go := (List.zip (List.range kn.regions.length) kn.regions).foldl (fun (a : Except (Nat × Nat) State) e =>
    a.bind (fun s => match (s.home e.2 n).stageFirst e.2 n kn.image e.1 with
      | .ok c => .ok (s.updHome e.2 n (fun _ => c))
      | .error i => .error (e.1, i))) (.ok s)
  match go with
  | .error (r, i) => s.launchFail k n Cause.cfgBadSlot (r + i * 2 ^ 16)
  | .ok s =>
    let start (c : Core) : Core := { c with threads := Tab.mapVal c.threads (fun _ t => if t.kernel == n then { t with live := true } else t) }
    let wake (g : RegionNo) (s : State) : State := match s.homeOf g n with
      | none => s
      | some i => s.setReg g { s.reg g with images := (s.reg g).images.modify i (fun m => { m with since := s.now }) }
    let s := kn.regions.foldl (fun s g => wake g (s.updHome g n start)) s
    let s := { s with kernels := Tab.set s.kernels n { kn with running := true } }
    s.updHCmd k (fun h => { h with stage := dataDone + 1 })

/-- LAUNCH. -/
def execLaunch (e : HostEntry) (s : State) : Out :=
  s.hostStep e (fun h _ => if h.e.o0.toNat ≥ 4096 then some Cause.cmdInvalid else none) (fun k h s =>
    match h.kernel with
    | none => s.launchPlace k h
    | some n => if h.stage < dataDone then s.launchData k h n else if h.stage == dataDone then s.launchStage k n else s)

end Sys2Proof.Machine
end

