-- ==== Sys2Proof/Machine/HostCmd.lean ====
section
/-!
DEFINITION. Host commands on contexts, streams, Drawers, queues, keys and functions: CTX_CREATE, CTX_DESTROY, STREAM_BIND, DRAWER_CREATE,
QUEUE_CREATE, QUEUE_DESTROY, KEY_LOAD, SNAPSHOT, VF_RESET (16 R303, R317; 07 R211, R213; 11 R278, R282; 17 R329, R331; 19 R361, R362, R368,
R370, R371; log 36 to 40).
-/

namespace Sys2Proof.Machine

/-- A command of the physical function alone, whose operands meet a condition. -/
def pfOnly (ok : HCmd → Bool) (h : HCmd) (_s : State) : Option Byte :=
  if h.f != 0 then some Cause.privileged else if ok h then none else some Cause.cmdInvalid

/-- A command of any function, whose operands meet a condition. -/
def anyFn (ok : HCmd → State → Bool) (h : HCmd) (s : State) : Option Byte := if ok h s then none else some Cause.cmdInvalid

/-- A command's stage replaced. -/
def State.hostStage (s : State) (k n : Nat) : State := s.updHCmd k (fun h => { h with stage := n })

/-! ## CTX_CREATE (16 R303; 17 R331) -/

/-- The frame of device memory that a guest page of a function reaches, checked and fixed as any that a translation reaches (17 R328, R331); a
page that reaches none is CMD_INVALID (16 R303). The Bureau's own write is not kept out by PROT, so two control blocks may share a frame. -/
def State.devFrame (s : State) (f a : Nat) : State × Except Byte Nat :=
  match s.stage2 f a { wr := true } with
  | .error (.fail e) => (s, .error (if e.cause == Cause.pagePermission then e.cause else Cause.cmdInvalid))
  | .error (.hold _) => (s, .error Cause.ownershipTimeout)
  | .ok r =>
    if !isDevice r.pl.pa then (s, .error Cause.cmdInvalid)
    else match s.frameCheck f r.pl false with
      | .error e => (s, .error e.cause)
      | .ok s => (s, .ok (r.pl.pa / 4096))

/-- The frames of guest pages of a function, in order; the first that fails gives the cause. -/
def State.devPages (s : State) (f : Nat) : List Nat → State × Except Byte (List Nat)
  | [] => (s, .ok [])
  | a :: r => match s.devFrame f a with
    | (s, .error e) => (s, .error e)
    | (s, .ok n) => match s.devPages f r with
      | (s, .ok ns) => (s, .ok (n :: ns))
      | (s, .error e) => (s, .error e)

/-- The pages of a range. -/
def pagesOf (a n : Nat) : List Nat := (List.range ((a % 4096 + n + 4095) / 4096)).map (fun i => a - a % 4096 + 4096 * i)

/-- The first page of a guest range of a function that is not the accelerator's, or of the tables that lead there (17 R349). -/
def State.heldPages (s : State) (f a n : Nat) : Option Place :=
  (List.range ((a % 4096 + n + 4095) / 4096)).findSome? (fun i => match s.stage2 f (a - a % 4096 + 4096 * i) {} with
    | .error (.hold pl) => some pl
    | .error (.fail _) => none
    | .ok r => if s.ownedOk r.pl then none else some r.pl)

/-- An action of the Bureau on a long guest range, once it is the accelerator's (17 R349). -/
def State.ownPages (s : State) (k f a n : Nat) (wr : Bool) (go : State → State) : State := match s.heldPages f a n with
  | some pl => s.claim (.hostCmd k) pl 0 wr
  | none => go s

/-- A frame of device memory set to zero under the key of its place. -/
def State.zeroFrame (s : State) (pl : Place) : State :=
  let a := pl.pa - pl.pa % 4096
  let lines := (List.range 32).map (fun i => a / 128 + i)
  let tags := s.lineKey.filter (fun e => !lines.contains e.1)
  { s with mem := Memory.clear s.mem a (a + 4096), bad := s.bad.filter (fun u => !({ pa := a } : Place).covers 4096 u),
           lineKey := match s.keyOf pl with
             | none => tags
             | some k => lines.foldl (fun t n => Tab.set t n k) tags }

/-- Whole guest frames set to zero, once `devFrames` has checked them; the fuel counts them. -/
def State.zeroFunc (s : State) (f a : Nat) : Nat → State
  | 0 => s
  | n + 1 => match s.stage2 f a { wr := true } with
    | .ok r => (s.zeroFrame r.pl).zeroFunc f (a + 4096) n
    | .error _ => s.zeroFunc f (a + 4096) n

/-- T1 and T2 of O5, with their values for zero. -/
def HCmd.t1 (h : HCmd) : Nat := if h.e.o5.toNat % 2 ^ 32 == 0 then 10 else h.e.o5.toNat % 2 ^ 32
def HCmd.t2 (h : HCmd) : Nat := if h.e.o5.toNat / 2 ^ 32 == 0 then 1000 else h.e.o5.toNat / 2 ^ 32

/-- Whether the operands of a CTX_CREATE are in range. -/
def HCmd.createOk (h : HCmd) : Bool :=
  h.e.o1.toNat % 4096 == 0 && bits h.e.o4.toNat 3 31 == 0 && !(h.e.o4.getLsbD 2 && h.f != 0) && 1 ≤ h.t1 && h.t1 < h.t2
    && h.t2 ≤ 1000000

/-- The context of a CTX_CREATE. -/
def HCmd.newCtxOf (h : HCmd) (prot : List Nat) : Ctx :=
  { live := true, func := h.f, root := h.e.o0.toNat, stable := h.e.o1.toNat, save := h.e.o2.toNat, ctrl := h.e.o3.toNat,
    ceil := h.e.o4.truncate 2, spriv := h.e.o4.getLsbD 2,
    quant := if h.e.o4.toNat / 2 ^ 32 == 0 then 2000 else BitVec.ofNat 32 (h.e.o4.toNat / 2 ^ 32), t1 := h.t1, t2 := h.t2, o4 := h.e.o4,
    o5 := h.e.o5, prot := prot }

/-- PROT set in the entries of frames. -/
def State.protect (s : State) (fs : List Nat) : State := { s with frames := fs.foldl (fun t n => Tab.upd t n (· ||| 0x10#16)) s.frames }

/-- The frames of a new context's stream table and control block. -/
def State.ctxFrames (s : State) (h : HCmd) : State × Except Byte (List Nat) :=
  s.devPages h.f (pagesOf h.e.o1.toNat (512 * 1024) ++ pagesOf h.e.o3.toNat 512)

/-- A context made with the lowest free number, once its table and block are the accelerator's. -/
def State.createCtx (s : State) (k : Nat) (h : HCmd) : State :=
  s.ownPages k h.f h.e.o1.toNat (512 * 1024) true (fun s => s.ownPages k h.f h.e.o3.toNat 512 true (fun s => match s.ctxFrames h with
  | (t, .ok fs) => match Tab.free s.ctxs 4096 with
    | none => s.hostFail k Cause.outOfMemory
    | some n =>
      let s := t
      let s := (s.zeroFunc h.f h.e.o1.toNat 128).writeFunc true h.f h.e.o3.toNat (List.replicate 512 0)
      let s := s.protect fs
      let s := { s with regions := Tab.mapVal s.regions (fun _ r => { r with groups := r.groups.filter (fun e => e.1 / 65536 != n) }) }
      let s := { s with streams := s.streams.filter (fun e => e.1 / 4096 != n), ctxs := Tab.set s.ctxs n (h.newCtxOf fs) }
      (s.syncCtrl n).hostEffect k 0 n
  | (_, .error e) => s.hostFail k e))

/-- CTX_CREATE. -/
def execCtxCreate (e : HostEntry) (s : State) : Out := s.hostStep e (anyFn (fun h _ => h.createOk)) (fun k h s => s.createCtx k h)

/-! ## The end of a context (16 R317; 17 R329, R331; 11 R282; 19 R368, R371) -/

/-- Whether any kernel of a context has still to end. -/
def State.hasKernels (s : State) (ctxid : Nat) : Bool := s.kernels.any (fun e => e.2.ctxid == ctxid)

/-- Whether a core holds a context. -/
def Core.holdsCtx (k : Core) (ctxid : Nat) : Bool := k.grants.any (fun e => e.2.ctxid == ctxid)

/-- The images of a context kept saved, or released where no other context keeps them (16 R303). -/
def State.keepSaved (s : State) (ctxid : Nat) (on : Bool) : State :=
  let s := { s with ctxs := Tab.mapVal s.ctxs (fun n c => if n == ctxid then { c with held := on } else c) }
  let kept (k : Core) : Bool := k.grants.any (fun e => (Tab.getD s.ctxs e.2.ctxid : Ctx).held)
  { s with regions := Tab.mapVal s.regions (fun _ r =>
      { r with images := r.images.map (fun i =>
          if i.core.holdsCtx ctxid then { i with snap := kept i.core, since := if on then i.since else s.now } else i) }) }

/-- Every kernel of a context is to end as if each thread ran `lkill`; LAUNCHes that have placed none are aborted. -/
def State.abortCtx (s : State) (ctxid : Nat) : State :=
  let s := (s.kernels.filter (fun e => e.2.ctxid == ctxid)).foldl (fun s e => s.abortKernel e.1) s
  (s.hcmds.filter (fun e => e.2.opc == 0x05 && e.2.kernel.isNone && e.2.names == some ctxid)).foldl (fun s e => s.hostAbort e.1) s

/-- The requests of a context's Drawers and the Drawers themselves removed, with no response. -/
def State.killDrawers (s : State) (ctxid : Nat) : State :=
  let its (key : Nat) : Bool := key / 65536 == ctxid
  let rs (l : List DReq) : List DReq := l.filter (fun q => q.ctxid != ctxid)
  { s with
    drawers := s.drawers.filter (fun e => !its e.1),
    slices := Tab.mapVal s.slices (fun _ l =>
      { live := l.live.filter (fun e => !its e.1), bags := l.bags.filter (fun e => !its e.1), seqs := l.seqs.filter (fun e => !its e.1),
        cap := l.cap.filter (fun e => !its e.1), count := l.count.filter (fun e => !its e.1), parked := rs l.parked, inRes := rs l.inRes,
        inDep := rs l.inDep, inMat := rs l.inMat, inRet := rs l.inRet, inLive := l.inLive.filter (fun n => !its n),
        inSweep := l.inSweep.filter (fun n => !its n) }),
    regions := Tab.mapVal s.regions (fun _ r => { r with resend := r.resend.filter (fun q => q.2.ctxid != ctxid) }) }

/-- The loss of a context's members announced to the other members of their groups, and its groups deleted. -/
def State.endGroups (s : State) (ctxid : Nat) : State :=
  let keys := (allRegions.flatMap (fun g => ((s.reg g).groups.filter (fun e => e.1 / 65536 == ctxid)).map (fun e => e.1))).eraseDups
  let s := keys.foldl (fun s key => s.loseGroup key false ((s.members key).map (fun m => m.2.own))) s
  { s with losses := s.losses.filter (fun e => e.1 / 65536 != ctxid), regions := Tab.mapVal s.regions (fun _ r =>
      { r with groups := Tab.mapVal r.groups (fun key x => if key / 65536 == ctxid then { failed := true } else x),
               contribs := r.contribs.filter (fun c => c.grp / 65536 != ctxid), msgs := r.msgs.filter (fun m => m.2.1 / 65536 != ctxid) }) }

/-- Commands of a context removed from its regions; the responses and increments they would post are late items. -/
def State.endCmds (s : State) (ctxid : Nat) : State :=
  let owed (c : Cmd) : Nat :=
    if !c.started || c.posted || (0x60 ≤ c.code && c.code ≤ 0x64) then 0 else if c.w.getLsbD 118 then 2 else 1
  let mine (k : Core) : Nat := ((k.cmds.filter (fun c => c.2.ctxid == ctxid)).map (fun c => owed c.2)).sum
  let clean (k : Core) : Core := { k with cmds := k.cmds.filter (fun c => c.2.ctxid != ctxid) }
  let n := (s.regions.map (fun r => mine r.2.core + (r.2.images.map (fun i => mine i.core)).sum)).sum
  let s := (List.range n).foldl (fun s _ => s.dropStale) s
  { s with regions := Tab.mapVal s.regions (fun _ r =>
      { r with core := clean r.core, images := r.images.map (fun i => { i with core := clean i.core }) }) }

/-- A context ends once its kernels have ended: its streams close, its Drawers go, its groups lose a member, its cached translations are
removed, PROT leaves the frames that no other context needs, and its generation advances. -/
def State.endCtx (s : State) (ctxid : Nat) : State :=
  let c : Ctx := Tab.getD s.ctxs ctxid
  let s := (((((s.keepSaved ctxid false).closeStreams ctxid).killDrawers ctxid).endGroups ctxid).endCmds ctxid).dropTlb (fun t => t.ctxid == ctxid)
  let kept := s.ctxs.flatMap (fun e => if e.1 == ctxid then [] else e.2.prot)
  let s := { s with frames := (c.prot.filter (fun n => !kept.contains n)).foldl (fun t n => Tab.upd t n (· &&& 0xFFEF#16)) s.frames,
                    hangs := s.hangs.filter (fun h => h.ctxid != ctxid),
                    gens := Tab.set s.gens ctxid (s.genOf ctxid + 1), openf := s.openf.filter (fun o => o.ctxid != ctxid),
                    saves := s.saves.filter (fun v => Tab.has s.kernels v.kernel) }
  s.updCtx ctxid (fun c => { c with live := false, ending := false, prot := [] })

/-- A context that no command awaits ends with its last kernel (19 R369). -/
def State.reap (s : State) (ctxid : Nat) : State :=
  if (Tab.getD s.ctxs ctxid : Ctx).doomed && !s.hasKernels ctxid then
    let s := s.endCtx ctxid
    { s with ctxs := Tab.erase s.ctxs ctxid }
  else s

/-- The end of a kernel: once every thread has ended and every access of its cells has performed, its contexts and grants are freed,
its exit codes stored and its LAUNCH completes; one that is stopped or aborted is first ended everywhere. In a saved image no access has
started (16 R305, R312). -/
def execKernelEnd (n : Nat) (s : State) : Out :=
  match Tab.get s.kernels n with
  | none => .next s
  | some k =>
    let dying := k.stop.isSome || k.aborted
    let s := if dying then (k.regions.foldl (fun s g => (s.killIn g n).killImages g n) s).closeFaults else s
    let s := k.regions.foldl (fun s g => s.finishIn g n) s
    let quietNow := k.regions.all (fun g => !(s.core g).runsKernel n && (s.reg g).images.all (fun i => !i.core.runsKernel n))
    let s := if quietNow && (k.running || dying) then k.regions.foldl (fun s g => s.updCore g (fun c => c.stop n true)) s else s
    let done := quietNow && k.regions.all (fun g => (s.core g).doneKernel n)
    if !done || !(k.running || dying) then .next s
    else match s.heldEnd k with
    | some pl => .next (s.claim (.hostCmd (k.host.getD 0)) pl 0 true)
    | none =>
      let k : Kernel := Tab.getD s.kernels n
      let s := k.regions.foldl (fun s g => s.freeKernel g n) s
      let s := { s with kernels := Tab.erase s.kernels n }
      let s := (if k.aborted || k.failed then s else s.storeExits k).syncCtrl k.ctxid
      let s := match k.host with
        | none => s
        | some h => match k.stop, k.aborted with
          | some (c, kreg), false => s.hostEffect h c kreg
          | _, true => s.hostAbort h
          | none, false => s.hostEffect h 0 (Tab.getD k.exits 0 : W32).toNat
      .next (s.reap k.ctxid)

/-- CTX_DESTROY: the context is ending; once its kernels and the commands on it have ended it is no more. -/
def execCtxDestroy (e : HostEntry) (s : State) : Out :=
  s.hostStep e (anyFn (fun h _ => h.e.o0.toNat < 4096)) (fun k h s =>
    let ctxid := h.e.o0.toNat
    let c : Ctx := Tab.getD s.ctxs ctxid
    if h.stage == 0 then
      if c.ending || !c.live then s.hostFail k Cause.cmdInvalid
      else (((s.updCtx ctxid (fun c => { c with ending := true })).keepSaved ctxid false).abortCtx ctxid).hostStage k 1
    else if s.hasKernels ctxid || s.hcmds.any (fun j => j.1 != k && j.2.journalled && j.2.step < 3 && j.2.names == some ctxid) then s
    else (s.endCtx ctxid).hostEffect k 0 0)

/-! ## STREAM_BIND (07 R211, R213) -/

/-- A binding through an aperture of a function ends without action of the regions. -/
def State.loseAperture (s : State) (f ap : Nat) : State :=
  (s.streams.filter (fun e => e.2.hb && e.2.hap == ap && e.2.hfunc == f)).foldl (fun s e => s.changeScb e.1 e.2.loseHost) s

/-- STREAM_BIND maps the aperture for a stream; an aperture that was mapped for another stream is removed first. -/
def execStreamBind (e : HostEntry) (s : State) : Out :=
  s.hostStep e (anyFn (fun h _ => h.e.o0.toNat < 4096 && bits h.e.o1.toNat 12 15 == 0 && bits h.e.o1.toNat 22 23 == 0
      && h.e.o1.toNat < 2 ^ 25)) (fun k h s =>
    let a : Aperture := { ctxid := h.e.o0.toNat, six := h.e.o1.toNat % 4096, role := h.e.o1.getLsbD 24, gen := s.genOf h.e.o0.toNat }
    let ap := bits h.e.o1.toNat 16 21
    let s := match Tab.get (Tab.getD s.funcs h.f : Func).aps ap with
      | some b => if b == a then s else s.loseAperture h.f ap
      | none => s
    ({ s with funcs := Tab.upd s.funcs h.f (fun x => { x with aps := Tab.set x.aps ap a }) }).hostEffect k 0 0)

/-! ## DRAWER_CREATE (11 R278) -/

/-- DRAWER_CREATE: as `dcreate`; it completes with the last live mark. -/
def execDrawerCreate (e : HostEntry) (s : State) : Out :=
  s.hostStep e (anyFn (fun h _ => h.e.o0.toNat < 4096 && h.e.o1.toNat < 65536 && h.e.o2.toNat < 2 ^ 20)) (fun k h s =>
    let ctxid := h.e.o0.toNat
    let did := h.e.o1.toNat
    let key := drawerKey ctxid did
    if h.stage != 0 || (s.drawerBusy key && !s.anchorLive key) then s
    else match s.createFault key h.e.o2.toNat with
      | some c => s.hostFail k c
      | none => (s.hostStage k 1).createDrawer ctxid did h.e.o2.toNat none (some k))

/-! ## Queues (16 R300, R303, R317) -/

/-- Whether a QUEUE_CREATE names a queue that can be made. -/
def HCmd.queueOk (h : HCmd) (s : State) : Bool :=
  let q := h.e.o2.toNat % 16
  let qs := bits h.e.o2.toNat 8 11
  h.e.o0.toNat % 4096 == 0 && h.e.o1.toNat % 4096 == 0 && bits h.e.o2.toNat 4 7 == 0 && h.e.o2.toNat < 4096 && 1 ≤ q && 4 ≤ qs && qs ≤ 12
    && !(s.queue h.f q).created

/-- QUEUE_CREATE: the queue is empty and its first pass begins. -/
def execQueueCreate (e : HostEntry) (s : State) : Out :=
  s.hostStep e (anyFn HCmd.queueOk) (fun k h s =>
    if !h.queueOk s then s.hostFail k Cause.cmdInvalid
    else (s.updQueue h.f (h.e.o2.toNat % 16) (fun _ =>
      { created := true, ring := h.e.o0.toNat, cring := h.e.o1.toNat, qs := bits h.e.o2.toNat 8 11 })).hostEffect k 0 0)

/-- The LAUNCHes of a queue aborted, their kernels ended. -/
def State.abortQueue (s : State) (f q : Nat) : State :=
  (s.hcmds.filter (fun e => e.2.f == f && e.2.q == q && e.2.opc == 0x05 && e.2.step < 3)).foldl (fun s e => match e.2.kernel with
    | some n => s.abortKernel n
    | none => s.hostAbort e.1) s

/-- QUEUE_DESTROY: the queue stops accepting; it is gone once every command accepted from it has completed. -/
def execQueueDestroy (e : HostEntry) (s : State) : Out :=
  s.hostStep e (anyFn (fun h _ => 1 ≤ h.e.o0.toNat && h.e.o0.toNat ≤ 15)) (fun k h s =>
    let q := h.e.o0.toNat
    if h.stage == 0 then
      let s := if (s.queue h.f q).created then s.updQueue h.f q (fun x => { x with stopped := true }) else s
      (if h.e.flags.getLsbD 1 then s.abortQueue h.f q else s).hostStage k 1
    else if s.hcmds.any (fun j => j.1 != k && j.2.f == h.f && j.2.q == q) then s
    else (if (s.queue h.f q).created then s.updQueue h.f q (fun x => { x with created := false }) else s).hostEffect k 0 0)

/-! ## KEY_LOAD (19 R361, R362) -/

/-- Whether the operands of a KEY_LOAD are in range. -/
def HCmd.keyOk (h : HCmd) : Bool :=
  bits h.e.o0.toNat 7 7 == 0 && h.e.o0.toNat < 512
    && (if h.e.o0.getLsbD 8 then h.e.o1 == 0 else h.e.o1.toNat % 64 == 0 && isHost h.e.o1.toNat)

/-- Whether an access of a command has started and not performed. -/
def EAcc.underway (e : EAcc) : Bool := e.got.isNone

/-- Whether a place uses a key slot. -/
def Place.usesKey (pl : Place) (slot : Nat) : Bool := !pl.bank && pl.key == slot

/-- Accesses of resident images that were translated with a key slot and have not performed. -/
def State.keyed (s : State) (slot : Nat) : List (RegionNo × Nat) :=
  allRegions.flatMap (fun g => ((s.core g).accs.filter (fun a => match a.phase with
      | .ready pl => pl.usesKey slot
      | _ => false)).map (fun a => (g, a.id)))

/-- The accesses of lines that are under way: of commands, of edge stream ports, of packets' writes and of host commands. -/
def State.lineAccs (s : State) : List EAcc :=
  (s.regions.flatMap (fun r => r.2.core.cmds.flatMap (fun c => c.2.prog.io) ++ r.2.core.ports.flatMap (fun p => (p.2.work.map (·.io)).getD [])
      ++ r.2.arrivals.flatMap (fun a => a.io)) ++ s.hcmds.flatMap (fun h => h.2.prog.io)).filter EAcc.underway

/-- Whether an access awaited has still to perform. -/
def State.awaits (s : State) (w : RegionNo × Nat) : Bool := match s.acc w.1 w.2 with
  | some a => match a.phase with
    | .ready _ => true
    | _ => false
  | none => false

/-- KEY_LOAD: the key material is read, cached translations that name the slot are removed, the accesses translated with it perform, and
the slot changes. -/
def execKeyLoad (e : HostEntry) (s : State) : Out :=
  s.hostStep e (pfOnly HCmd.keyOk) (fun k h s =>
    let slot := h.e.o0.toNat % 128
    let clear := h.e.o0.getLsbD 8
    if h.stage == 0 then
      let key := s.mem.readN h.e.o1.toNat 64
      if !clear && key.take 32 == key.drop 32 then s.hostFail k Cause.cmdInvalid
      else (s.dropTlb (fun t => t.place.key == slot)).updHCmd k (fun h =>
        { h with stage := 1, buf := key, wait := s.keyed slot, held := s.lineAccs.filter (fun e => e.pl.usesKey slot) })
    else if h.wait.any s.awaits || h.held.any s.lineAccs.contains then s
    else
      let keys := if clear then Tab.erase s.keys slot else Tab.set s.keys slot (BitVec.ofNat 512 (bytesToNat h.buf))
      ({ s with keys := keys }).hostEffect k 0 0)

/-! ## SNAPSHOT (16 R303, R312, R315, R316; log 13, 38) -/

/-- Bytes leased in a core, in units of 1 MiB. -/
def Core.leasedUnits (k : Core) : Nat :=
  ((k.grants.filter (fun e => e.2.krel == 0)).map (fun e => e.2.lease)).sum

/-- Sizes of the images of a context, in the order of its regions. -/
def State.snapSizes (s : State) (ctxid : Nat) : List Nat :=
  allRegions.flatMap (fun g => ((s.reg g).images.filter (fun i => i.core.holdsCtx ctxid)).map (fun i => imageSize i.core.leasedUnits))

/-- The cause for which a guest range of a function cannot be written: that of its first page that fails. -/
def State.reachFault (s : State) (f a n : Nat) : Option Byte :=
  (List.range ((a % 4096 + n + 4095) / 4096)).findSome? (fun i => match s.stage2 f (a - a % 4096 + 4096 * i) { wr := true } with
    | .error (.fail e) => some e.cause
    | .error (.hold _) => none
    | .ok r => match s.frameCheck f r.pl true with
      | .error e => some e.cause
      | .ok _ => none)

/-- A core that holds a context alone, whose stream table is to be written. -/
def ctxCore (ctxid : Nat) : Core := { grants := [(0, { ctxid := ctxid })] }

/-- The saved images of a context are restored, whatever their threads do (16 R303). -/
def State.restoreAll (s : State) (ctxid : Nat) : State :=
  { s with regions := Tab.mapVal s.regions (fun _ r => { r with images := r.images.map (fun i =>
      if i.core.holdsCtx ctxid && i.snap then { i with due := true } else i) }) }

/-- SNAPSHOT: every region of the context saves, its stream table is made current (07 R199), the images are written one after another, and with
STOP = 0 the regions are restored. -/
def execSnapshot (e : HostEntry) (s : State) : Out :=
  s.hostStep e (anyFn (fun h _ => h.e.o0.toNat < 4096 && h.e.o2.toNat < 4)) (fun k h s =>
    let ctxid := h.e.o0.toNat
    let s := if h.stage == 0 then (s.keepSaved ctxid true).hostStage k 1 else s
    let live := allRegions.filter (fun g => (s.core g).holdsCtx ctxid)
    if !live.isEmpty then live.foldl (fun s g => if s.maySwitch g then s.startSwitch g (h.e.o2.getLsbD 1) else s.tryLeave g) s
    else
      let n := (s.snapSizes ctxid).sum
      match s.reachFault h.f h.e.o1.toNat n with
      | some e => (s.keepSaved ctxid false).hostFail k e
      | none => s.ownPages k h.f h.e.o1.toNat n true (fun s => s.ownScbs (.hostCmd k) (ctxCore ctxid) (fun s =>
        let s := (s.writeScbs (ctxCore ctxid)).writeFunc false h.f h.e.o1.toNat ((List.range n).map (Config.imageByte s.saves.length))
        (if h.e.o2.getLsbD 0 then s else (s.restoreAll ctxid).keepSaved ctxid false).hostEffect k 0 n)))

/-! ## VF_RESET (19 R370) -/

/-- Contexts of a function. -/
def State.ctxsOf (s : State) (f : Nat) : List Nat := (s.ctxs.filter (fun e => e.2.func == f)).map (fun e => e.1)

/-- Frame attributes that a function's stage 2 has set, cleared. -/
def State.clearFrames (s : State) (f : Nat) : State :=
  let its := (s.frameBy.filter (fun e => e.2 == f)).map (fun e => e.1)
  { s with frames := s.frames.filter (fun e => !its.contains e.1), frameBy := s.frameBy.filter (fun e => e.2 != f) }

/-- Every command of a function that has not completed is aborted, and its queues are read no more: one whose effects have been performed too
completes with ABRT = 1, CAUSE 0 and VALUE 0. -/
def State.abortFunc (s : State) (f : Nat) : State :=
  let s := { s with funcs := Tab.upd s.funcs f (fun x => { x with queues := Tab.mapVal x.queues (fun _ q => { q with stopped := true }) }),
                    hcmds := Tab.mapVal s.hcmds (fun _ h => if h.f == f && h.step ≥ 3 then { h with abrt := true, cause := 0, value := 0 } else h) }
  (s.hcmds.filter (fun e => e.2.f == f && e.2.step < 3)).foldl (fun s e => match e.2.kernel with
    | some n => s.abortKernel n
    | none => s.hostAbort e.1) s

/-- BAR 0 and BAR 2 of a function at their reset values. -/
def State.resetBars (s : State) (f : Nat) : State :=
  let s := (s.streams.filter (fun e => e.2.hb && e.2.hfunc == f)).foldl (fun s e => s.changeScb e.1 e.2.loseHost) s
  { s with funcs := Tab.upd s.funcs f (fun x => { enabled := x.enabled, queues := [(0, { created := true })] }) }

/-- VF_RESET. -/
def execVfReset (e : HostEntry) (s : State) : Out :=
  s.hostStep e (pfOnly (fun h => 1 ≤ h.e.o0.toNat && h.e.o0.toNat ≤ 16)) (fun k h s =>
    let f := h.e.o0.toNat
    let cs := s.ctxsOf f
    if h.stage == 0 then (s.abortFunc f).hostStage k 1
    else if h.stage == 1 then
      (cs.foldl (fun s c => (s.updCtx c (fun x => { x with ending := true })).abortCtx c) s).hostStage k 2
    else if cs.any s.hasKernels || s.hcmds.any (fun j => j.1 != k && j.2.f == f) then s
    else
      let s := cs.foldl (fun s c => s.endCtx c) s
      let s := { s with ctxs := s.ctxs.filter (fun e => e.2.func != f) }
      ((s.clearFrames f).resetBars f).hostEffect k 0 0)

end Sys2Proof.Machine
end

