-- ==== Sys2Proof/Machine/MapUnit.lean ====
section
/-!
DEFINITION. Memory service: releasing parked accesses, `replay`, `pmap`, `punmap`, MAP, UNMAP (17 R331, R335, R343 to R348; log 41, 42,
72).
-/

namespace Sys2Proof.Machine

/-! ## Release (17 R335, R345, R347) -/

/-- What a release picks by: context, fault and address. -/
abbrev Pick := Nat → XFault → Nat → Bool

/-- Accesses in the order in which they parked. -/
def byPark (a : Acc) : List Acc → List Acc
  | [] => [a]
  | b :: r =>
    let t (c : Acc) : Nat := match c.phase with | .parked f _ => f.seq | _ => 0
    if t a ≤ t b then a :: b :: r else b :: byPark a r

/-- Whether an access is parked and picked. -/
def Acc.picked (a : Acc) (p : Pick) : Bool := match a.phase with
  | .parked f addr => p a.ctxid f addr
  | _ => false

/-- Commands and ports picked are no longer parked. -/
def State.unpark (s : State) (k : Core) (p : Pick) : Core :=
  { k with cmds := Tab.mapVal k.cmds (fun _ c => match c.parked with
             | some (addr, f) => if p c.ctxid f addr then { c with parked := none } else c
             | none => c),
           ports := Tab.mapVal k.ports (fun _ e => match e.parked with
             | some (addr, f) => if p (s.kernelCtx e.kernel) f addr then { e with parked := none } else e
             | none => e) }

/-- The writes of packets picked are no longer parked. -/
def Region.unparkHops (r : Region) (p : Pick) : List Arrival := r.arrivals.map (fun a => match a.parked with
  | some (addr, f) => if p a.ctxid f addr then { a with parked := none } else a
  | none => a)

/-- What is picked in a region's resident part and at its collective unit. -/
def State.pickedIn (s : State) (g : RegionNo) (p : Pick) : List Parked :=
  (s.parkedOf g (s.core g) ++ (s.reg g).parkedHops g).filter (fun q => p q.ctxid q.f q.addr)

/-- The picked accesses of a region released: those of the resident part translate again, from the root of their tables (18 R352), and entry 0 of
the region's microprogram is due; those of saved images start when the image is restored. -/
def State.releaseIn (s : State) (g : RegionNo) (p : Pick) : State :=
  let r := s.reg g
  let hits := (r.core.accs.filter (fun a => a.picked p)).foldr byPark []
  let here := s.pickedIn g p
  let image (i : Image) : Image :=
    let k := s.unpark i.core p
    { i with core := { k with accs := k.accs.map (fun a => if a.picked p then { a with phase := .entering } else a) } }
  let s := s.setReg g { r with core := s.unpark r.core p, images := r.images.map image, arrivals := r.unparkHops p }
  let s := here.foldl (fun s q => s.forgetPage g q.ctxid (q.addr / 4096)) s
  let s := hits.foldl (fun s a => s.releaseAcc g a) s
  if here.isEmpty then s else s.report g { cause := 0 }

/-- Every picked access, command and port of the package released, and how many they were. -/
def State.release (s : State) (p : Pick) : State × Nat :=
  let n := (s.allParked.filter (fun q => p q.ctxid q.f q.addr)).length
  ((s.regions.foldl (fun s e => s.releaseIn (BitVec.ofNat 5 e.1) p) s).closeFaults, n)

/-! ## `replay` (17 R343, R347; 18 R354) -/

/-- The context that a service command names, if it lives and is of the issuing context's function. -/
def State.target (s : State) (m : Cmd) (c : Frame) : Option Nat :=
  let n := c.handle.toNat
  match Tab.get s.ctxs n with
  | some x => if x.live && x.func == s.funcOf m.ctxid then some n else none
  | none => none

/-- A class 0x0 address, a multiple of n: the lowest-numbered cause otherwise. -/
def memFault (a n : Nat) : Option Byte :=
  if a % n != 0 then some Cause.misaligned else if clsOf a == 0xC then some Cause.addrClass else classFault a

/-- Kernel-relative number of a region of a kernel. -/
def Kernel.regNo (k : Kernel) (g : RegionNo) : Nat := k.regions.findIdx (· == g)

/-- Parked accesses, commands and ports of kernels discarded. -/
def Core.discardParked (k : Core) (dead : Nat → Bool) : Core :=
  { k with accs := k.accs.filter (fun a => !(dead (Tab.getD k.grants a.ctx.toNat : Grant).kernel && (match a.phase with
             | .parked .. => true
             | _ => false))),
           cmds := k.cmds.filter (fun c => !(dead c.2.kernel && c.2.parked.isSome)),
           ports := Tab.mapVal k.ports (fun _ e => if dead e.kernel && e.parked.isSome then { e with parked := none, stopped := true } else e) }

/-- `replay` with FAIL: every kernel of the context that holds a parked access ends with the cause. -/
def State.replayFail (s : State) (ctxid : Nat) (cause : Byte) : State × Nat :=
  let ps := s.allParked.filter (fun q => q.ctxid == ctxid)
  let dead := (ps.map (fun q => q.kernel)).eraseDups
  let s := dead.foldl (fun s n =>
    let k : Kernel := Tab.getD s.kernels n
    s.failKernel n cause ((((ps.filter (fun q => q.kernel == n)).map (fun q => k.regNo q.g)).min?).getD 0)) s
  let drop (k : Core) : Core := k.discardParked dead.contains
  let clean (r : Region) : Region :=
    { r with core := drop r.core, images := r.images.map (fun i => { i with core := drop i.core }),
             arrivals := r.arrivals.filter (fun a => !(a.ctxid == ctxid && a.parked.isSome)) }
  ({ s with regions := Tab.mapVal s.regions (fun _ r => clean r) }.closeFaults, ps.length)

/-- A service command on a target context and an address, which has a fault or none: the lowest-numbered cause ends it (00 R16). -/
def State.withTarget (s : State) (g : RegionNo) (id : Nat) (m : Cmd) (c : Frame) (bad : Option Byte) (f : Nat → State) : State :=
  match lowest [((s.target m c).isNone, Cause.cmdInvalid), (bad.isSome, bad.getD 0)], s.target m c with
  | none, some n => f n
  | e, _ => s.failCmd g id (e.getD Cause.cmdInvalid)

/-- VALUE of a count of accesses released or discarded. -/
def State.endCount (s : State) (g : RegionNo) (id v : Nat) : State := s.endCmd g id 0 (min v (2 ^ 32 - 1))

/-- `replay`. -/
def execReplay (c : Frame) (s : State) : Out :=
  s.runCmd (fun g id m =>
    let a := frameAddr c
    let page := c.cf == 0 && c.w0.getLsbD 0
    s.withTarget g id m c (if page then memFault a 4096 else none) (fun n =>
      let r := if c.cf == 1 then s.replayFail n (c.w0.truncate 8)
        else s.release (fun ctxid f addr => ctxid == n && (!page || f.page addr == a / 4096))
      r.1.endCount g id r.2))

/-! ## Map descriptors (17 R344) -/

/-- A map descriptor. -/
structure MapDesc where
  ia   : Nat := 0
  oa   : Nat := 0
  sz   : Nat := 0
  w    : Bool := false
  free : Bool := false
  attr : Nat := 0
  npg  : Nat := 0
  deriving DecidableEq, Repr, Inhabited

/-- log2 of a page, level of its leaf, entries of its run. -/
def szShift (sz : Nat) : Nat := [12, 16, 21, 30, 35].getD sz 12
def szLevel (sz : Nat) : Nat := [0, 0, 1, 2, 2].getD sz 0
def szRun (sz : Nat) : Nat := [1, 16, 1, 1, 32].getD sz 1

/-- Bytes of a page. -/
def MapDesc.size (d : MapDesc) : Nat := 2 ^ szShift d.sz

/-- The fields of a descriptor; the attributes stand where a stage-2 leaf holds them. -/
def MapDesc.of (bs : List Byte) : MapDesc :=
  let w2 := word8 bs 2
  { ia := word8 bs 0, oa := word8 bs 1, sz := bits w2 0 2, w := w2.testBit 3, free := w2.testBit 4, npg := bits w2 48 63,
    attr := bits w2 41 47 * 2 ^ 57 + bits w2 39 40 * 2 ^ 10 + bits w2 38 38 * 2 ^ 9 + bits w2 37 37 * 2 ^ 8 }

/-- Whether a descriptor keeps to its table, for a stage and for mapping or unmapping. -/
def mapOk (bs : List Byte) (s2 unmap : Bool) : Bool :=
  let d := MapDesc.of bs
  word8 bs 3 == 0 && bits (word8 bs 2) 5 36 == 0 && d.sz ≤ 4 && d.npg ≤ 4096 && d.ia % d.size == 0 && d.oa % d.size == 0
    && d.ia + d.npg * d.size ≤ 2 ^ 57 && d.ia < 2 ^ 57 && (if s2 then bits (word8 bs 2) 39 40 ≤ 2 else d.attr == 0)
    && (!d.free || (s2 && unmap)) && (if unmap then !d.w && d.oa == 0 else d.oa < 2 ^ 57 && d.oa + d.npg * d.size ≤ 2 ^ 57)

/-- The leaf entry of entry j of page p. -/
def MapDesc.leaf (d : MapDesc) (p j : Nat) : Nat :=
  d.oa + p * d.size + j * 2 ^ levelShift (szLevel d.sz) + d.attr + (if szRun d.sz == 1 then 0 else 16) + (if d.w then 4 else 0) + 3

/-! ## Walking to the leaf level (17 R345, R346) -/

/-- Why a map does not go on: it fails with a cause and, where it is stated, VALUE; or a place that it reads or writes is not the
accelerator's (17 R349). -/
inductive MapStop where
  | fail (c : Byte) (v : Option Nat)
  | hold (pl : Place)
  deriving DecidableEq, Repr, Inhabited

/-- What a map acts on: stage 2 of a function, or stage 1 of a context of it, with a descriptor. -/
structure MapJob where
  two   : Bool := false
  unmap : Bool := false
  f     : Nat := 0
  ctxid : Nat := 0
  d     : MapDesc := {}
  deriving DecidableEq, Repr, Inhabited

/-- An entry of the tables of a job: a stage-2 failure of its own walk is WALK_S2. -/
def State.mapEntry (s : State) (j : MapJob) (a : Nat) : State × Except MapStop Nat :=
  if j.two then (s, (s.readEntry2 a).mapError MapStop.hold)
  else match s.readGuest8 j.f a with
    | (s, .ok e) => (s, .ok e)
    | (s, .error (.fail _)) => (s, .error (.fail Cause.walkS2 none))
    | (s, .error (.hold pl)) => (s, .error (.hold pl))

/-- The slot of an address at a level above which every entry must be a sound table entry. -/
def State.leafSlot (j : MapJob) (va target : Nat) : Nat → Nat → State → State × Except MapStop Nat
  | 0, table, s => (s, .ok (table + 8 * ((va >>> 12) % 512)))
  | l + 1, table, s =>
    let at_ := table + 8 * ((va >>> levelShift (l + 1)) % 512)
    if l + 1 ≤ target then (s, .ok at_)
    else match s.mapEntry j at_ with
      | (s, .error e) => (s, .error e)
      | (s, .ok e) =>
        if !e.testBit 0 || entryBad j.two (l + 1) e then (s, .error (.fail Cause.pageNotPresent (some (l + 1))))
        else if e.testBit 1 then (s, .error (.fail Cause.cmdInvalid (some (l + 1))))
        else State.leafSlot j va target l (bits e 12 56 <<< 12) s

/-- Entries read one after another, each with its slot. -/
def State.mapSlots (j : MapJob) : List Nat → State → State × Except MapStop (List (Nat × Nat))
  | [], s => (s, .ok [])
  | a :: r, s => match s.mapEntry j a with
    | (s, .error e) => (s, .error e)
    | (s, .ok e) => match State.mapSlots j r s with
      | (s, .ok rest) => (s, .ok ((a, e) :: rest))
      | (s, .error e) => (s, .error e)

/-- Whether an entry at the level of a descriptor's leaves is present: a malformed one is not (17 R324). -/
def MapJob.sound (j : MapJob) (e : Nat) : Bool := e.testBit 0 && !entryBad j.two (szLevel j.d.sz) e

/-- The slots of page p with their entries; a slot with a table pointer fails. -/
def State.pageSlots (s : State) (j : MapJob) (root p : Nat) : State × Except MapStop (List (Nat × Nat)) :=
  match State.leafSlot j (j.d.ia + p * j.d.size) (szLevel j.d.sz) 4 root s with
  | (s, .error e) => (s, .error e)
  | (s, .ok a) => match State.mapSlots j ((List.range (szRun j.d.sz)).map (fun i => a + 8 * i)) s with
    | (s, .error e) => (s, .error e)
    | (s, .ok es) => (s, if es.any (fun e => j.sound e.2 && !e.2.testBit 1) then .error (.fail Cause.cmdInvalid none) else .ok es)

/-- Whether the entries of a page hold a page of another size. -/
def MapJob.otherSize (j : MapJob) (es : List (Nat × Nat)) : Bool := es.any (fun e => j.sound e.2 && e.2.testBit 4 != (szRun j.d.sz != 1))

/-- Whether a page is present at its size: its first entry is, aligned to the page (17 R327). -/
def MapJob.here (j : MapJob) (es : List (Nat × Nat)) : Bool :=
  let e := (es.headD (0, 0)).2
  j.sound e && e.testBit 4 == (szRun j.d.sz != 1) && (bits e 12 56 <<< 12) % j.d.size == 0

/-- The words that a job writes to the slots of page p: a map its leaf or run, an unmap V = 0 in every entry of a page that is present. -/
def MapJob.pageWrites (j : MapJob) (p : Nat) (es : List (Nat × Nat)) : List (Nat × Nat) :=
  if !j.unmap then (List.zip (List.range es.length) es).map (fun q => (q.2.1, j.d.leaf p q.1))
  else if j.here es then es.map (fun e => (e.1, e.2 - e.2 % 2)) else []

/-- The leaf entries of a page that an unmap finds present. -/
def MapJob.pageCount (j : MapJob) (es : List (Nat × Nat)) : Nat := if j.here es then (es.filter (fun e => j.sound e.2)).length else 0

/-! ## The steps of a map (09 R229; 17 R345, R346)

Progress stands in a Prog: stage 1 reads the slots of one page in a step, stage 2 translates every slot, then writes one in each step, in any
order; the table holds slots and their entries, page after page. -/

/-- Pairs of a flat list. -/
def pairUp : List Nat → List (Nat × Nat)
  | a :: b :: r => (a, b) :: pairUp r
  | _ => []

/-- The slots of every page read so far. -/
def MapJob.pages (j : MapJob) (tab : List Nat) : List (List (Nat × Nat)) :=
  let run := szRun j.d.sz
  (List.range (tab.length / (2 * run))).map (fun p => pairUp ((tab.drop (2 * run * p)).take (2 * run)))

/-- Numbers of the pages that an unmap removes. -/
def MapJob.removed (j : MapJob) (tab : List Nat) : List Nat :=
  let ps := j.pages tab
  (List.range ps.length).filter (fun p => j.here (ps.getD p []))

/-- Every word that a job writes. -/
def MapJob.writes (j : MapJob) (tab : List Nat) : List (Nat × Nat) :=
  let ps := j.pages tab
  (List.zip (List.range ps.length) ps).flatMap (fun p => j.pageWrites p.1 p.2)

/-- VALUE of an unmap. -/
def MapJob.count (j : MapJob) (tab : List Nat) : Nat := ((j.pages tab).map j.pageCount).sum

/-- The place of a slot for a write: stage 1 tables are written through stage 2 (log 72). -/
def State.slotPlace (s : State) (j : MapJob) (a : Nat) : State × Except MapStop Place :=
  if j.two then (s, .ok { pa := a, gpa := a })
  else match s.guestPlace j.f a { wr := true } with
    | (s, .ok r) => (s, .ok r.pl)
    | (s, .error (.hold pl)) => (s, .error (.hold pl))
    | (s, .error (.fail e)) => (s, .error (.fail (if e.cause == Cause.pagePermission && !e.s2 then Cause.pagePermission else Cause.walkS2) none))

/-- What a step of a map answers: how far it is, why it does not go on, or that every word is written. -/
inductive MapRes where
  | go (p : Prog)
  | stop (t : MapStop)
  | done
  deriving DecidableEq, Repr, Inhabited

/-- A virtual address that no access has: table slots are not reached through one. -/
def noVa : Nat := 2 ^ 64

/-- Stage 1: the slots of the next page. -/
def State.mapRead (s : State) (j : MapJob) (p : Prog) : State × MapRes :=
  if p.chunk ≥ j.d.npg then
    (s, if j.unmap && (j.pages p.tab).any j.otherSize then .stop (.fail Cause.cmdInvalid none) else .go { p with stage := 2, io := [] })
  else
    let root := if j.two then s.s2root j.f else (Tab.getD s.ctxs j.ctxid : Ctx).root
    match s.pageSlots j root p.chunk with
    | (s, .error t) => (s, .stop t)
    | (s, .ok es) => (s, .go { p with chunk := p.chunk + 1, tab := p.tab ++ es.flatMap (fun e => [e.1, e.2]) })

/-- Stage 2: the next slot translated, or a word written. -/
def State.mapWrite (s : State) (j : MapJob) (p : Prog) : State × MapRes :=
  match (j.writes p.tab).drop p.io.length with
  | w :: _ => match s.slotPlace j w.1 with
    | (s, .error t) => (s, .stop t)
    | (s, .ok pl) => (s, .go { p with io := p.io ++ [{ tag := p.io.length, addr := w.1, n := 8, wr := some (natToBytes 8 w.2), va := noVa, pl := pl }] })
  | [] => match p.io.filter (fun e => e.got.isNone) with
    | [] => (s, .done)
    | e :: rest =>
      let (i, s) := s.pick (rest.length + 1)
      let e := (e :: rest).getD i e
      if !s.ownedOk e.pl then (s, .stop (.hold e.pl))
      else if s.spoiled e.pl e.n true then (s, .stop (.fail Cause.uncorrectable none))
      else (s.writePlace e.pl (e.wr.getD []), .go { p with io := p.io.map (fun q => if q.tag == e.tag then { q with got := some [] } else q) })

/-- A step of a map. -/
def State.mapStep (s : State) (j : MapJob) (p : Prog) : State × MapRes := if p.stage == 1 then s.mapRead j p else s.mapWrite j p

/-- The address that a map has reached, for the record of a granule that does not come (17 R350). -/
def MapJob.at_ (j : MapJob) (p : Prog) : Nat := j.d.ia + (min p.chunk (j.d.npg - 1)) * j.d.size

/-- Whether an address lies in the input range of a descriptor. -/
def MapDesc.covers (d : MapDesc) (a : Nat) : Bool := d.ia ≤ a && a < d.ia + d.npg * d.size

/-- Cached translations of what a job has changed removed in every port. -/
def State.mapDrop (s : State) (j : MapJob) : State :=
  s.dropTlb (fun t => if j.two then s.funcOf t.ctxid == j.f && j.d.covers t.place.gpa else t.ctxid == j.ctxid && j.d.covers (t.page * 4096))

/-- The releases that follow a map. -/
def State.mapRelease (s : State) (j : MapJob) : State × Nat :=
  s.release (fun x f addr => if j.two then s.funcOf x == j.f && f.s2 && j.d.covers f.gpa else x == j.ctxid && !f.s2 && j.d.covers addr)

/-! ## Accesses through what an unmap removes (17 R346, R348) -/

/-- Whether an access of a context, translated from an address to a place, passes through an entry that an unmap has removed. -/
def State.passes (s : State) (j : MapJob) (gone : List Nat) (ctxid va : Nat) (pl : Place) : Bool :=
  let hit (a : Nat) : Bool := j.d.covers a && gone.contains ((a - j.d.ia) / j.d.size)
  !pl.bank && (if j.two then s.funcOf ctxid == j.f && hit pl.gpa else ctxid == j.ctxid && hit va)

/-- Whether an access of a list of a command's passes so and has still to perform. -/
def State.passesIo (s : State) (j : MapJob) (gone : List Nat) (ctxid : Nat) (io : List EAcc) : Bool :=
  io.any (fun e => e.underway && s.passes j gone ctxid e.va e.pl)

/-- Whether an access of a region's queue passes so and has still to perform. -/
def State.passesAcc (s : State) (j : MapJob) (gone : List Nat) (a : Acc) : Bool := match a.phase with
  | .ready pl => s.passes j gone a.ctxid a.va pl
  | _ => false

/-- An awaited access or command of a region, as one number. -/
def waitNo (g : RegionNo) (id : Nat) : Nat := 32 * id + g.toNat
/-- Its region and identity. -/
def waitOf (n : Nat) : RegionNo × Nat := (BitVec.ofNat 5 n, n / 32)

/-- The accesses and commands that an unmap awaits. -/
def State.mapWaits (s : State) (j : MapJob) (gone : List Nat) : List Nat :=
  allRegions.flatMap (fun g => ((s.core g).accs.filter (s.passesAcc j gone)).map (fun a => waitNo g a.id)
    ++ ((s.core g).cmds.filter (fun c => s.passesIo j gone c.2.ctxid c.2.prog.io)).map (fun c => waitNo g c.1))

/-- Whether an access that an unmap awaits has still to perform: of a queue, of a command, of a packet, of a port or of a host command. -/
def State.mapAwaits (s : State) (j : MapJob) (gone ws : List Nat) : Bool :=
  ws.any (fun n => match waitOf n with
    | (g, id) => (s.acc g id).any (s.passesAcc j gone) || s.passesIo j gone (s.cmd g id).ctxid (s.cmd g id).prog.io)
  || allRegions.any (fun g => (s.reg g).arrivals.any (fun a => s.passesIo j gone a.ctxid a.io)
    || (s.core g).ports.any (fun p => p.2.work.any (fun w => s.passesIo j gone (s.kernelCtx p.2.kernel) w.io)))
  || s.hcmds.any (fun h => s.passesIo j gone (h.2.e.o0.toNat % 4096) h.2.prog.io)

/-! ## `pmap` and `punmap` -/

/-- A map of a command stops. -/
def State.failMap (s : State) (g : RegionNo) (id : Nat) (c : Byte) (v : Option Nat) : State := match v with
  | some v => s.endCmd g id c v
  | none => s.endCmdFree g id c

/-- Stage 0: the descriptor is read and checked. -/
def State.mapBegin (s : State) (g : RegionNo) (id : Nat) (m : Cmd) (a : Nat) (unmap : Bool) : State := match s.eRead g id m a 32 with
  | (s, .error e) => s.onStop g id e 0 false
  | (s, .ok bs) => if mapOk bs false unmap then s.progress g id (fun p => { p with stage := 1, hdr := bs }) else s.failCmd g id Cause.cmdInvalid

/-- A step of `pmap` or `punmap`: the response of `punmap` follows the last access through a removed entry. -/
def State.mapCmd (s : State) (c : Frame) (unmap : Bool) : Out :=
  s.runCmd (fun g id m =>
    let a := frameAddr c
    s.withTarget g id m c (structFault a 32) (fun n =>
      let j : MapJob := { unmap := unmap, f := s.funcOf n, ctxid := n, d := MapDesc.of m.prog.hdr }
      let gone := j.removed m.prog.tab
      let put (s : State) (p : Prog) : State := (s.stamp g).updCmd g id (fun m => { m with prog := p, wait := none })
      match m.prog.stage with
      | 0 => s.mapBegin g id m a unmap
      | 3 => if s.mapAwaits j gone m.prog.waits then s else s.endCmd g id 0 (j.count m.prog.tab)
      | _ => match s.mapStep j m.prog with
        | (t, .go p) => put (t.ownCxl s.cxl.length (g, m.kernel)) p
        | (s, .stop (.fail c v)) => s.failMap g id c v
        | (s, .stop (.hold pl)) => s.claim (.command g id) pl (j.at_ m.prog) (m.prog.stage == 2)
        | (s, .done) =>
          let s := s.mapDrop j
          if unmap then put s { m.prog with stage := 3, io := [], waits := s.mapWaits j gone }
          else
            let r := s.mapRelease j
            r.1.endCount g id r.2))

/-- `pmap`. -/
def execPmap (c : Frame) (s : State) : Out := s.mapCmd c false
/-- `punmap`. -/
def execPunmap (c : Frame) (s : State) : Out := s.mapCmd c true

/-! ## MAP and UNMAP (17 R348) -/

/-- The checks of a MAP or UNMAP on its operands. -/
def mapPre (h : HCmd) (s : State) : Option Byte :=
  let stage2 := h.e.o0.getLsbD 16
  let f := s.funcOf (h.e.o0.toNat % 4096)
  if stage2 && h.f != 0 then some Cause.privileged
  else if h.e.o1.toNat % 32 != 0 then some Cause.misaligned
  else if bits h.e.o0.toNat 12 15 != 0 || h.e.o0.toNat ≥ 2 ^ 17 || !isHost h.e.o1.toNat || (stage2 && s.s2root f == 0) then some Cause.cmdInvalid
  else none

/-- The frame entries of unmapped pages cleared, but for PROT (17 R331). -/
def State.freeFrames (s : State) (outs : List Nat) (size : Nat) : State :=
  let out (n : Nat) : Bool := outs.any (fun o => o ≤ n * 4096 && n * 4096 < o + size)
  let keep (e : Nat × BitVec 16) : Option (Nat × BitVec 16) :=
    if !out e.1 then some e else if e.2.getLsbD 4 then some (e.1, 0x10) else none
  { s with frames := s.frames.filterMap keep, frameBy := s.frameBy.filter (fun e => !out e.1) }

/-- Output addresses of the pages that an unmap removes. -/
def MapJob.outs (j : MapJob) (tab : List Nat) : List Nat :=
  ((j.pages tab).filter j.here).map (fun es => bits (es.headD (0, 0)).2 12 56 <<< 12)

/-- A host command that stops. -/
def State.hostFailMap (s : State) (k : Nat) (c : Byte) (v : Option Nat) : State := match v with
  | some v => s.hostEffect k c v
  | none => s.hostFail k c

/-- A step of MAP or UNMAP; UNMAP completes after the last access through a removed entry, and with FREE the frames' entries are then
cleared. -/
def State.mapHost (s : State) (e : HostEntry) (unmap : Bool) : Out :=
  s.hostStep e mapPre (fun k h s =>
    let two := h.e.o0.getLsbD 16
    let ctxid := h.e.o0.toNat % 4096
    let j : MapJob := { two := two, unmap := unmap, f := s.funcOf ctxid, ctxid := ctxid, d := MapDesc.of h.prog.hdr }
    let gone := j.removed h.prog.tab
    let put (s : State) (p : Prog) : State := s.updHCmd k (fun h => { h with prog := p })
    match h.prog.stage with
    | 0 =>
      let bs := s.mem.readN h.e.o1.toNat 32
      if mapOk bs two unmap then put s { stage := 1, hdr := bs } else s.hostFail k Cause.cmdInvalid
    | 3 =>
      if s.mapAwaits j gone h.prog.waits then s
      else (if j.d.free then s.freeFrames (j.outs h.prog.tab) j.d.size else s).hostEffect k 0 (j.count h.prog.tab)
    | _ => match s.mapStep j h.prog with
      | (s, .go p) => put s p
      | (s, .stop (.fail c v)) => s.hostFailMap k c v
      | (s, .stop (.hold pl)) => s.claim (.hostCmd k) pl (j.at_ h.prog) (h.prog.stage == 2)
      | (s, .done) =>
        let s := s.mapDrop j
        if unmap then put s { h.prog with stage := 3, io := [], waits := s.mapWaits j gone }
        else
          let r := s.mapRelease j
          r.1.hostEffect k 0 r.2)

/-- MAP. -/
def execMap (e : HostEntry) (s : State) : Out := s.mapHost e false
/-- UNMAP. -/
def execUnmap (e : HostEntry) (s : State) : Out := s.mapHost e true

end Sys2Proof.Machine
end

