-- ==== Sys2Proof/Machine/Service.lean ====
section
/-!
DEFINITION. The root fault core and the owners of granules (17 R337 to R341, R349, R350; 18 R353; 19 R368; log 43 to 46, 53).
-/

namespace Sys2Proof.Machine

/-! ## The root fault core (17 R337 to R341; 18 R353; 19 R368) -/

/-- The port of a record, if an edge stream port reports it. -/
def Report.port? (r : Report) : Option Nat := if r.rep.toNat / 64 == 0x8100 / 64 then some (r.rep.toNat % 64) else none

/-- Whether a record is of a translation fault whose access, command or port is to be parked. -/
def Report.ofParked (r : Report) : Bool := !r.fatal && !r.hang && parks r.cause && r.park.isSome

/-- Whether what a record tells of is parked still, and has not been released and parked anew since (18 R353). -/
def State.stillParked (s : State) (r : Report) : Bool :=
  s.allParked.any (fun p => r.park == some p.f.seq && (match r.accId, r.cmdId with
    | some i, _ => p.acc == some i
    | none, some i => p.cmd == some i
    | none, none => p.g == r.g && (p.hop || (p.port.isSome && p.port == r.port?))))

/-- Key of a record in the open-fault table. -/
def Report.key (r : Report) : OpenFault :=
  { ctxid := r.ctxid, s2 := r.s2, cause := r.cause, page := (if r.s2 then r.gpa else r.addr) / 4096 }
/-- Whether an entry has a record's key. -/
def OpenFault.sameKey (o p : OpenFault) : Bool := o.ctxid == p.ctxid && o.s2 == p.s2 && o.cause == p.cause && o.page == p.page

/-- A record merged into an open entry or into one that waits to be written; none where there is none. -/
def State.merge (s : State) (r : Report) : Option State :=
  let hit (o : OpenFault) : Bool := o.sameKey r.key
  let same (q : Report) : Bool := q.ofParked && hit q.key
  if !r.ofParked then none
  else if s.openf.any hit then some { s with openf := s.openf.map (fun o => if hit o then { o with count := o.count + 1 } else o) }
  else if s.ringWait.any same then some { s with ringWait := s.ringWait.map (fun q => if same q then { q with count := min 65535 (q.count + 1) } else q) }
  else none

/-- An entry opened for a record that has been written, in a table of 1,024. -/
def State.openEntry (s : State) (r : Report) : State :=
  if r.ofParked && s.openf.length < 1024 && s.allParked.any r.key.covers then { s with openf := s.openf ++ [{ r.key with count := r.count }] } else s

/-- A record written to the stage-2 fault ring, if it has room and the entry is the accelerator's (17 R330, R349). -/
def State.writeS2 (s : State) (r : Report) : State × Bool :=
  let n := 2 ^ (s.s2.fqs.toNat + 4)
  let t := s.s2.ftail.toNat
  let a := s.s2.fbase.toNat + 32 * t
  if s.s2.fqs == 0 || (t + 1) % n == s.s2.fhead.toNat then (s, false)
  else match s.heldFunc 0 a 32 with
    | some pl => (s.claim (.pass 0) pl 0 true, false)
    | none =>
      let s := s.writeFunc false 0 a (r.bytes r.time)
      (({ s with s2 := { s.s2 with ftail := BitVec.ofNat 16 ((t + 1) % n) } }).openEntry r, true)

/-- A record appended to its context's fault stream, if the write may perform: one 32 B write at HWM, which publishes; one that waits for the window is
one of the stream's waiting accesses (07 R227). -/
def State.writeStream (s : State) (r : Report) : State × Bool :=
  let key := faultStream r.ctxid
  let b := s.scb key
  match b.write b.hwm 32 with
  | .wait kind => (s.noteWait key .root b.hwm 32 true kind, false)
  | .perform _ => match s.ringWrite b.greg (.pass 0) r.ctxid b 0 b.hwm (r.bytes r.time) with
    | (s, .ok ()) =>
      let s := s.clearWait key .root
      ((s.changeScb key ((s.scb key).autoAdvance b.hwm 32)).openEntry r, true)
    | (s, .error _) => (s, false)
  | _ => (s, false)

/-- A record written where it goes, if it can be. -/
def State.writeRecord (s : State) (r : Report) : State × Bool := if r.s2 then s.writeS2 r else s.writeStream r

/-- Whether a record goes to the same place as another. -/
def Report.sameWay (r q : Report) : Bool := r.s2 == q.s2 && (r.s2 || r.ctxid == q.ctxid)

/-- A record written, or left to wait in the root core behind earlier ones of its way. -/
def State.place' (s : State) (r : Report) : State :=
  let wait (s : State) : State := { s with ringWait := s.ringWait ++ [r] }
  if s.ringWait.any r.sameWay then wait s
  else match s.writeRecord r with
    | (s, true) => s
    | (s, false) => wait s

/-- A group's member here is lost: the region has been frozen by a FATAL record (19 R368). -/
def State.loseMembers (s : State) (g : RegionNo) (ctxid : Nat) : State :=
  ((s.reg g).groups.filter (fun e => e.1 / 65536 == ctxid && !e.2.table.isEmpty && !e.2.failed)).foldl (fun s e =>
    s.loseGroup e.1 false [e.2.own]) s

/-- A FATAL record: every kernel of the context that holds its reporter ends with its cause, and VALUE is the reporter's region as each of them
numbers it (log 43). -/
def State.fatal (s : State) (r : Report) : State :=
  if r.rep == 0xFFFF || r.gen != s.genOf r.ctxid then s
  else
    let its := s.kernels.filter (fun e => e.2.ctxid == r.ctxid)
    (its.foldl (fun s e => s.stopKernel e.1 r.cause (e.2.regNo r.g % e.2.regions.length)) s).loseMembers r.g r.ctxid

/-- A record taken: discarded, written, merged or fatal; none while the root core has no room for it. -/
def State.takeRecord (s : State) (r : Report) : Option State :=
  let r := { r with time := s.now, count := if r.hang then r.count else 1 }
  if r.ofParked && !s.stillParked r then some s
  else if r.s2 then some ((s.merge r).getD (s.place' r))
  else
    let on := s.faultOpen r.ctxid
    if on && s.waitingFor r.ctxid > 64 then none
    else if r.fatal || !on then
      let s := s.fatal r
      some (if on then s.place' r else s)
    else some ((s.merge r).getD (s.place' r))

/-- A record that waits in the root core tried again; without a fault stream it is fatal. -/
def State.retryRecord (s : State) (i : Nat) (r : Report) : State :=
  let rest := { s with ringWait := s.ringWait.eraseIdx i }
  if (s.ringWait.take i).any r.sameWay then s
  else if !r.s2 && !s.faultOpen r.ctxid then (if r.ofParked && !s.stillParked r then rest else rest.fatal r)
  else match rest.writeRecord r with
    | (t, true) => t
    | (t, false) => { t with ringWait := s.ringWait }

/-- The root core takes a record: the i-th of those that wait in it and those that travel to it; records of one region arrive in order,
its own after every earlier one. During a rebuild they wait until its step 6 is done (19 R369). -/
def execFaultRecord (i : Nat) (s : State) : Out :=
  .next (if s.arm.rebuild != 0 && s.arm.rebuild < 6 then s
    else match s.ringWait[i]? with
    | some r => s.retryRecord i r
    | none =>
      let j := i - s.ringWait.length
      match s.records[j]? with
      | none => s
      | some r =>
        if (s.records.take j).any (fun q => q.g == r.g || r.rep == 0xFFFF) then s
        else (({ s with records := s.records.eraseIdx j }).takeRecord r).getD s)

/-! ## Owners of granules (17 R349, R350) -/

/-- A host access performs: a write changes memory as it lies there; a read changes nothing. -/
def State.hostPerform (s : State) (a : Nat × Option (List Byte)) : State := match a.2 with
  | some bs => s.writeKeyed none (bs.length + 1) a.1 bs
  | none => s

/-- A host access waits on a transfer of its granule to the processor. -/
def State.hostWait (s : State) (n : Nat) (hs : List (Nat × Option (List Byte))) : State :=
  let x : Xfer := (Tab.get s.xfers n).getD { toHost := true, began := s.now }
  { s with xfers := Tab.set s.xfers n { x with hosts := x.hosts ++ hs } }

/-- A host access to memory. -/
def execHostMemoryAccess (addr : Nat) (wr : Option (List Byte)) (s : State) : Out :=
  .next (if !isDevice addr then (if isHost addr then s.hostPerform (addr, wr) else s)
    else
      let n := granule addr
      if Tab.getD s.hostOwned n && !Tab.has s.xfers n then s.hostPerform (addr, wr) else s.hostWait n [(addr, wr)])

/-- `ownxfer`: its response follows the transaction. -/
def execOwnxfer (c : Frame) (s : State) : Out :=
  s.runCmd (fun g id m =>
    let a := frameAddr c
    if m.prog.stage != 0 then s
    else match memFault a 1 with
      | some e => s.failCmd g id e
      | none => match s.translate g m.ctxid a {} with
        | (s, .error (.fail f)) => s.endCmdFree g id f.cause
        | (s, .error (.hold pl)) => s.claim (.command g id) pl a false
        | (s, .ok pl) =>
          if !isDevice pl.pa then s.failCmd g id Cause.cmdInvalid
          else
            let n := granule pl.pa
            let toHost := !c.cf.getLsbD 0
            if Tab.has s.xfers n then s
            else if (Tab.getD s.hostOwned n : Bool) == toHost then s.endCmd g id 0 0
            else
              let s := s.progress g id (fun p => { p with stage := 1 })
              { s with xfers := Tab.set s.xfers n { toHost := toHost, began := s.now, cmds := [(g, id)] } })

/-- The copy engines give up what they have read of a granule: it is read again (17 R349). -/
def State.dropCopies (s : State) (n : Nat) : State :=
  let its (e : EAcc) : Bool := e.wr.isNone && e.got.isSome && !e.pl.bank && isDevice e.pl.pa && granule e.pl.pa == n
  let drop (m : Cmd) : Cmd := if m.isCopy then { m with prog := { m.prog with io := m.prog.io.filter (fun e => !its e) } } else m
  { s with regions := Tab.mapVal s.regions (fun _ r => { r with core := { r.core with cmds := Tab.mapVal r.core.cmds (fun _ m => drop m) } }) }

/-- A transfer ends within 100 µs: the owner changes, `ownxfer`s complete and host accesses perform, or begin a transfer of their own. -/
def execOwnershipTransferEnd (n : Nat) (s : State) : Out :=
  .next (match Tab.get s.xfers n with
    | none => s
    | some x =>
      if s.now > x.began + 100 then s
      else
        let s := { s with xfers := Tab.erase s.xfers n,
                          hostOwned := if x.toHost then Tab.set s.hostOwned n true else Tab.erase s.hostOwned n }
        let s := x.cmds.foldl (fun s c => s.endCmd c.1 c.2 0 1) s
        if x.toHost then x.hosts.foldl State.hostPerform (s.dropCopies n) else if x.hosts.isEmpty then s else s.hostWait n x.hosts)

/-- The `nsend` of the packet whose write at an address waits at a collective unit. -/
def State.hopSender (s : State) (g : RegionNo) (va : Nat) : Option Nat :=
  (s.reg g).arrivals.findSome? (fun a =>
    if a.pk.writesAt va then (s.sender g (grpKey a.ctxid a.pk.group.toNat)).map (·.1) else none)

/-- A command that waits on a transfer that fails: it parks, but `ownxfer` ends (17 R350), and so does a `pmap` or `punmap` at the target's tables,
whose failures park nothing (03 R372; log 46). -/
def State.parkWaiting (s : State) (g : RegionNo) (id : Nat) (f : XFault) (va : Nat) (wr : Bool) : State :=
  let m := Tab.getD (s.core g).cmds id
  if !m.running || m.parked.isSome then s
  else if m.code == 0x83 || ((m.code == 0x81 || m.code == 0x82) && m.prog.stage != 0) then s.endCmdFree g id f.cause
  else s.parkCmd g id f va (m.failValue.getD 0) wr

/-- What waits on a transfer that fails: accesses, commands and ports park; a LAUNCH whose DATA waits fails; what else the Bureau does is tried
again (log 46). -/
def State.parkWaiter (s : State) (w : Agent × Nat × Nat × Bool) : State :=
  let va := w.2.1
  let wr := w.2.2.2
  let f : XFault := { cause := Cause.ownershipTimeout, s2 := true, gpa := w.2.2.1 }
  match w.1 with
  | .command g id => s.parkWaiting g id f va wr
  | .hostCmd k => match Tab.get s.hcmds k with
    | some h => match h.kernel with
      | some n => if h.opc == 0x05 && 1 ≤ h.stage && h.stage < dataDone then s.launchFail k n f.cause 0 else s
      | none => s
    | none => s
  | .event (.accessPerform g id) => match s.acc g id with
    | some a => match a.phase with
      | .ready _ | .walk _ => s.parkAcc g id f va
      | _ => s
    | none => s
  | .event (.edgePortStreamRead g p) | .event (.edgePortStreamWrite g p) => s.parkPort g p.toNat (s.portCtx g p.toNat) f va 0 wr
  | .event (.collectiveHop g _) => match s.hopSender g va with
    | some id => s.parkWaiting g id f va wr
    | none => match (s.reg g).arrivals.findIdx? (fun a => a.pk.writesAt va) with
      | some i => s.parkHop g i f va
      | none => s
  | _ => s

/-- A host access that waits on a transfer that fails: a read answers all ones, a write is dropped, and an entry goes to the stage-2 ring. -/
def State.hostTimeout (s : State) (h : Nat × Option (List Byte)) : State :=
  s.record { cause := Cause.ownershipTimeout, rep := 0xFFFF, aux := h.1, gpa := h.1, s2 := true, wr := h.2.isSome }

/-- A transfer has not ended after 100 µs: the owner stays; what waits on it fails (log 46). -/
def execOwnershipTimeout (n : Nat) (s : State) : Out :=
  .next (match Tab.get s.xfers n with
    | none => s
    | some x =>
      if s.now < x.began + 100 then s
      else
        let s := { s with xfers := Tab.erase s.xfers n }
        let s := x.cmds.foldl (fun s c => s.endCmdFree c.1 c.2 Cause.ownershipTimeout) s
        x.hosts.foldl State.hostTimeout (x.waits.foldl State.parkWaiter s))

end Sys2Proof.Machine
end

