-- ==== Sys2Proof/Machine/Repair.lean ====
section
/-!
DEFINITION. Corrected and uncorrectable errors, links, the Armoire: heartbeats, rebuild, lockstep (19 R363 to R369; log 47, 48).
-/

namespace Sys2Proof.Machine

/-! ## Windows (19 R363) -/

/-- µs of a second and of an hour. -/
def usSecond : Nat := 1000000
def usHour : Nat := 3600 * usSecond

/-- The times that lie within a window before now. -/
def recent (now window : Nat) (ts : List Nat) : List Nat := ts.filter (fun t => now < t + window)

/-- An error of a source counted: the count in its window. -/
def State.countError (s : State) (src : ErrSource) (window : Nat) : State × Nat :=
  let errs := s.errs.filter (fun e => e.1 != src || s.now < e.2 + window) ++ [(src, s.now)]
  ({ s with errs := errs }, (errs.filter (fun e => e.1 == src)).length)

/-- The window of a source begins anew after its action (log 81). -/
def State.clearErrors (s : State) (src : ErrSource) : State := { s with errs := s.errs.filter (fun e => e.1 != src) }

/-- Number of a bank line of the package, and of a memory row's bank. -/
def lineKeyOf (g : RegionNo) (c : CellNo) (line : BitVec 9) : Nat := g.toNat * 2 ^ 17 + c.toNat * 512 + line.toNat

/-- A bank line retired to a spare of its cell, recorded in flash (19 R364: its bytes stay the same). -/
def State.retireLine (s : State) (g : RegionNo) (c : CellNo) (line : BitVec 9) : State :=
  let n := Tab.getD (s.reg g).spares c.toNat
  if n ≥ 8 then s
  else
    let s := s.setReg g { s.reg g with spares := Tab.set (s.reg g).spares c.toNat (n + 1) }
    { s with flash := { s.flash with lines := s.flash.lines ++ [lineKeyOf g c line] } }

/-- Coded row of a stack, and the bank it lies in. -/
def rowKey (stack : BitVec 3) (bank row : Nat) : Nat := (bank * 8 + stack.toNat) * 2 ^ 32 + row % 2 ^ 32

/-- A memory row repaired while its bank has one of its 4 spares left. -/
def State.repairRow (s : State) (stack : BitVec 3) (bank row : Nat) : State :=
  let used := (s.flash.rows.filter (fun r => r / 2 ^ 32 == bank * 8 + stack.toNat)).length
  if used ≥ 4 then s else { s with flash := { s.flash with rows := s.flash.rows ++ [rowKey stack bank row] } }

/-- A corrected error: invisible but for its count and what a full window does. -/
def execCorrectedError (src : ErrSource) (s : State) : Out :=
  .next (match src with
    | .bankLine g c line =>
      let (s, n) := s.countError src (24 * usHour)
      if n ≥ 3 then (s.clearErrors src).retireLine g c line else s
    | .hbmRow stack bank row =>
      let (s, n) := s.countError src usHour
      if n ≥ 2 then (s.clearErrors src).repairRow stack bank row else s
    | .other => { s with errs := s.errs ++ [(src, s.now)] })

/-! ## Links (19 R363, R364, R368) -/

/-- Flits in the buffers of a link: tokens, packets, messages, and the packet that its receive buffer holds. -/
def Link.flits (l : Link) : Nat :=
  (l.outTok.map (fun e => flitsOf e.2)).sum + (l.outPk.map Packet.flits).sum + l.outMsg.length + l.heldMsg.length
    + ((l.heldPk.map (fun h => h.2.1.flits)).getD 0)

/-- A link goes down: the flits in its buffers are discarded and counted, and the groups that route through it lose a member (19 R364, R368). -/
def State.linkDown (s : State) (n : Nat) : State :=
  let l : Link := Tab.getD s.links n
  let l := { l with up := false, retrain := false, lost := l.lost + l.flits, outTok := [], outPk := [], outMsg := [], heldMsg := [], heldPk := none,
                    unacked := [] }
  let s := { s with links := Tab.set s.links n l }
  allRegions.foldl (fun s g =>
    ((s.reg g).groups.filter (fun e => e.2.table.any (fun r => routeKind r == 0 && r.toNat % 16 == n))).foldl (fun s e =>
      s.loseGroup e.1 false (s.lostRanks e.2)) s) s

/-- A retrain begun; the fourth in an hour trains the link at half its width, and one below 200 Gb/s takes it down. -/
def State.retrain (s : State) (n : Nat) : State :=
  let l : Link := Tab.getD s.links n
  let ts := recent s.now usHour l.trains ++ [s.now]
  let l := { l with retrain := true, retries := [] }
  if ts.length < 4 then { s with links := Tab.set s.links n { l with trains := ts } }
  else if l.width > 200 then
    let w := l.width / 2
    { s with links := Tab.set s.links n { l with trains := [], width := w },
             flash := { s.flash with widths := Tab.set s.flash.widths n w } }
  else
    let s := { s with links := Tab.set s.links n { l with trains := [], width := 0 }, flash := { s.flash with widths := Tab.set s.flash.widths n 0 } }
    s.linkDown n

/-- A CRC retry: the flit is sent again in its place; the 64th in a second retrains the link. -/
def execLinkCrcRetry (link : BitVec 4) (s : State) : Out :=
  let n := link.toNat
  let l : Link := Tab.getD s.links n
  .next (if !l.up then s
    else
      let ts := recent s.now usSecond l.retries ++ [s.now]
      let s := { s with links := Tab.set s.links n { l with retries := ts } }
      if ts.length ≥ 64 then s.retrain n else s)

/-- A retrain ends: senders are held no more, and the messages that waited leave. -/
def execLinkRetrainDone (link : BitVec 4) (s : State) : Out :=
  .next { s with links := Tab.upd s.links link.toNat (fun l => { l with retrain := false, outMsg := l.outMsg ++ l.heldMsg, heldMsg := [] }) }

/-! ## The rebuild (19 R369) -/

/-- The record of something parked, as its region sends it again. -/
def State.resent (s : State) (p : Parked) : Report :=
  let (a, x) := p.f.addrs p.addr p.f.aux
  let grants := (s.core p.g).grants ++ (s.reg p.g).images.flatMap (fun im => im.core.grants)
  let y := ((grants.find? (fun e => e.2.kernel == p.kernel)).map (fun e => BitVec.ofNat 2 e.1)).getD 0
  let base : Report := { gen := s.genOf p.ctxid, cause := p.f.cause, addr := a, aux := x, x := y, ctxid := p.ctxid, kernel := p.kernel, g := p.g, wr := p.f.wr,
                         s2 := p.f.s2, level := p.f.level, gpa := p.f.gpa, park := some p.f.seq }
  match p.acc, p.cmd, p.port with
  | some i, _, _ => match ((s.core p.g).accs ++ (s.reg p.g).images.flatMap (fun im => im.core.accs)).find? (fun a => a.id == i) with
    | some a => { a.parkReport p.g p.kernel p.f p.addr with gen := base.gen }
    | none => base
  | none, some i, _ => { base with rep := cmdReporter (s.cmd p.g i), x := (s.cmd p.g i).x, cmdId := some i }
  | none, none, some i => { base with rep := BitVec.ofNat 16 (0x8100 + i) }
  | _, _, _ => { base with rep := BitVec.ofNat 16 (0x8000 + 0x40 * y.toNat) }

/-- Step 4: a context whose control block holds no state of the table ends as CTX_DESTROY ends it. -/
def State.checkBlocks (s : State) : State :=
  s.ctxs.foldl (fun s e =>
    match s.readFunc e.2.func (e.2.ctrl + 3) 1 with
    | (s, .ok [b]) => if b.toNat > 2 then
        let s := s.updCtx e.1 (fun c => { c with ending := true, doomed := true })
        (s.abortCtx e.1).reap e.1
      else s
    | (s, _) => s) s

/-- Step 5 for one journal record: it runs on, runs again from its start, or is aborted. -/
def State.resolve (s : State) (k : Nat) (h : HCmd) : State :=
  if h.step != 2 || h.opc == 0x05 then s
  else if [0x03, 0x04, 0x06, 0x08, 0x09, 0x0A].contains h.opc.toNat then
    s.updHCmd k (fun h => { h with stage := 0, wait := [], held := [], ends := [], buf := [], value := 0, prog := {} })
  else
    let its := if h.opc == 0x02 then [h.e.o0.toNat] else if h.opc == 0x0C then s.ctxsOf h.e.o0.toNat else []
    let s := its.foldl (fun s c => if (Tab.getD s.ctxs c : Ctx).ending then
        (s.updCtx c (fun x => { x with doomed := true })).reap c
      else s) s
    let s := if h.opc == 0x0B then s.keepSaved h.e.o0.toNat false else s
    (s.updHCmd k (fun h => { h with abrt := true })).hostFail k Cause.uncorrectable

/-- Step 5: every journal record is resolved. -/
def State.resolveAll (s : State) : State := s.hcmds.foldl (fun s e => s.resolve e.1 e.2) s

/-- Step 6: the open-fault table is emptied, and every region sends the records of what it has parked once more. -/
def State.resendAll (s : State) : State :=
  let s := { s with openf := [], ringWait := s.ringWait.filter (fun r => !r.ofParked) }
  s.allParked.foldl (fun s p => s.record (s.resent p)) s

/-- A rebuild begins, unless one is under way: step 1, which freezes the schedulers. -/
def State.rebuild (s : State) : State := if s.arm.rebuild != 0 then s else { s with arm := { s.arm with rebuild := 1 } }

/-- A rebuild that holds after its step 2; one under way returns there. -/
def State.rebuildHeld (s : State) : State := { s with arm := { s.arm with rebuild := if s.arm.rebuild == 0 then 1 else 2, holds := true } }

/-! ## Uncorrectable errors (19 R365) -/

/-- The units of a place that the 9100 protects: those of banks and of device memory. -/
def protectedUnit (u : Bool × Nat) : Bool := u.1 || isDevice (32 * u.2)

/-- The units in which accesses can meet an error: what they have to read, or to write in part. -/
def openUnits (ts : List (Place × Nat × Bool)) : List (Bool × Nat) := (ts.flatMap (fun t => t.1.reads t.2.1 t.2.2)).filter protectedUnit

/-- The units in which the line accesses under way can meet an error. -/
def ioUnits (io : List EAcc) : List (Bool × Nat) := openUnits ((io.filter EAcc.underway).map (fun e => (e.pl, e.n, e.wr.isSome)))

/-- One of some units turns bad, and what meets it there follows; with no unit nothing does. -/
def State.spoilOne (s : State) (us : List (Bool × Nat)) (go : State → State) : State :=
  if us.isEmpty then s
  else
    let (i, s) := s.pick us.length
    go { s with bad := (us[i]?).toList ++ s.bad }

/-- An engine meets an uncorrectable error at an access of a command: the command ends with it, a chain at its step; a delivered tuple is
written all the same (10 R244, 11 R280, 14 R293). -/
def State.spoilCmd (s : State) (g : RegionNo) (id : Nat) : State :=
  let m := s.cmd g id
  if !m.running || m.parked.isSome then s
  else s.spoilOne (ioUnits m.prog.io) (fun s =>
    if m.code == 0x70 || m.code == 0x71 then s.chainFail g id Cause.uncorrectable
    else if m.delivers then s
    else s.failCmd g id Cause.uncorrectable)

/-- A port meets an uncorrectable error at a line of its access. -/
def State.spoilPort (s : State) (g : RegionNo) (p : Nat) : State :=
  let e : EdgePort := Tab.getD (s.core g).ports p
  match e.work with
  | none => s
  | some w => if e.parked.isSome then s else s.spoilOne (ioUnits w.io) (fun s => s.failPort g p Cause.uncorrectable 0)

/-- An uncorrectable error that an access, an engine or a port meets, or in the Bureau's state: bits have turned bad where it was to act, and stay so
until a write of the whole unit (log 48). -/
def execUncorrectableError (t : ErrTarget) (s : State) : Out :=
  .next (match t with
    | .access g id => match s.acc g id with
      | none => s
      | some a => match a.phase with
        | .ready pl => s.spoilOne (openUnits (s.touched g a pl)) (fun s => s.uncorrectable g a)
        | _ => s
    | .command g id => s.spoilCmd g id
    | .port g p => s.spoilPort g p.toNat
    | .bureau => s.rebuild)

/-- An uncorrectable error that the scrubber finds in device memory or, at a class 0xC address with the region above its 24 bits, in a bank: it is
counted, the stored bits stay as they are, and an access to them meets it (log 48). -/
def execScrubUncorrectable (addr : Nat) (s : State) : Out :=
  let us : List (Bool × Nat) := if clsOf addr == 0xC then [(true, addr % 2 ^ 29 / 8)] else if isDevice addr then [(false, addr / 32)] else []
  .next { s with scrubbed := s.scrubbed + 1, bad := us ++ s.bad }

/-! ## The Armoire (19 R367) -/

/-- Bureau core 0 writes its heartbeat while it runs. -/
def execHeartbeat (s : State) : Out := .next (if s.bureau then { s with arm := { s.arm with heart := s.now } } else s)

/-- No heartbeat for 1 ms: a rebuild. -/
def execHeartbeatTimeout (s : State) : Out := .next (if s.bureau && s.now ≥ s.arm.heart + 1000 then s.rebuild else s)

/-- The Armoire's cores disagree: the package stops. -/
def execLockstepMismatch (s : State) : Out := .next { s with arm := { s.arm with stopped := true } }

end Sys2Proof.Machine
end

