-- ==== Sys2Proof/Machine/Boot.lean ====
section
/-!
DEFINITION. Boot, recovery of the image, quotes, resets (19 R355 to R360; log 11, 18, 49, 50).
-/

namespace Sys2Proof.Machine

/-! ## The service image (19 R355) -/

/-- The header of an image. -/
structure ImageHeader where
  sigoff : Nat := 0
  npage  : Nat := 0
  phoff  : Nat := 0
  entry  : Nat := 0
  deriving DecidableEq, Repr, Inhabited

/-- The header that 64 bytes hold, if they keep to its table. -/
def imageHeader (bs : List Byte) : Option ImageHeader :=
  let h : ImageHeader := { sigoff := word8 bs 4, npage := word8 bs 3 % 2 ^ 32, phoff := word8 bs 2, entry := word8 bs 5 }
  if word8 bs 0 == 0x000000014E494C42 && word8 bs 1 == h.sigoff + 1452 && h.sigoff % 4096 == 0 && h.npage == h.sigoff / 4096
    && word8 bs 3 / 2 ^ 32 == 0 && word8 bs 6 == 0 && word8 bs 7 == 0 then some h else none

/-- Bytes of the image as they lie in memory. -/
def State.imageBytes (s : State) (off n : Nat) : List Byte := s.readKeyed none (n + 1) (s.boot.addr.toNat + off) n

/-- A failure of verification (19 R356): BSTATE 3 and the code of the step. -/
def State.bootFail (s : State) (code : Byte) : State := { s with boot := { s.boot with bstate := 3, bfail := code } }

/-- Entries of the page-hash table. -/
def hashTable (bs : List Byte) : Nat → List (List Byte)
  | 0 => []
  | n + 1 => bs.take 32 :: hashTable (bs.drop 32) n

/-- The drain limit of an image: 10 µs to 10 ms (17 R342). -/
def drainLimit (img : List Byte) : Nat := min 10000 (max 10 (Config.imageDrain img))

/-- What an image supplies to a region: its codebooks as at reset, and the store of 2,048 microprogram words (06 R192; 19 R355; log 17). -/
def Region.supply (r : Region) (img : List Byte) : Region :=
  { r with cb := [], micro := { r.micro with ofService := Config.microAsTable img,
                                             th := { r.micro.th with prog := (Config.imageMicro img).take 2048 } } }

/-- Steps 2 to 5: header, measurement and signature, configuration; then what the image supplies is copied into the device. -/
def State.verify (s : State) : State × Bool :=
  match imageHeader (s.imageBytes 0 64) with
  | none => (s.bootFail 1, false)
  | some h =>
    let meas := Sha.sha256 (s.imageBytes 0 h.sigoff)
    if !Lms.valid Config.romKey meas (s.imageBytes h.sigoff 1452) then (s.bootFail 2, false)
    else
      let s := { s with boot := { s.boot with meas := meas } }
      let img := s.imageBytes 0 h.sigoff
      if !Config.configOk img then (s.bootFail 4, false)
      else
        let boot := { s.boot with hashes := hashTable (s.imageBytes h.phoff (32 * h.npage)) h.npage, drain := drainLimit img, entry := h.entry,
                                  calib := Config.imageCalib img, regions := Config.imageRegions img, cbs := [0, 1, 2, 3].map (Config.imageCodebook img) }
        (allRegions.foldl (fun s g => s.setReg g ((s.reg g).supply img)) { s with boot := boot }, true)

/-- Spare lines used in a region, by cell, as the repair record lists them. -/
def sparesOf (lines : List Nat) (g : Nat) : Tab Nat :=
  lines.foldl (fun t n => if n / 2 ^ 17 == g then Tab.upd t (n / 512 % 256) (· + 1) else t) []

/-- The repair record applied at boot (19 R363). -/
def State.applyRepairs (s : State) : State :=
  let gs := (s.flash.lines.map (fun n => n / 2 ^ 17)).eraseDups
  let s := gs.foldl (fun s n => s.setReg (BitVec.ofNat 5 n) { s.reg (BitVec.ofNat 5 n) with spares := sparesOf s.flash.lines n }) s
  { s with links := s.flash.widths.foldl (fun t e => Tab.upd t e.1 (fun l => { l with width := e.2, up := e.2 != 0 })) s.links }

/-- The Bureau fetches a page of its image; one whose hash differs stops it, and the rebuild holds (19 R358). -/
def State.fetchPage (s : State) (page : Nat) : State := match s.boot.hashes[page]? with
  | some h => if Sha.sha256 (s.imageBytes (4096 * page) 4096) == h then s
      else { s with boot := { s.boot with bstate := 4, bfail := 3 } }.rebuildHeld
  | none => s

/-- The Bureau cores run, from ENTRY: the first page that they fetch is the one that holds it (19 R357). -/
def State.startBureau (s : State) : State :=
  ({ s with boot := { s.boot with bstate := 2, bfail := 0 }, arm := { s.arm with heart := s.now } }).fetchPage (s.boot.entry / 4096)

/-- The Armoire's next step of a rebuild (19 R369; log 47): 2, unless it holds there, 3 with the Bureau's core restarted under R358, 4, 5, 6, and 7,
with which the rebuild ends and BSTATE returns to 2 where the image has been verified again. -/
def State.armoireStep (s : State) : State :=
  let at_ (s : State) (n : Nat) : State := { s with arm := { s.arm with rebuild := n } }
  match s.arm.rebuild with
  | 0 => s
  | 1 => at_ s 2
  | 2 => if s.arm.holds then s else (at_ s 3).fetchPage (s.boot.entry / 4096)
  | 3 => at_ s.checkBlocks 4
  | 4 => at_ s.resolveAll 5
  | 5 => at_ s.resendAll 6
  | _ => { s with arm := { s.arm with rebuild := 0, heart := s.now },
                  boot := if s.boot.bstate == 1 then { s.boot with bstate := 2, bfail := 0 } else s.boot }

/-- Step 6: the boot count. -/
def State.countBoot (s : State) : State :=
  { s with flash := { s.flash with boots := if s.flash.boots + 1 == 0 then s.flash.boots else s.flash.boots + 1 } }

/-- A write of GO = 1 in state 0, or in state 4: the image is verified, and BSTATE is 1 meanwhile (19 R357, R358). -/
def State.writeGo (s : State) (v : W64) : State :=
  if v.getLsbD 0 && (s.boot.bstate == 0 || s.boot.bstate == 4) then { s with boot := { s.boot with bstate := 1 } } else s

/-- A write of GO; a virtual function's is ignored. -/
def execGo (f : BitVec 5) (v : W64) (s : State) : Out := .next (if f == 0 then s.writeGo v else s)

/-- The ROM verifies the image: steps 2 to 8 of the boot sequence; or, while a rebuild holds, steps 2 to 5, after which the rebuild goes on from its
step 3 or, where they fail, is abandoned (19 R357, R358). -/
def State.romStep (s : State) : State :=
  if s.boot.bstate != 1 || (s.arm.rebuild != 0 && !s.arm.holds) then s
  else if s.arm.holds then match s.verify with
    | (s, true) => { s with arm := { s.arm with holds := false } }
    | (s, false) => { s with arm := { s.arm with rebuild := 0, holds := false } }
  else match s.applyRepairs.verify with
    | (s, true) => s.countBoot.startBureau
    | (s, false) => s

/-- The Bureau fetches a page of its image (19 R358). -/
def execBureauPageFetch (page : Nat) (s : State) : Out := .next (if s.bureau || s.arm.rebuild ≥ 3 then s.fetchPage page else s)

/-! ## Quotes (19 R359, R360) -/

/-- The statement of a quote. -/
def State.statement (s : State) : List Byte :=
  natToBytes 4 0x51554F54 ++ natToBytes 4 s.flash.q ++ (s.boot.meas ++ List.replicate 32 0).take 32
    ++ (s.boot.nonce ++ List.replicate 32 0).take 32 ++ natToBytes 8 s.flash.boots.toNat ++ List.replicate 48 0

/-- Bytes written to host or device memory by the Bureau, in clear. -/
def State.writeClear (s : State) (a : Nat) (bs : List Byte) : State := s.writePlace { pa := a } bs

/-- QGO = 1: a quote begins, unless one is under way, and QSTATE is 1 meanwhile; with no index left QSTATE is 3. -/
def State.writeQgo (s : State) (v : W64) : State :=
  if !v.getLsbD 0 || s.boot.qstate == 1 then s
  else { s with boot := { s.boot with qstate := if s.flash.q ≥ 1024 then 3 else 1 } }

/-- A step of a quote under way: the statement is formed and its index used up in flash; then it is signed, and statement and signature are written
at QADDR (19 R360). -/
def State.quoteStep (s : State) : State :=
  if s.boot.qstate != 1 then s
  else match s.boot.quote with
  | none => { s with flash := { s.flash with q := s.flash.q + 1 }, boot := { s.boot with quote := some (s.flash.q, s.statement) } }
  | some (q, st) =>
    let sig := Config.lmsSign s.boot.resets q st
    let s := s.writeClear s.boot.qaddr.toNat (st ++ (sig ++ List.replicate 1452 0).take 1452)
    { s with boot := { s.boot with qstate := 2, quote := none } }

/-- A write of QGO; a virtual function's is ignored. -/
def execQgo (f : BitVec 5) (v : W64) (s : State) : Out := .next (if f == 0 then s.writeQgo v else s)

/-! ## Reset and loss of power (19 R357, R359, R360, R362, R363; log 50) -/

/-- What a conventional reset leaves: the contents of memory, the flash, and the model's own counters; all else is as right after reset. -/
def State.restart (s : State) : State :=
  { State.reset with cur := s.cur, agenda := s.agenda, tick := s.tick, freeCtr := s.freeCtr, mem := s.mem, lineKey := s.lineKey, bad := s.bad.filter (fun u => !u.1),
                     flash := s.flash, boot := { resets := s.boot.resets + 1, idpub := Config.identity (s.boot.resets + 1) } }

/-- A conventional reset. -/
def execReset (s : State) : Out := .next s.restart

/-- Power is lost and comes back: device memory has lost its contents. A quote under way is lost with it, and its index stays used up in flash
where it already was, with no signature released. -/
def execPowerLoss (s : State) : Out :=
  let r := s.restart
  .next { r with mem := r.mem.filter (fun p => isHost p.1), lineKey := [], bad := [] }

end Sys2Proof.Machine
end

