-- ==== Sys2Proof/Machine/Regs.lean ====
section
/-!
DEFINITION. The registers that the host reaches through BAR 0, and the acceptance of commands (00 R11; 16 R300 to R302; 17 R330; 19 R356;
log 51, 52).
-/

namespace Sys2Proof.Machine

/-- A function. -/
def State.func (s : State) (f : Nat) : Func := Tab.getD s.funcs f

/-- Whether a queue takes commands: created and not being destroyed; queue 0 while AQS holds 4 to 12. -/
def State.queueOn (s : State) (f q : Nat) : Bool :=
  let x := s.func f
  let h := s.queue f q
  x.enabled && h.created && !h.stopped && (q != 0 || (4 ≤ x.aqs.toNat && x.aqs.toNat ≤ 12))

/-! ## Acceptance (16 R301, R302) -/

/-- Commands accepted from a queue and not completed, with the completion entries that CHEAD has not passed. -/
def State.queueCount (s : State) (f q : Nat) : Nat :=
  (s.hcmds.filter (fun e => e.2.f == f && e.2.q == q)).length + (s.queue f q).unread

/-- The Bureau reads the entry at HEAD in full and accepts it, while the completion ring has a place for it. -/
def execCommandAccept (f : BitVec 5) (q : BitVec 4) (s : State) : Out :=
  let h := s.queue f.toNat q.toNat
  let n := 2 ^ s.queueSize f.toNat q.toNat
  .next (if !s.bureau || !s.queueOn f.toNat q.toNat || h.head == h.tail || s.queueCount f.toNat q.toNat ≥ n then s
    else s.ownFunc (.pass 0) f.toNat (s.queueRing f.toNat q.toNat + 64 * h.head) 64 false (fun s =>
      match s.readFunc f.toNat (s.queueRing f.toNat q.toNat + 64 * h.head) 64 with
      | (s, .error _) => s
      | (s, .ok bs) =>
        let w := word512 (bytesToNat bs)
        let s := s.updQueue f.toNat q.toNat (fun h => { h with head := (h.head + 1) % n })
        { s with hcmds := Tab.set s.hcmds s.tick
                   { f := f.toNat, q := q.toNat, opc := fld w 0 8, e := hostFields w, seq := s.tick } }))

/-! ## Queue registers (16 R300) -/

/-- A write of TAIL: ignored where the queue takes no commands or the index lies outside its ring. -/
def State.writeTail (s : State) (f q : Nat) (v : W64) : State :=
  let t := v.toNat % 4096
  if !s.queueOn f q || t ≥ 2 ^ s.queueSize f q then s else s.updQueue f q (fun h => { h with tail := t })

/-- TAIL. -/
def execTailWrite (f : BitVec 5) (q : BitVec 4) (v : W64) (s : State) : Out := .next (s.writeTail f.toNat q.toNat v)

/-- A write of CHEAD: the completion entries that it passes are read. -/
def State.writeChead (s : State) (f q : Nat) (v : W64) : State :=
  let t := v.toNat % 4096
  let n := 2 ^ s.queueSize f q
  if !s.queueOn f q || t ≥ n then s
  else s.updQueue f q (fun h => { h with chead := t, unread := h.unread - (t + n - h.chead) % n })

/-- CHEAD. -/
def execCheadWrite (f : BitVec 5) (q : BitVec 4) (v : W64) (s : State) : Out := .next (s.writeChead f.toNat q.toNat v)

/-- A write of AQS: the indexes of queue 0 become 0 and its first pass begins. -/
def State.writeAqs (s : State) (f : Nat) (v : W64) : State :=
  if !(s.func f).enabled then s
  else { s with funcs := Tab.upd s.funcs f (fun x =>
           { x with aqs := v.truncate 4, queues := Tab.set x.queues 0 { created := true } }) }

/-- AQS. -/
def execAqsWrite (f : BitVec 5) (v : W64) (s : State) : Out := .next (s.writeAqs f.toNat v)

/-! ## Stage-2 registers (17 R330) -/

/-- A write of S2ROOT n: cached translations of function n are removed. -/
def State.writeS2root (s : State) (n : Nat) (v : W64) : State :=
  if n > 16 then s
  else ({ s with s2 := { s.s2 with root := Tab.set s.s2.root n v } }).dropTlb (fun t => s.funcOf t.ctxid == n)

/-- S2ROOT; only the physical function has it. -/
def execS2rootWrite (f : BitVec 5) (n : BitVec 5) (v : W64) (s : State) : Out := .next (if f == 0 then s.writeS2root n.toNat v else s)

/-- A write of S2FHEAD: ignored outside the ring. -/
def State.writeS2fhead (s : State) (v : W64) : State :=
  let t := v.toNat % 65536
  if t ≥ 2 ^ (s.s2.fqs.toNat + 4) then s else { s with s2 := { s.s2 with fhead := BitVec.ofNat 16 t } }

/-- S2FHEAD. -/
def execS2fheadWrite (f : BitVec 5) (v : W64) (s : State) : Out := .next (if f == 0 then s.writeS2fhead v else s)

/-- A write of S2FQS: the ring is empty. -/
def State.writeS2fqs (s : State) (v : W64) : State :=
  { s with s2 := { s.s2 with fqs := v.truncate 4, fhead := 0, ftail := 0 } }

/-- S2FQS. -/
def execS2fqsWrite (f : BitVec 5) (v : W64) (s : State) : Out := .next (if f == 0 then s.writeS2fqs v else s)

/-! ## Registers without behaviour (00 R11) -/

/-- Eight bytes of a 32-byte register replaced. -/
def put8 (bs : List Byte) (i : Nat) (v : W64) : List Byte :=
  let b := (bs ++ List.replicate 32 0).take 32
  b.take (8 * i) ++ natToBytes 8 v.toNat ++ b.drop (8 * i + 8)

/-- A host write to BAR 0. RW fields take the value; a register with behaviour of its own acts as its own step; every other write is
ignored. -/
def State.writeReg (s : State) (f off : Nat) (v : W64) : State :=
  let fn (g : Func → Func) : State := { s with funcs := Tab.upd s.funcs f g }
  if f > 16 || !(s.func f).enabled then s
  else if off == 0x0000 then fn (fun x => { x with aqbase := v })
  else if off == 0x0008 then fn (fun x => { x with acbase := v })
  else if off == 0x0010 then s.writeAqs f v
  else if 0x1000 ≤ off && off < 0x1100 && off % 16 == 0 then s.writeTail f ((off - 0x1000) / 16) v
  else if 0x1800 ≤ off && off < 0x1900 && off % 16 == 0 then s.writeChead f ((off - 0x1800) / 16) v
  else if f != 0 then s
  else if 0x2000 ≤ off && off ≤ 0x2080 && off % 8 == 0 then s.writeS2root ((off - 0x2000) / 8) v
  else if off == 0x2100 then { s with s2 := { s.s2 with fbase := v } }
  else if off == 0x2108 then s.writeS2fqs v
  else if off == 0x2110 then s.writeS2fhead v
  else if off == 0x3000 then { s with boot := { s.boot with addr := v } }
  else if off == 0x3008 then s.writeGo v
  else if 0x3040 ≤ off && off < 0x3060 && off % 8 == 0 then { s with boot := { s.boot with nonce := put8 s.boot.nonce ((off - 0x3040) / 8) v } }
  else if off == 0x3060 then { s with boot := { s.boot with qaddr := v } }
  else if off == 0x3068 then s.writeQgo v
  else s

/-- Eight bytes of a register of n bytes. -/
def get8 (bs : List Byte) (n i : Nat) : W64 := BitVec.ofNat 64 (word8 ((bs ++ List.replicate n 0).take n) i)

/-- What a host read of BAR 0 gives, which changes nothing: WO and RSVD bits read zero, and so does every offset that a function does not have
(00 R11; 16 R300; 17 R330; 19 R356; log 51). -/
def State.hostReg (s : State) (f off : Nat) : W64 :=
  let x := s.func f
  let w (n : Nat) : W64 := BitVec.ofNat 64 n
  let b := s.boot
  if f > 16 || !x.enabled then 0
  else if off == 0x0000 then x.aqbase
  else if off == 0x0008 then x.acbase
  else if off == 0x0010 then w x.aqs.toNat
  else if 0x1000 ≤ off && off < 0x1100 && off % 16 == 0 then w (s.queue f ((off - 0x1000) / 16)).tail
  else if 0x1000 ≤ off && off < 0x1100 && off % 16 == 8 then w (s.queue f ((off - 0x1000) / 16)).head
  else if 0x1800 ≤ off && off < 0x1900 && off % 16 == 0 then w (s.queue f ((off - 0x1800) / 16)).chead
  else if 0x1800 ≤ off && off < 0x1900 && off % 16 == 8 then w (s.queue f ((off - 0x1800) / 16)).ctail
  else if f != 0 then 0
  else if 0x2000 ≤ off && off ≤ 0x2080 && off % 8 == 0 then w (s.s2root ((off - 0x2000) / 8))
  else if off == 0x2100 then s.s2.fbase
  else if off == 0x2108 then w s.s2.fqs.toNat
  else if off == 0x2110 then w s.s2.fhead.toNat
  else if off == 0x2118 then w s.s2.ftail.toNat
  else if off == 0x3000 then b.addr
  else if off == 0x3010 then w (b.bfail.toNat * 2 ^ 8 + b.bstate.toNat)
  else if off == 0x3018 then b.stale
  else if 0x3020 ≤ off && off < 0x3040 && off % 8 == 0 then get8 b.meas 32 ((off - 0x3020) / 8)
  else if 0x3040 ≤ off && off < 0x3060 && off % 8 == 0 then get8 b.nonce 32 ((off - 0x3040) / 8)
  else if off == 0x3060 then b.qaddr
  else if off == 0x3070 then w b.qstate.toNat
  else if 0x3080 ≤ off && off < 0x30B8 && off % 8 == 0 then b.idpub.extractLsb' (8 * (off - 0x3080)) 64
  else 0

/-- A host write to a register. -/
def execRegisterWrite (f : BitVec 5) (off : BitVec 16) (v : W64) (s : State) : Out := .next (s.writeReg f.toNat off.toNat v)

/-- The host enables or disables a virtual function: its registers exist or not. -/
def execFunctionEnable (f : BitVec 5) (on : Bool) (s : State) : Out :=
  .next (if f == 0 || f.toNat > 16 then s
    else { s with funcs := Tab.upd s.funcs f.toNat (fun x =>
             { x with enabled := on, queues := if Tab.has x.queues 0 then x.queues else Tab.set x.queues 0 { created := true } }) })

end Sys2Proof.Machine
end

