-- ==== Sys2Proof/Machine/Dispatch.lean ====
section
/-!
DEFINITION. One arm per constructor of Instr: the call of its meaning.
-/

namespace Sys2Proof.Machine

/-- What an instruction does to the state in which its agent has been chosen. -/
def exec (i : Instr) (s : State) : Host.Outcome State Fault Refusal :=
  match i with
  | .cpy w => Sys2Proof.Machine.execCpy w s
  | .sink w => Sys2Proof.Machine.execSink w s
  | .gate w => Sys2Proof.Machine.execGate w s
  | .steer w => Sys2Proof.Machine.execSteer w s
  | .merge w => Sys2Proof.Machine.execMerge w s
  | .const w => Sys2Proof.Machine.execConst w s
  | .iter w => Sys2Proof.Machine.execIter w s
  | .tid w => Sys2Proof.Machine.execTid w s
  | .iadd w => Sys2Proof.Machine.execIadd w s
  | .isub w => Sys2Proof.Machine.execIsub w s
  | .imul w => Sys2Proof.Machine.execImul w s
  | .imulh w => Sys2Proof.Machine.execImulh w s
  | .imad w => Sys2Proof.Machine.execImad w s
  | .idiv w => Sys2Proof.Machine.execIdiv w s
  | .irem w => Sys2Proof.Machine.execIrem w s
  | .ineg w => Sys2Proof.Machine.execIneg w s
  | .iabs w => Sys2Proof.Machine.execIabs w s
  | .imin w => Sys2Proof.Machine.execImin w s
  | .imax w => Sys2Proof.Machine.execImax w s
  | .cellAnd w => Sys2Proof.Machine.execCellAnd w s
  | .cellOr w => Sys2Proof.Machine.execCellOr w s
  | .cellXor w => Sys2Proof.Machine.execCellXor w s
  | .cellNot w => Sys2Proof.Machine.execCellNot w s
  | .shl w => Sys2Proof.Machine.execShl w s
  | .shr w => Sys2Proof.Machine.execShr w s
  | .sar w => Sys2Proof.Machine.execSar w s
  | .popc w => Sys2Proof.Machine.execPopc w s
  | .clz w => Sys2Proof.Machine.execClz w s
  | .icmp w => Sys2Proof.Machine.execIcmp w s
  | .sel w => Sys2Proof.Machine.execSel w s
  | .agen w => Sys2Proof.Machine.execAgen w s
  | .bcast w => Sys2Proof.Machine.execBcast w s
  | .shuf w => Sys2Proof.Machine.execShuf w s
  | .rot w => Sys2Proof.Machine.execRot w s
  | .pack w => Sys2Proof.Machine.execPack w s
  | .unpack w => Sys2Proof.Machine.execUnpack w s
  | .fadd w => Sys2Proof.Machine.execFadd w s
  | .fsub w => Sys2Proof.Machine.execFsub w s
  | .fmul w => Sys2Proof.Machine.execFmul w s
  | .ffma w => Sys2Proof.Machine.execFfma w s
  | .fmin w => Sys2Proof.Machine.execFmin w s
  | .fmax w => Sys2Proof.Machine.execFmax w s
  | .fabs w => Sys2Proof.Machine.execFabs w s
  | .fneg w => Sys2Proof.Machine.execFneg w s
  | .frcp w => Sys2Proof.Machine.execFrcp w s
  | .frsq w => Sys2Proof.Machine.execFrsq w s
  | .fexp2 w => Sys2Proof.Machine.execFexp2 w s
  | .flog2 w => Sys2Proof.Machine.execFlog2 w s
  | .fcmp w => Sys2Proof.Machine.execFcmp w s
  | .cvt w => Sys2Proof.Machine.execCvt w s
  | .scale w => Sys2Proof.Machine.execScale w s
  | .quant w => Sys2Proof.Machine.execQuant w s
  | .vsum w => Sys2Proof.Machine.execVsum w s
  | .vmax w => Sys2Proof.Machine.execVmax w s
  | .ld w => Sys2Proof.Machine.execLd w s
  | .st w => Sys2Proof.Machine.execSt w s
  | .ldg w => Sys2Proof.Machine.execLdg w s
  | .stg w => Sys2Proof.Machine.execStg w s
  | .sld w => Sys2Proof.Machine.execSld w s
  | .sst w => Sys2Proof.Machine.execSst w s
  | .srel w => Sys2Proof.Machine.execSrel w s
  | .spub w => Sys2Proof.Machine.execSpub w s
  | .spill w => Sys2Proof.Machine.execSpill w s
  | .fill w => Sys2Proof.Machine.execFill w s
  | .mload w => Sys2Proof.Machine.execMload w s
  | .mswap w => Sys2Proof.Machine.execMswap w s
  | .mfire w => Sys2Proof.Machine.execMfire w s
  | .mdrain w => Sys2Proof.Machine.execMdrain w s
  | .mzero w => Sys2Proof.Machine.execMzero w s
  | .msmeta w => Sys2Proof.Machine.execMsmeta w s
  | .isect w => Sys2Proof.Machine.execIsect w s
  | .mark w => Sys2Proof.Machine.execMark w s
  | .aupd w => Sys2Proof.Machine.execAupd w s
  | .own w => Sys2Proof.Machine.execOwn w s
  | .barr w => Sys2Proof.Machine.execBarr w s
  | .bwait w => Sys2Proof.Machine.execBwait w s
  | .add d a b => Sys2Proof.Machine.execAdd d a b s
  | .sub d a b => Sys2Proof.Machine.execSub d a b s
  | .mul d a b => Sys2Proof.Machine.execMul d a b s
  | .mulh d a b => Sys2Proof.Machine.execMulh d a b s
  | .div d a b => Sys2Proof.Machine.execDiv d a b s
  | .rem d a b => Sys2Proof.Machine.execRem d a b s
  | .lecternAnd d a b => Sys2Proof.Machine.execLecternAnd d a b s
  | .lecternOr d a b => Sys2Proof.Machine.execLecternOr d a b s
  | .lecternXor d a b => Sys2Proof.Machine.execLecternXor d a b s
  | .sll d a b => Sys2Proof.Machine.execSll d a b s
  | .srl d a b => Sys2Proof.Machine.execSrl d a b s
  | .sra d a b => Sys2Proof.Machine.execSra d a b s
  | .slt d a b => Sys2Proof.Machine.execSlt d a b s
  | .sltu d a b => Sys2Proof.Machine.execSltu d a b s
  | .addi d a imm => Sys2Proof.Machine.execAddi d a imm s
  | .andi d a imm => Sys2Proof.Machine.execAndi d a imm s
  | .ori d a imm => Sys2Proof.Machine.execOri d a imm s
  | .xori d a imm => Sys2Proof.Machine.execXori d a imm s
  | .slli d a n => Sys2Proof.Machine.execSlli d a n s
  | .srli d a n => Sys2Proof.Machine.execSrli d a n s
  | .srai d a n => Sys2Proof.Machine.execSrai d a n s
  | .slti d a imm => Sys2Proof.Machine.execSlti d a imm s
  | .lui d imm => Sys2Proof.Machine.execLui d imm s
  | .adr d imm => Sys2Proof.Machine.execAdr d imm s
  | .ldB d a off => Sys2Proof.Machine.execLdB d a off s
  | .ldH d a off => Sys2Proof.Machine.execLdH d a off s
  | .ldW d a off => Sys2Proof.Machine.execLdW d a off s
  | .ldD d a off => Sys2Proof.Machine.execLdD d a off s
  | .stB a b off => Sys2Proof.Machine.execStB a b off s
  | .stH a b off => Sys2Proof.Machine.execStH a b off s
  | .stW a b off => Sys2Proof.Machine.execStW a b off s
  | .stD a b off => Sys2Proof.Machine.execStD a b off s
  | .beq a b off => Sys2Proof.Machine.execBeq a b off s
  | .bne a b off => Sys2Proof.Machine.execBne a b off s
  | .blt a b off => Sys2Proof.Machine.execBlt a b off s
  | .bge a b off => Sys2Proof.Machine.execBge a b off s
  | .bltu a b off => Sys2Proof.Machine.execBltu a b off s
  | .bgeu a b off => Sys2Proof.Machine.execBgeu a b off s
  | .jal off => Sys2Proof.Machine.execJal off s
  | .jalr d a off => Sys2Proof.Machine.execJalr d a off s
  | .cld c g n => Sys2Proof.Machine.execCld c g n s
  | .cset c g part => Sys2Proof.Machine.execCset c g part s
  | .cget c g part => Sys2Proof.Machine.execCget c g part s
  | .cissue c port => Sys2Proof.Machine.execCissue c port s
  | .cwait g port nb => Sys2Proof.Machine.execCwait g port nb s
  | .kset k g imm => Sys2Proof.Machine.execKset k g imm s
  | .kadd k g imm => Sys2Proof.Machine.execKadd k g imm s
  | .krd k g => Sys2Proof.Machine.execKrd k g s
  | .kwait k cond g imm => Sys2Proof.Machine.execKwait k cond g imm s
  | .cfgload b => Sys2Proof.Machine.execCfgload b s
  | .cfggo b => Sys2Proof.Machine.execCfggo b s
  | .bdset b g imm => Sys2Proof.Machine.execBdset b g imm s
  | .bdrd b g => Sys2Proof.Machine.execBdrd b g s
  | .bwarr g => Sys2Proof.Machine.execBwarr g s
  | .phase g => Sys2Proof.Machine.execPhase g s
  | .fence scope => Sys2Proof.Machine.execFence scope s
  | .rdst r g => Sys2Proof.Machine.execRdst r g s
  | .wrst r g imm => Sys2Proof.Machine.execWrst r g imm s
  | .trap code => Sys2Proof.Machine.execTrap code s
  | .eret => Sys2Proof.Machine.execEret s
  | .brk => Sys2Proof.Machine.execBrk s
  | .idle => Sys2Proof.Machine.execIdle s
  | .lexit g => Sys2Proof.Machine.execLexit g s
  | .lkill => Sys2Proof.Machine.execLkill s
  | .xinv x g => Sys2Proof.Machine.execXinv x g s
  | .frz g => Sys2Proof.Machine.execFrz g s
  | .thaw g => Sys2Proof.Machine.execThaw g s
  | .ftok g => Sys2Proof.Machine.execFtok g s
  | .sopen c => Sys2Proof.Machine.execSopen c s
  | .spublish c => Sys2Proof.Machine.execSpublish c s
  | .srelease c => Sys2Proof.Machine.execSrelease c s
  | .srewind c => Sys2Proof.Machine.execSrewind c s
  | .sclose c => Sys2Proof.Machine.execSclose c s
  | .sstat c => Sys2Proof.Machine.execSstat c s
  | .sbind c => Sys2Proof.Machine.execSbind c s
  | .tcopy c => Sys2Proof.Machine.execTcopy c s
  | .qcopy c => Sys2Proof.Machine.execQcopy c s
  | .tfill c => Sys2Proof.Machine.execTfill c s
  | .tgather c => Sys2Proof.Machine.execTgather c s
  | .tscatter c => Sys2Proof.Machine.execTscatter c s
  | .karm c => Sys2Proof.Machine.execKarm c s
  | .binit c => Sys2Proof.Machine.execBinit c s
  | .fprobe c => Sys2Proof.Machine.execFprobe c s
  | .rmark c => Sys2Proof.Machine.execRmark c s
  | .cfgput c => Sys2Proof.Machine.execCfgput c s
  | .ctxsave c => Sys2Proof.Machine.execCtxsave c s
  | .ctxload c => Sys2Proof.Machine.execCtxload c s
  | .pmark c => Sys2Proof.Machine.execPmark c s
  | .ngroup c => Sys2Proof.Machine.execNgroup c s
  | .nsend c => Sys2Proof.Machine.execNsend c s
  | .npause c => Sys2Proof.Machine.execNpause c s
  | .nresume c => Sys2Proof.Machine.execNresume c s
  | .dcreate c => Sys2Proof.Machine.execDcreate c s
  | .ddestroy c => Sys2Proof.Machine.execDdestroy c s
  | .ddeposit c => Sys2Proof.Machine.execDdeposit c s
  | .dcopy c => Sys2Proof.Machine.execDcopy c s
  | .dtake c => Sys2Proof.Machine.execDtake c s
  | .chainrun c => Sys2Proof.Machine.execChainrun c s
  | .chainstep c => Sys2Proof.Machine.execChainstep c s
  | .replay c => Sys2Proof.Machine.execReplay c s
  | .pmap c => Sys2Proof.Machine.execPmap c s
  | .punmap c => Sys2Proof.Machine.execPunmap c s
  | .ownxfer c => Sys2Proof.Machine.execOwnxfer c s
  | .ctxCreate e => Sys2Proof.Machine.execCtxCreate e s
  | .ctxDestroy e => Sys2Proof.Machine.execCtxDestroy e s
  | .map e => Sys2Proof.Machine.execMap e s
  | .unmap e => Sys2Proof.Machine.execUnmap e s
  | .launch e => Sys2Proof.Machine.execLaunch e s
  | .streamBind e => Sys2Proof.Machine.execStreamBind e s
  | .drawerCreate e => Sys2Proof.Machine.execDrawerCreate e s
  | .queueCreate e => Sys2Proof.Machine.execQueueCreate e s
  | .queueDestroy e => Sys2Proof.Machine.execQueueDestroy e s
  | .keyLoad e => Sys2Proof.Machine.execKeyLoad e s
  | .snapshot e => Sys2Proof.Machine.execSnapshot e s
  | .vfReset e => Sys2Proof.Machine.execVfReset e s
  | .iterNextValue l => Sys2Proof.Machine.execIterNextValue l s
  | .markerJoin l => Sys2Proof.Machine.execMarkerJoin l s
  | .statefulRelease l => Sys2Proof.Machine.execStatefulRelease l s
  | .resultWrite g cell seq => Sys2Proof.Machine.execResultWrite g cell seq s
  | .undefinedWord w => Sys2Proof.Machine.execUndefinedWord w s
  | .fetchBeyondSection => Sys2Proof.Machine.execFetchBeyondSection s
  | .streamAccessFault g x => Sys2Proof.Machine.execStreamAccessFault g x s
  | .microprogramRun g => Sys2Proof.Machine.execMicroprogramRun g s
  | .debugAttach g x on => Sys2Proof.Machine.execDebugAttach g x on s
  | .debugHalt g x => Sys2Proof.Machine.execDebugHalt g x s
  | .debugResume g x => Sys2Proof.Machine.execDebugResume g x s
  | .debugRegisterWrite g x t v => Sys2Proof.Machine.execDebugRegisterWrite g x t v s
  | .streamRead g id => Sys2Proof.Machine.execStreamRead g id s
  | .streamWrite g id => Sys2Proof.Machine.execStreamWrite g id s
  | .hwmWrite f ap v => Sys2Proof.Machine.execHwmWrite f ap v s
  | .hrelWrite f ap v => Sys2Proof.Machine.execHrelWrite f ap v s
  | .apertureDataWrite f ap off bytes => Sys2Proof.Machine.execApertureDataWrite f ap off bytes s
  | .edgePortStreamRead g port => Sys2Proof.Machine.execEdgePortStreamRead g port s
  | .edgePortStreamWrite g port => Sys2Proof.Machine.execEdgePortStreamWrite g port s
  | .edgePortMarkerPublish g port => Sys2Proof.Machine.execEdgePortMarkerPublish g port s
  | .barrierCount g id => Sys2Proof.Machine.execBarrierCount g id s
  | .probeReturn g ch => Sys2Proof.Machine.execProbeReturn g ch s
  | .collectiveHop g arrival => Sys2Proof.Machine.execCollectiveHop g arrival s
  | .groupPauseReceive g cid grp p => Sys2Proof.Machine.execGroupPauseReceive g cid grp p s
  | .groupPauseReport g cid grp rank => Sys2Proof.Machine.execGroupPauseReport g cid grp rank s
  | .groupResumeReceive g cid grp => Sys2Proof.Machine.execGroupResumeReceive g cid grp s
  | .memberLoss cid grp rank reports => Sys2Proof.Machine.execMemberLoss cid grp rank reports s
  | .voingTokenReceive link ch tok => Sys2Proof.Machine.execVoingTokenReceive link ch tok s
  | .voingAcknowledgement link => Sys2Proof.Machine.execVoingAcknowledgement link s
  | .cxlWriteCompletion line => Sys2Proof.Machine.execCxlWriteCompletion line s
  | .anchorReserve slice n => Sys2Proof.Machine.execAnchorReserve slice n s
  | .homeDeposit slice n => Sys2Proof.Machine.execHomeDeposit slice n s
  | .homeMatch slice n => Sys2Proof.Machine.execHomeMatch slice n s
  | .anchorReturn slice n => Sys2Proof.Machine.execAnchorReturn slice n s
  | .drawerResend g n => Sys2Proof.Machine.execDrawerResend g n s
  | .drawerLiveMark slice n => Sys2Proof.Machine.execDrawerLiveMark slice n s
  | .drawerSweep slice n => Sys2Proof.Machine.execDrawerSweep slice n s
  | .chainStepStart g id => Sys2Proof.Machine.execChainStepStart g id s
  | .commandStart g x port => Sys2Proof.Machine.execCommandStart g x port s
  | .commandComplete g x port => Sys2Proof.Machine.execCommandComplete g x port s
  | .accessPerform g id => Sys2Proof.Machine.execAccessPerform g id s
  | .accessDeliver g id => Sys2Proof.Machine.execAccessDeliver g id s
  | .sourcePortPull g ch => Sys2Proof.Machine.execSourcePortPull g ch s
  | .flitMove g n => Sys2Proof.Machine.execFlitMove g n s
  | .threadTokenEntry g port => Sys2Proof.Machine.execThreadTokenEntry g port s
  | .threadTokenAdmit g x => Sys2Proof.Machine.execThreadTokenAdmit g x s
  | .blockDecision g x => Sys2Proof.Machine.execBlockDecision g x s
  | .activate g x => Sys2Proof.Machine.execActivate g x s
  | .quantumEnd g => Sys2Proof.Machine.execQuantumEnd g s
  | .imageReady g n => Sys2Proof.Machine.execImageReady g n s
  | .regionSave g => Sys2Proof.Machine.execRegionSave g s
  | .regionRestore g n => Sys2Proof.Machine.execRegionRestore g n s
  | .powerGate g => Sys2Proof.Machine.execPowerGate g s
  | .clockGate g => Sys2Proof.Machine.execClockGate g s
  | .clockGateResume g => Sys2Proof.Machine.execClockGateResume g s
  | .residencyT2 g => Sys2Proof.Machine.execResidencyT2 g s
  | .kernelEnd k => Sys2Proof.Machine.execKernelEnd k s
  | .faultRecord n => Sys2Proof.Machine.execFaultRecord n s
  | .drainLimit g => Sys2Proof.Machine.execDrainLimit g s
  | .hostMemoryAccess addr wr => Sys2Proof.Machine.execHostMemoryAccess addr wr s
  | .ownershipTransferEnd granule => Sys2Proof.Machine.execOwnershipTransferEnd granule s
  | .ownershipTimeout granule => Sys2Proof.Machine.execOwnershipTimeout granule s
  | .commandAccept f q => Sys2Proof.Machine.execCommandAccept f q s
  | .tailWrite f q v => Sys2Proof.Machine.execTailWrite f q v s
  | .cheadWrite f q v => Sys2Proof.Machine.execCheadWrite f q v s
  | .aqsWrite f v => Sys2Proof.Machine.execAqsWrite f v s
  | .s2rootWrite f n v => Sys2Proof.Machine.execS2rootWrite f n v s
  | .s2fheadWrite f v => Sys2Proof.Machine.execS2fheadWrite f v s
  | .s2fqsWrite f v => Sys2Proof.Machine.execS2fqsWrite f v s
  | .go f v => Sys2Proof.Machine.execGo f v s
  | .qgo f v => Sys2Proof.Machine.execQgo f v s
  | .registerWrite f off v => Sys2Proof.Machine.execRegisterWrite f off v s
  | .bureauPageFetch page => Sys2Proof.Machine.execBureauPageFetch page s
  | .correctedError src => Sys2Proof.Machine.execCorrectedError src s
  | .linkCrcRetry link => Sys2Proof.Machine.execLinkCrcRetry link s
  | .linkRetrainDone link => Sys2Proof.Machine.execLinkRetrainDone link s
  | .uncorrectableError t => Sys2Proof.Machine.execUncorrectableError t s
  | .scrubUncorrectable addr => Sys2Proof.Machine.execScrubUncorrectable addr s
  | .heartbeat => Sys2Proof.Machine.execHeartbeat s
  | .heartbeatTimeout => Sys2Proof.Machine.execHeartbeatTimeout s
  | .lockstepMismatch => Sys2Proof.Machine.execLockstepMismatch s
  | .reset => Sys2Proof.Machine.execReset s
  | .powerLoss => Sys2Proof.Machine.execPowerLoss s
  | .functionEnable f on => Sys2Proof.Machine.execFunctionEnable f on s

end Sys2Proof.Machine
end

