-- ==== Sys2Proof/Machine/Fetch.lean ====
section
/-!
DEFINITION. Which agent moves next and which instruction it executes, and since when slots are ready (09 R229; 01 R27; 06 R166, R167; log 3, 4, 80).
-/

namespace Sys2Proof.Machine

/-! ## Ready slots (01 R27; log 80) -/

/-- A core without the waits noted at its slots: what a firing changes. -/
def Core.issues (k : Core) : Core :=
  { k with cells := Tab.mapVal k.cells (fun _ c => { c with slots := Tab.mapVal c.slots (fun _ t => { t with held := none }) }) }

/-- Whether a slot is ready: with the issue cycle its own, a firing of it would start, a value of its sequence, a join of markers or a release. -/
def State.slotReady (s : State) (l : SlotLoc) : Bool :=
  let s := { s.updCell l.g l.cell (fun c => { c with ready := [] }) with cur := .slot l }
  let fires (o : Out) : Bool := match o with
    | .next t => decide ((t.core l.g).issues ≠ (s.core l.g).issues)
    | _ => false
  (match decodeSlot (s.slotAt l).word with
    | .ok i => fires (exec i s)
    | .error _ => false)
  || fires (execIterNextValue l s) || fires (execMarkerJoin l s) || fires (execStatefulRelease l s)

/-- The ready slots of a cell: one that was ready before keeps its step. An `isect` takes no issue cycle. -/
def State.readyIn (s : State) (g : RegionNo) (c : CellNo) (cell : Cell) : Tab Nat :=
  cell.slots.filterMap (fun e =>
    if fld e.2.word 55 9 != 0x186 && s.slotReady ⟨g, c, BitVec.ofNat 2 (e.1 / 64), BitVec.ofNat 6 e.1⟩ then
      some (e.1, (Tab.get cell.ready e.1).getD s.tick) else none)

/-- The ready slots of every cell noted. -/
def State.noteReady (s : State) : State :=
  { s with regions := Tab.mapVal s.regions (fun g r => { r with core := { r.core with cells := Tab.mapVal r.core.cells (fun c cell =>
      { cell with ready := s.readyIn (BitVec.ofNat 5 g) (BitVec.ofNat 8 c) cell }) } }) }

/-- The agent of the next action: the head of the agenda, else a free choice; the choice is recorded in `cur`. -/
def State.schedule (s : State) : State :=
  let s := s.noteReady
  match s.agenda with
  | a :: r => { s with cur := a, agenda := r, tick := s.tick + 1 }
  | [] => { s with cur := Config.nextAgent s.freeCtr, freeCtr := s.freeCtr + 1, tick := s.tick + 1 }

/-- The instruction at a thread's PC (06 R166, 03 R94). -/
def fetchWord (t : Thread) : Instr :=
  if t.pc.toNat ≥ 4 * t.prog.length then .fetchBeyondSection
  else
    let w := t.prog.getD (t.pc.toNat / 4) 0
    match decodeLectern w with
    | .ok i => i
    | .error _ => .undefinedWord w

/-- The instruction of the agent that moves; none when only time passes or nothing stands there. -/
def State.fetch (s : State) : Option Instr :=
  match s.cur with
  | .lectern g x => some (fetchWord (s.thread g x))
  | .micro g => some (fetchWord (s.reg g).micro.th)
  | .slot l => (decodeSlot (s.slotAt l).word).toOption
  | .command g id => (decodeFrame (s.cmd g id).w).toOption
  | .hostCmd k => match Tab.get s.hcmds k with
    | some h => hostOf h.opc h.e
    | none => none
  | .event i => some i
  | .rom | .pass _ | .quote | .armoire => none

/-- Time passes, the ROM verifies an image, a quote or a rebuild goes on, or nothing happens where no instruction stands. -/
def State.pass (s : State) : State :=
  match s.cur with
  | .pass us => s.elapse us
  | .hostCmd k => s.hostUndefined k
  | .rom => s.romStep
  | .quote => s.quoteStep
  | .armoire => s.armoireStep
  | _ => s

/-- Whether a stopped package still takes the instruction (19 R367, R357, R360). -/
def survivesStop : Instr → Bool
  | .reset | .powerLoss => true
  | _ => false

/-- The machine with one instruction placed so that the very next step executes it (log 3). -/
def State.place (s : State) (nbits w : Nat) : State :=
  if nbits ≤ 32 then
    let s := s.updThread 0 0 (fun t => { t with live := true, halted := false, prog := [BitVec.ofNat 32 w], pc := 0 })
    { s with agenda := [.lectern 0 0] }
  else if nbits ≤ 64 then
    let l : SlotLoc := ⟨0, 0, 0, 0⟩
    let s := s.updSlot l (fun t => { t with word := BitVec.ofNat 64 w })
    { s with agenda := [.slot l] }
  else if nbits ≤ 128 then
    let s := s.updCore 0 (fun k => { k with cmds := Tab.set k.cmds 0 { w := BitVec.ofNat 128 w, started := true } })
    { s with agenda := [.command 0 0] }
  else
    let w := word512 w
    let s := { s with hcmds := Tab.set s.hcmds 0 { opc := fld w 0 8, e := hostFields w } }
    { s with agenda := [.hostCmd 0], boot := { s.boot with bstate := 2 } }

end Sys2Proof.Machine
end

