-- ==== Sys2Proof/Machine/Step.lean ====
section
/-!
DEFINITION. One step: the next agent is taken and its instruction executed (09 R229).
-/

namespace Sys2Proof.Machine

/-- One step of the machine. -/
def step (s : State) : Host.Outcome State Fault Refusal :=
  match s.schedule.fetch with
  | some i => if s.arm.stopped && !survivesStop i then .fault .packageStopped else exec i s.schedule
  | none => if s.arm.stopped then .fault .packageStopped else .next s.schedule.pass

/-- The machine with an instruction placed where the next step fetches it (log 3). -/
def State.withFetchWord (s : State) (nbits w : Nat) : State := s.place nbits w

end Sys2Proof.Machine
end

