-- ==== Sys2Proof/Safety.lean ====
section
/-!
DEFINITION. What counts as a safe step and which states are well formed, in the terms that claims use.
-/

namespace Sys2Proof.Machine

/-- The memories of a saved image are in canonical form. -/
def Image.memOk (i : Image) : Bool := i.banks.wf

/-- Every memory of the machine is in canonical form: device and host memory, the banks, the banks of saved images and of saved
contexts (log 2). -/
def State.memOk (s : State) : Bool :=
  s.mem.wf && s.banks.wf && s.regions.all (fun r => r.2.images.all Image.memOk) && s.saves.all (fun v => v.banks.wf)

end Sys2Proof.Machine

namespace Sys2Proof
open Machine

/-- Whether an instruction is one of the agent that moves: a Lectern word of a thread, a slot word of a slot, a stream command of a
started command, a host command of an accepted one; the steps of units belong to no agent. -/
def Instr.fits (i : Instr) (a : Agent) : Bool :=
  let thread := match a with
    | .lectern .. | .micro _ => true
    | _ => false
  let slot := match a with
    | .slot _ => true
    | _ => false
  let command := match a with
    | .command .. => true
    | _ => false
  let host := match a with
    | .hostCmd _ => true
    | _ => false
  match i with
  | .undefinedWord _ | .fetchBeyondSection => thread
  | _ =>
    if (encodeLectern i).isSome then thread
    else if i.slotOp?.isSome then slot
    else if i.frameCode?.isSome then command
    else if i.hostOpc?.isSome then host
    else true

end Sys2Proof

namespace Sys2Proof.Machine

/-- A step that goes on: it neither faults nor is refused. -/
def State.goesOn (s : State) : Prop := ∃ t, step s = .next t

end Sys2Proof.Machine
end

