-- ==== Sys2Proof/Certificates/Slice0/Obligations.lean ====
section
/-!
DEFINITION. The statements for the provers: what the machine does, by the numbered rules of spec/, and what it keeps.
-/

namespace Sys2Proof.Claims
open Machine

/-- A step that answers a state. -/
abbrev Next (o : Host.Outcome State Fault Refusal) (t : State) : Prop := o = Host.Outcome.next t

/-- A thread is the agent, may issue, and no register of a list awaits a load (06 R167). -/
def Ready (s : State) (w : Who) (regs : List (BitVec 5)) : Prop :=
  s.who = some w ∧ s.runnable w = true ∧ s.regsReady w (regs.map BitVec.toNat) = true

/-- A program thread is the agent and may issue; command registers count from 32. -/
def ReadyProg (s : State) (g : RegionNo) (x : CtxNo) (regs : List Nat) : Prop :=
  s.cur = .lectern g x ∧ s.runnable (.prog g x) = true ∧ s.regsReady (.prog g x) regs = true

/-- A thread past a word that writes one general register (06 R165, R169). -/
def wrote (s : State) (w : Who) (d : BitVec 5) (v : W64) : State := s.updTh w (fun _ => ((s.th w).wg d v).step)

/-- A thread moved to another PC, nothing else changed. -/
def jumped (s : State) (w : Who) (pc : W64) : State := s.updTh w (fun t => { t with pc := pc })

/-- The load and the store of n bytes (06 R170). -/
def loadOf (n : Nat) (d a : BitVec 5) (off : BitVec 16) : Instr :=
  match n with
  | 1 => .ldB d a off
  | 2 => .ldH d a off
  | 4 => .ldW d a off
  | _ => .ldD d a off
def storeOf (n : Nat) (a b : BitVec 5) (off : BitVec 16) : Instr :=
  match n with
  | 1 => .stB a b off
  | 2 => .stH a b off
  | 4 => .stW a b off
  | _ => .stD a b off

/-- A word starts one access of n bytes at an address, for each class that a thread reaches (06 R171): the word is passed and the access
stands last in the thread's order. -/
def startsAcc (s : State) (g : RegionNo) (x : CtxNo) (i : Instr) (va n : Nat) (a : Acc) : Prop :=
  let t := s.thread g x
  let e : Acc := { a with id := s.tick, seq := s.tick, port := .thread x, ctxid := t.ctxid, gen := t.gen, addr := va, n := n, size := n }
  let past := s.updThread g x Thread.step
  va % n = 0 →
    (∀ pl, clsOf va = 0xC → bits va 24 59 = 0 → bankPlace g (s.grant g x) (va % 2 ^ 24) n = .ok pl →
      Next (exec i s) (past.joinAcc g { e with phase := .ready pl }))
    ∧ (clsOf va = 4 → Next (exec i s) (past.joinAcc g { e with phase := .entering }))
    ∧ (∀ s' pl, clsOf va = 0 → bits va 57 59 = 0 →
      (s.joinAcc g { e with phase := .walk va }).translate g t.ctxid va { wr := a.wr, narrow := true } = (s', .ok pl) →
      Next (exec i s) ((s'.updAcc g s.tick (fun b => { b with phase := .ready pl, va := va, wait := none })).updThread g x Thread.step))

/-- The words that write one general register and nothing else but PC, and the branches. -/
def registerWord : Instr → Bool
  | .add .. | .sub .. | .mul .. | .mulh .. | .div .. | .rem .. | .lecternAnd .. | .lecternOr .. | .lecternXor .. | .sll .. | .srl ..
  | .sra .. | .slt .. | .sltu .. | .addi .. | .andi .. | .ori .. | .xori .. | .slli .. | .srli .. | .srai .. | .slti .. | .lui ..
  | .adr .. | .beq .. | .bne .. | .blt .. | .bge .. | .bltu .. | .bgeu .. | .jal .. | .rdst .. => true
  | _ => false

/-- The general register such a word writes. -/
def registerOf : Instr → Option (BitVec 5)
  | .add d .. | .sub d .. | .mul d .. | .mulh d .. | .div d .. | .rem d .. | .lecternAnd d .. | .lecternOr d .. | .lecternXor d ..
  | .sll d .. | .srl d .. | .sra d .. | .slt d .. | .sltu d .. | .addi d .. | .andi d .. | .ori d .. | .xori d .. | .slli d ..
  | .srli d .. | .srai d .. | .slti d .. | .lui d .. | .adr d .. | .rdst _ d => some d
  | .jal _ => some 31
  | _ => none

end Sys2Proof.Claims

open Sys2Proof Sys2Proof.Machine

/-! ## Lectern words (06) -/

/-- 06 R169, 02 R52: every word of two registers writes the 64-bit value of the table, whatever the operands, to `d` and to nothing
else; `g0` discards it (06 R165). -/
def Sys2Proof.Claims.IntegerWordsWriteTheirValue : Prop :=
  ∀ (s : State) (w : Who) (d a b : BitVec 5), Claims.Ready s w [d, a, b] →
    let x := (s.th w).rg a
    let y := (s.th w).rg b
    let n := (y.extractLsb' 0 6).toNat
    Claims.Next (exec (.add d a b) s) (Claims.wrote s w d (x + y))
    ∧ Claims.Next (exec (.sub d a b) s) (Claims.wrote s w d (x - y))
    ∧ Claims.Next (exec (.mul d a b) s) (Claims.wrote s w d (x * y))
    ∧ Claims.Next (exec (.mulh d a b) s) (Claims.wrote s w d ((x.signExtend 128 * y.signExtend 128).extractLsb' 64 64))
    ∧ Claims.Next (exec (.div d a b) s) (Claims.wrote s w d (if y = 0 then BitVec.allOnes 64 else x.sdiv y))
    ∧ Claims.Next (exec (.rem d a b) s) (Claims.wrote s w d (if y = 0 then x else x.srem y))
    ∧ Claims.Next (exec (.lecternAnd d a b) s) (Claims.wrote s w d (x &&& y))
    ∧ Claims.Next (exec (.lecternOr d a b) s) (Claims.wrote s w d (x ||| y))
    ∧ Claims.Next (exec (.lecternXor d a b) s) (Claims.wrote s w d (x ^^^ y))
    ∧ Claims.Next (exec (.sll d a b) s) (Claims.wrote s w d (x <<< n))
    ∧ Claims.Next (exec (.srl d a b) s) (Claims.wrote s w d (x >>> n))
    ∧ Claims.Next (exec (.sra d a b) s) (Claims.wrote s w d (x.sshiftRight n))
    ∧ Claims.Next (exec (.slt d a b) s) (Claims.wrote s w d (if x.toInt < y.toInt then 1 else 0))
    ∧ Claims.Next (exec (.sltu d a b) s) (Claims.wrote s w d (if x.toNat < y.toNat then 1 else 0))

/-- 06 R169: the words of an immediate: `addi` and `slti` sign-extend it, the logic words zero-extend it, a shift count is 0 to 63,
`lui` gives sext({imm16, 0x0000}, 32), `adr` the byte address of the word + 4 × sext(imm16, 16). A shift whose imm16 [15:6] is not zero is
no word. -/
def Sys2Proof.Claims.ImmediateWordsWriteTheirValue : Prop :=
  (∀ (s : State) (w : Who) (d a : BitVec 5) (imm : BitVec 16) (n : BitVec 6), Claims.Ready s w [d, a] →
    let x := (s.th w).rg a
    Claims.Next (exec (.addi d a imm) s) (Claims.wrote s w d (x + imm.signExtend 64))
    ∧ Claims.Next (exec (.andi d a imm) s) (Claims.wrote s w d (x &&& imm.zeroExtend 64))
    ∧ Claims.Next (exec (.ori d a imm) s) (Claims.wrote s w d (x ||| imm.zeroExtend 64))
    ∧ Claims.Next (exec (.xori d a imm) s) (Claims.wrote s w d (x ^^^ imm.zeroExtend 64))
    ∧ Claims.Next (exec (.slli d a n) s) (Claims.wrote s w d (x <<< n.toNat))
    ∧ Claims.Next (exec (.srli d a n) s) (Claims.wrote s w d (x >>> n.toNat))
    ∧ Claims.Next (exec (.srai d a n) s) (Claims.wrote s w d (x.sshiftRight n.toNat))
    ∧ Claims.Next (exec (.slti d a imm) s) (Claims.wrote s w d (if x.toInt < imm.toInt then 1 else 0)))
  ∧ (∀ (s : State) (w : Who) (d : BitVec 5) (imm : BitVec 16), Claims.Ready s w [d] →
    Claims.Next (exec (.lui d imm) s) (Claims.wrote s w d ((imm ++ 0#16).signExtend 64))
    ∧ Claims.Next (exec (.adr d imm) s) (Claims.wrote s w d ((s.th w).pc + 4 * imm.signExtend 64)))
  ∧ (∀ w : W32, fld w 26 6 ∈ [0x05#6, 0x06#6, 0x07#6] → fld w 6 10 ≠ 0#10 → ∃ e, decodeLectern w = .error e)

/-- 06 R165, R169: the words that write one general register, with register and with immediate operands. -/
def Obligations.RegisterWordsWriteTheirValue : Prop := Claims.IntegerWordsWriteTheirValue ∧ Claims.ImmediateWordsWriteTheirValue

/-- 06 R173: a branch goes to its address + 4 × sext(off16, 16) when the condition holds, else to its address + 4; `jal` links in
`g31`; `jalr` reads its base before it links, and a misaligned target traps MISALIGNED and writes neither `d` nor PC; a PC out of the space
traps ILLEGAL_INSTRUCTION at its fetch. -/
def Obligations.BranchesAndJumpsSetThePc : Prop :=
  (∀ (s : State) (w : Who) (a b : BitVec 5) (off : BitVec 16), Claims.Ready s w [a, b] →
    let x := (s.th w).rg a
    let y := (s.th w).rg b
    let go (taken : Bool) : State := s.updTh w (fun t => if taken then { t with pc := t.pc + 4 * off.signExtend 64 } else t.step)
    Claims.Next (exec (.beq a b off) s) (go (decide (x = y)))
    ∧ Claims.Next (exec (.bne a b off) s) (go (decide (x ≠ y)))
    ∧ Claims.Next (exec (.blt a b off) s) (go (decide (x.toInt < y.toInt)))
    ∧ Claims.Next (exec (.bge a b off) s) (go (decide (y.toInt ≤ x.toInt)))
    ∧ Claims.Next (exec (.bltu a b off) s) (go (decide (x.toNat < y.toNat)))
    ∧ Claims.Next (exec (.bgeu a b off) s) (go (decide (y.toNat ≤ x.toNat))))
  ∧ (∀ (s : State) (w : Who) (off : BitVec 26), Claims.Ready s w [31] →
    let t := s.th w
    Claims.Next (exec (.jal off) s) (s.updTh w (fun _ => { t.wg 31 (t.pc + 4) with pc := t.pc + 4 * off.signExtend 64 })))
  ∧ (∀ (s : State) (w : Who) (d a : BitVec 5) (off : BitVec 16), Claims.Ready s w [d, a] →
    let t := s.th w
    let target := t.rg a + off.signExtend 64
    Claims.Next (exec (.jalr d a off) s)
      (if target.toNat % 4 = 0 then s.updTh w (fun _ => { t.wg d (t.pc + 4) with pc := target })
       else s.trap w Cause.misaligned target t.pc))
  ∧ (∀ (s : State) (g : RegionNo) (x : CtxNo) (rest : List Agent), s.agenda = .lectern g x :: rest → s.arm.stopped = false →
    4 * (s.thread g x).prog.length ≤ (s.thread g x).pc.toNat →
    let s1 : State := { s.noteReady with cur := .lectern g x, agenda := rest, tick := s.tick + 1 }
    Claims.ReadyProg s1 g x [] →
    Claims.Next (step s) (s1.trapEntry g x Cause.illegal (s.thread g x).pc (s.thread g x).pc))

/-- 06 R170 to R172: a load of n bytes whose checks pass goes past its word and joins the end of its thread's accesses with the address
a + sext(imm16, 16) modulo 2^64: a bank line inside the lease at its place, a stream access to be admitted, an access of class 0x0 at
the place it is translated to under the checks of 17 R328 and R332. A `cld` is one load of 16 bytes at g + 16 × sext(sel, 10) (06 R174). That a load
of class 0x0 or 0x4 too goes past its word before it has performed is 06 R167 as log 10 reads it (DEDUCED). -/
def Sys2Proof.Claims.LoadsStartOneAccess : Prop :=
  (∀ (s : State) (g : RegionNo) (x : CtxNo) (d a : BitVec 5) (off : BitVec 16) (n : Nat),
    n ∈ [1, 2, 4, 8] → Claims.ReadyProg s g x [d.toNat, a.toNat] →
    Claims.startsAcc s g x (Claims.loadOf n d a off) ((s.thread g x).rg a + off.signExtend 64).toNat n { op := .read, reg := d.toNat })
  ∧ (∀ (s : State) (g : RegionNo) (x : CtxNo) (c : BitVec 3) (a : BitVec 5) (sel : BitVec 10),
    Claims.ReadyProg s g x [32 + c.toNat, a.toNat] →
    Claims.startsAcc s g x (.cld c a sel) ((s.thread g x).rg a + 16 * sel.signExtend 64).toNat 16 { op := .read, reg := 32 + c.toNat })

/-- 06 R170, R172: a store goes past its word once its access, with the low n bytes of `b`, stands in the thread's store buffer; a store
that finds eight unperformed stores there waits, its word not passed. -/
def Sys2Proof.Claims.StoresStartOneAccess : Prop :=
  ∀ (s : State) (g : RegionNo) (x : CtxNo) (a b : BitVec 5) (off : BitVec 16) (n : Nat),
    n ∈ [1, 2, 4, 8] → Claims.ReadyProg s g x [a.toNat, b.toNat] →
    let t := s.thread g x
    let buffered := ((s.core g).accs.filter (fun e => e.port == .thread x && e.wr && !e.done)).length
    (buffered < 8 →
      Claims.startsAcc s g x (Claims.storeOf n a b off) (t.rg a + off.signExtend 64).toNat n
        { op := .write (natToBytes n ((t.rg b).toNat % 2 ^ (8 * n))), wr := true })
    ∧ (8 ≤ buffered → ∃ t, Claims.Next (exec (Claims.storeOf n a b off) s) t
        ∧ (t.thread g x).pc = (s.thread g x).pc ∧ (t.core g).accs = (s.core g).accs)

/-- 06 R170 to R172, R174: loads and stores start one access, that stands last in the thread's order, and pass their word. -/
def Obligations.LoadsAndStoresStartOneAccess : Prop := Claims.LoadsStartOneAccess ∧ Claims.StoresStartOneAccess

/-- 06 R171, R186: the checks of a program thread's loads and stores in their order, each with its cause and `lval` = the address: the word
traps, once every earlier load has been delivered, and nothing of the access starts. -/
def Obligations.LecternAccessChecksTrapInOrder : Prop :=
  ∀ (s : State) (g : RegionNo) (x : CtxNo) (d a b : BitVec 5) (off : BitVec 16) (n : Nat), n ∈ [1, 2, 4, 8] →
    let t := s.thread g x
    let va := (t.rg a + off.signExtend 64).toNat
    let fails (c : Byte) : Prop :=
      (Claims.ReadyProg s g x [d.toNat, a.toNat] →
        Claims.Next (exec (Claims.loadOf n d a off) s) (s.trapEntry g x c (BitVec.ofNat 64 va) t.pc))
      ∧ (Claims.ReadyProg s g x [a.toNat, b.toNat] →
          ((s.core g).accs.filter (fun e => e.port == .thread x && e.wr && !e.done)).length < 8 →
        Claims.Next (exec (Claims.storeOf n a b off) s) (s.trapEntry g x c (BitVec.ofNat 64 va) t.pc))
    (va % n ≠ 0 → fails Cause.misaligned)
    ∧ (va % n = 0 → clsOf va = 8 → fails Cause.drawerAccess)
    ∧ (va % n = 0 → clsOf va ∉ [0, 4, 8, 0xC] → fails Cause.addrClass)
    ∧ (va % n = 0 → clsOf va = 0xC → bits va 24 59 = 0 → (s.grant g x).lease * 32 ≤ bits va 7 15 → fails Cause.pagePermission)

/-- 09 R230, 05 R142, 06 R170: a read or a write that no row of 09 R231 holds, at a place the package owns, performs: a read takes the
bytes at its place and changes none, a write puts its bytes there. In a bank, and in a line of memory under the access's own key, the
bytes written are the ones then read and every byte outside them reads as before. A CXL write that a thread's access begins is that thread's
to await (09 R235). The place holds no bad bits that the access would meet (19 R365). -/
def Sys2Proof.Claims.AccessesPerformAtTheirPlace : Prop :=
  ∀ (s : State) (g : RegionNo) (id : Nat) (a : Acc) (pl : Place),
    s.acc g id = some a → a.phase = .ready pl → s.holds g a = false → s.ownedOk pl = true →
    s.accSpoiled g a pl = false → clsOf a.addr ≠ 4 →
    let who (t : State) : State := match a.port with
      | .thread x => t.ownCxl s.cxl.length (g, (s.grant g x).kernel)
      | .slot .. => t
    (∀ x, a.port = .thread x → a.op = .read →
      Claims.Next (exec (.accessPerform g id) s) (who (s.performed g a (leNat (s.readPlace pl a.n)))))
    ∧ (∀ c x n, a.port = .slot c x n → a.op = .read →
      let v := a.loadValue (s.readPlace pl a.n)
      let line : Line := if a.line then BitVec.ofNat 1024 v else BitVec.ofNat 1024 (v % 2 ^ 32)
      Claims.Next (exec (.accessPerform g id) s) ((s.writeResult g a line).performed g a v))
    ∧ (∀ d, a.op = .write d → s.memOk = true →
      Claims.Next (exec (.accessPerform g id) s) (who ((s.writePlace pl d).performed g a 0))
      ∧ (pl.bank = true →
        let p := pl.g.toNat * 2 ^ 24 + pl.pa
        let t := (s.writePlace pl d).performed g a 0
        t.mem = s.mem ∧ t.banks.readN p d.length = d ∧ ∀ q, q < p ∨ p + d.length ≤ q → t.banks.read q = s.banks.read q)
      ∧ (pl.bank = false → pl.pa % 128 + d.length ≤ 128 → Tab.get s.lineKey (pl.pa / 128) = s.keyOf pl →
        let t := (s.writePlace pl d).performed g a 0
        t.banks = s.banks ∧ t.mem.readN pl.pa d.length = d
          ∧ ∀ q, q < pl.pa ∨ pl.pa + d.length ≤ q → t.mem.read q = s.mem.read q))

/-- 06 R170, R174, 05 R135: a performed access of a thread is delivered: a load of up to 8 bytes sign-extended to 64 bits in its register
(`g0` discards it), a `cld` as the 16 bytes of its command register, a store nothing; the access leaves its queue. -/
def Sys2Proof.Claims.LecternLoadsDeliver : Prop :=
  ∀ (s : State) (g : RegionNo) (x : CtxNo) (id val : Nat) (a : Acc),
    s.acc g id = some a → a.port = .thread x → a.phase = .performed val →
    (a.op = .read → a.reg < 32 → a.size ∈ [1, 2, 4, 8] → val < 2 ^ (8 * a.size) →
      Claims.Next (exec (.accessDeliver g id) s)
        ((s.updThread g x (fun t => t.wg (BitVec.ofNat 5 a.reg) ((BitVec.ofNat (8 * a.size) val).signExtend 64))).dropAcc g id))
    ∧ (a.op = .read → 32 ≤ a.reg →
      Claims.Next (exec (.accessDeliver g id) s)
        ((s.updThread g x (fun t => { t with c := Tab.set t.c (a.reg - 32) (BitVec.ofNat 128 val) })).dropAcc g id))
    ∧ (∀ d, a.op = .write d → Claims.Next (exec (.accessDeliver g id) s) (s.dropAcc g id))

/-- 05 R135, R142, 06 R170, R174, 09 R230: an access performs at its place, and a load delivers what it read to its register. -/
def Obligations.LecternAccessesPerformAndDeliver : Prop := Claims.AccessesPerformAtTheirPlace ∧ Claims.LecternLoadsDeliver

/-- 06 R174, R176: the parts of a command register; `cset` replaces the bits of its part alone and `clr` writes zero, `cget`
zero-extends its part; `cwait` takes the oldest response, and with NB an empty queue gives 0. -/
def Sys2Proof.Claims.CommandRegisterWords : Prop :=
  ∀ (s : State) (g : RegionNo) (x : CtxNo) (c : BitVec 3) (r : BitVec 5) (p : BitVec 4) (nb : Bool),
    let t := s.thread g x
    let w := t.creg c
    let put (part : BitVec 3) (v : W128) : Prop :=
      Claims.Next (exec (.cset c r part) s) (s.updThread g x (fun t => { t.step with c := Tab.set t.c c.toNat v }))
    let got (part : BitVec 3) (v : W64) : Prop :=
      Claims.Next (exec (.cget c r part) s) (s.updThread g x (fun t => (t.wg r v).step))
    let v := t.rg r
    (Claims.ReadyProg s g x [32 + c.toNat, r.toNat] →
      put 0 (fld w 32 96 ++ fld v 0 32) ∧ put 1 (fld w 64 64 ++ fld v 0 32 ++ fld w 0 32)
      ∧ put 2 (fld w 96 32 ++ fld v 0 32 ++ fld w 0 64) ∧ put 3 (fld w 64 64 ++ v) ∧ put 4 (fld w 112 16 ++ fld v 0 16 ++ fld w 0 96)
      ∧ put 5 (fld v 0 16 ++ fld w 0 112) ∧ put 6 0 ∧ put 7 (fld w 96 32 ++ v ++ fld w 0 32)
      ∧ got 0 ((fld w 0 32).zeroExtend 64) ∧ got 1 ((fld w 32 32).zeroExtend 64) ∧ got 2 ((fld w 64 32).zeroExtend 64)
      ∧ got 3 (fld w 0 64) ∧ got 4 ((fld w 96 16).zeroExtend 64) ∧ got 5 ((fld w 112 16).zeroExtend 64) ∧ got 7 (fld w 32 64))
    ∧ (∀ e rest, Claims.ReadyProg s g x [r.toNat] → (t.port p).rq = e :: rest →
      Claims.Next (exec (.cwait r p nb) s) (s.updThread g x (fun t => ((t.updPort p (fun q => { q with rq := rest })).wg r e).step)))
    ∧ (Claims.ReadyProg s g x [r.toNat] → (t.port p).rq = [] →
      Claims.Next (exec (.cwait r p true) s) (s.updThread g x (fun t => (t.wg r 0).step)))

/-- 06 R175, 03 R89, R91: `cissue` places an accepted command last in its port's issue queue; a refused one traps at the word with its
response element as `lval`: PRIVILEGED_INSTRUCTION and CODE 0xFE for a service command without the privilege, CMD_INVALID and 0xFF for
an undefined code, else CMD_INVALID and the lowest offending bit; with eight commands queued the word waits. -/
def Sys2Proof.Claims.CissueQueuesOrTraps : Prop :=
  ∀ (s : State) (g : RegionNo) (x : CtxNo) (c : BitVec 3) (p : BitVec 4),
    Claims.ReadyProg s g x [32 + c.toNat] →
    let t := s.thread g x
    let w := t.creg c
    let code : BitVec 8 := fld w 120 8
    let cmd : Cmd := { x := x, port := p, w := w, ctxid := t.ctxid, gen := t.gen, kernel := t.kernel, g := g, after := s.tick,
                       seq := s.tick }
    let refused (cause : Byte) (value : W32) : Prop :=
      Claims.Next (exec (.cissue c p) s)
        ((s.updThread g x (fun t => { t.updPort p (fun q => { q with rq := q.rq ++ [respElem w cause value] }) with woken := true })).trapEntry
          g x cause (respElem w cause value) t.pc)
    ((t.port p).iq.length < 8 → (frameOf code (frameFields w)).isSome = true → (FrameRules.needsService code = true → t.spriv = true) →
        FrameRules.offending code (frameFields w) = none →
      Claims.Next (exec (.cissue c p) s)
        (((s.updCore g (fun k => { k with cmds := Tab.set k.cmds s.tick cmd })).updThread g x (fun t =>
          t.updPort p (fun q => { q with iq := q.iq ++ [s.tick] }))).updThread g x Thread.step))
    ∧ (s.loadsOut g x = false → (t.port p).iq = [] → (t.port p).order = [] → (t.port p).rq.length < 8 →
        (FrameRules.needsService code = true → t.spriv = false → refused Cause.privileged 0xFE)
        ∧ ((FrameRules.needsService code = true → t.spriv = true) → frameOf code (frameFields w) = none → refused Cause.cmdInvalid 0xFF)
        ∧ ((FrameRules.needsService code = true → t.spriv = true) → (frameOf code (frameFields w)).isSome = true →
            ∀ n, FrameRules.offending code (frameFields w) = some n → refused Cause.cmdInvalid (BitVec.ofNat 32 n)))
    ∧ (8 ≤ (t.port p).iq.length → ∃ s', Claims.Next (exec (.cissue c p) s) s' ∧ (s'.thread g x).pc = t.pc
        ∧ (s'.core g).cmds = (s.core g).cmds)

/-- 03 R89, R91, 06 R174 to R176: the words of command registers, and the checks and queue of `cissue`. -/
def Obligations.CommandRegistersAndCissue : Prop := Claims.CommandRegisterWords ∧ Claims.CissueQueuesOrTraps

/-- 06 R177, R178: the comparand is (g[31:0] + imm10) mod 2^32; `kset`, `kadd` and `krd` act on the 32-bit counter, and a `kwait` whose
condition holds, unsigned, completes at once; one whose condition does not hold waits at its word, unless it has held since the word was reached
(06 R178). -/
def Sys2Proof.Claims.CounterWords : Prop :=
  ∀ (s : State) (g : RegionNo) (x : CtxNo) (k : BitVec 4) (r : BitVec 5) (imm : BitVec 10), Claims.ReadyProg s g x [r.toNat] →
    let t := s.thread g x
    let n : W32 := fld (t.rg r) 0 32 + imm.zeroExtend 32
    let v := t.counter k
    let done := s.updThread g x Thread.step
    Claims.Next (exec (.kset k r imm) s) (s.updThread g x (fun t => (t.setCounter k n).step))
    ∧ Claims.Next (exec (.kadd k r imm) s) (s.updThread g x (fun t => (t.setCounter k (v + n)).step))
    ∧ Claims.Next (exec (.krd k r) s) (s.updThread g x (fun t => (t.wg r (v.zeroExtend 64)).step))
    ∧ (v = n → Claims.Next (exec (.kwait k 0 r imm) s) done)
    ∧ (v ≠ n → Claims.Next (exec (.kwait k 1 r imm) s) done)
    ∧ (n.toNat ≤ v.toNat → Claims.Next (exec (.kwait k 2 r imm) s) done)
    ∧ (v.toNat < n.toNat → Claims.Next (exec (.kwait k 3 r imm) s) done)
    ∧ (∀ (c : BitVec 3) (fails : Prop), (c, fails) ∈ [(0#3, v ≠ n), (1#3, v = n), (2#3, v.toNat < n.toNat), (3#3, n.toNat ≤ v.toNat)] → fails →
        (t.latched = false → ∃ s', Claims.Next (exec (.kwait k c r imm) s) s' ∧ (s'.thread g x).pc = t.pc ∧ (s'.thread g x).k = t.k
          ∧ (s'.thread g x).g = t.g ∧ ∃ w, (s'.thread g x).wait = some w ∧ w.kind = 6 ∧ w.obj = k.toNat)
        ∧ (t.latched = true → Claims.Next (exec (.kwait k c r imm) s) done))

/-- 06 R181: `bdset` writes n[15:0] when 1 ≤ n ≤ 256, and any other n traps BOND_RANGE with `lval` = n and the register unchanged;
`bdrd` zero-extends the register. -/
def Sys2Proof.Claims.BondWords : Prop :=
  ∀ (s : State) (g : RegionNo) (x : CtxNo) (b : BitVec 4) (r : BitVec 5) (imm : BitVec 10), Claims.ReadyProg s g x [r.toNat] →
    let t := s.thread g x
    let n := t.rg r + imm.zeroExtend 64
    (1 ≤ n.toNat → n.toNat ≤ 256 →
      Claims.Next (exec (.bdset b r imm) s) (s.updThread g x (fun t => { t.step with bd := Tab.set t.bd b.toNat (fld n 0 16) })))
    ∧ (n.toNat = 0 ∨ 256 < n.toNat → Claims.Next (exec (.bdset b r imm) s) (s.trapEntry g x Cause.bondRange n t.pc))
    ∧ Claims.Next (exec (.bdrd b r) s) (s.updThread g x (fun t => (t.wg r ((t.bond b).zeroExtend 64)).step))

/-- 06 R177, R178, R181: the words of counters and of bond registers. -/
def Obligations.CounterAndBondWords : Prop := Claims.CounterWords ∧ Claims.BondWords

/-- 06 R182, 05 R157, R158: a `bwarr` of a thread with no access outstanding takes one from the barrier's PEND; when it is the last
expected one the barrier opens, with GEN + 1 and PEND = EXP, and the word completes; otherwise it waits with the GEN it saw, and
completes once GEN differs. EXP = 0, a misaligned address and g[63:24] ≠ 0 trap. -/
def Sys2Proof.Claims.BarrierArrivalOfAThread : Prop :=
  ∀ (s : State) (g : RegionNo) (x : CtxNo) (r : BitVec 5), Claims.ReadyProg s g x [r.toNat] →
    let t := s.thread g x
    let v := t.rg r
    let trap (c : Byte) : Prop := Claims.Next (exec (.bwarr r) s) (s.trapEntry g x c v t.pc)
    (t.bwarr = none →
      (v.toNat % 16 ≠ 0 → trap Cause.misaligned)
      ∧ (v.toNat % 16 = 0 → 2 ^ 24 ≤ v.toNat → trap Cause.addrClass)
      ∧ (∀ pl, v.toNat < 2 ^ 24 → bankPlace g (s.grant g x) v.toNat 16 = .ok pl → (s.core g).threadDone x = true →
          let b := Barrier.of (s.readPlace pl 16)
          s.spoiled pl 16 false = false →
          (b.exp = 0 → trap Cause.illegal)
          ∧ (b.exp ≠ 0 → b.pend = 1 → b.inb = 0 → b.outb = 0 →
              Claims.Next (exec (.bwarr r) s)
                ((s.writePlace pl (Barrier.bytes { b with gen := (b.gen + 1) % 16, pend := b.exp })).updThread g x Thread.step))
          ∧ (b.exp ≠ 0 → 1 < b.pend → ∃ s', Claims.Next (exec (.bwarr r) s) s'
              ∧ s'.banks = (s.writePlace pl (Barrier.bytes { b with pend := b.pend - 1 })).banks
              ∧ (s'.thread g x).bwarr = some (pl.pa, b.gen) ∧ (s'.thread g x).pc = t.pc)))
    ∧ (∀ off gen, t.bwarr = some (off, gen) →
        s.spoiled { bank := true, g := g, pa := off } 16 false = false →
        (Barrier.of (s.banks.readN (g.toNat * 2 ^ 24 + off) 16)).gen ≠ gen →
          Claims.Next (exec (.bwarr r) s) (s.updThread g x (fun t => { t.step with bwarr := none })))

/-- 06 R183, R184, 09 R235: `phase` gives the incremented 16-bit phase counter of the context once the accesses of the context's cells and
of the thread have performed; `fence` is passed once they have and what its scope waits for has happened, and until then holds its
thread. That it waits for the accesses of the cells too is 09 R233 (log 24). -/
def Sys2Proof.Claims.PhaseAndFence : Prop :=
  ∀ (s : State) (g : RegionNo) (x : CtxNo) (r : BitVec 5) (scope : BitVec 4),
    let k := s.core g
    let past := s.updThread g x Thread.step
    let still := k.threadDone x && !k.accs.any (fun a => a.cell?.isSome && a.ctx == x && !a.done)
    (Claims.ReadyProg s g x [r.toNat] → k.threadDone x = true →
        k.accs.any (fun a => a.cell?.isSome && a.ctx == x && !a.done) = false →
      let n : BitVec 16 := Tab.getD k.phase x.toNat + 1
      Claims.Next (exec (.phase r) s)
        ((s.updCore g (fun k => { k with phase := Tab.set k.phase x.toNat n })).updThread g x (fun t => (t.wg r (n.zeroExtend 64)).step)))
    ∧ (Claims.ReadyProg s g x [] → still = true → Claims.Next (exec (.fence 0) s) past)
    ∧ (Claims.ReadyProg s g x [] → still = true → (s.thread g x).allPosted = true → scope ∈ [1, 2, 3] →
        Claims.Next (exec (.fence scope) s) past)
    ∧ (Claims.ReadyProg s g x [] → still = true → (s.thread g x).allPosted = true →
        (∀ e ∈ s.cxl, e.2 ≠ some (g, (s.thread g x).kernel)) →
        (∀ l ∈ s.links, ∀ e ∈ l.2.unacked, e.1 ≠ some (g, (s.thread g x).kernel)) → Claims.Next (exec (.fence 4) s) past)
    ∧ (Claims.ReadyProg s g x [] → still = false ∨ (scope ≠ 0 ∧ (s.thread g x).allPosted = false) →
        Claims.Next (exec (.fence scope) s) s)

/-- 05 R157, R158, 06 R182 to R184, 09 R235: a thread arrives at a barrier and waits for it, counts phases and awaits a fence. -/
def Obligations.ArrivalPhaseAndFence : Prop := Claims.BarrierArrivalOfAThread ∧ Claims.PhaseAndFence

/-- 06 R180: `cfgload` stages the block that the image gives, and traps with CFG_BAD_SLOT and the cell of the offending record, or with
ILLEGAL_INSTRUCTION and the block at or above NBLK; `cfggo` of an active block completes, of another it makes the staged block the next
choice and waits at its word. That a block is staged for the context that its own records name is log 26 (DEDUCED). -/
def Obligations.ConfigurationWords : Prop :=
  ∀ (s : State) (g : RegionNo) (x : CtxNo) (b : BitVec 4), Claims.ReadyProg s g x [] →
    let t := s.thread g x
    let n := b.toNat
    let y := s.blockCtx g x n
    let beyond := hNBLK (s.kernelOf g x).image ≤ n
    (beyond → Claims.Next (exec (.cfgload b) s) (s.trapEntry g x Cause.illegal (BitVec.ofNat 64 n) t.pc))
    ∧ (¬ beyond → ∀ i, s.imageBlock g y n = .error i →
        Claims.Next (exec (.cfgload b) s) (s.trapEntry g x Cause.cfgBadSlot (BitVec.ofNat 64 i) t.pc))
    ∧ (¬ beyond → ∀ c, s.imageBlock g y n = .ok c →
        Claims.Next (exec (.cfgload b) s) ((s.stageImage g y n c).updThread g x Thread.step))
    ∧ (¬ beyond → (s.sched g y).active = some n → Claims.Next (exec (.cfggo b) s) (s.updThread g x Thread.step))
    ∧ (¬ beyond → (s.sched g y).active ≠ some n → t.going ≠ some n → Tab.has (s.sched g y).staged n = true →
        ∃ s', Claims.Next (exec (.cfggo b) s) s' ∧ (s'.sched g y).forced = some n ∧ (s'.thread g x).going = some n
          ∧ (s'.thread g x).pc = t.pc)

/-- 06 R168, R185: `rdst` reads the whole register; `wrst` writes only the RW fields: `lstat` and `lctx` keep every bit, a PRIO above CEIL
stores CEIL and is the context's in its control block (19 R366; log 60), `lquant` is written only with the service privilege and a value below 100 stores 100, `lseed` seeds the generator of the
cell it names with sd = g[15:0] (02 R58). The microprogram thread holds the registers 0, 1, 2 and 4 alone (06 R165); on another it
stops (log 20). -/
def Obligations.StatusRegisterWords : Prop :=
  ∀ (s : State) (w : Who) (r : BitVec 4) (d : BitVec 5) (imm : BitVec 10), Claims.Ready s w [d] →
    let t := s.th w
    let v := t.rg d
    let set (t' : Thread) : State := (s.updTh w (fun _ => t')).updTh w Thread.step
    (∀ h, w = .micro h → r ∉ [0, 1, 2, 4] →
      Claims.Next (exec (.rdst r d) s) (s.microStop h) ∧ Claims.Next (exec (.wrst r d imm) s) (s.microStop h)) ∧
    ((∀ h, w = .micro h → r ∈ [0, 1, 2, 4]) →
      Claims.Next (exec (.rdst r d) s) (s.updTh w (fun t => (t.wg d (t.status w r)).step)))
    ∧ Claims.Next (exec (.wrst 0 d 0) s) (set t)
    ∧ Claims.Next (exec (.wrst 1 d 0) s) (set { t with lcause := fld v 0 8 })
    ∧ Claims.Next (exec (.wrst 2 d 0) s) (set { t with lepc := fld v 2 12 })
    ∧ Claims.Next (exec (.wrst 4 d 0) s) (set { t with lval := v })
    ∧ ((∀ h, w ≠ .micro h) →
      Claims.Next (exec (.wrst 3 d 0) s) (set { t with vec := fld v 2 12, en := v.getLsbD 0 })
      ∧ Claims.Next (exec (.wrst 5 d 0) s) (set t)
      ∧ Claims.Next (exec (.wrst 6 d 0) s)
        (((s.updTh w (fun _ => { t with prio := if t.ceil.toNat < (fld v 0 2).toNat then t.ceil else fld v 0 2 })).syncParam t.ctxid).updTh w
          Thread.step)
      ∧ Claims.Next (exec (.wrst 7 d 0) s)
        (set (if t.spriv then { t with quant := if (fld v 0 32).toNat < 100 then 100 else fld v 0 32 } else t))
      ∧ (imm.getLsbD 8 = false →
        Claims.Next (exec (.wrst 8 d imm) s)
          ((s.setGen w.g (fld imm 0 8) (Num.seed (fld v 0 16) (cellIdent w.g (fld imm 0 8)))).updTh w Thread.step)))

/-- 06 R186, R188, R196, 03 R94, 06 R166, R193: how a program thread traps and returns. A `trap` and a `brk` without a debugger save the
next word in `lepc`, an undefined word and a fetch beyond the section the word itself; the cause, `lval`, TR and the PC of the handler
are set and nothing else of the thread changes; a thread in its handler or without one stops; traps are precise, so each waits until every
earlier load of the thread has been delivered. `eret` goes back to `lepc` and clears TR. -/
def Obligations.TrapsEnterTheHandlerAndReturn : Prop :=
  ∀ (s : State) (g : RegionNo) (x : CtxNo), Claims.ReadyProg s g x [] →
    let t := s.thread g x
    let enters (i : Instr) (cause : Byte) (val pc : W64) : Prop :=
      (s.loadsOut g x = true → Claims.Next (exec i s) s)
      ∧ (s.loadsOut g x = false → t.tr = false → t.en = true →
        Claims.Next (exec i s) (s.updThread g x (fun t =>
          { t with lcause := cause, lval := val, lepc := fld pc 2 12, tr := true, pc := (t.vec.zeroExtend 64) <<< 2,
                   wait := none, latched := false, going := none })))
      ∧ (s.loadsOut g x = false → t.tr = true ∨ t.en = false → Claims.Next (exec i s) (s.stopThread g x cause val))
    (∀ code, enters (.trap code) Cause.trap (code.zeroExtend 64) (t.pc + 4))
    ∧ (t.dbge = false → enters .brk Cause.breakpoint t.pc (t.pc + 4))
    ∧ (t.dbge = true → Claims.Next (exec .brk s) (s.updThread g x (fun t => { t.step with halted := true })))
    ∧ (∀ w : W32, fld w 26 6 ≠ 0x3F#6 → enters (.undefinedWord w) Cause.illegal (w.zeroExtend 64) t.pc)
    ∧ (∀ w : W32, fld w 26 6 = 0x3F#6 → enters (.undefinedWord w) Cause.privileged (w.zeroExtend 64) t.pc)
    ∧ enters .fetchBeyondSection Cause.illegal t.pc t.pc
    ∧ (∀ k r, enters (.xinv k r) Cause.privileged (wordOf (.xinv k r)) t.pc)
    ∧ (∀ r, enters (.frz r) Cause.privileged (wordOf (.frz r)) t.pc)
    ∧ (∀ r, enters (.thaw r) Cause.privileged (wordOf (.thaw r)) t.pc)
    ∧ (∀ r, enters (.ftok r) Cause.privileged (wordOf (.ftok r)) t.pc)
    ∧ (t.tr = false → enters .eret Cause.illegal (wordOf .eret) t.pc)
    ∧ (t.tr = true → Claims.Next (exec .eret s)
        (s.updThread g x (fun t => { t with pc := (t.lepc.zeroExtend 64) <<< 2, tr := false, wait := none })))

/-- 06 R192, R193: the words of microprogram mode in the microprogram thread: `xinv` drops the cached translations it names and no other,
`frz` stops the resident context and is passed once every started firing has written, `thaw` lets it go on, `ftok` sends the record at
its bank address g[23:0], or waits while the root core can take none (17 R341), `eret` ends the run. -/
def Obligations.MicroprogramWords : Prop :=
  ∀ (s : State) (g : RegionNo) (r : BitVec 5), s.cur = .micro g → s.runnable (.micro g) = true →
    let t := (s.reg g).micro.th
    let past (s : State) : State := s.updTh (.micro g) Thread.step
    let v := t.rg r
    let cur := (s.reg g).micro.cur
    let y : CtxNo := fld v 0 2
    (∀ k : BitVec 4, k.toNat ≤ 2 → ∃ s', Claims.Next (exec (.xinv k r) s) s'
        ∧ (s'.reg g).tlb = (s.reg g).tlb.filter (fun e =>
            !(if k = 0 then e.ctxid == cur.ctxid && e.page * 4096 / 2 ^ e.shift == v.toNat / 2 ^ e.shift else if k = 1 then e.ctxid == cur.ctxid else true))
        ∧ (s'.reg g).core = (s.reg g).core ∧ (s'.reg g).micro.th = t.step)
    ∧ ((s.core g).quiet y = true →
        Claims.Next (exec (.frz r) s) (past (s.updCore g (fun k => { k with frozen := Tab.set k.frozen y.toNat true }))))
    ∧ ((s.core g).quiet y = false →
        Claims.Next (exec (.frz r) s) (s.updCore g (fun k => { k with frozen := Tab.set k.frozen y.toNat true })))
    ∧ Claims.Next (exec (.thaw r) s) (past (s.updCore g (fun k => { k with frozen := Tab.erase k.frozen y.toNat })))
    ∧ (v.toNat % 32 = 0 → s.spoiled { bank := true, g := g, pa := v.toNat % 2 ^ 24 } 32 false = false →
        let f := cur.of (s.banks.readN (g.toNat * 2 ^ 24 + v.toNat % 2 ^ 24) 32)
        (s.ftokHeld f = false → Claims.Next (exec (.ftok r) s) (past { s with records := s.records ++ [f] }))
        ∧ (s.ftokHeld f = true → Claims.Next (exec (.ftok r) s) s))
    ∧ Claims.Next (exec .eret s) (s.setReg g { s.reg g with micro := { (s.reg g).micro with running := false } })

/-- 06 R189 to R191: `idle` waits at its word and completes once an event of the thread has come. `lexit` and `lkill` discard the responses
that stand in the thread's queues; once its accesses have performed and its commands have posted, the thread ends, its registers are
discarded and its kernel holds the exit code, g[31:0] or 0xFFFF_FFFF; until then the thread issues no further word. -/
def Obligations.IdleAndTheEndOfAThread : Prop :=
  ∀ (s : State) (g : RegionNo) (x : CtxNo) (r : BitVec 5),
    let t := s.thread g x
    let ended (code : W32) (s' : State) : Prop :=
      (s'.thread g x).live = false ∧ (s'.thread g x).g = [] ∧ (s'.thread g x).kernel = t.kernel
      ∧ (∀ k, Tab.get s.kernels t.kernel = some k → Tab.get s'.kernels t.kernel = some { k with exits := Tab.set k.exits t.kreg code })
    (Claims.ReadyProg s g x [] → t.wait = none → ∃ s', Claims.Next (exec .idle s) s' ∧ (s'.thread g x).pc = t.pc
        ∧ (s'.thread g x).woken = false)
    ∧ (∀ w, Claims.ReadyProg s g x [] → t.wait = some w → w.kind = 13 → t.woken = true →
        Claims.Next (exec .idle s) (s.updThread g x (fun t => { t.step with woken := false })))
    ∧ (Claims.ReadyProg s g x [r.toNat] → t.ending = none → (s.core g).threadDone x = true → t.allPosted = true →
        ∃ s', Claims.Next (exec (.lexit r) s) s' ∧ ended (fld (t.rg r) 0 32) s')
    ∧ (Claims.ReadyProg s g x [] → t.ending = none → (s.core g).threadDone x = true → t.allPosted = true →
        ∃ s', Claims.Next (exec .lkill s) s' ∧ ended 0xFFFFFFFF s')
    ∧ (Claims.ReadyProg s g x [r.toNat] → t.ending = none → (s.core g).threadDone x = false →
        ∃ s', Claims.Next (exec (.lexit r) s) s' ∧ (s'.thread g x).live = true
          ∧ (s'.thread g x).ending = some { code := fld (t.rg r) 0 32 } ∧ ∀ p, ((s'.thread g x).port p).rq = [])

/-- 06 R165, R169, R173: the frame of the words that write one general register, and of the branches, which write none: whatever they
answer (but for a status register that the microprogram thread lacks, at which it stops), memory and every bank are as before, every other thread, and of their own thread every other general register, every command
register, counter, bond, port and status register. -/
def Obligations.RegisterWordsFrame : Prop :=
  ∀ (i : Instr) (s s' : State) (w : Who), Claims.registerWord i = true → s.who = some w →
    (∀ h, w = .micro h → ∀ r d, i = .rdst r d → r ∈ [0, 1, 2, 4]) → exec i s = .next s' →
    s'.mem = s.mem ∧ s'.banks = s.banks ∧ s'.ctxs = s.ctxs ∧ s'.streams = s.streams ∧ s'.records = s.records
    ∧ (∀ v, v ≠ w → s'.th v = s.th v)
    ∧ (∀ n, some n ≠ Claims.registerOf i → (s'.th w).rg n = (s.th w).rg n)
    ∧ (s'.th w).rg 0 = 0
    ∧ (s'.th w).c = (s.th w).c ∧ (s'.th w).k = (s.th w).k ∧ (s'.th w).bd = (s.th w).bd ∧ (s'.th w).ports = (s.th w).ports
    ∧ (∀ r, (s'.th w).status w r = (s.th w).status w r)

namespace Sys2Proof.Claims

/-- The source codes a firing reads (03 R80, R86). -/
def codesOf (op : BitVec 9) (w : SlotWord) : List (BitVec 5) := [w.sa, w.sb] ++ (if SlotRules.third op then [w.fn] else [])

/-- An operand that is a token of FORM 3. -/
def isSparse (o : Opnd) : Bool := match o.tok with
  | some t => t.form == .sparse
  | none => false

/-- A firing whose slot is free, whose operands are present and whose tokens have a kind and form it takes (01 R36, 04 R107 to R109). -/
structure Fires (s : State) (l : SlotLoc) (op : BitVec 9) (w : SlotWord) (forms : List TokForm) (vector : Bool) (os : List Opnd) :
    Prop where
  agent : s.cur = .slot l
  free  : s.slotFree l w = true
  may   : s.mayFire l (SlotRules.positions op w) = true
  value : s.sources l w.ty.toNat w (codesOf op w) = some os
  kinds : os.all (accepts w.ty.toNat forms) = true
  whole : os.any isSparse = true → vector = false ∧ w.ty ≠ 14 ∧ os.any Opnd.vec = false

/-- What such a firing has: a vector when one of its operands is, on INT64, and in every lane instruction (04 R108, R123). -/
def firing (l : SlotLoc) (w : SlotWord) (vector : Bool) (os : List Opnd) : FireIn :=
  ⟨l, w, w.ty.toNat, os, vector || w.ty.toNat == 14 || os.any Opnd.vec⟩

/-- The TAG that a token of FORM 3 hands on (03 R104). -/
def tagOf (os : List Opnd) : Option (BitVec 16) := os.findSome? (fun o => match o.tok with
  | some t => if t.form == .sparse then some t.tag else none
  | none => none)

/-- The machine after a firing with value o that has left s1: one token pulled at each position read, one result on its way with ROUND of
the lowest position and the AND of the P bits; FORM 3 and TAG follow a token of FORM 3 (01 R34, R36; 03 R104; 05 R160). -/
def fired (s s1 : State) (l : SlotLoc) (op : BitVec 9) (w : SlotWord) (os : List Opnd) (o : FireOut) : State :=
  let ps := SlotRules.positions op w
  let o := match tagOf os with
    | some g => { o with form := .sparse, tag := g }
    | none => o
  (s1.pullAll l ps).launchFlight l w o (o.token l.ctx (s.roundOf l ps) (andP os))

/-- A firing that draws nothing and forms a value of one, two or three elements of its type's width. -/
def elem1 (f : FireIn) (h : BitVec (Num.width f.ty) → BitVec (Num.width f.ty)) : FireOut := f.map1 (fun a => (h (BitVec.ofNat _ a)).toNat)
def elem2 (f : FireIn) (h : BitVec (Num.width f.ty) → BitVec (Num.width f.ty) → BitVec (Num.width f.ty)) : FireOut :=
  f.map2 (fun a b => (h (BitVec.ofNat _ a) (BitVec.ofNat _ b)).toNat)
def elem3 (f : FireIn) (h : BitVec (Num.width f.ty) → BitVec (Num.width f.ty) → BitVec (Num.width f.ty) → BitVec (Num.width f.ty)) :
    FireOut := f.map3 (fun a b c => (h (BitVec.ofNat _ a) (BitVec.ofNat _ b) (BitVec.ofNat _ c)).toNat)

/-- The order of two elements of a type, and the high half of their product. -/
def less {n : Nat} (ty : Nat) (a b : BitVec n) : Bool := if Num.isSigned ty then a.slt b else a.ult b
def high {n : Nat} (ty : Nat) (a b : BitVec n) : BitVec n :=
  if Num.isSigned ty then (a.signExtend (2 * n) * b.signExtend (2 * n)).extractLsb' n n
  else (a.zeroExtend (2 * n) * b.zeroExtend (2 * n)).extractLsb' n n

/-- The instructions of 03 R104: one value from operands (04 R116, R119 to R132). -/
def standard : Instr → Bool
  | .const _ | .iadd _ | .isub _ | .imul _ | .imulh _ | .imad _ | .idiv _ | .irem _ | .ineg _ | .iabs _ | .imin _ | .imax _ | .cellAnd _
  | .cellOr _ | .cellXor _ | .cellNot _ | .shl _ | .shr _ | .sar _ | .popc _ | .clz _ | .icmp _ | .sel _ | .agen _ | .bcast _ | .shuf _
  | .rot _ | .pack _ | .unpack _ | .fadd _ | .fsub _ | .fmul _ | .ffma _ | .fmin _ | .fmax _ | .fabs _ | .fneg _ | .frcp _ | .frsq _
  | .fexp2 _ | .flog2 _ | .fcmp _ | .cvt _ | .scale _ | .quant _ | .vsum _ | .vmax _ => true
  | _ => false

end Sys2Proof.Claims

/-! ## Firings of cells (01, 03, 04) -/

/-- 04 R119, 02 R51, R52: the integer instructions act on each element at the width of the type, modulo 2^w; a divisor of 0 gives all
ones and, for `irem`, the dividend. -/
def Sys2Proof.Claims.CellIntegerResults : Prop :=
  ∀ (s : State) (l : SlotLoc) (w : SlotWord) (os : List Opnd), w.ty.toNat ∈ [0, 1, 2, 3, 4, 5, 14] →
    let ty := w.ty.toNat
    let f := Claims.firing l w false os
    let gives (i : Instr) (op : BitVec 9) (o : FireOut) : Prop :=
      Claims.Fires s l op w [.scalar, .vector, .sparse] false os → Claims.Next (exec i s) (Claims.fired s s l op w os o)
    gives (.iadd w) 0x040 (Claims.elem2 f (fun a b => a + b))
    ∧ gives (.isub w) 0x041 (Claims.elem2 f (fun a b => a - b))
    ∧ gives (.imul w) 0x042 (Claims.elem2 f (fun a b => a * b))
    ∧ gives (.imulh w) 0x043 (Claims.elem2 f (fun a b => Claims.high ty a b))
    ∧ gives (.idiv w) 0x045 (Claims.elem2 f (fun a b => if b = 0 then -1 else if Num.isSigned ty then a.sdiv b else a / b))
    ∧ gives (.irem w) 0x046 (Claims.elem2 f (fun a b => if b = 0 then a else if Num.isSigned ty then a.srem b else a % b))
    ∧ gives (.ineg w) 0x047 (Claims.elem1 f (fun a => -a))
    ∧ gives (.iabs w) 0x048 (Claims.elem1 f (fun a => if Num.isSigned ty && a.slt 0 then -a else a))
    ∧ gives (.imin w) 0x049 (Claims.elem2 f (fun a b => if Claims.less ty b a then b else a))
    ∧ gives (.imax w) 0x04A (Claims.elem2 f (fun a b => if Claims.less ty a b then b else a))
    ∧ gives (.cellAnd w) 0x04B (Claims.elem2 f (fun a b => a &&& b))
    ∧ gives (.cellOr w) 0x04C (Claims.elem2 f (fun a b => a ||| b))
    ∧ gives (.cellXor w) 0x04D (Claims.elem2 f (fun a b => a ^^^ b))
    ∧ gives (.cellNot w) 0x04E (Claims.elem1 f (fun a => ~~~a))
    ∧ gives (.shl w) 0x04F (Claims.elem2 f (fun a b => a <<< (b.toNat % Num.width f.ty)))
    ∧ gives (.shr w) 0x050 (Claims.elem2 f (fun a b => a >>> (b.toNat % Num.width f.ty)))
    ∧ gives (.sar w) 0x051 (Claims.elem2 f (fun a b => a.sshiftRight (b.toNat % Num.width f.ty)))

/-- 04 R119 to R122: bit counts, `imad`, the six conditions of `icmp` as all ones or 0, `sel`, and `agen`: a + b × 2^fn[2:0], kept to 24
bits when fn[3] is set. -/
def Sys2Proof.Claims.CellCountsComparesAndAddresses : Prop :=
  ∀ (s : State) (l : SlotLoc) (w : SlotWord) (os : List Opnd), w.ty.toNat ∈ [0, 1, 2, 3, 4, 5, 14] →
    let ty := w.ty.toNat
    let f := Claims.firing l w false os
    let gives (i : Instr) (op : BitVec 9) (o : FireOut) : Prop :=
      Claims.Fires s l op w [.scalar, .vector, .sparse] false os → Claims.Next (exec i s) (Claims.fired s s l op w os o)
    let cond {n : Nat} (c : Nat) (a b : BitVec n) : Bool := match c with
      | 0 => a == b
      | 1 => a != b
      | 2 => Claims.less ty a b
      | 3 => !Claims.less ty b a
      | 4 => Claims.less ty b a
      | _ => !Claims.less ty a b
    gives (.popc w) 0x052 (Claims.elem1 f (fun a => BitVec.ofNat _ ((List.range (Num.width f.ty)).countP (fun i => a.getLsbD i))))
    ∧ gives (.clz w) 0x053 (Claims.elem1 f (fun a =>
        BitVec.ofNat _ ((List.range (Num.width f.ty)).find? (fun i => a.getMsbD i) |>.getD (Num.width f.ty))))
    ∧ gives (.imad w) 0x044 (Claims.elem3 f (fun a b c => a * b + c))
    ∧ gives (.icmp w) 0x054 (Claims.elem2 f (fun a b => if cond w.fn.toNat a b then -1 else 0))
    ∧ gives (.sel w) 0x055 (Claims.elem3 f (fun a b c => if a = 0 then c else b))
    ∧ gives (.agen w) 0x056 (Claims.elem2 f (fun a b =>
        let r := a + b <<< (w.fn.toNat % 8)
        if w.fn.getLsbD 3 then BitVec.ofNat _ (r.toNat % 2 ^ 24) else r))

/-- 04 R119 to R122: the integer results of cells: arithmetic, logic, shifts, counts, compares and address sums. -/
def Obligations.CellIntegerAndCountingResults : Prop := Claims.CellIntegerResults ∧ Claims.CellCountsComparesAndAddresses

/-- 04 R123, R124: the lane instructions form a vector whatever their operands: `bcast` of the lane that lane 0 of B names, or lane 0
without B, `shuf` of the lanes that B names, `rot` by lane 0 of B, `pack` the lanes of A then of B at half the width, `unpack` one half
of the lanes at twice the width. -/
def Obligations.LaneInstructionResults : Prop :=
  ∀ (s : State) (l : SlotLoc) (w : SlotWord) (a b : Opnd),
    let ty := w.ty.toNat
    let n := 1024 / Num.width ty
    let os := [a, b]
    let f := Claims.firing l w true os
    let lane (i : Nat) : Nat := (f.es 0).getD i 0
    let gives (i : Instr) (op : BitVec 9) (es : List Nat) (width : Nat) : Prop :=
      Claims.Fires s l op w [.scalar, .vector] true os →
        Claims.Next (exec i s) (Claims.fired s s l op w os { pay := Num.join width es, form := .vector })
    gives (.bcast w) 0x057 (List.replicate n (lane (if w.sb = 10 then 0 else lane0 b % n))) (Num.width ty)
    ∧ gives (.shuf w) 0x058 ((f.es 1).map (fun i => lane (i % n))) (Num.width ty)
    ∧ gives (.rot w) 0x059 ((List.range n).map (fun k => lane ((k + lane0 b) % n))) (Num.width ty)
    ∧ gives (.pack w) 0x05A ((f.es 0 ++ f.es 1).map (fun e => Num.cvt ty (halfType ty) e 0 w.sat 0)) (Num.width (halfType ty))
    ∧ gives (.unpack w) 0x05B
        (((f.es 0).drop (if w.fn.getLsbD 0 then n / 2 else 0) |>.take (n / 2)).map (fun e => Num.cvt ty (doubleType ty) e 0 false 0))
        (Num.width (doubleType ty))

/-- 04 R125, R127, R130, 02 R55 to R57: the floating-point instructions round the exact result once, in the mode of the slot, the
product of `ffma` not at all; in mode 2 they draw from the cell's generator, element by element. That a scalar or immediate B of `scale` gives
its 32-bit payload is log 66 (DESIGN CHOICE), that `fexp2` and `flog2` round a value of 512 bits log 14 (PRESUMED). -/
def Obligations.CellFloatResultsAreRoundedOnce : Prop :=
  ∀ (s : State) (l : SlotLoc) (w : SlotWord) (os : List Opnd),
    let f := Claims.firing l w false os
    let gives (i : Instr) (op : BitVec 9) (vs : List Num.Val) : Prop :=
      let r := f.rounded s f.ty vs
      Claims.Fires s l op w [.scalar, .vector, .sparse] false os → Claims.Next (exec i s) (Claims.fired s r.2 l op w os r.1)
    gives (.fadd w) 0x0C0 (List.zipWith Num.addV (f.vals 0) (f.vals 1))
    ∧ gives (.fsub w) 0x0C1 (List.zipWith (fun a b => Num.addV a (Num.negV b)) (f.vals 0) (f.vals 1))
    ∧ gives (.fmul w) 0x0C2 (List.zipWith Num.mulV (f.vals 0) (f.vals 1))
    ∧ gives (.ffma w) 0x0C3 (List.zipWith Num.addV (List.zipWith Num.mulV (f.vals 0) (f.vals 1)) (f.vals 2))
    ∧ gives (.frcp w) 0x0C8 ((f.vals 0).map Num.recip)
    ∧ gives (.frsq w) 0x0C9 ((f.vals 0).map Num.recipSqrt)
    ∧ gives (.fexp2 w) 0x0CA ((f.vals 0).map Num.exp2)
    ∧ gives (.flog2 w) 0x0CB ((f.vals 0).map Num.log2V)
    ∧ gives (.scale w) 0x0CF ((f.vals 0).map (fun a =>
        let n := lane0 (f.op 1)
        let m := if w.fn.getLsbD 0 then Num.value 13 (n % 256) else .fin false 1 (Num.intOf 0 n) false
        if m = .nan then .nan else Num.mulV a m))

/-- 04 R126, R128, R129, R131, R132, 02 R68 to R70, R74, R75: the other floating-point instructions: selections and signs with the canonical NaN,
comparisons as all ones or 0, conversion from the format FN to the slot's, which draws in mode 2 where it rounds, the CB4 blocks that `quant` forms,
alone or into the vector at B, and those that it expands, in FP32, FP16 and BF16, and the reductions over the canonical tree, whose result is a
scalar, that of a scalar being its value. -/
def Obligations.CellSelectionsConversionsAndReductions : Prop :=
  ∀ (s : State) (l : SlotLoc) (w : SlotWord) (os : List Opnd),
    let ty := w.ty.toNat
    let f := Claims.firing l w false os
    let elements (i : Instr) (op : BitVec 9) (o : FireOut) : Prop :=
      Claims.Fires s l op w [.scalar, .vector, .sparse] false os → Claims.Next (exec i s) (Claims.fired s s l op w os o)
    let nan (e : Nat) : Bool := Num.isNan (Num.value ty e)
    elements (.fmin w) 0x0C4 (f.map2 (fun a b => Num.fminmax ty a b false))
    ∧ elements (.fmax w) 0x0C5 (f.map2 (fun a b => Num.fminmax ty a b true))
    ∧ elements (.fabs w) 0x0C6 (f.map1 (fun a => if nan a then Num.canonNan ty else a % 2 ^ (Num.width ty - 1)))
    ∧ elements (.fneg w) 0x0C7 (f.map1 (fun a => if nan a then Num.canonNan ty else a ^^^ 2 ^ (Num.width ty - 1)))
    ∧ elements (.fcmp w) 0x0CC (f.map2 (fun a b =>
        if floatCond w.fn.toNat (Num.value ty a) (Num.value ty b) then 2 ^ Num.width ty - 1 else 0))
    ∧ (let draws := Num.cvtDraws w.fn.toNat ty w.rnd.toNat
       let r := Num.drawMap draws (fun g a => Num.cvt w.fn.toNat ty a w.rnd.toNat w.sat g) (s.gen l.g l.cell)
         ((f.op 0).elems (Num.width w.fn.toNat) (f.count (max (Num.width w.fn.toNat) (Num.width ty))))
       Claims.Fires s l 0x0CD w [.scalar, .vector, .sparse] false os → Claims.Next (exec (.cvt w) s)
         (Claims.fired s (if draws then s.setGen l.g l.cell r.1 else s) l 0x0CD w os (f.out ty r.2)))
    ∧ (Num.cvtDraws w.fn.toNat ty w.rnd.toNat = false →
        elements (.cvt w) 0x0CD (f.out ty (((f.op 0).elems (Num.width w.fn.toNat) (f.count (max (Num.width w.fn.toNat) (Num.width ty)))).map
          (fun e => Num.cvt w.fn.toNat ty e w.rnd.toNat w.sat (s.gen l.g l.cell).toNat))))
    ∧ (∀ a b, os = [a, b] → Claims.Fires s l 0x0D0 w [.scalar, .vector] false os → a.vec = true →
        Claims.Next (exec (.vsum w) s) (Claims.fired s s l 0x0D0 w os
          { pay := scalarPay ty (Num.ctree (Num.redOp ty 0) 0 (Num.elems (Num.width ty) 1024 a.pay)) }))
    ∧ (∀ a b, os = [a, b] → Claims.Fires s l 0x0D1 w [.scalar, .vector] false os → a.vec = true →
        Claims.Next (exec (.vmax w) s) (Claims.fired s s l 0x0D1 w os
          { pay := scalarPay ty (Num.ctree (Num.redOp ty 1) 0 (Num.elems (Num.width ty) 1024 a.pay)) }))
    ∧ (∀ a b, os = [a, b] → a.vec = false →
        let one := if Num.isFloat ty && nan (a.pay % 2 ^ Num.width ty) then Num.canonNan ty else a.pay % 2 ^ Num.width ty
        (Claims.Fires s l 0x0D0 w [.scalar, .vector] false os →
          Claims.Next (exec (.vsum w) s) (Claims.fired s s l 0x0D0 w os { pay := scalarPay ty one }))
        ∧ (Claims.Fires s l 0x0D1 w [.scalar, .vector] false os →
          Claims.Next (exec (.vmax w) s) (Claims.fired s s l 0x0D1 w os { pay := scalarPay ty one })))
    ∧ (∀ a b, os = [a, b] → Claims.Fires s l 0x0CE w [.scalar, .vector] true os →
        let g := Claims.firing l w true os
        let cb := s.codebook l.g l.cell (w.fn.toNat % 4)
        let j := w.fn.toNat / 4
        let nb := if ty = 6 then 1 else 2
        let block (i : Nat) : List Nat := Num.cb4Bytes (Num.cb4Quant (((g.vals 0).drop (32 * i)).take 32) cb)
        let bytes (o : Opnd) : List Nat := (lineBytes (BitVec.ofNat 1024 o.pay)).map BitVec.toNat
        let formed (old : List Nat) : FireOut :=
          { pay := Num.join 8 ((old.take (18 * j) ++ (List.range nb).flatMap block ++ old.drop (18 * (j + nb))).take 126), form := .vector }
        let gives (o : FireOut) : Prop := Claims.Next (exec (.quant w) s) (Claims.fired s s l 0x0CE w os o)
        let fails : Prop := Claims.Next (exec (.quant w) s) (s.fireFault l (SlotRules.positions 0x0CE w) Cause.illegal 0 false)
        (w.mode.getLsbD 2 = false → w.sb = 10 → gives (formed (List.replicate 128 0)))
        ∧ (w.mode.getLsbD 2 = false → w.sb ≠ 10 → b.vec = true → gives (formed (bytes b)))
        ∧ (w.mode.getLsbD 2 = false → w.sb ≠ 10 → b.vec = false → fails)
        ∧ (w.mode.getLsbD 2 = true → a.vec = true → gives (g.out ty ((List.range nb).flatMap (fun i =>
            let r := Num.cb4Read ((bytes a).drop (18 * (j + i)))
            r.1.map (fun k => Num.roundFmt ty (Num.cb4Value cb k r.2) 0 false 0)))))
        ∧ (w.mode.getLsbD 2 = true → a.vec = false → fails))

/-- 04 R112 to R116, 05 R162: the moves. `cpy` hands its source on to both targets and `sink` takes it; `gate` sends its data to both
targets when the condition is not 0 and to neither when it is, `steer` to target 0 or to target 1; both positions are pulled, and P is
that of the data; with KOUT a scalar is sent on as a control token, and any other form ends the firing, as a condition that is no scalar does.
`merge` takes the token at A when one that is no marker stands there, else the one at B. `const` forms its source, a register's vector or an
immediate, which is a scalar but on INT64. -/
def Obligations.MovesGatesAndMerges : Prop :=
  ∀ (s : State) (l : SlotLoc) (w : SlotWord), s.cur = .slot l → s.slotFree l w = true →
    let sent (op : BitVec 9) (o : Opnd) (c0 c1 : Bool) : State :=
      let ps := SlotRules.positions op w
      (s.pullAll l ps).moveFlight l w (movedToken o l.ctx (s.roundOf l ps)) c0 c1
    (∀ o, s.source l 0 w w.sa = some o → movable o = true →
      (s.mayFire l (SlotRules.positions 0x001 w) = true → Claims.Next (exec (.cpy w) s) (sent 0x001 o true true))
      ∧ (s.mayFire l (SlotRules.positions 0x002 w) = true → Claims.Next (exec (.sink w) s) (sent 0x002 o true true))
      ∧ (∀ src k, s.headAt l 3 = some (src, k) → k.kind ∈ [.data, .control] → k.form = .scalar → w.fn = 0 →
          let c : Bool := fld k.pay 0 32 != 0
          Claims.Next (exec (.gate w) s) (sent 0x003 o c c) ∧ Claims.Next (exec (.steer w) s) (sent 0x004 o c (!c)))
      ∧ (∀ src k, s.headAt l 3 = some (src, k) → k.kind ∈ [.data, .control] → k.form = .scalar → w.fn = 1 →
          let c : Bool := fld k.pay 0 32 != 0
          let kout (op : BitVec 9) (c0 c1 : Bool) : State :=
            let ps := SlotRules.positions op w
            (s.pullAll l ps).moveFlight l w { movedToken o l.ctx (s.roundOf l ps) with kind := .control } c0 c1
          let scalar : Bool := (movedToken o l.ctx 0).form == .scalar
          (scalar = true → Claims.Next (exec (.gate w) s) (kout 0x003 c c) ∧ Claims.Next (exec (.steer w) s) (kout 0x004 c (!c)))
          ∧ (scalar = false →
            Claims.Next (exec (.gate w) s) (s.fireFault l (SlotRules.positions 0x003 w) Cause.illegal 0 false)
            ∧ Claims.Next (exec (.steer w) s) (s.fireFault l (SlotRules.positions 0x004 w) Cause.illegal 0 false)))
      ∧ (∀ src k, s.headAt l 3 = some (src, k) → k.kind ≠ .marker → (k.kind ∉ [.data, .control] ∨ k.form ≠ .scalar) →
          Claims.Next (exec (.gate w) s) (s.fireFault l (SlotRules.positions 0x003 w) Cause.illegal 0 false)
          ∧ Claims.Next (exec (.steer w) s) (s.fireFault l (SlotRules.positions 0x004 w) Cause.illegal 0 false))
      ∧ Claims.Next (exec (.merge w) s)
          ((s.pullAll l [fld w.sa 0 2]).moveFlight l w (movedToken o l.ctx (s.roundOf l [fld w.sa 0 2])) true true))
    ∧ (∀ o, s.source l 0 w w.sa = none → s.source l 0 w w.sb = some o → movable o = true →
        Claims.Next (exec (.merge w) s)
          ((s.pullAll l [fld w.sb 0 2]).moveFlight l w (movedToken o l.ctx (s.roundOf l [fld w.sb 0 2])) true true))
    ∧ (∀ a b, Claims.Fires s l 0x006 w [] false [a, b] → a.vec = true →
        Claims.Next (exec (.const w) s) (Claims.fired s s l 0x006 w [a, b] { pay := a.pay, form := .vector }))
    ∧ (∀ a b, Claims.Fires s l 0x006 w [] false [a, b] → a.vec = false →
        let f := Claims.firing l w false [a, b]
        Claims.Next (exec (.const w) s) (Claims.fired s s l 0x006 w [a, b] (f.out w.ty.toNat (f.es 0))))

/-- 04 R117, R118: `iter` forms START + i × STEP modulo 2^w for i = 0 to COUNT - 1, one value at a firing, its remaining values by the
steps that follow; with EMARK a marker follows the last one, and a COUNT of 0 forms that marker alone; `tid` forms one coordinate of
the oldest admitted thread token. -/
def Sys2Proof.Claims.SequencesAndCoordinates : Prop :=
  ∀ (s : State) (l : SlotLoc) (w : SlotWord),
    let t := s.slotAt l
    let wd := Num.width w.ty.toNat
    let step : Int := if w.fn = 0 then 1 else w.fn.toInt
    let emark := w.mode.getLsbD 2
    let marker (rc : Byte) : Token := { kind := .marker, form := .scalar, ctx := l.ctx, round := rc, p := true, tag := 0, pay := 0 }
    let value (q : IterSeq) : FireOut :=
      { pay := scalarPay w.ty.toNat (((q.start : Int) + q.i * step) % 2 ^ wd).toNat }
    let emitted (s : State) (q : IterSeq) : State :=
      (s.launchFlight l w (value q) ((value q).token l.ctx q.round q.p)).updSlot l (fun u =>
        if q.count = some (q.i + 1) then { u with iter := none, after := if emark then some (marker u.rc) else u.after }
        else { u with iter := some { q with i := q.i + 1 } })
    (∀ a b, s.cur = .slot l → s.slotFree l w = true → s.mayFire l (SlotRules.positions 0x007 w) = true → t.iter = none →
      s.sources l w.ty.toNat w [w.sa, w.sb] = some [a, b] → [a, b].all (accepts w.ty.toNat [.scalar]) = true → w.mode.getLsbD 1 = false →
      let ps := SlotRules.positions 0x007 w
      let q : IterSeq := { count := some (a.pay % 2 ^ wd), start := b.pay % 2 ^ wd, p := andP [a, b], round := s.roundOf l ps }
      (a.pay % 2 ^ wd ≠ 0 → Claims.Next (exec (.iter w) s) (emitted (s.pullAll l ps) q))
      ∧ (a.pay % 2 ^ wd = 0 → ∃ s', Claims.Next (exec (.iter w) s) s'
          ∧ (s'.slotAt l).res = if emark then markerReg w (marker ((s.pullAll l ps).slotAt l).rc) s.tick else ((s.pullAll l ps).slotAt l).res))
    ∧ (∀ q, slotFields t.word = w → t.iter = some q → s.slotFree l w = true →
        Claims.Next (exec (.iterNextValue l) s) (emitted s q))
    ∧ (∀ c rest, s.cur = .slot l → s.slotFree l w = true → t.tids = c :: rest →
        let o : FireOut := { pay := (c.getD (w.fn.toNat % 4) 0).toNat }
        Claims.Next (exec (.tid w) s)
          ((s.launchFlight l w o (o.token l.ctx t.rc true)).updSlot l (fun u => { u with tids := rest })))

/-- 05 R161 to R163: `mark` ends a round: a marker with RC toward both targets, and RC + 1. A slot all of whose positions hold markers
pulls them all, sends one on, and takes its ROUND + 1; a stateful slot sends its last result first, its register cleared, the marker
behind it. That `mark` and `own` join as the others do is log 69 (DEDUCED); P of the marker sent, and its payload, are log 85 (DESIGN
CHOICE). -/
def Sys2Proof.Claims.MarkersEndRounds : Prop :=
  ∀ (s : State) (l : SlotLoc),
    let t := s.slotAt l
    let w := slotFields t.word
    let op : BitVec 9 := fld t.word 55 9
    let ps := SlotRules.positions op w
    (∀ v o, s.cur = .slot l → s.slotFree l v = true → s.mayFire l (SlotRules.positions 0x1C0 v) = true →
      s.source l 0 v v.sa = some o → movable o = true →
      let rc := t.rc
      Claims.Next (exec (.mark v) s) ((s.pullAll l (SlotRules.positions 0x1C0 v)).updSlot l (fun u =>
        { u with pend := u.pend - 1, rc := rc + 1,
                 res := markerReg v { kind := .marker, form := .scalar, ctx := l.ctx, round := rc, p := true, tag := 0, pay := 0 } s.tick })))
    ∧ (∀ m, w.m = false → op ≠ 0x186 → t.iter = none → s.slotFree l w = true → s.slotPending l = false → s.allMarkers l ps = some m →
        Claims.Next (exec (.markerJoin l) s) ((s.pullAll l ps).updSlot l (fun u =>
          { u with res := if op = 0x002 then {} else markerReg w { m with ctx := l.ctx } s.tick, rc := m.round + 1,
                   own := none, held := none })))
    ∧ (∀ m d, w.m = true → s.slotFree l w = true → s.ctxWritten l = true → s.allMarkers l ps = some m →
        (s.pullAll l ps).updCell l.g l.cell (fun c => c.writeReg (s.grant l.g l.ctx) l.ctx (destOf w) 0) = d →
        (∀ v, (d.slotAt l).last = some v → ∃ s', Claims.Next (exec (.statefulRelease l) s) s'
            ∧ (s'.slotAt l).last = none
            ∧ (markerReg w v s.tick ≠ { seq := s.tick } → (s'.slotAt l).after = some { m with ctx := l.ctx }
                ∧ (s'.slotAt l).res = markerReg w { v with round := m.round, p := (d.slotAt l).lastP } s.tick))
        ∧ ((d.slotAt l).last = none → ∃ s', Claims.Next (exec (.statefulRelease l) s) s'
            ∧ (s'.slotAt l).res = markerReg w { m with ctx := l.ctx } s.tick ∧ (s'.slotAt l).rc = m.round + 1))

/-- 04 R117, R118, 05 R161 to R163: markers end rounds, and the firings that make sequences and coordinates. -/
def Obligations.MarkersAndSequences : Prop := Claims.MarkersEndRounds ∧ Claims.SequencesAndCoordinates

/-- 01 R25, R35, 04 R109, R110: a firing writes once: `lr` unless a firing started later has written it, its destination register, and the
result register of its slot toward each target that it has. -/
def Obligations.ResultsAreWritten : Prop :=
  ∀ (s : State) (g : RegionNo) (c : CellNo) (f : Flight), (s.cell g c).flights.find? (fun h => h.seq == f.seq) = some f →
    let l : SlotLoc := ⟨g, c, f.ctx, f.slot⟩
    let later := Tab.getD (s.cell g c).lrSeq f.ctx.toNat > f.seq
    ∃ s', Claims.Next (exec (.resultWrite g c f.seq) s) s'
      ∧ s'.mem = s.mem ∧ s'.banks = s.banks
      ∧ (s'.cell g c).flights = (s.cell g c).flights.filter (fun h => h.seq != f.seq)
      ∧ (∀ v, f.lr = some v → ¬ later → Tab.getD (s'.cell g c).lr f.ctx.toNat = v)
      ∧ (later ∨ f.lr = none → (s'.cell g c).lr = (s.cell g c).lr)
      ∧ (∀ n v, f.dest = some (⟨2, n⟩, v) → Tab.getD (s'.cell g c).v ((s.grant g f.ctx).phys n) = v)
      ∧ (∀ n v, f.dest = some (⟨1, n⟩, v) → Tab.getD (s'.cell g c).o (4 * f.ctx.toNat + n) = v)
      ∧ (f.dest = none → (s'.cell g c).v = (s.cell g c).v ∧ (s'.cell g c).o = (s.cell g c).o)
      ∧ ((slotFields (s.slotAt l).word).m = false → (f.t0 ≠ none ∨ f.t1 ≠ none) → (s'.slotAt l).res = ⟨f.t0, f.t1, s.tick⟩)

/-- 03 R83, 04 R107, R108, 05 R141: a token of a kind or form that a firing does not take, or a token of FORM 3 beside a vector, ends the
firing: its operands are pulled, nothing is sent, and the cell reports ILLEGAL_INSTRUCTION as FATAL. -/
def Obligations.UnacceptedTokensEndTheFiring : Prop :=
  ∀ (s : State) (l : SlotLoc) (w : SlotWord) (os : List Opnd),
    let fails (i : Instr) (op : BitVec 9) (forms : List TokForm) (vector : Bool) : Prop :=
      s.cur = .slot l → s.slotFree l w = true → s.mayFire l (SlotRules.positions op w) = true →
      s.sources l w.ty.toNat w (Claims.codesOf op w) = some os →
      (os.all (accepts w.ty.toNat forms) = false
        ∨ (os.any Claims.isSparse = true ∧ (vector = true ∨ w.ty = 14 ∨ os.any Opnd.vec = true))) →
      ∃ s', Claims.Next (exec i s) s' ∧ s' = s.fireFault l (SlotRules.positions op w) Cause.illegal 0 false
        ∧ (s'.slotAt l).blocked = true ∧ s'.mem = s.mem ∧ s'.banks = s.banks
        ∧ ∃ r, (s'.reg l.g).micro.queue = (s.reg l.g).micro.queue ++ [r] ∧ r.cause = Cause.illegal ∧ r.fatal = true
            ∧ r.rep = cellIdent l.g l.cell
    fails (.iadd w) 0x040 [.scalar, .vector, .sparse] false ∧ fails (.imul w) 0x042 [.scalar, .vector, .sparse] false
    ∧ fails (.ffma w) 0x0C3 [.scalar, .vector, .sparse] false ∧ fails (.cvt w) 0x0CD [.scalar, .vector, .sparse] false
    ∧ fails (.shuf w) 0x058 [.scalar, .vector] true ∧ fails (.pack w) 0x05A [.scalar, .vector] true
    ∧ fails (.vsum w) 0x0D0 [.scalar, .vector] false

/-- 01 R25, R36, 03 R104: the frame of the instructions that form one value: until the result is written, no register of any cell and no
byte changes; no thread, stream, command or other region is touched. -/
def Obligations.FiringsChangeNoRegister : Prop :=
  ∀ (i : Instr) (s s' : State) (l : SlotLoc), Claims.standard i = true → s.cur = .slot l → exec i s = .next s' →
    s'.mem = s.mem ∧ s'.banks = s.banks ∧ s'.streams = s.streams ∧ s'.ctxs = s.ctxs ∧ s'.records = s.records
    ∧ (∀ g, g ≠ l.g → s'.reg g = s.reg g)
    ∧ (s'.core l.g).threads = (s.core l.g).threads ∧ (s'.core l.g).cmds = (s.core l.g).cmds ∧ (s'.core l.g).accs = (s.core l.g).accs
    ∧ ∀ c, (s'.cell l.g c).v = (s.cell l.g c).v ∧ (s'.cell l.g c).o = (s.cell l.g c).o ∧ (s'.cell l.g c).lr = (s.cell l.g c).lr
        ∧ (s'.cell l.g c).ta = (s.cell l.g c).ta ∧ (s'.cell l.g c).tl = (s.cell l.g c).tl ∧ (s'.cell l.g c).acc = (s.cell l.g c).acc
        ∧ (s'.cell l.g c).spills = (s.cell l.g c).spills


namespace Sys2Proof.Claims

/-- A memory firing whose slot and port are free, whose operands are present and whose tokens have a kind and form that an address or data
source takes (05 R135, R136). -/
structure Reaches (s : State) (l : SlotLoc) (op : BitVec 9) (w : SlotWord) (a b : Opnd) : Prop where
  agent : s.cur = .slot l
  free  : s.slotFree l w = true
  may   : s.mayFire l (SlotRules.positions op w) = true
  room  : s.memRoom l = true
  srcA  : s.source l w.ty.toNat w w.sa = some a
  srcB  : s.source l w.ty.toNat w w.sb = some b
  kinds : memToken a = true ∧ memToken b = true

/-- The machine after such a firing has started an access: a token is pulled at each position read, the access carries ROUND and P of the
tokens and stands last in its cell's order (05 R135, 09 R230). -/
def started (s : State) (l : SlotLoc) (op : BitVec 9) (w : SlotWord) (a b : Opnd) (acc : Acc) : State :=
  let ps := SlotRules.positions op w
  (s.pullAll l ps).startAcc l w acc (s.roundOf l ps) (andP [a, b])

/-- The address of class 0xC of a bank offset (17 R322). -/
def bankAddress (off : Nat) : Nat := 0xC * 2 ^ 60 + off

end Sys2Proof.Claims

/-- 05 R134, R138 to R145, R155 to R159: the memory instructions start one access each: `ld`, `st`, `aupd`, `barr` and `bwait` at the bank
offset A + B (B is no offset where it is data), 32 bits kept, when it is aligned and inside the lease; `ldg`, `stg` and the stream
instructions at the 64-bit address in lanes 0 and 1 of A; a line of 128 bytes with LINE, else one element; `spill` and `fill` at the
line of their register in the context's spill area. That a source takes tokens of kinds 3 and 4 for an address or data is log 23 (DEDUCED). -/
def Obligations.MemoryFiringsStartOneAccess : Prop :=
  ∀ (s : State) (l : SlotLoc) (w : SlotWord) (a b : Opnd),
    let gr := s.grant l.g l.ctx
    let line := w.fn.getLsbD 0
    let n := if line then 128 else Num.width w.ty.toNat / 8
    let sum := (((addrA w a : Int) + offB w b) % 2 ^ 32).toNat
    let base := addrA w a % 2 ^ 32
    let starts (i : Instr) (op : BitVec 9) (acc : Acc) : Prop :=
      Claims.Reaches s l op w a b → Claims.Next (exec i s) (Claims.started s l op w a b acc)
    (∀ pl, bankPlace l.g gr sum n = .ok pl →
      starts (.ld w) 0x140 { op := .read, line := line, addr := Claims.bankAddress sum, n := n, phase := .ready pl })
    ∧ (∀ pl, bankPlace l.g gr base n = .ok pl → b.vec = line →
        starts (.st w) 0x141 { op := .write (natToBytes n (b.pay % 2 ^ (8 * n))), line := line, wr := true,
                               addr := Claims.bankAddress base, n := n, phase := .ready pl })
    ∧ (∀ pl, bankPlace l.g gr base 4 = .ok pl → w.fn.getLsbD 3 = false →
        starts (.aupd w) 0x1C1 { op := .update (w.fn.toNat % 8) w.ty.toNat (b.pay % 2 ^ 32), wr := true,
                                 addr := Claims.bankAddress base, n := 4, phase := .ready pl })
    ∧ (∀ pl, bankPlace l.g gr base 16 = .ok pl →
        starts (.barr w) 0x1C3 { op := .arrive, wr := true, addr := Claims.bankAddress base, n := 16, phase := .ready pl })
    ∧ (∀ pl, bankPlace l.g gr (a.pay % 2 ^ 24) 16 = .ok pl → a.vec = false → a.pay / 2 ^ 24 % 16 = 0 →
        starts (.bwait w) 0x1C4 { op := .await (a.pay / 2 ^ 28 % 16), addr := Claims.bankAddress (a.pay % 2 ^ 24), n := 16,
                                  phase := .ready pl })
    ∧ (a.vec = true →
        let va := (((a.pay % 2 ^ 64 : Nat) : Int) + offB w b) % 2 ^ 64 |>.toNat
        let at_ := a.pay % 2 ^ 64
        (clsOf va = 0 → bits va 57 59 = 0 → va % n = 0 →
          starts (.ldg w) 0x142 { op := .read, line := line, addr := va, n := n })
        ∧ (clsOf at_ = 0 → bits at_ 57 59 = 0 → at_ % n = 0 → b.vec = line →
          starts (.stg w) 0x143 { op := .write (natToBytes n (b.pay % 2 ^ (8 * n))), line := line, wr := true, addr := at_, n := n })
        ∧ (clsOf va = 4 → va % 2 ^ 48 % n = 0 →
          starts (.sld w) 0x144 { op := .read, line := line, addr := va, n := n, phase := .entering })
        ∧ (clsOf at_ = 4 → at_ % 2 ^ 48 % n = 0 → b.vec = line →
          starts (.sst w) 0x145 { op := .write (natToBytes n (b.pay % 2 ^ (8 * n))), line := line, wr := true, addr := at_, n := n,
                                  phase := .entering })
        ∧ (clsOf at_ = 4 → starts (.srel w) 0x146 { op := .release (w.fn.toNat % 8), wr := true, addr := at_, phase := .entering })
        ∧ (clsOf at_ = 4 → starts (.spub w) 0x147 { op := .publish, wr := true, addr := at_, phase := .entering }))
    ∧ (let r := vreg w.sa w.xh
       let off := l.cell.toNat * 65536 + ((gr.lease - 1 - gr.krel) * 32 + r) * 128
       let pl : Place := { bank := true, g := l.g, pa := off + gr.base * 4096 }
       starts (.spill w) 0x148 { op := .spill r (BitVec.ofNat 1024 a.pay), line := true, wr := true, addr := Claims.bankAddress off, n := 128,
                                 phase := .ready pl }
       ∧ starts (.fill w) 0x149 { op := .fill r, line := true, addr := Claims.bankAddress off, n := 128, phase := .ready pl })

/-- 05 R141: an access whose address the checks refuse ends its firing: the operands are pulled, no access starts, and the cell reports the
cause with the address of class 0xC as FATAL; the lowest-numbered cause first (00 R16). That an address may come in a token of kind 3 or 4 is
log 23 (DEDUCED). -/
def Sys2Proof.Claims.RefusedAddressesEndTheFiring : Prop :=
  ∀ (s : State) (l : SlotLoc) (w : SlotWord) (a b : Opnd) (c : Byte),
    let gr := s.grant l.g l.ctx
    let n := if w.fn.getLsbD 0 then 128 else Num.width w.ty.toNat / 8
    let sum := (((addrA w a : Int) + offB w b) % 2 ^ 32).toNat
    let base := addrA w a % 2 ^ 32
    (bankPlace l.g gr sum n = .error c → Claims.Reaches s l 0x140 w a b →
      Claims.Next (exec (.ld w) s) (s.fireFault l (SlotRules.positions 0x140 w) c (Claims.bankAddress sum) false))
    ∧ (bankPlace l.g gr base n = .error c → b.vec = w.fn.getLsbD 0 → Claims.Reaches s l 0x141 w a b →
      Claims.Next (exec (.st w) s) (s.fireFault l (SlotRules.positions 0x141 w) c (Claims.bankAddress base) true))
    ∧ (∀ off k, bankPlace l.g gr off k = .error Cause.misaligned → off % k ≠ 0)
    ∧ (∀ off k, bankPlace l.g gr off k = .error Cause.addrClass → off % k = 0 ∧ 2 ^ 24 ≤ off)
    ∧ (∀ off k pl, bankPlace l.g gr off k = .ok pl →
        off % k = 0 ∧ off < 2 ^ 24 ∧ off % 65536 + k ≤ gr.lease * 4096 ∧ pl.pa = off + gr.base * 4096)

/-- 05 R155, R157, R158: what the indivisible accesses do at their bank place: `aupd` writes the result of its operation on 32 bits and
answers the old value; `barr` takes one from PEND, opens the barrier when every count is 0 (GEN + 1, PEND = EXP), and answers the ticket
it saw; `bwait` answers once GEN differs from its ticket's. -/
def Sys2Proof.Claims.UpdatesAndBarriersPerform : Prop :=
  ∀ (s : State) (g : RegionNo) (id : Nat) (a : Acc) (pl : Place) (c : CellNo) (x : CtxNo) (n : SlotNo),
    s.acc g id = some a → a.port = .slot c x n → a.phase = .ready pl → s.holds g a = false → pl.bank = true →
    s.accSpoiled g a pl = false → clsOf a.addr ≠ 4 →
    let answers (t : State) (v : Nat) : Prop :=
      Claims.Next (exec (.accessPerform g id) s) ((t.writeResult g a (BitVec.ofNat 1024 v)).performed g a v)
    (∀ opn ty val, a.op = .update opn ty val → s.ownerOf g x (a.addr % 2 ^ 24) = none →
      let old := leNat (s.readPlace pl 4)
      let int (v : Nat) : Int := if ty = 0 then (BitVec.ofNat 32 v).toInt else ((v % 2 ^ 32 : Nat) : Int)
      let puts (v : Nat) : Prop := answers (s.writePlace pl (natToBytes 4 v)) old
      (ty ∈ [0, 1] → opn = 0 → puts ((old + val) % 2 ^ 32))
      ∧ (ty ∈ [0, 1] → opn = 1 → puts (if int old < int val then old else val))
      ∧ (ty ∈ [0, 1] → opn = 2 → puts (if int old < int val then val else old))
      ∧ (opn = 3 → puts (old &&& val)) ∧ (opn = 4 → puts (old ||| val)) ∧ (opn = 5 → puts (old ^^^ val)) ∧ (opn = 6 → puts val)
      ∧ (ty = 6 → opn = 0 → puts (Num.roundFmt 6 (Num.addV (Num.value 6 old) (Num.value 6 val)) 0 false 0)))
    ∧ (let b := Barrier.of (s.readPlace pl 16)
       let ticket := b.gen * 2 ^ 28 + a.addr % 2 ^ 24
       (a.op = .arrive → b.exp ≠ 0 → b.pend = 1 → b.inb = 0 → b.outb = 0 →
         answers (s.writePlace pl (Barrier.bytes { b with gen := (b.gen + 1) % 16, pend := b.exp })) ticket)
       ∧ (a.op = .arrive → b.exp ≠ 0 → 1 < b.pend → answers (s.writePlace pl (Barrier.bytes { b with pend := b.pend - 1 })) ticket)
       ∧ (a.op = .arrive → b.exp ≠ 0 → b.pend = 0 → ∃ t, Claims.Next (exec (.accessPerform g id) s) t ∧ t.banks = s.banks
           ∧ (∀ e, t.acc g id = some e → e.phase = a.phase))
       ∧ (∀ gen, a.op = .await gen → b.gen ≠ gen → answers s ticket))

/-- 05 R146, R148, R149, R153, 07 R206, R207, 09 R229, R233: what the other accesses of slots do when they perform. `spill` rewrites the entry
of its register in the spill map, else takes the lowest free entry and location, else writes the spill line; `fill` writes the parked
copy, or the spill line, into its register and frees the entry. A tile, a codebook and a drain go line by line; with its last line a tile
stands in `tl` with its format, codebook and owner, a codebook in its register, and a drain answers its count of bytes. Metadata in order
stand in `tl`, others end the firing. `spub` and `srel` move HWM and REL at the control point. Every value moved is also `lr`'s, but a
completion alone writes no `lr` (log 82). -/
def Obligations.SlotAccessesHaveTheirEffect : Prop :=
  ∀ (s : State) (g : RegionNo) (id : Nat) (a : Acc) (c : CellNo) (x : CtxNo) (n : SlotNo),
    s.acc g id = some a → a.port = .slot c x n → s.holds g a = false →
    let cell := s.cell g c
    let gr := s.grant g x
    (∀ pl, a.phase = .ready pl → s.ownedOk pl = true → clsOf a.addr ≠ 4 → s.accSpoiled g a pl = false →
      let answers (t : State) (line : Line) (v : Nat) : Prop :=
        Claims.Next (exec (.accessPerform g id) s) ((t.writeResult g a line).performed g a v)
      let ends (t : State) : Prop := Claims.Next (exec (.accessPerform g id) s) (t.performed g a 0)
      (∀ r v, a.op = .spill r v →
        let kept (i : Nat) (e : Spill) : State := s.updCell g c (fun k => { k with spills := Tab.set k.spills i { e with val := v } })
        (∀ i e, cell.spillOf x r = some (i, e) → answers (kept i e) v 0)
        ∧ (cell.spillOf x r = none →
            (∀ i kind loc, Tab.free cell.spills 64 = some i → (s.core g).spillPlace cell = some (kind, loc) →
              answers (kept i { ctx := x, vreg := r, kind := kind, loc := loc, val := v }) v 0)
            ∧ (Tab.free cell.spills 64 = none ∨ (s.core g).spillPlace cell = none → answers (s.writePlace pl (lineBytes v)) v 0)))
      ∧ (∀ r, a.op = .fill r →
        (∀ i e, cell.spillOf x r = some (i, e) →
          answers (s.updCell g c (fun k => { k.writeReg gr x ⟨2, r⟩ e.val with spills := Tab.erase k.spills i })) e.val 0)
        ∧ (cell.spillOf x r = none →
          let v : Line := lineOf (s.readPlace pl 128)
          answers (s.updCell g c (fun k => k.writeReg gr x ⟨2, r⟩ v)) v 0))
      ∧ (a.op = .metadata →
        let bs := s.readPlace pl 128
        let col (j k : Nat) : Nat := bits (leNat ((bs.drop (8 * j)).take 8)) (2 * k) (2 * k + 1)
        let ordered := ∀ j < 16, ∀ k < (if cell.tl.fmt = 7 then 8 else 16), col j (2 * k) < col j (2 * k + 1)
        (ordered → ends (s.updCell g c (fun k => { k with tl := { k.tl with mdata := bs } })))
        ∧ (¬ ordered → Claims.Next (exec (.accessPerform g id) s) (s.failAcc g id Cause.illegal)))
      ∧ (∀ i, a.byLine = true → a.linesLeft.filter (fun i => !s.heldAt g a (128 * i) (a.lineBytes i)) = [i] →
        let p : Place := { pl with pa := pl.pa + 128 * i }
        let k := a.lineBytes i
        let did (t : State) (bs : List Byte) : State := t.updAcc g id (fun e => { e with parts := Tab.set e.parts i bs })
        (∀ d, a.op = .drain d → s.spoiled p k true = false →
          let b : Acc := { a with parts := Tab.set a.parts i [] }
          let t := did (s.writePlace p ((d.drop (128 * i)).take 128)) []
          (b.linesLeft ≠ [] → Claims.Next (exec (.accessPerform g id) s) t)
          ∧ (b.linesLeft = [] → Claims.Next (exec (.accessPerform g id) s)
              ((t.writeResult g b (BitVec.ofNat 1024 d.length)).performed g b d.length)))
        ∧ ((∀ d, a.op ≠ .drain d) → s.spoiled p k false = false → a.addr % 2 ^ 24 % 65536 + 128 * i + k ≤ gr.lease * 4096 →
          let bs := s.readPlace p k
          let b : Acc := { a with parts := Tab.set a.parts i bs }
          let t := did s bs
          (b.linesLeft ≠ [] → Claims.Next (exec (.accessPerform g id) s) t)
          ∧ (b.linesLeft = [] → a.op = .tile → t.behind g b AccOp.loadsNode = false →
              Claims.Next (exec (.accessPerform g id) s) ((t.updCell g c (fun k =>
                { k with tl := { k.tl with bytes := stationary a.ty b.gathered, fmt := a.ty, cbn := a.reg, owner := some x } })).performed g b 0))
          ∧ (∀ m, b.linesLeft = [] → a.op = .codebook m → t.behind g b AccOp.loadsNode = false →
              Claims.Next (exec (.accessPerform g id) s) ((t.setReg g
                { t.reg g with cb := Tab.set (t.reg g).cb (4 * c.toNat + m) (BitVec.ofNat 256 (leNat b.gathered)) }).performed g b 0)))
        ∧ ((∀ d, a.op ≠ .drain d) → s.spoiled p k false = false → gr.lease * 4096 < a.addr % 2 ^ 24 % 65536 + 128 * i + k →
          Claims.Next (exec (.accessPerform g id) s) (s.failAcc g id Cause.pagePermission))))
    ∧ (a.phase = .entering → clsOf a.addr = 4 → a.wait = none →
      let b := s.scb a.scb
      b.waiting = [] → b.waits = [] →
      let performed (t : State) : Prop := ∀ e, t.acc g id = some e → e.phase = .performed 0 ∧ e.wait = none
      (a.op = .publish → b.auto = false → b.state = 1 → after a.off b.hwm = true → after a.off b.limit = false →
        ∃ t, Claims.Next (exec (.accessPerform g id) s) t ∧ (t.scb a.scb).hwm = a.off ∧ performed t
          ∧ (t.cell g c).lr = cell.lr ∧ t.mem = s.mem ∧ t.banks = s.banks)
      ∧ (∀ m r, a.op = .release m → m < 8 → b.state ∈ [1, 2, 3] → Tab.get b.readers m = some r → after a.off r.rel = true →
        after a.off b.hwm = false →
        ∃ t, Claims.Next (exec (.accessPerform g id) s) t ∧ (Tab.get (t.scb a.scb).readers m).map Reader.rel = some a.off ∧ performed t
          ∧ (t.cell g c).lr = cell.lr ∧ t.mem = s.mem ∧ t.banks = s.banks))

/-- 05 R135, R136: a performed access of a slot is delivered when its slot's result register is empty and no earlier access of the slot
stands before it: a data token toward each local or channel target, a completion token of payload 0 over route 6, nothing over route 7. -/
def Sys2Proof.Claims.CellAccessesDeliver : Prop :=
  ∀ (s : State) (g : RegionNo) (id val : Nat) (a : Acc) (c : CellNo) (x : CtxNo) (n : SlotNo),
    s.acc g id = some a → a.port = .slot c x n → a.phase = .performed val →
    let l : SlotLoc := ⟨g, c, x, n⟩
    let t := s.slotAt l
    let w := slotFields t.word
    let form : TokForm := if a.line && a.op == .read then .vector else .scalar
    let data : Token := { kind := .data, form := form, ctx := x, round := a.round, p := a.p, tag := 0, pay := BitVec.ofNat 1024 val }
    let done : Token := { kind := .completion, form := .scalar, ctx := x, round := a.round, p := a.p, tag := 0, pay := 0 }
    let toward (t : BitVec 12) : Option Token :=
      if t.extractLsb' 9 3 = 7 then none else if t.extractLsb' 9 3 = 6 then some done else some data
    t.res.empty = true → t.after = none → ((s.core g).accs.takeWhile (fun e => e.id != id)).all (fun e => e.port != a.port) = true →
    (w.t0.extractLsb' 9 3 ≠ 7 ∨ w.t1.extractLsb' 9 3 ≠ 7) →
      Claims.Next (exec (.accessDeliver g id) s) (((s.stamp g).dropAcc g id).updSlot l (fun t =>
        { t with res := ⟨toward w.t0, toward w.t1, s.tick⟩ }))

/-- 05 R135, R136, R155, R157, R158: updates and barriers perform at their bytes, and accesses of cells deliver their results. -/
def Obligations.CellAccessesPerformAndDeliver : Prop := Claims.UpdatesAndBarriersPerform ∧ Claims.CellAccessesDeliver

/-- 05 R156: `own` makes its slot own a range of whole words of its own bank, up to 4096 bytes, in place of the previous one; another range
is refused. The kinds of token that it takes are by log 23 (DEDUCED). -/
def Sys2Proof.Claims.OwnRanges : Prop :=
  ∀ (s : State) (l : SlotLoc) (w : SlotWord) (a b : Opnd),
    s.cur = .slot l → s.slotFree l w = true → s.mayFire l (SlotRules.positions 0x1C2 w) = true →
    s.source l 0 w w.sa = some a → s.source l 0 w w.sb = some b → memToken a = true → memToken b = true →
    let ps := SlotRules.positions 0x1C2 w
    let off := addrA w a
    let len := if w.sb = 9 then w.ix.toNat else b.pay % 2 ^ 32
    let fits := off / 65536 % 256 = l.cell.toNat ∧ len % 4 = 0 ∧ 4 ≤ len ∧ len ≤ 4096
    (fits → off % 4 = 0 → ∀ pl, bankPlace l.g (s.grant l.g l.ctx) off 4 = .ok pl →
      Claims.Next (exec (.own w) s) ((s.pullAll l ps).updSlot l (fun t =>
        { t with pend := t.pend - 1, own := some (off, len), ownP := andP [a, b], ownRound := s.roundOf l ps })))
    ∧ (¬ fits → Claims.Next (exec (.own w) s) (s.fireFault l ps Cause.illegal (Claims.bankAddress off) false))

/-- 05 R141, R156: an address that the rules refuse ends its firing, and the own range of a slot. -/
def Obligations.RefusedAddressesAndOwnRanges : Prop := Claims.RefusedAddressesEndTheFiring ∧ Claims.OwnRanges

/-- 05 R154: `isect` compares the TAGs at its two positions: the smaller is pulled and dropped, equal ones are pulled and sent, A toward
target 0 and B toward target 1; a marker on one side drops the other side's tokens, markers on both are pulled and one is sent. -/
def Obligations.IntersectionByTags : Prop :=
  ∀ (s : State) (l : SlotLoc) (w : SlotWord) (p q : Src) (a b : Token),
    let pa : BitVec 2 := fld w.sa 0 2
    let pb : BitVec 2 := fld w.sb 0 2
    s.cur = .slot l → s.slotFree l w = true → s.headAt l pa = some (p, a) → s.headAt l pb = some (q, b) →
    let sparse (t : Token) : Prop := t.kind = .data ∧ t.form = .sparse
    (sparse a → sparse b → a.tag.toNat < b.tag.toNat → Claims.Next (exec (.isect w) s) (s.pullAll l [pa]))
    ∧ (sparse a → sparse b → b.tag.toNat < a.tag.toNat → Claims.Next (exec (.isect w) s) (s.pullAll l [pb]))
    ∧ (sparse a → sparse b → a.tag = b.tag →
        Claims.Next (exec (.isect w) s) ((s.pullAll l [pa, pb]).updCell l.g l.cell (fun c =>
          { c with flights := c.flights ++ [{ seq := s.tick, ctx := l.ctx, slot := l.slot, lr := some (tokLine a), dest := none,
                                              t0 := if w.t0.extractLsb' 9 3 = 7 then none else some a,
                                              t1 := if w.t1.extractLsb' 9 3 = 7 then none else some b }] })))
    ∧ (a.kind = .marker → sparse b → Claims.Next (exec (.isect w) s) (s.pullAll l [pb]))
    ∧ (sparse a → b.kind = .marker → Claims.Next (exec (.isect w) s) (s.pullAll l [pa]))
    ∧ (a.kind = .marker → b.kind = .marker →
        Claims.Next (exec (.isect w) s) ((s.pullAll l [pa, pb]).updSlot l (fun t => { t with res := markerReg w a s.tick })))

/-- 05 R147 to R153, 14 R294: the matrix node, held while the chain walker has it. `mload` and `msmeta` start one access of the cell's own
bank; `mswap` exchanges `ta` and `tl` of its context and answers the format of the new `ta`; `mzero` sets an accumulator to +0; `mfire`
starts to read the moving tile at its address, and adds its step into an accumulator with the last line of it; `mdrain` starts the write
of the converted values of an accumulator or a pair, whose performing answers their count of bytes (SlotAccessesHaveTheirEffect), and CLR
sets them to +0. That the codebooks, and the accumulator of a drain, are read in the start of the firing and the step is added at once is
the model's choice (log 6); that an address may come in a token of kind 3 or 4 is log 23. -/
def Obligations.MatrixNode : Prop :=
  (∀ (s : State) (l : SlotLoc) (w : SlotWord) (a b : Opnd),
    let gr := s.grant l.g l.ctx
    let c := s.cell l.g l.cell
    let ty := w.ty.toNat
    let off := bankAddr w a b false
    let triggers (op : BitVec 9) : Prop :=
      s.cur = .slot l ∧ s.slotFree l w = true ∧ s.mayFire l (SlotRules.positions op w) = true ∧ s.source l 0 w w.sa = some a
        ∧ movable a = true
    let answered (op : BitVec 9) (f : Cell → Cell) (v : Nat) : State :=
      let ps := SlotRules.positions op w
      let o : FireOut := { pay := v }
      (((s.pullAll l ps).updCell l.g l.cell f).launchFlight l w o (o.token l.ctx (s.roundOf l ps) (andP [a]))).updSlot l (fun t =>
        { t with held := none })
    (s.core l.g).chainHolds l.cell = false →
    (triggers 0x181 → (s.core l.g).nodeBusy l.cell AccOp.holdsSwap = false →
      (c.tl.owner = some l.ctx →
        Claims.Next (exec (.mswap w) s) (answered 0x181 (fun c => { c with ta := c.tl, tl := c.ta }) (c.tl.fmt % 16)))
      ∧ (c.tl.owner ≠ some l.ctx →
        Claims.Next (exec (.mswap w) s) (s.fireFault l (SlotRules.positions 0x181 w) Cause.illegal 0 false)))
    ∧ (triggers 0x184 → (s.core l.g).nodeBusy l.cell (AccOp.into [w.fn.toNat % 4]) = false →
      Claims.Next (exec (.mzero w) s) (answered 0x184 (fun c => c.setAcc (w.fn.toNat % 4) []) (w.fn.toNat % 4)))
    ∧ (∀ pl, Claims.Reaches s l 0x180 w a b → off / 65536 % 256 = l.cell.toNat → w.fn.toNat % 2 = 0 →
        let n := if ty = 12 then 288 else if ty = 11 then 864 else 512
        bankPlace l.g gr off 128 = .ok pl → (ty = 11 ∨ off % 65536 + n ≤ gr.lease * 4096) →
        Claims.Next (exec (.mload w) s) (Claims.started s l 0x180 w a b
          { op := .tile, reg := w.fn.toNat / 2 % 4, addr := Claims.bankAddress off, n := n, line := true, phase := .ready pl }))
    ∧ (∀ pl, Claims.Reaches s l 0x180 w a b → off / 65536 % 256 = l.cell.toNat → w.fn.toNat % 2 = 1 → bankPlace l.g gr off 32 = .ok pl →
        Claims.Next (exec (.mload w) s) (Claims.started s l 0x180 w a b
          { op := .codebook (w.fn.toNat / 2 % 4), addr := Claims.bankAddress off, n := 32, line := true, phase := .ready pl }))
    ∧ (∀ pl, Claims.Reaches s l 0x185 w a b → off / 65536 % 256 = l.cell.toNat → bankPlace l.g gr off 128 = .ok pl →
        Claims.Next (exec (.msmeta w) s) (Claims.started s l 0x185 w a b
          { op := .metadata, addr := Claims.bankAddress off, n := 128, line := true, phase := .ready pl }))
    ∧ (∀ pl, s.cur = .slot l → s.slotFree l w = true → s.mayFire l (SlotRules.positions 0x182 w) = true → s.slotPending l = false →
        s.source l ty w w.sa = some a → s.source l ty w w.sb = some b → memToken a = true → memToken b = true →
        let o := addrA w a
        let sp := w.mode.getLsbD 2
        let n := if ty = 12 then 288 else if ty = 11 then 864 else if sp then 1024 else 512
        let bitmap := if w.sb = 10 then 0xFFFF else if w.sb = 9 then w.ix.toNat else b.pay % 2 ^ 32 % 2 ^ 16
        (c.ta.owner = some l.ctx → c.ta.fmt = w.fn.toNat % 16 → o / 65536 % 256 = l.cell.toNat → bankPlace l.g gr o 128 = .ok pl →
          (ty = 11 ∨ o % 65536 + n ≤ gr.lease * 4096) →
          Claims.Next (exec (.mfire w) s) (Claims.started s l 0x182 w a b
            { op := .moving (w.mode.toNat % 4) sp bitmap (s.codebook l.g l.cell (if w.fn.getLsbD 4 then 1 else 0))
                (s.codebook l.g l.cell c.ta.cbn), addr := Claims.bankAddress o, n := n, line := true, phase := .ready pl }))
        ∧ (c.ta.owner ≠ some l.ctx ∨ c.ta.fmt ≠ w.fn.toNat % 16 →
          Claims.Next (exec (.mfire w) s) (s.fireFault l (SlotRules.positions 0x182 w) Cause.illegal (Claims.bankAddress o) false)))
    ∧ (∀ pl, Claims.Reaches s l 0x183 w a b → bankPlace l.g gr off 128 = .ok pl →
        let n := w.fn.toNat % 4
        let pair := w.fn.getLsbD 2
        let md := w.rnd.toNat
        let rows := c.drainRows n pair
        let le (k v : Nat) : List Nat := (natToBytes k v).map BitVec.toNat
        let e (v : Nat) : Num.Val := Num.value 6 v
        let draws := md = 2 ∧ 7 ≤ ty ∧ ty ≤ 10
        let vs := Num.drawMap true (fun gen v => Num.roundFmt ty (e v) md w.sat gen) (s.gen l.g l.cell) rows.flatten
        let bytes : List Nat :=
          if ty = 6 then rows.flatten.flatMap (le 4)
          else if ty = 11 then rows.flatMap (fun r => Num.bc8Encode (r.map (fun v => Num.roundFmt 9 (e v) 0 w.sat 0)))
          else if ty = 12 then rows.flatMap (fun r => Num.cb4Bytes (Num.cb4Quant (r.map e) (s.codebook l.g l.cell md)))
          else if md = 2 then vs.2.flatMap (le (Num.width ty / 8))
          else rows.flatten.flatMap (fun v => le (Num.width ty / 8) (Num.roundFmt ty (e v) md w.sat (s.gen l.g l.cell).toNat))
        let data := bytes.map (BitVec.ofNat 8)
        ty ∈ [6, 7, 9, 10, 11, 12] → off % 65536 + data.length ≤ gr.lease * 4096 →
        (s.core l.g).nodeBusy l.cell (AccOp.into (if pair then [n, n + 1] else [n])) = false →
        let t := Claims.started s l 0x183 w a b
          { op := .drain data, addr := Claims.bankAddress off, n := data.length, line := true, wr := true, phase := .ready pl }
        let t := if draws then t.setGen l.g l.cell vs.1 else t
        Claims.Next (exec (.mdrain w) s) (if w.fn.getLsbD 3 then
            t.updCell l.g l.cell (fun c => if pair then (c.setAcc n []).setAcc (n + 1) [] else c.setAcc n [])
          else t)
        ∧ (ty = 6 → pair = false → data.length = 1024)))
  ∧ (∀ (s : State) (g : RegionNo) (id i n bitmap : Nat) (sp : Bool) (cbm cbt : List Nat) (a : Acc) (c : CellNo) (x : CtxNo) (k : SlotNo)
      (pl : Place),
    s.acc g id = some a → a.port = .slot c x k → a.phase = .ready pl → s.ownedOk pl = true → clsOf a.addr ≠ 4 →
    a.op = .moving n sp bitmap cbm cbt → a.linesLeft.filter (fun i => !s.heldAt g a (128 * i) (a.lineBytes i)) = [i] →
    let p : Place := { pl with pa := pl.pa + 128 * i }
    let bs := s.readPlace p (a.lineBytes i)
    let b : Acc := { a with parts := Tab.set a.parts i bs }
    let t := s.updAcc g id (fun e => { e with parts := Tab.set e.parts i bs })
    s.spoiled p (a.lineBytes i) false = false → a.addr % 2 ^ 24 % 65536 + 128 * i + a.lineBytes i ≤ (s.grant g x).lease * 4096 →
    (b.linesLeft ≠ [] → Claims.Next (exec (.accessPerform g id) s) t)
    ∧ (b.linesLeft = [] → t.behind g b (fun o => match o with | .moving .. => true | _ => false) = false →
      let cell := s.cell g c
      let new := matrixStep (cell.accVals n) (movingRows a.ty sp cbm (b.gathered.map BitVec.toNat)) cell.ta cbt sp bitmap
      Claims.Next (exec (.accessPerform g id) s)
        (((t.updCell g c (fun k => k.setAcc n new)).writeResult g b (BitVec.ofNat 1024 n)).performed g b n)))

namespace Sys2Proof.Claims

/-- A started command of a running region, not done and not parked, that is the agent (03 R87, R88). -/
structure Runs (s : State) (g : RegionNo) (id : Nat) (m : Cmd) : Prop where
  agent : s.cur = .command g id
  cmd   : s.cmd g id = m
  here  : Tab.has (s.core g).cmds id = true
  live  : m.started = true ∧ m.done = false ∧ m.parked = none
  on    : (s.reg g).runs = true

/-- A command's step is that of its frame. -/
def does (s : State) (g : RegionNo) (id : Nat) (m : Cmd) (i : Instr) (t : State) : Prop := Runs s g id m → Next (exec i s) t

end Sys2Proof.Claims

/-! ## Streams (07) -/

/-- 07 R204, R205: how a control point answers a read or a write of n bytes at offset o, in the order of the rules: the state, the size
against the window, the tail or HWM, and the bytes beyond HWM or the window limit. -/
def Obligations.ControlPointRules : Prop :=
  ∀ (b : Scb) (o n : Nat),
    let closed := b.state = 0 ∨ b.state = 4
    (closed → b.read o n = .fault Cause.streamClosed)
    ∧ (¬ closed → b.win < n → b.read o n = .fault Cause.misaligned)
    ∧ (¬ closed → n ≤ b.win → before o b.tail = true → b.read o n = .fault Cause.streamBehind)
    ∧ (¬ closed → n ≤ b.win → before o b.tail = false → after (offAdd o n) b.hwm = true →
        b.read o n = if b.state = 2 then .fault Cause.streamClosed else if b.state = 3 then .fault Cause.streamPeerGone else .wait 1)
    ∧ (¬ closed → n ≤ b.win → before o b.tail = false → after (offAdd o n) b.hwm = false → b.read o n = .perform (o % b.win))
    ∧ (b.state = 3 → b.write o n = .fault Cause.streamPeerGone)
    ∧ (b.state ≠ 1 → b.state ≠ 3 → b.write o n = .fault Cause.streamClosed)
    ∧ (b.state = 1 → b.win < n → b.write o n = .fault Cause.misaligned)
    ∧ (b.state = 1 → n ≤ b.win → before o b.hwm = true → b.write o n = .fault Cause.streamBehind)
    ∧ (b.state = 1 → n ≤ b.win → before o b.hwm = false → after (offAdd o n) b.limit = true → b.write o n = .wait 2)
    ∧ (b.state = 1 → n ≤ b.win → before o b.hwm = false → after (offAdd o n) b.limit = false → b.auto = false →
        b.write o n = .perform (o % b.win))

/-- 07 R204, R205, 06 R172: a stream access whose control point lets it perform leaves its order of waiting and goes to its ring byte, in the
bank of the region that opened a bank-backed stream, else at the address it is translated to; one that the rules stop ends with their
cause; one that must wait stays, and is noted in its order of arrival; a write that waits is looked at again only when what it waits for has
changed, which then admits it whatever is published after; one of a thread whose earlier accesses have not all performed is left as it is. -/
def Obligations.StreamAccessesAreAdmitted : Prop :=
  ∀ (s : State) (g : RegionNo) (id : Nat) (a : Acc), s.acc g id = some a → a.phase = .entering →
    let b := s.scb a.scb
    let s1 := s.clearWait a.scb (.acc g a.id)
    let s2 := s1.updAcc g a.id (fun e => { e with opens := b.opens, wait := none })
    let ready (i : Instr) (ring : Nat) : Prop :=
      (b.bk = true → Claims.Next (exec i s) (s2.updAcc g a.id (fun e =>
        { e with phase := .ready { bank := true, g := b.greg, pa := b.base + ring + b.lbase * 4096 } })))
      ∧ (b.bk = false → Claims.Next (exec i s) (s2.walkAcc g a (b.base + ring)))
    ((s.core g).inOrder a = true →
      (a.op = .read → a.wr = false → ∀ ring, b.read a.off a.n = .perform ring → ready (.streamRead g id) ring)
      ∧ (a.op = .read → a.wr = false → ∀ c, b.read a.off a.n = .fault c →
          Claims.Next (exec (.streamRead g id) s) (s1.failAcc g a.id c))
      ∧ (a.op = .read → a.wr = false → ∀ k, b.read a.off a.n = .wait k → ∃ t, Claims.Next (exec (.streamRead g id) s) t
          ∧ t.core g = ((s.updAcc g a.id (fun e =>
              { e with wait := some { (e.wait.getD { since := s.tick }) with kind := k, obj := a.addr, agent := b.waitsFor k } })).core g))
      ∧ (∀ d, a.op = .write d → a.wr = true →
          let waits (kind : Nat) : Prop := ∃ t, Claims.Next (exec (.streamWrite g id) s) t
            ∧ t.core g = ((s.updAcc g a.id (fun e =>
                { e with wait := some { (e.wait.getD { since := s.tick }) with kind := kind, obj := a.addr, agent := b.waitsFor kind } })).core g)
          let mine := b.waits.find? (fun w => w.who == .acc g a.id && w.off == a.off && w.wr)
          (mine = none →
            (∀ ring, b.write a.off a.n = .perform ring → b.overtaken (.acc g a.id) = false → ready (.streamWrite g id) ring)
            ∧ (∀ ring, b.write a.off a.n = .perform ring → b.overtaken (.acc g a.id) = true → waits 4)
            ∧ (∀ c, b.write a.off a.n = .fault c → Claims.Next (exec (.streamWrite g id) s) (s1.failAcc g a.id c))
            ∧ (∀ k, b.write a.off a.n = .wait k → waits k))
          ∧ (∀ w, mine = some w → w.adm = false → waits w.kind)
          ∧ (∀ w, mine = some w → w.adm = true → b.write a.off a.n = .fault Cause.streamBehind → b.overtaken (.acc g a.id) = false →
            ready (.streamWrite g id) (a.off % b.win))))
    ∧ ((s.core g).inOrder a = false → Claims.Next (exec (.streamRead g id) s) s ∧ Claims.Next (exec (.streamWrite g id) s) s)

/-- 07 R211, R212: a host's aligned write to HWM of a control page publishes where the host is the stream's producer, to HREL releases where
it is a reader, and is ignored otherwise; a write of the data area goes to the ring bytes at its offset without a check; an aperture of a
destroyed context shows a CLOSED stream, and a write of its data area changes nothing (07 R213). -/
def Obligations.HostParticipantsReachTheirStream : Prop :=
  ∀ (s : State) (f : BitVec 5) (ap : BitVec 6) (v : W64),
    (∀ key, s.hostScb f.toNat ap.toNat true = some key →
      Claims.Next (exec (.hwmWrite f ap v) s) (s.hostAsk key false (v.toNat % 2 ^ 48) 8))
    ∧ (s.hostScb f.toNat ap.toNat true = none → Claims.Next (exec (.hwmWrite f ap v) s) s)
    ∧ (∀ key, s.hostScb f.toNat ap.toNat false = some key →
      Claims.Next (exec (.hrelWrite f ap v) s) (s.hostAsk key true (v.toNat % 2 ^ 48) (s.scb key).hslot))
    ∧ (s.hostScb f.toNat ap.toNat false = none → Claims.Next (exec (.hrelWrite f ap v) s) s)
    ∧ (∀ a off bytes, Tab.get (Tab.getD s.funcs f.toNat : Func).aps ap.toNat = some a →
        let b := s.apScb a
        b.bk = true → 0 < bytes.length → off % 128 + bytes.length ≤ 128 → off + bytes.length ≤ b.win → b.state ∈ [1, 2, 3] → s.memOk = true →
        let p := b.greg.toNat * 2 ^ 24 + (b.base + off + b.lbase * 4096)
        ∃ t, Claims.Next (exec (.apertureDataWrite f ap off bytes) s) t ∧ t.banks.readN p bytes.length = bytes
          ∧ (∀ q, q < p ∨ p + bytes.length ≤ q → t.banks.read q = s.banks.read q) ∧ t.mem = s.mem ∧ t.streams = s.streams)
    ∧ (∀ a off bytes, Tab.get (Tab.getD s.funcs f.toNat : Func).aps ap.toNat = some a → a.gen ≠ s.genOf a.ctxid →
        Claims.Next (exec (.apertureDataWrite f ap off bytes) s) s ∧ Claims.Next (exec (.hwmWrite f ap v) s) s
          ∧ Claims.Next (exec (.hrelWrite f ap v) s) s)

/-- 07 R214, 09 R229, R230: an edge stream port bound to a stream. A read-bound port has a read of the next 128 bytes of its reader slot
admitted, reads its lines, each started in one step and performed in another, and then sends them as one vector token and moves POS past
them; a write-bound port has the write of a data token admitted at its write offset, writes its lines so, moves the write offset past them
and pulls the token; a marker there publishes up to that offset and is pulled once the publish has taken effect, for which it waits in the
order of arrival; it is only pulled where the stream publishes itself. A marker ahead of the first token publishes up to the offset that
stands (log 86). -/
def Obligations.EdgePortsFollowTheirStream : Prop :=
  ∀ (s : State) (g : RegionNo) (port : BitVec 6),
    let p := port.toNat
    let e : EdgePort := Tab.getD (s.core g).ports p
    let key := s.portScb e
    let b := s.scb key
    let put (w : PortAcc) (q : EAcc) (t : State) : State := (t.stamp g).updPort g p (fun e => { e with work := some (w.put q), wait := none })
    let place (q : EAcc) : Place := b.bankAt (q.addr % 2 ^ 48 % b.win)
    (∀ n c i r, e.kind = 2 → e.arg.getLsbD 16 = false → e.stopped = false → e.parked = none → (s.core g).chanFrom p = some (n, c) →
      b.readers.find? (fun r => r.2.agent == regionAgent g) = some (i, r) →
      let room := s.portMoves g c.desc = true ∧ c.rmark = [] ∧ c.jout = [] ∧ c.open_ = true ∧ c.sfifo.length ≤ 4
      (∀ ring, e.work = none → room → after (offAdd r.pos 128) b.hwm = false → b.read r.pos 128 = .perform ring →
        Claims.Next (exec (.edgePortStreamRead g port) s) ((s.stamp g).updPort g p (fun e =>
          { e with work := some { off := r.pos, n := 128, opens := b.opens }, wait := none })))
      ∧ (∀ w, e.work = some w → w.opens = b.opens → b.state ∈ [1, 2, 3] → r.pos = w.off →
        let es := ringAccs (key % 4096) b.win w.off w.n none
        (∀ q, w.todo es = [q] → b.bk = true →
          (w.io.find? q.same = none →
            Claims.Next (exec (.edgePortStreamRead g port) s) (put w { q with pl := place q, va := b.base + q.addr % 2 ^ 48 % b.win, opens := b.opens } s))
          ∧ (∀ h, w.io.find? q.same = some h → h.pl.bank = true → s.spoiled h.pl h.n false = false →
            Claims.Next (exec (.edgePortStreamRead g port) s) (put w { h with got := some (s.readPlace h.pl h.n) } s)))
        ∧ (w.todo es = [] → room →
          ∃ t, Claims.Next (exec (.edgePortStreamRead g port) s) t
            ∧ ((Tab.get (t.scb key).readers i).map Reader.pos) = some (offAdd w.off w.n)
            ∧ (Tab.getD (t.core g).chans n : Chan).sfifo.length = (Tab.getD (s.core g).chans n : Chan).sfifo.length + 4
            ∧ (Tab.getD (t.core g).ports p : EdgePort).work = none ∧ t.banks = s.banks ∧ t.mem = s.mem)))
    ∧ (∀ n t x, s.writePort g p = some (e, n, t, x) → t.kind = .data →
        let bs := natToBytes (if t.form = .vector then 128 else if t.form = .tile then 8 else 4) t.pay.toNat
        let off := if e.wset then e.woff else b.hwm
        (∀ ring, e.work = none → b.tryWrite (.port g p) off bs.length = .perform ring → b.overtaken (.port g p) = false →
          Claims.Next (exec (.edgePortStreamWrite g port) s)
            ((((s.updPort g p (fun e => { e with woff := off, wset := true })).clearWait key (.port g p)).stamp g).updPort g p (fun e =>
              { e with work := some { off := off, n := bs.length, opens := b.opens }, wait := none })))
        ∧ (∀ w, e.work = some w → w.opens = b.opens → b.state ∈ [1, 2, 3] → b.auto = false →
          let es := ringAccs (key % 4096) b.win w.off w.n (some bs)
          let last (q : EAcc) (u : State) : State := if (w.put q).todo es = [] then
              (((put w q u).clearWait key (.port g p)).updPort g p (fun e => { e with woff := offAdd w.off w.n, work := none })).portPull g p n .data
            else put w q u
          ∀ q, w.todo es = [q] → b.bk = true →
            (w.io.find? q.same = none →
              Claims.Next (exec (.edgePortStreamWrite g port) s)
                (put w { q with pl := place q, va := b.base + q.addr % 2 ^ 48 % b.win, opens := b.opens } s))
            ∧ (∀ h d, w.io.find? q.same = some h → q.wr = some d → h.pl.bank = true → s.spoiled h.pl h.n true = false →
              Claims.Next (exec (.edgePortStreamWrite g port) s) (last { h with got := some [] } (s.writePlace h.pl d)))))
    ∧ (∀ n t x, s.writePort g p = some (e, n, t, x) → t.kind = .marker →
        let pulled (s : State) : State := (s.updPort g p (fun e => { e with ask := 0 })).portPull g p n .marker
        (e.ask = 2 ∨ (e.ask = 0 ∧ b.auto = true) → Claims.Next (exec (.edgePortMarkerPublish g port) s) (pulled s))
        ∧ (e.ask = 1 → Claims.Next (exec (.edgePortMarkerPublish g port) s) s)
        ∧ (e.ask = 0 → b.auto = false → b.state = 1 → after e.woff b.hwm = true → after e.woff b.limit = false →
          b.waiting = [] → b.waits = [] →
          ∃ u, Claims.Next (exec (.edgePortMarkerPublish g port) s) u ∧ (u.scb key).hwm = e.woff
            ∧ (Tab.getD (u.core g).ports p : EdgePort).ask = 0)
        ∧ (e.ask = 0 → b.auto = false → b.state = 1 → after e.woff b.hwm = true → after e.woff b.limit = true → b.waits = [] → b.waiting = [] →
          ∃ u, Claims.Next (exec (.edgePortMarkerPublish g port) s) u ∧ (u.scb key).hwm = b.hwm
            ∧ (u.scb key).waiting = [(.port g p, e.woff, 8)] ∧ (Tab.getD (u.core g).ports p : EdgePort).ask = 1))

/-- 07 R219 to R224: the stream commands. `sopen` makes a new control block, its HWM and tail 0, the region its producer; `sclose` ends it
in order or closes it, before or after the writes of a chunk that it has admitted (log 74); `spublish` moves HWM to its offset and `srelease` the reader's REL, at once where the rules let them; `srewind`
sets POS between REL and POS; `sstat` answers STATE, the free frames, the active slots and the count of waiting accesses; `sbind`
attaches and detaches a reader slot. -/
def Obligations.StreamCommandsHaveTheirEffect : Prop :=
  ∀ (s : State) (g : RegionNo) (id : Nat) (m : Cmd) (c : Frame),
    let key := cmdScb m c
    let b := s.scb key
    let six := c.handle.toNat % 4096
    let gr := s.grant g m.x
    let base := c.w2.toNat * 2 ^ 32 + c.w1.toNat
    let off := c.w1.toNat % 2 ^ 16 * 2 ^ 32 + c.w0.toNat
    let k := c.w0.toNat % 64
    let wlog := c.w0.toNat / 64 % 16
    let runs (i : Instr) (t : State) : Prop := Claims.does s g id m i t
    (openFault b gr six (c.cf.getLsbD 0) k wlog base = none →
      runs (.sopen c) (((s.setScb key
        { prod := if six = 4095 then 0xFF else g.toNat, owner := m.ctxid, state := 1, auto := c.cf.getLsbD 0, k := k, wlog := wlog,
          bk := clsOf base == 0xC, base := base % 2 ^ 57, greg := g, lease := gr.lease, lbase := gr.base,
          opens := b.opens + 1 }).freshPorts m.ctxid six).endCmd g id 0 0))
    ∧ (∀ e, openFault b gr six (c.cf.getLsbD 0) k wlog base = some e → runs (.sopen c) (s.failCmd g id e))
    ∧ (b.state ≠ 0 → b.state ≠ 4 → c.cf.getLsbD 0 = true → b.state = 1 →
        runs (.sclose c) ((s.changeScb key { b with state := 2 }).endCmd g id 0 2))
    ∧ (b.state ≠ 0 → b.state ≠ 4 → c.cf.getLsbD 0 = false → s.chunkGoing key = true → runs (.sclose c) s)
    ∧ (b.state ≠ 0 → b.state ≠ 4 → c.cf.getLsbD 0 = false → s.chunkGoing key = false →
        runs (.sclose c) ((s.changeScb key { b with state := 4, readers := [], pending := [], hb := false }).endCmd g id 0 4))
    ∧ (b.state = 0 ∨ b.state = 4 → runs (.sclose c) (s.failCmd g id Cause.streamClosed)
        ∧ runs (.srewind c) (s.failCmd g id Cause.streamClosed) ∧ runs (.sbind c) (s.failCmd g id Cause.streamClosed))
    ∧ (m.prog.stage = 0 → b.auto = false → b.state = 1 → after off b.hwm = true → after off b.limit = false → b.waiting = [] →
        b.waits = [] → Claims.Runs s g id m → ∃ t, Claims.Next (exec (.spublish c) s) t ∧ (t.scb key).hwm = off ∧ (t.cmd g id).done = true
          ∧ (t.cmd g id).cause = 0 ∧ (t.cmd g id).value = BitVec.ofNat 32 off)
    ∧ (∀ r, m.prog.stage = 0 → b.state ∈ [1, 2, 3] → Tab.get b.readers (c.w2.toNat % 8) = some r → after off r.rel = true →
        after off b.hwm = false → b.waiting = [] → b.waits = [] → Claims.Runs s g id m →
        ∃ t, Claims.Next (exec (.srelease c) s) t ∧ (Tab.get (t.scb key).readers (c.w2.toNat % 8)).map Reader.rel = some off
          ∧ (t.cmd g id).done = true ∧ (t.cmd g id).cause = 0)
    ∧ (∀ r, b.state ∈ [1, 2, 3] → Tab.get b.readers (c.w2.toNat % 8) = some r → before off r.rel = false → after off r.pos = false →
        runs (.srewind c)
          ((s.changeScb key { b with readers := Tab.set b.readers (c.w2.toNat % 8) { r with pos := off } }).endCmd g id 0 off))
    ∧ (m.prog.stage = 0 → base = 0 → runs (.sstat c) (s.endCmd g id 0 (if b.state = 0 then 0 else
        b.state % 8 * 2 ^ 29 + b.free % 2 ^ 13 * 2 ^ 16
          + ((List.range 8).filter (fun i => Tab.has b.readers i)).foldl (fun a i => a + 2 ^ i) 0 * 2 ^ 8
          + min (b.waits.filter b.stillWaits).length 255)))
    ∧ (b.state ∈ [1, 2, 3] → c.cf = 0 → Tab.has b.readers (c.w0.toNat % 8) = false →
        runs (.sbind c) ((s.changeScb key
          { b with readers := Tab.set b.readers (c.w0.toNat % 8) ⟨g.toNat, b.tail, b.tail⟩ }).endCmd g id 0 (c.w0.toNat % 8)))
    ∧ (b.state ∈ [1, 2, 3] → c.cf = 0 → Tab.has b.readers (c.w0.toNat % 8) = true → runs (.sbind c) (s.failCmd g id Cause.cmdInvalid))
    ∧ (b.state ∈ [1, 2, 3] → c.cf = 1 →
        runs (.sbind c) ((s.changeScb key (b.detach (c.w0.toNat % 8))).endCmd g id 0 (c.w0.toNat % 8)))

/-! ## Commands (03, 06, 09, 10) -/

/-- 06 R175, 03 R88: a command leaves its issue queue and starts once a place in the response queue is free, the stores before it have
performed, with ORD every earlier command of the port has posted, and its unit is free; it starts in the order of its queue. A command of the
counting unit is carried out as soon as it starts (10 R248): its step is the next. -/
def Sys2Proof.Claims.CommandsStartInOrder : Prop :=
  ∀ (s : State) (g : RegionNo) (x : CtxNo) (port : BitVec 4) (id : Nat) (rest : List Nat),
    let p := (s.thread g x).port port
    let c := s.cmd g id
    let stores := (s.core g).accs.any (fun a => a.port == .thread x && a.wr && !a.done && a.id < c.after)
    p.iq = id :: rest → (s.reg g).runs = true → c.done = false →
    (p.order.length + p.rq.length < 8 → stores = false → (c.ord = true → p.order = []) → (s.reg g).unitFree c = true →
      let t := (s.updThread g x (fun t => t.updPort port (fun p => { p with iq := rest, order := p.order ++ [id] }))).updCmd g id (fun c =>
        { c with started := true, wait := none })
      (¬ (0x30 ≤ c.code ∧ c.code ≤ 0x33) → Claims.Next (exec (.commandStart g x port) s) t)
      ∧ (0x30 ≤ c.code → c.code ≤ 0x33 →
          Claims.Next (exec (.commandStart g x port) s) { t with agenda := .command g id :: t.agenda }))
    ∧ (8 ≤ p.order.length + p.rq.length → Claims.Next (exec (.commandStart g x port) s) s)
    ∧ (p.order.length + p.rq.length < 8 → stores = true ∨ (c.ord = true ∧ p.order ≠ []) → Claims.Next (exec (.commandStart g x port) s) s)

/-- 03 R89, 09 R234, 06 R178, 19 R371: the oldest command of a port, once done, gives its response: opcode, cause, HANDLE and VALUE join the
response queue, KEN's counter is incremented, and the command is forgotten; a command of another generation of its context is dropped
and counted. -/
def Sys2Proof.Claims.CommandsPostTheirResponse : Prop :=
  ∀ (s : State) (g : RegionNo) (x : CtxNo) (port : BitVec 4) (id : Nat) (c : Cmd),
    let p := (s.thread g x).port port
    p.order = [id] → Tab.get (s.core g).cmds id = some c → c.done = true → c.posted = false → (s.thread g x).ending = none →
    (c.gen = s.genOf c.ctxid → ∃ t, Claims.Next (exec (.commandComplete g x port) s) t
      ∧ ((t.thread g x).port port).rq = p.rq ++ [fld c.w 120 8 ++ c.cause ++ fld c.w 96 16 ++ c.value]
      ∧ ((t.thread g x).port port).order = [] ∧ Tab.has (t.core g).cmds id = false
      ∧ (c.started = true → c.w.getLsbD 118 = true → (t.thread g x).counter (fld c.w 114 4) = (s.thread g x).counter (fld c.w 114 4) + 1)
      ∧ (c.w.getLsbD 118 = false → (t.thread g x).k = (s.thread g x).k))
    ∧ (c.gen ≠ s.genOf c.ctxid → ∃ t, Claims.Next (exec (.commandComplete g x port) s) t
      ∧ ((t.thread g x).port port).rq = p.rq ∧ Tab.has (t.core g).cmds id = false ∧ (t.thread g x).k = (s.thread g x).k
      ∧ t.boot.stale = if s.boot.stale + 1 = 0 then s.boot.stale else s.boot.stale + 1)

/-- 03 R88, R89, 06 R175, R178, 09 R234, 19 R371: commands start in the order of their queue, and post their responses in it. -/
def Obligations.CommandsStartAndRespond : Prop := Claims.CommandsStartInOrder ∧ Claims.CommandsPostTheirResponse

/-- 10 R240 to R247: the copy commands by their stages: the descriptor of 32 + 16 × NDIM bytes read and checked; each element of a chunk read,
each access starting in one step and performing in another (09 R230); then the writes of the chunk performed, each putting its bytes at
its place; then the next chunk; and the response with VALUE = bytes, or blocks for `qcopy`. A fault that a stream finds in a write of a
chunk ends the copy with none of the chunk's writes performed. A descriptor that the checks refuse fails with
their cause; for one that is not aligned CMD_INVALID is the model's choice (log 75). -/
def Obligations.CopyCommandsCopy : Prop :=
  ∀ (s : State) (g : RegionNo) (id : Nat) (m : Cmd) (c : Frame) (i : Instr),
    (i, m.code) ∈ [(Instr.tcopy c, 0x20), (.qcopy c, 0x21), (.tfill c, 0x22), (.tgather c, 0x23), (.tscatter c, 0x24)] →
    Claims.Runs s g id m →
    let d := CopyDesc.of m.prog.hdr
    let a := c.w2.toNat * 2 ^ 32 + c.w1.toNat
    let lo := m.prog.chunk * d.per m.code
    let n := min (d.per m.code) (d.total - lo)
    let unread := (d.reads m.code m.prog.tab lo n).filter (fun e => !m.prog.did e)
    let writes := CopyDesc.pieces m.code lo (fun a => (s.scb (elemScb m.ctxid a)).win)
      (d.writes m.code c.w0.toNat m.prog.tab lo (m.chunkData d lo n c.w0.toNat))
    let has (q : EAcc) (bs : List Byte) (io : List EAcc) : List EAcc := io.map (fun e => if e.same q then { e with got := some bs } else e)
    (∀ s1 s2 h ds, m.prog.stage = 0 → a % 32 = 0 → classFault a = none → s.eRead g id m a 32 = (s1, .ok h) →
      s1.eRead g id m (a + 32) (16 * copyNdim h) = (s2, .ok ds) →
      ((CopyDesc.of (h ++ ds)).fault m.code c.w0.toNat = none →
        Claims.Next (exec i s) (s2.progress g id (fun p => { p with stage := 1, hdr := h ++ ds })))
      ∧ (∀ e, (CopyDesc.of (h ++ ds)).fault m.code c.w0.toNat = some e → Claims.Next (exec i s) (s2.failCmd g id e)))
    ∧ (m.prog.stage = 0 → a % 32 ≠ 0 → classFault a = none → Claims.Next (exec i s) (s.failCmd g id Cause.cmdInvalid))
    ∧ (m.prog.stage = 2 → lo < d.total → d.total ≤ lo + n →
        (∀ e, unread = [e] → clsOf d.src = 0xC → clsOf e.addr = 0xC → bits e.addr 24 59 = 0 →
          (∀ pl, m.prog.find e = none → bankRange g (s.grant g m.x) (e.addr % 2 ^ 24) e.n = .ok pl →
            Claims.Next (exec i s) (s.updIo g id (fun io => io ++ [{ e with pl := pl, va := e.addr }])))
          ∧ (∀ q, m.prog.find e = some q → q.addr = e.addr → q.wr = none → q.pl.bank = true → s.spoiled q.pl q.n false = false →
            Claims.Next (exec i s) ((s.ownCxl s.cxl.length (g, m.kernel)).updIo g id (has q (s.readPlace q.pl q.n)))))
        ∧ (∀ e q bs, unread = [] → clsOf d.dst = 0xC → (∀ w ∈ writes, (m.prog.find w).isSome = true) →
            writes.filter (fun w => !m.prog.did w) = [e] → m.prog.find e = some q → e.wr = some bs → q.got = none → q.pl.bank = true →
            s.spoiled q.pl q.n true = false →
            Claims.Next (exec i s)
              (((s.writePlace q.pl bs).ownCxl s.cxl.length (g, m.kernel)).updIo g id (has { q with wr := some bs } [])))
        ∧ (unread = [] → writes ≠ [] → (∀ w ∈ writes, m.prog.did w = true) →
            Claims.Next (exec i s) ((s.stamp g).updCmd g id (fun m =>
              { m with prog := { m.prog with chunk := m.prog.chunk + 1, a := d.total, adm := false,
                                             io := m.prog.io.filter (fun e => e.wr.isNone && lo + n ≤ e.tag) }, wait := none }))))
    ∧ (∀ f, m.prog.stage = 2 → lo < d.total → d.total ≤ lo + n → unread = [] → clsOf d.dst = 4 → m.prog.adm = false →
        (∀ w ∈ writes, m.prog.did w = false) →
        (s.chunkAsk m.ctxid [] (d.writes m.code c.w0.toNat m.prog.tab lo (m.chunkData d lo n c.w0.toNat))).1 = some f →
        ∃ t, Claims.Next (exec i s) t ∧ (t.cmd g id).done = true ∧ (t.cmd g id).cause = f ∧ (t.cmd g id).value = BitVec.ofNat 32 m.prog.a
          ∧ t.mem = s.mem ∧ t.banks = s.banks)
    ∧ (m.prog.stage = 3 → m.prog.owed = 0 → m.prog.c = 0 →
        Claims.Next (exec i s) (s.endCmd g id 0 (if m.code = 0x21 then d.total / 32 else d.total * d.e)))

/-- 10 R242, R247, R249, R250, R251, R252, 09 R237: `binit` sets INB and OUTB of a barrier with an expectation and opens it when every
count is 0; a copy that owes a count takes one from OUTB, then from INB; `karm` arms or disarms a counter of a port; `fprobe` puts one
probe behind the tokens that the port has pulled, behind the elements and tokens that a joining port still holds too (log 90), and ends when the probe has come to its destination; `rmark` puts a marker there. -/
def Obligations.BarrierPortAndChannelCommands : Prop :=
  ∀ (s : State) (g : RegionNo) (id : Nat) (m : Cmd) (c : Frame),
    let runs (i : Instr) (t : State) : Prop := Claims.does s g id m i t
    let n := c.handle.toNat % 128
    let ch : Chan := Tab.getD (s.core g).chans n
    (∀ pl, bankPlace g (s.grant g m.x) (c.w0.toNat % 2 ^ 24) 16 = .ok pl →
      let b := Barrier.of (s.readPlace pl 16)
      s.spoiled pl 16 false = false →
      (b.exp = 0 → runs (.binit c) (s.failCmd g id Cause.cmdInvalid))
      ∧ (b.exp ≠ 0 → b.pend ≠ 0 ∨ c.w1 ≠ 0 ∨ c.w2 ≠ 0 →
          runs (.binit c) ((s.writePlace pl (Barrier.bytes { b with inb := c.w1.toNat, outb := c.w2.toNat })).endCmd g id 0 b.gen))
      ∧ (b.exp ≠ 0 → b.pend = 0 → c.w1 = 0 → c.w2 = 0 →
          runs (.binit c) ((s.writePlace pl (Barrier.bytes { b with gen := (b.gen + 1) % 16, pend := b.exp, inb := 0, outb := 0 })).endCmd g
            id 0 ((b.gen + 1) % 16))))
    ∧ (c.cf = 0 → runs (.karm c) ((s.updPort g (c.w0.toNat % 64) (fun e =>
        { e with tokArm := Tab.set e.tokArm m.x.toNat (c.handle.toNat % 16) })).endCmd g id 0 0))
    ∧ (c.cf = 1 → runs (.karm c) ((s.updPort g (c.w0.toNat % 64) (fun e =>
        { e with markArm := Tab.set e.markArm m.x.toNat (c.handle.toNat % 16) })).endCmd g id 0 0))
    ∧ (c.cf = 2 → runs (.karm c) ((s.updPort g (c.w0.toNat % 64) (fun e =>
        { e with tokArm := Tab.erase e.tokArm m.x.toNat, markArm := Tab.erase e.markArm m.x.toNat })).endCmd g id 0 0))
    ∧ (c.cf = 0 → m.prog.stage = 0 → dEN ch.desc = true → dCTX ch.desc = m.x → dVC ch.desc ≠ 1 →
        runs (.fprobe c) ((s.updChan g n (fun k =>
            if k.jElems ≠ [] then { k with jwait := k.jwait ++ [id] }
            else if k.jout = [] then { k with sfifo := k.sfifo ++ [{ ch := n, kind := .probe id, tid := s.tick, vc := dVC k.desc }] }
            else { k with jout := k.jout ++ [{ probe := some id }] })).progress g id (fun p => { p with stage := 1, owed := 1, a := 1 })))
    ∧ (c.cf = 0 → m.prog.stage = 0 → dEN ch.desc = false ∨ dCTX ch.desc ≠ m.x ∨ dVC ch.desc = 1 →
        runs (.fprobe c) (s.failCmd g id Cause.cmdInvalid))
    ∧ (m.prog.stage = 0 → dEN ch.desc = true → dCTX ch.desc = m.x → ch.rmark = [] → ch.jElems = [] → ch.jout = [] →
        ch.open_ = true → ch.sfifo.length < 8 →
        runs (.rmark c) ((s.updChan g n (fun k => ({ k with rmark := k.rmark.drop 1 } : Chan).place n s.tick
          { kind := .marker, form := .scalar, ctx := m.x, round := fld c.w0 0 8, p := true, tag := 0, pay := 0 })).endCmd g id 0 0))
    ∧ (m.prog.stage = 0 → dEN ch.desc = true → dCTX ch.desc = m.x → ch.jElems ≠ [] ∨ ch.jout ≠ [] →
        runs (.rmark c) (((s.updChan g n (fun k => { k.flushJoin with rmark := k.rmark ++ [(id, fld c.w0 0 8)] })).updCmd g id (fun m =>
          { m with prog := { m.prog with stage := 1 } })).waitCmd g id 0 n 0xFF))
    ∧ (∀ chn : BitVec 7, ∀ i rest cmd, (Tab.getD (s.core g).chans chn.toNat : Chan).dfifo = i :: rest → i.probe = some cmd →
        let s1 := (s.stamp g).updChan g chn.toNat Chan.pull
        ((s1.cmd g cmd).prog.owed ≤ 1 → Claims.Next (exec (.probeReturn g chn) s) (s1.endCmd g cmd 0 (s1.cmd g cmd).prog.a))
        ∧ (1 < (s1.cmd g cmd).prog.owed → Claims.Next (exec (.probeReturn g chn) s) (s1.updCmd g cmd (fun m =>
            { m with prog := { m.prog with owed := m.prog.owed - 1 } }))))
    ∧ (∀ pl b, s.cmd g id = m → Tab.has (s.core g).cmds id = true → m.started = true → m.done = false → m.isCopy = true → m.parked = none → m.prog.stage = 3 →
        (s.reg g).runs = true → bankPlace g (s.grant g m.x) (CopyDesc.of m.prog.hdr).barr 16 = .ok pl →
        b = Barrier.of (s.readPlace pl 16) → s.spoiled pl 16 false = false →
        (m.prog.owed = 3 → 1 < b.outb →
          Claims.Next (exec (.barrierCount g id) s) ((s.writePlace pl (Barrier.bytes { b with outb := b.outb - 1 })).updCmd g id (fun m =>
            { m with prog := { m.prog with owed := 1 } })))
        ∧ (m.prog.owed = 1 → 1 < b.inb →
          Claims.Next (exec (.barrierCount g id) s) ((s.writePlace pl (Barrier.bytes { b with inb := b.inb - 1 })).updCmd g id (fun m =>
            { m with prog := { m.prog with owed := 0 } }))))


/-! ## The context unit (16) -/

/-- 16 R318 to R321: `cfgput` reads 1 to 16 section entries and their records, checks them as a load does and stages the block, or answers
CFG_BAD_SLOT with the record's identifier; `ctxsave` sends pre-empt markers through its kernel's cells, and once they have passed and nothing
of it moves, takes them as an image, whose bytes are fixed there (log 13), stops them, and writes the image; `ctxload` refuses an image whose header or SHA-256 does not agree, and restores what one that agrees holds (log 13); `pmark`
ends the quantum, and with no switch answers at once. -/
def Obligations.ContextUnitCommands : Prop :=
  ∀ (s : State) (g : RegionNo) (id : Nat) (m : Cmd) (c : Frame),
    let runs (i : Instr) (t : State) : Prop := Claims.does s g id m i t
    let a := frameAddr c
    let n := c.w0.toNat % 32
    (∀ s1 s2 bs cs rs, structFault a 16 = none → 1 ≤ n → n ≤ 16 → s.eRead g id m a (16 * n) = (s1, .ok bs) →
        let ss := sectsOf bs 0 n
        let h : Sect := ss.headD {}
        let y := s1.sibling g m.x h.ctx
        sectsOk (s.kernelOf g m.x).image (s.grant g m.x).kreg ss = true → (s1.sched g y).active ≠ some h.block →
        s1.readSects g id m a ss = (s2, .ok cs) → (List.zip ss cs).mapM (fun p => Sect.recs { p.1 with off := 0 } p.2) = some rs →
        distinct (rs.flatten.flatMap Rec.names) = true →
        (∀ k, checkCfg ((s2.grant g y).env g) h.stage rs.flatten = .ok k →
          runs (.cfgput c) ((s2.stage g y h.block k true).endCmd g id 0 h.block))
        ∧ (∀ i, checkCfg ((s2.grant g y).env g) h.stage rs.flatten = .error i → runs (.cfgput c) (s2.endCmd g id Cause.cfgBadSlot i)))
    ∧ (structFault a 16 = none → n = 0 ∨ 16 < n → runs (.cfgput c) (s.failCmd g id Cause.cmdInvalid))
    ∧ (structFault a 4096 = none →
        let size := imageSize (s.grant g m.x).lease
        let bytes := imageWith (s.kernelOf g m.x).image (s.grant g m.x).kreg ((List.range (size - 256)).map (Config.imageByte s.saves.length))
        let sv : Saved := { g := g, kernel := m.kernel, bytes := bytes, core := ((s.core g).keep ((s.core g).ofKernel m.kernel)).save,
                            banks := s.kernelBanks g m.kernel }
        (m.prog.stage = 0 → runs (.ctxsave c)
          ((s.updCore g (fun k => { k with passing := some (m.kernel, []) })).progress g id (fun p => { p with stage := 1 })))
        ∧ (m.prog.stage = 1 → s.passedAll g m.kernel = false → runs (.ctxsave c) s)
        ∧ (m.prog.stage = 1 → s.passedAll g m.kernel = true → runs (.ctxsave c)
          ((({ s with saves := s.saves ++ [sv] } : State).updCore g (fun k => { k.stop m.kernel true with passing := none })).progress g id (fun p =>
            { p with stage := 2, a := s.saves.length })))
        ∧ (∀ s1 old, m.prog.stage = 2 → s.saves[m.prog.a]? = some old → s.eWrite g id m a old.bytes = (s1, .ok ()) →
          runs (.ctxsave c) ((if c.cf.getLsbD 0 then s1 else s1.updCore g (fun k => k.stop m.kernel false)).endCmd g id 0 size)))
    ∧ (∀ s1 bs, structFault a 4096 = none → s.eRead g id m a (imageSize (s.grant g m.x).lease) = (s1, .ok bs) →
        let head := natToBytes 4 0x49544348
          ++ ([(s1.grant g m.x).kreg] ++ [hCTXN, hMRF, hLEASE, hACC].map (fun f => f (s1.kernelOf g m.x).image)).map (BitVec.ofNat 8)
          ++ List.replicate 183 0 ++ ((s1.kernelOf g m.x).image.drop 32).take 32 ++ Sha.sha256 (bs.drop 256)
        (bs ≠ head ++ bs.drop 256 → runs (.ctxload c) (s1.failCmd g id Cause.cmdInvalid))
        ∧ (bs = head ++ bs.drop 256 → (s1.core g).quietKernel m.kernel = true →
            runs (.ctxload c) ((s1.loadSaved g m.kernel (s1.savedOf g m.kernel bs)).endCmd g id 0 0)))
    ∧ (m.prog.stage = 0 →
        let s1 := s.progress g id (fun p => { p with stage := 1 })
        (∀ s2, s1.endQuantum g = (s2, false) → runs (.pmark c) (s2.endCmd g id 0 0))
        ∧ (∀ s2, s1.endQuantum g = (s2, true) → runs (.pmark c) s2))

/-! ## The collective unit (10) -/

/-- 10 R260 to R264: `ngroup` creates a group from a member table or deletes it; `npause` fixes P = the member's next chunk to start + 4
and answers P where the group is paused already; `nresume` answers the next chunk of a group not paused; `nsend` reads its packet or its
descriptor, starts at most four chunks, sending its contribution to every member with the lists that combine the ranks as `ctree` pairs
them (that plan is the model's choice, log 19), writes the result of the lowest uncompleted chunk once it has come together, reports that
chunk when the group loses a member (log 93), and completes with VALUE = NCH after its last chunk. Every command on a group not created
fails. An `npause` waits for an ALLREDUCE that has still to read which chunk is its first, and two pauses at once are log 77. -/
def Obligations.GroupCommands : Prop :=
  ∀ (s : State) (g : RegionNo) (id : Nat) (m : Cmd) (c : Frame),
    let runs (i : Instr) (t : State) : Prop := Claims.does s g id m i t
    let key := grpKey m.ctxid c.handle.toNat
    let r := s.reg g
    let n := c.w0.toNat % 65536
    let a := frameAddr c
    (∀ s1 bs, c.cf = 0 → r.group? key = none → classFault a = none → s.eRead g id m a (8 * n) = (s1, .ok bs) →
        let es := (List.range n).map (word8 bs)
        let wrong := (List.zip (List.range n) es).any (fun p => entryWrong (c.w0.toNat / 65536) p.1 p.2)
        (wrong = false → runs (.ngroup c) ((s1.updGroup g key (fun _ =>
          { table := es.map (BitVec.ofNat 16), own := c.w0.toNat / 65536 })).endCmd g id 0 0))
        ∧ (wrong = true → runs (.ngroup c) (s1.failCmd g id Cause.cmdInvalid)))
    ∧ (c.cf = 0 → r.group? key ≠ none → runs (.ngroup c) (s.failCmd g id Cause.cmdInvalid))
    ∧ (c.cf = 1 → r.group? key ≠ none → r.sender key = none →
        runs (.ngroup c) ((s.updGroup g key (fun _ => { failed := true })).endCmd g id 0 0))
    ∧ (r.group? key = none → runs (.npause c) (s.endCmd g id Cause.cmdInvalid 0) ∧ runs (.nresume c) (s.endCmd g id Cause.cmdInvalid 0)
        ∧ runs (.nsend c) (s.endCmd g id Cause.cmdInvalid 0))
    ∧ (∀ gr, r.group? key = some gr → gr.asker = none → m.prog.stage = 0 →
        (∀ p, gr.paused = some p → runs (.npause c) (s.endCmd g id 0 p)
          ∧ runs (.nresume c) (((s.progress g id (fun q => { q with stage := 1, a := p })).updGroup g key (fun x =>
              { x with asker := some id })).beginResume g key gr))
        ∧ (gr.paused = none → runs (.nresume c) (s.endCmd g id 0 gr.next)
          ∧ (s.firstUnknown g key = true → runs (.npause c) s)
          ∧ (s.firstUnknown g key = false → runs (.npause c) (((s.progress g id (fun q => { q with stage := 1, a := gr.next + 4 })).updGroup g key (fun x =>
              { x with asker := some id })).beginPause g key gr).1)))
    ∧ (∀ gr s1 s2 h pay, r.group? key = some gr → gr.failed = false → Tab.has s.losses key = false → c.cf = 1 → m.prog.stage = 0 → classFault a = none →
        s.eRead g id m a 64 = (s1, .ok h) →
        let len := leNat ((h.drop 20).take 4)
        len % 128 = 0 → 128 ≤ len → len ≤ 4096 → s1.eRead g id m (a + 64) len = (s2, .ok pay) →
        let p := packetOf h pay
        let s3 := s2.progress g id (fun q => { q with stage := 1, chunk := p.chunk.toNat })
        runs (.nsend c) (s3.setReg g { s3.reg g with
          arrivals := (s3.reg g).arrivals ++ [{ ctxid := m.ctxid, gen := some m.gen, cmd := some id, pk := p, since := s.tick }] }))
    ∧ (∀ gr s1 h, r.group? key = some gr → gr.failed = false → Tab.has s.losses key = false → c.cf = 0 → m.prog.stage = 0 → classFault a = none →
        s.eRead g id m a 32 = (s1, .ok h) →
        let s2 := s1.progress g id (fun q => { q with hdr := h, chunk := bits (word8 h 3) 32 63 })
        let d := (s2.cmd g id).reduce
        d.fault h = none → (s2.reg g).contribs.all (fun q => q.grp != key) = true →
        runs (.nsend c) ((s2.progress g id (fun q => { q with stage := 1 })).updGroup g key (fun x => { x with next := d.first })))
    ∧ (∀ gr, r.group? key = some gr → gr.failed = false → Tab.has s.losses key = false → c.cf = 0 → m.prog.stage ≠ 0 →
        let d := m.reduce
        (d.first + d.nch ≤ m.prog.chunk → runs (.nsend c) ((s.endCmd g id 0 d.nch).pauseReport g key))
        ∧ (∀ q s1 s2, m.prog.chunk < d.first + d.nch →
            r.contribs.find? (fun q => q.grp == key && q.pk.plan && q.pk.chunk.toNat == m.prog.chunk && q.pk.op0 == 4 && q.pk.rank == 0
              && q.pk.span.toNat == gr.table.length) = some q →
            s.eCheck g id m (d.dst + (m.prog.chunk - d.first) * d.chb) q.pk.pay.length = (s1, .ok ()) →
            s1.eWrite g id m (d.dst + (m.prog.chunk - d.first) * d.chb) q.pk.pay = (s2, .ok ()) →
            let s3 := s2.setReg g { s2.reg g with
              contribs := (s2.reg g).contribs.filter (fun q => !(q.grp == key && q.pk.chunk.toNat == m.prog.chunk)) }
            runs (.nsend c) ((s3.chunkIo g id true (fun q => { q with chunk := q.chunk + 1 })).pauseReport g key))
        ∧ (∀ pay s1, m.prog.chunk < d.first + d.nch →
            r.contribs.any (fun q => q.grp == key && q.pk.plan && q.pk.chunk.toNat == m.prog.chunk && q.pk.op0 == 4) = false →
            gr.next < d.first + d.nch → gr.next < m.prog.chunk + 4 → gr.paused = none → (∀ e ∈ gr.table, routeKind e ≠ 0) →
            s.eRead g id m (d.src + (gr.next - d.first) * d.chb) d.chb = (s1, .ok pay) →
            let ops := planOps d.op gr.own gr.table.length
            let p : Packet := { daddr := 0, ops := ops, routes := ops.map (fun _ => 0x8000), chunk := BitVec.ofNat 32 gr.next, span := 1,
                                rank := BitVec.ofNat 16 gr.own, group := BitVec.ofNat 16 key, fmt := BitVec.ofNat 4 d.ty,
                                nent := BitVec.ofNat 4 ops.length, last := gr.next + 1 == d.first + d.nch, pay := pay, plan := true }
            runs (.nsend c) (gr.table.foldl (fun s e => (s.sendPk g m.ctxid p e).1)
              ((s1.updGroup g key (fun x => { x with next := gr.next + 1 })).chunkIo g id false (fun q => q))))
        ∧ (m.prog.chunk < d.first + d.nch →
            r.contribs.any (fun q => q.grp == key && q.pk.plan && q.pk.chunk.toNat == m.prog.chunk && q.pk.op0 == 4) = false →
            d.first + d.nch ≤ gr.next ∨ m.prog.chunk + 4 ≤ gr.next ∨ (∃ p, gr.paused = some p ∧ (gr.whole = true ∨ p ≤ gr.next)) →
            runs (.nsend c) ((s.pauseReport g key).waitCmd g id 12 (key % 65536) 0xFF)))
    ∧ (∀ gr, r.group? key = some gr → gr.failed = false → Tab.has s.losses key = true → m.prog.stage ≠ 0 → c.cf = 0 → m.cf = 0 →
        Tab.has (Tab.getD s.losses key : Loss).heard gr.own = false → r.result key m.prog.chunk gr.table.length = none →
        r.arrivals.any (fun a => a.pk.plan && grpKey a.ctxid a.pk.group.toNat == key) = false →
        runs (.nsend c) ((s.reportLoss key gr.own m.prog.chunk).settleLoss key))
    ∧ (∀ gr, r.group? key = some gr → gr.failed = true → runs (.nsend c) (s.endCmd g id Cause.collMemberLost m.prog.chunk))

/-- 10 R260 to R265, 13 R284, R285, 19 R368, 09 R235, 01 R32: what arrives at a collective unit. A packet on a link for a group not created
is held in the link's receive buffer, which takes no other meanwhile, and any other joins the arrivals; op 0 passes on along the next
route; ops 1 and 2 wait for an adjacent contribution or are combined with it; ops 3 and 4 write at DADDR, each line in a step of its own,
before the packet goes on or is consumed; a packet of an ALLREDUCE's plan meets its mate or waits for it, and one that disagrees with the
member's own `nsend` loses the chunk for all; of a lost member the package is told, and what a rank reports is kept until every survivor has
reported (log 93); a pause fixes P, the lower of two at once (log 77), a resume ends it, once the member's own `nsend` is resident, and a
report counts. The context of a link's packet and the parts of the plan are log 19, the gang switch log 33, reporters and discarding of
reserved kinds log 71. Voing tokens enter at the port that names their channel, those of kind 6 or 7 are discarded and
reported; acknowledgements and write completions leave nothing owed. -/
def Obligations.PacketsAndMessagesAtTheUnits : Prop :=
  ∀ (s : State) (g : RegionNo) (cid : BitVec 12) (grp : BitVec 16),
    let key := grpKey cid.toNat grp.toNat
    let r := s.reg g
    (∀ (link : BitVec 4) p, (Tab.getD s.links link.toNat : Link).heldPk = none →
        (∀ ctxid, s.groupCtx g p.group = some ctxid → Claims.Next (exec (.collectiveHop g (some (link, p))) s)
          (s.setReg g { r with arrivals := r.arrivals ++ [{ ctxid := ctxid, pk := p, since := s.tick }] }))
        ∧ (s.groupCtx g p.group = none → Claims.Next (exec (.collectiveHop g (some (link, p))) s)
          { s with links := Tab.upd s.links link.toNat (fun l => { l with heldPk := some (g, p, s.tick) }) }))
    ∧ (∀ (link : BitVec 4) p q, (Tab.getD s.links link.toNat : Link).heldPk = some q →
        Claims.Next (exec (.collectiveHop g (some (link, p))) s) s)
    ∧ (∀ a rest gr, s.freedPk g = none → s.losses = [] → r.arrivals = a :: rest →
        let p := a.pk
        let k := grpKey a.ctxid p.group.toNat
        let es := writeLines p.daddr.toNat p.pay
        let hops (t : State) : Prop := Claims.Next (exec (.collectiveHop g none) s)
          (t.setReg g { t.reg g with arrivals := (t.reg g).arrivals.eraseIdx 0 })
        (∀ v, a.gen = some v → v = s.genOf a.ctxid) → Tab.get r.groups k = some gr → gr.failed = false → p.rsvd = false → p.nent ≠ 0 →
        routeKind p.route0 ≠ 3 → p.op0 < 5 → s.routeHeld p.route0 = false → a.parked = none →
        (p.plan = false → p.op0 = 0 → hops (s.passOn g a.ctxid k p a.cmd))
        ∧ (p.plan = false → p.op0 = 1 ∨ p.op0 = 2 →
            let mate (q : Contrib) : Bool := q.grp == k && !q.pk.plan && q.pk.chunk == p.chunk && q.pk.adjoins p
            (r.contribs.any mate = false →
              hops (s.setReg g { r with contribs := r.contribs ++ [{ grp := k, cmd := a.cmd, pk := p }] }))
            ∧ (∀ q, r.contribs.find? mate = some q → redFormat p.fmt.toNat = true → q.pk.fmt = p.fmt → q.pk.pay.length = p.pay.length →
                p.rank.toNat < q.pk.rank.toNat →
                hops (((s.setReg g { r with contribs := r.contribs.erase q }).leftHop g q.cmd).passOn g a.ctxid k
                  { p with span := p.span + q.pk.span, pay := redPay p.fmt.toNat (p.op0 - 1) p.pay q.pk.pay } a.cmd)))
        ∧ (p.plan = true → r.sending k = none →
            let mate (q : Contrib) : Bool := q.grp == k && p.op0 != 4 && p.mates q.pk gr.table.length
            (r.contribs.find? mate = none → hops (s.setReg g { r with contribs := r.contribs ++ [{ grp := k, pk := p }] }))
            ∧ (∀ q, r.contribs.find? mate = some q → redFormat p.fmt.toNat = true → q.pk.fmt = p.fmt → q.pk.pay.length = p.pay.length →
                p.rank.toNat < q.pk.rank.toNat →
                hops (((s.setReg g { r with contribs := r.contribs.erase q }).leftHop g q.cmd).passOn g a.ctxid k
                  { p with span := p.span + q.pk.span, pay := redPay p.fmt.toNat (p.op0 - 1) p.pay q.pk.pay } none)))
        ∧ (∀ e, p.plan = true → r.sending k = some e → e.2.cf = 0 → e.2.reduce.agrees p = false → hops (s.loseGroup k true []))
        ∧ (p.plan = false → p.op0 = 3 ∨ p.op0 = 4 → s.sender g k = none → ∀ x, (s.core g).resident a.ctxid = some x →
            (∀ e pl, es = [e] → a.io.find? e.same = none → clsOf e.addr = 0xC → bits e.addr 24 59 = 0 →
                bankRange g (s.grant g x) (e.addr % 2 ^ 24) e.n = .ok pl →
              Claims.Next (exec (.collectiveHop g none) s) (s.updArrival g 0 (fun io => io ++ [{ e with pl := pl, va := e.addr }])))
            ∧ (∀ e q bs, es = [e] → a.io.find? e.same = some q → q.got = none → e.wr = some bs → q.pl.bank = true →
                s.spoiled q.pl q.n true = false →
              Claims.Next (exec (.collectiveHop g none) s) ((s.writePlace q.pl bs).updArrival g 0 (fun io =>
                io.map (fun h => if h.same { q with wr := some bs } then { h with got := some [] } else h))))
            ∧ ((∀ e ∈ es, ∃ q, a.io.find? e.same = some q ∧ q.got ≠ none) →
              (p.op0 = 4 → hops (s.leftHop g a.cmd)) ∧ (p.op0 = 3 → hops (s.passOn g a.ctxid k p a.cmd)))))
    ∧ (∀ gr (p : PauseMsg), r.group? key = some gr → s.sender g key = none → gr.asker = none → gr.switching = false →
        ∃ t, Claims.Next (exec (.groupPauseReceive g cid grp p) s) t
          ∧ (gr.paused = none →
              (Tab.get (t.reg g).groups key).map (fun x => (x.paused, x.whole, x.asked, x.gang)) = some (some p.p.toNat, gr.whole, false, p.gang))
          ∧ (∀ q, gr.paused = some q → (Tab.get (t.reg g).groups key).map (fun x => (x.paused, x.asked)) = some (some (min q p.p.toNat), false))
          ∧ (p.gang = true → (s.core g).grants.any (fun e => e.2.ctxid == cid.toNat) = true → (t.reg g).switching = true))
    ∧ (∀ gr rank, r.group? key = some gr → gr.asker = none → gr.switching = true →
        ∃ t, Claims.Next (exec (.groupPauseReport g cid grp rank) s) t
          ∧ (Tab.get (t.reg g).groups key).map Group.reported
              = some (if rank.toNat ∈ gr.reported then gr.reported else gr.reported ++ [rank.toNat]))
    ∧ (∀ gr, r.group? key = some gr → s.senderSaved g key = true → ∃ t, Claims.Next (exec (.groupResumeReceive g cid grp) s) t
          ∧ (Tab.get (t.reg g).groups key).map (fun x => (x.paused, decide (x.late = 0))) = some (gr.paused, false))
    ∧ (∀ gr, r.group? key = some gr → s.senderSaved g key = false → ∃ t, Claims.Next (exec (.groupResumeReceive g cid grp) s) t
          ∧ (Tab.get (t.reg g).groups key).map (fun x => (x.table, x.paused, x.asked)) = some (gr.table, none, false))
    ∧ (∀ (rank : BitVec 16) (l : LossMsg),
        (l.chunks = [] → s.members key = [] → Claims.Next (exec (.memberLoss cid grp rank l) s) s)
        ∧ (l.chunks = [] → l.dis = false → Tab.has s.losses key = false → s.members key ≠ [] →
            (∀ m ∈ s.members key, m.2.own ≠ rank.toNat ∧ s.sender m.1 key = none ∧ ∀ i < m.2.table.length, i ≠ rank.toNat → routeKind (m.2.table.getD i 0) ≠ 0) →
            ∃ t, Claims.Next (exec (.memberLoss cid grp rank l) s) t ∧ Tab.has t.losses key = false
              ∧ ∀ m ∈ s.members key, (Tab.get (t.reg m.1).groups key).map (fun x => (x.failed, x.table)) = some (true, m.2.table))
        ∧ (∀ x c m e, (l.chunks.map BitVec.toNat).min? = some c → Tab.get s.losses key = some x →
            m ∈ s.members key → (∀ q ∈ s.members key, q.2.own = m.2.own → q = m) → m.2.own < m.2.table.length → m.2.own ≠ rank.toNat →
            m.2.own ∉ x.gone → Tab.has x.heard m.2.own = false → (s.reg m.1).sending key = some e → s.stuck m.1 e = false → e.2.cf ≠ 1 →
            ∃ t, Claims.Next (exec (.memberLoss cid grp rank l) s) t
              ∧ Tab.get (Tab.getD t.losses key : Loss).heard rank.toNat = some (min c ((Tab.get x.heard rank.toNat).getD c))))
    ∧ (∀ link ch tok q p n e (c : Chan),
        let names (e : Nat × EdgePort) : Bool := e.2.kind == 3 && e.2.arg.toNat % 16 == (link : BitVec 4).toNat && e.2.arg.toNat / 256 % 256 == (ch : Byte).toNat
        s.regions.findSome? (fun r => (r.2.core.ports.find? names).map (fun e => (BitVec.ofNat 5 r.1, e.1))) = some (q, p) →
        (tok.kind ≠ .reserved6 → tok.kind ≠ .reserved7 →
          (s.core q).chans.find? (fun e => dSRC e.2.desc == 256 + p && (s.core q).chanActive e.1) = some (n, c) →
          Tab.get (s.core q).ports p = some e → e.tokArm = [] → e.markArm = [] → c.rmark = [] → c.jout = [] → c.takes tok = true →
          s.portMoves q c.desc = true → (s.reg q).clockGated = false → (s.reg q).gating = none →
          Claims.Next (exec (.voingTokenReceive link ch tok) s)
            ((s.updChan q n (fun c => c.place n s.tick { tok with ctx := dCTX c.desc })).stamp q))
        ∧ (tok.kind ≠ .reserved6 → tok.kind ≠ .reserved7 → (s.reg q).clockGated = true ∨ (s.reg q).gating ≠ none →
          Claims.Next (exec (.voingTokenReceive link ch tok) s) (s.setReg q { s.reg q with called := true }))
        ∧ (tok.kind = .reserved6 ∨ tok.kind = .reserved7 → ∃ f, Claims.Next (exec (.voingTokenReceive link ch tok) s) (s.record f)
            ∧ f.cause = Cause.uncorrectable ∧ f.rep = BitVec.ofNat 16 (0x8100 + p) ∧ f.fatal = true))
    ∧ (∀ link : BitVec 4, let l : Link := Tab.getD s.links link.toNat
        let next (l : Link) : Prop := Claims.Next (exec (.voingAcknowledgement link) s) { s with links := Tab.set s.links link.toNat l }
        (∀ who rest, l.unacked = (who, true) :: rest → next { l with outTok := l.outTok.drop 1, unacked := rest })
        ∧ (∀ who rest, l.unacked = (who, false) :: rest → next { l with outPk := l.outPk.drop 1, unacked := rest })
        ∧ (l.unacked = [] → Claims.Next (exec (.voingAcknowledgement link) s) s))
    ∧ (∀ line who before rest, s.cxl = before ++ (line, who) :: rest → (∀ e ∈ before, e.1 ≠ line) →
        Claims.Next (exec (.cxlWriteCompletion line) s) { s with cxl := before ++ rest })

/-! ## Drawer space (11) -/

/-- 11 R267, R277 to R281: the Drawer commands at the region's unit: `dcreate` reserves the capacity at the anchor and sends 128 live marks;
`ddestroy` sends 128 sweeps; `ddeposit` reads its record of 32 + 32 × PLU bytes and asks the anchor; `dcopy` and `dtake` check their
pattern, read it and ask the home slice of f0; a delivered tuple is written behind the pattern and its response follows. -/
def Obligations.DrawerCommandsAskTheirSlices : Prop :=
  ∀ (s : State) (g : RegionNo) (id : Nat) (m : Cmd) (c : Frame),
    let runs (i : Instr) (t : State) : Prop := Claims.does s g id m i t
    let did := c.handle.toNat
    let key := drawerKey m.ctxid did
    let cap := c.w0.toNat % 2 ^ 20
    let a := frameAddr c
    let anchor := did * 0x9E37 % 128
    (m.prog.stage = 0 → Tab.has s.drawers key = false → 1 ≤ cap → cap ≤ 524288 → s.drawers.length < 4096 →
        (s.drawers.map (fun p => p.2.cap)).sum + cap ≤ 524288 → Claims.Runs s g id m →
        ∃ t, Claims.Next (exec (.dcreate c) s) t ∧ Tab.get t.drawers key = some { cap := cap, inc := s.tick, owed := 128, cmd := some (g, id) }
          ∧ Tab.get (t.slice anchor).cap key = some cap ∧ Tab.get (t.slice anchor).count key = some 0
          ∧ (∀ n < 128, (t.slice n).inLive = (s.slice n).inLive ++ [key]) ∧ (t.cmd g id).done = false)
    ∧ (m.prog.stage = 0 → ∀ d, Tab.get s.drawers key = some d → d.dying = false → runs (.dcreate c) (s.failCmd g id Cause.cmdInvalid))
    ∧ (m.prog.stage = 0 → Tab.has s.drawers key = false → 1 ≤ cap → cap ≤ 524288 → 524288 < (s.drawers.map (fun p => p.2.cap)).sum + cap →
        runs (.dcreate c) (s.failCmd g id Cause.outOfMemory))
    ∧ (∀ d, m.prog.stage = 0 → Tab.get s.drawers key = some d → d.dying = false → d.owed = 0 →
        (∀ q ∈ (s.slice anchor).parked, q.kind = 0 → q.key ≠ key) → Claims.Runs s g id m →
        ∃ t, Claims.Next (exec (.ddestroy c) s) t ∧ Tab.get t.drawers key = some { d with dying := true, owed := 128, cmd := some (g, id), host := none }
          ∧ (∀ n < 128, (t.slice n).inSweep = (s.slice n).inSweep ++ [key]) ∧ (t.cmd g id).done = false)
    ∧ (m.prog.stage = 0 → Tab.has s.drawers key = false → runs (.ddestroy c) (s.failCmd g id Cause.cmdInvalid))
    ∧ (∀ s1 bs, m.prog.stage = 0 → structFault a 32 = none → s.eRead g id m a (32 + 32 * (c.w0.toNat % 16)) = (s1, .ok bs) →
        runs (.ddeposit c) ((s1.progress g id (fun p => { p with stage := 2 })).updSlice anchor (fun l => { l with inRes := l.inRes ++
          [{ kind := 0, did := did, ctxid := m.ctxid, g := g, cmd := id, nowait := c.cf.getLsbD 0, n := 1 + c.w0.toNat % 16,
             tuple := { f := words8 bs 0, pay := bs.drop 32, plu := c.w0.toNat % 16 } }] })))
    ∧ (∀ i kind, (i, kind) ∈ [(Instr.dcopy c, 1), (.dtake c, 2)] →
        let modes := c.w0.toNat % 65536
        let maxp := c.w0.toNat / 65536 % 16
        (∀ s1 s2 bs, m.prog.stage = 0 → structFault a 64 = none → patternBad modes = false → s.eRead g id m a 64 = (s1, .ok bs) →
            s1.eCheck g id m (a + 64) (32 + 32 * maxp) = (s2, .ok ()) →
            runs i ((s2.progress g id (fun p => { p with stage := 2 })).updSlice (homeSlice did ((words8 bs 0).getD 0 0).toNat) (fun l =>
              { l with inMat := l.inMat ++ [{ kind := kind, did := did, ctxid := m.ctxid, g := g, cmd := id, nowait := c.cf.getLsbD 0,
                                              modes := modes, maxp := maxp, v := words8 bs 0, m := words8 bs 32 }] })))
        ∧ (m.prog.stage = 0 → structFault a 64 = none → patternBad modes = true → runs i (s.failCmd g id Cause.drawerPattern))
        ∧ (∀ s1 s2, m.prog.stage = 3 → s.eCheck g id m (a + 64) m.prog.hdr.length = (s1, .ok ()) →
            s1.eWrite g id m (a + 64) m.prog.hdr = (s2, .ok ()) → runs i (s2.endCmd g id 0 m.prog.a)))

/-- 11 R273 to R276, R279: what the slices do. The anchor grants a deposit whose 1 + PLU units fit while none of the Drawer is parked before
it, answers DRAWER_FULL without waiting, or parks it; units returned let parked deposits follow. The home slice hands a deposit to
the parked copies and takes that match, in park order, up to the first take, and stores what is left at the tail of the bag; a copy or
take is served by the first tuple of the bag that matches, or answers VALUE 0 without waiting, or is parked. The last live mark
completes the creation, the last sweep the destruction; what a destroyed Drawer still has under way changes nothing of one created later with its
id. -/
def Obligations.SlicesServeInOrder : Prop :=
  ∀ (s : State) (n : BitVec 7) (i : Nat),
    let l := s.slice n.toNat
    let out (f : Slice → Slice) : State := s.updSlice n.toNat f
    (∀ q, l.inRes[i]? = some q →
        let s1 := out (fun l => { l with inRes := l.inRes.eraseIdx i })
        let stuck := l.parked.any (fun p => p.kind == 0 && p.key == q.key)
        let count := Tab.getD l.count q.key
        let fits := stuck = false ∧ count + q.n ≤ Tab.getD l.cap q.key
        let does (t : State) : Prop := Claims.Next (exec (.anchorReserve n i) s) t
        (s.anchorLive q.key = false → does (s1.drawerEnd q Cause.cmdInvalid 0))
        ∧ (s.anchorLive q.key = true → fits →
            does ((s1.updSlice n.toNat (fun l => { l with count := Tab.set l.count q.key (count + q.n) })).sendDeposit q))
        ∧ (s.anchorLive q.key = true → ¬ fits → q.nowait = true → does (s1.drawerEnd q Cause.drawerFull 0))
        ∧ (s.anchorLive q.key = true → ¬ fits → q.nowait = false → does (s1.drawerPark n.toNat q)))
    ∧ (∀ q, l.inRet[i]? = some q →
        let s1 := out (fun l => { l with inRet := l.inRet.eraseIdx i })
        let s2 := s1.updSlice n.toNat (fun l => { l with count := Tab.upd l.count q.key (· - q.n) })
        (∀ d, Tab.get s.drawers q.key = some d → d.inc = q.inc → Claims.Next (exec (.anchorReturn n i) s)
          (if s.anchorLive q.key then State.grantParked n.toNat q.key (l.parked.length + 1) s2 else s2))
        ∧ ((∀ d, Tab.get s.drawers q.key = some d → d.inc ≠ q.inc) → Claims.Next (exec (.anchorReturn n i) s) s1))
    ∧ (∀ q, l.inDep[i]? = some q →
        let s1 := out (fun l => { l with inDep := l.inDep.eraseIdx i })
        let t := { q.tuple with seq := Tab.getD l.seqs q.key }
        let s2 := s1.updSlice n.toNat (fun l => { l with seqs := Tab.set l.seqs q.key ((t.seq + 1) % 2 ^ 64) })
        let does (t : State) : Prop := Claims.Next (exec (.homeDeposit n i) s) t
        (Tab.get l.live q.key ≠ some q.inc → does (s1.drawerEnd q Cause.cmdInvalid 0))
        ∧ (Tab.get l.live q.key = some q.inc → (∀ p ∈ l.parked, p.kind = 0 ∨ p.key ≠ q.key ∨ p.matches t = false) →
            does ((s2.updSlice n.toNat (fun l => { l with bags := Tab.upd l.bags q.key (· ++ [t]) })).drawerEnd q 0 n.toNat))
        ∧ (∀ p rest, Tab.get l.live q.key = some q.inc → l.parked = p :: rest → p.kind = 2 → p.key = q.key → p.matches t = true →
            does ((((s2.updSlice n.toNat (fun l => { l with parked := l.parked.erase p })).drawerDeliver p t n.toNat).sendReturn n.toNat p
              (1 + t.plu)).drawerEnd q 0 n.toNat)))
    ∧ (∀ q, l.inMat[i]? = some q → Tab.has l.live q.key = true →
        let s1 := out (fun l => { l with inMat := l.inMat.eraseIdx i })
        let bag : List Tuple := Tab.getD l.bags q.key
        let does (t : State) : Prop := Claims.Next (exec (.homeMatch n i) s) t
        (∀ t, bag.find? q.matches = some t → q.kind = 1 → does (s1.drawerDeliver q t n.toNat))
        ∧ (∀ t, bag.find? q.matches = some t → q.kind = 2 → does (((s1.drawerDeliver q t n.toNat).updSlice n.toNat (fun l =>
            { l with bags := Tab.set l.bags q.key (bag.erase t) })).sendReturn n.toNat q (1 + t.plu)))
        ∧ (bag.any q.matches = false → q.nowait = true → does (s1.drawerEnd q 0 0))
        ∧ (bag.any q.matches = false → q.nowait = false → does (s1.drawerPark n.toNat q)))
    ∧ (∀ q, l.inMat[i]? = some q → Tab.has l.live q.key = false →
        Claims.Next (exec (.homeMatch n i) s) ((out (fun l => { l with inMat := l.inMat.eraseIdx i })).drawerEnd q Cause.cmdInvalid 0))
    ∧ (∀ key d, l.inLive[i]? = some key → Tab.get s.drawers key = some d →
        let s1 := out (fun l => { l with inLive := l.inLive.eraseIdx i, live := Tab.set l.live key d.inc })
        let s2 : State := { s1 with drawers := Tab.set s.drawers key { d with owed := d.owed - 1 } }
        (d.owed ≠ 1 → Claims.Next (exec (.drawerLiveMark n i) s) s2)
        ∧ (∀ g id, d.owed = 1 → d.cmd = some (g, id) → d.host = none → Claims.Next (exec (.drawerLiveMark n i) s) (s2.endCmd g id 0 d.cap)))
    ∧ (∀ key d, l.inSweep[i]? = some key → Tab.get s.drawers key = some d → (∀ q ∈ l.parked, q.kind ≠ 0 → q.key ≠ key) →
        ∃ t, Claims.Next (exec (.drawerSweep n i) s) t ∧ Tab.has (t.slice n.toNat).live key = false
          ∧ (Tab.getD (t.slice n.toNat).bags key : List Tuple) = []
          ∧ (d.owed = 1 → Tab.has t.drawers key = false)
          ∧ (d.owed ≠ 1 → Tab.get t.drawers key = some { d with owed := d.owed - 1 }))
    ∧ (∀ g m q, (s.reg g).resend[i]? = some (m, q) →
        let s1 := s.setReg g { s.reg g with resend := (s.reg g).resend.eraseIdx i }
        Claims.Next (exec (.drawerResend g i) s)
          (s1.updSlice m (fun l => if q.kind = 0 then { l with inRes := l.inRes ++ [q] } else { l with inMat := l.inMat ++ [q] })))

/-! ## The chain walker (14) -/

/-- 14 R286 to R298: the walker reads and checks its header; a `chainstep` reads the earlier descriptors, one at a time; for each step the walker
reads the descriptor and the bonds once and makes the checks of R291 in their order, and the first that fails stops the chain with its
cause; a step reads its source, codebook and operand and writes what it computes, a line in a step of its own, a write once the reads that its
bytes depend on have performed (log 94), and advances once all have performed; the last step ends the chain with NSTEP − j0; the status words are written before the response, with the nodes
given up. -/
def Obligations.ChainWalker : Prop :=
  ∀ (s : State) (g : RegionNo) (id : Nat) (m : Cmd) (c : Frame) (i : Instr) (j0 : Nat),
    (i, j0) ∈ [(Instr.chainrun c, 0), (.chainstep c, c.w0.toNat % 65536)] → Claims.Runs s g id m →
    let does (t : State) : Prop := Claims.Next (exec i s) t
    let a := frameAddr c
    let h := Chain.of m.prog.hdr
    let j := m.prog.chunk
    let st := m.prog.chainStep
    let r := m.prog.a
    let n := m.prog.c
    let x := m.prog.tab.getD 2 0
    let x' := m.prog.tab.getD 3 0
    (∀ s2 hb, m.prog.stage = 0 → structFault a 64 = none →
        let s1 := s.updCmd g id (fun c => { c with prog := { c.prog with chunk := j0 } })
        s1.eRead g id m a 64 = (s2, .ok hb) →
        ((Chain.of hb).ok (s2.grant g m.x).acc j0 = false → does (s2.failCmd g id Cause.cmdInvalid))
        ∧ ((Chain.of hb).ok (s2.grant g m.x).acc j0 = true → does (s2.progress g id (fun p =>
            { p with stage := if j0 = 0 then 1 else 4, hdr := hb, chunk := 0, a := (Chain.of hb).r0, b := 0, c := 0 }))))
    ∧ (∀ s1 bs, m.prog.stage = 4 → s.eRead g id m (a + 64 + 16 * j) 16 = (s1, .ok bs) →
        let t := ChainStep.of (word8 bs 0) (word8 bs 1)
        let bad := t.formOk h.cb = false ∨ (t.kind = 0 ∧ r % t.d ≠ 0)
        (bad → does (s1.chainStop g id Cause.cmdInvalid j 0))
        ∧ (¬ bad → does (s1.progress g id (fun p =>
            { p with stage := if j + 1 = j0 then 1 else 4, chunk := j + 1, a := t.rows r, c := if t.kind = 3 then p.c else p.c + 1 }))))
    ∧ (m.prog.stage = 1 → m.code = 0x70 ∨ m.code = 0x71 → ∀ s1 bs,
        (s.core g).nodesBusy m = false → s.eRead g id m (frameAddr (frameFields m.w) + 64 + 16 * j) 16 = (s1, .ok bs) →
        let t := ChainStep.of (word8 bs 0) (word8 bs 1)
        let bin := ((s1.thread g m.x).bond (BitVec.ofNat 4 t.bin)).toNat
        let bout := ((s1.thread g m.x).bond (BitVec.ofNat 4 t.bout)).toNat
        let chi := if m.prog.b = 0 then none else some m.prog.b
        (∀ e need, t.check h n r chi bin bout = some (e, need) →
          Claims.Next (exec (.chainStepStart g id) s) (s1.chainStop g id e j need))
        ∧ (t.check h n r chi bin bout = none → Claims.Next (exec (.chainStepStart g id) s) (s1.progress g id (fun p =>
            { p with stage := 2, tab := [word8 bs 0, word8 bs 1, chi.getD bin, if t.kind ≤ 1 then bout else chi.getD bin] }))))
    ∧ (m.prog.stage = 2 →
        let size := r * x * 4
        let book := if st.kind = 3 ∧ st.fmt = 12 then 32 else 0
        let as_ (k : Nat) (es : List EAcc) : List EAcc := es.map (fun e => { e with tag := k })
        let reads := as_ 0 (readLines (h.source n) size) ++ as_ 1 (readLines h.cb book) ++ as_ 2 (readLines st.addr (st.operandBytes x x'))
        let bs := reads.flatMap (fun e => ((m.prog.find e).bind (·.got)).getD (List.replicate e.n 0))
        let out := if st.kind = 3 then finalOut st.fmt st.sat (elemsOf 16 ((bs.drop size).take book)) (elemsOf 32 (bs.take size))
          else st.compute r x x' (bs.take size) (bs.drop (size + book))
        let writes := as_ 3 (writeLines (if st.kind = 3 then st.addr else h.target n) out)
        let due := (reads ++ writes).filter (fun e => !m.prog.did e
          && (e.wr.isNone || (m.prog.find e).isSome || reads.all (fun q => m.prog.did q || !m.stepRun.feeds q e)))
        let has (q : EAcc) (bs : List Byte) (io : List EAcc) : List EAcc := io.map (fun e => if e.same q then { e with got := some bs } else e)
        (book = 32 → structFault h.cb 32 = none) →
        (∀ e, due = [e] → clsOf e.addr = 0xC → bits e.addr 24 59 = 0 →
          (∀ pl, m.prog.find e = none → bankRange g (s.grant g m.x) (e.addr % 2 ^ 24) e.n = .ok pl →
            does (s.updIo g id (fun io => io ++ [{ e with pl := pl, va := e.addr }])))
          ∧ (∀ q, m.prog.find e = some q → q.pl.bank = true → s.spoiled q.pl q.n e.wr.isSome = false →
            (e.wr = none → does ((s.ownCxl s.cxl.length (g, m.kernel)).updIo g id (has { q with wr := none } (s.readPlace q.pl q.n))))
            ∧ (∀ d, e.wr = some d → does (((s.writePlace q.pl d).ownCxl s.cxl.length (g, m.kernel)).updIo g id (has { q with wr := some d } [])))))
        ∧ (due = [] →
          let s3 := s.progress g id (fun p =>
            { p with stage := 1, chunk := j + 1, a := st.rows r, b := x', c := if st.kind = 3 then n else n + 1, tab := [] })
          does (if h.nstep ≤ j + 1 then s3.chainStop g id 0 (h.nstep - j0) 0 else s3)))
    ∧ (∀ s1, m.prog.stage = 3 →
        let cause := m.prog.tab.getD 0 0
        s.eWrite g id m (a + 48) (natToBytes 8 (j * 2 ^ 48 + cause * 2 ^ 40 + r % 2 ^ 32) ++ natToBytes 8 (x % 2 ^ 64)) = (s1, .ok ()) →
        does ((s1.releaseNodes g id).updCmd g id (fun c =>
          { c with done := true, cause := BitVec.ofNat 8 cause, value := BitVec.ofNat 32 (m.prog.tab.getD 1 0), parked := none, wait := none,
                   prog := { c.prog with io := [] } })))

/-! ## Memory service (17, 18) -/

/-- 17 R343 to R350, 18 R354: the service commands. `replay` releases the parked accesses of its context, or those of one page, and answers
how many they were, or with FAIL ends every kernel that holds one; `pmap` and `punmap` read and check a descriptor of 32 bytes, read the slots of
its pages, and write one leaf word in a step, `pmap` then releasing what had parked on the range and `punmap` answering after the last access
through a removed entry; `ownxfer` begins a transfer of the granule to its other owner, and answers 0 where it has the owner already. That a
command takes its steps in this way is the model's (log 6); that a malformed leaf counts as not present is log 42 (DEDUCED). -/
def Obligations.ServiceCommands : Prop :=
  ∀ (s : State) (g : RegionNo) (id : Nat) (m : Cmd) (c : Frame),
    let runs (i : Instr) (t : State) : Prop := Claims.does s g id m i t
    let a := frameAddr c
    (s.target m c = none → (c.cf = 0 → c.w0.getLsbD 0 = true → memFault a 4096 = none) → runs (.replay c) (s.failCmd g id Cause.cmdInvalid))
    ∧ (c.cf = 0 → c.w0.getLsbD 0 = true → a % 4096 ≠ 0 → runs (.replay c) (s.failCmd g id Cause.misaligned))
    ∧ (∀ n, s.target m c = some n →
        let count (p : Parked → Bool) : Nat := min (s.allParked.filter p).length (2 ^ 32 - 1)
        (c.cf = 0 → c.w0.getLsbD 0 = false → runs (.replay c)
          ((s.release (fun x _ _ => x == n)).1.endCmd g id 0 (count (fun q => q.ctxid == n))))
        ∧ (c.cf = 0 → c.w0.getLsbD 0 = true → memFault a 4096 = none → runs (.replay c)
          ((s.release (fun x f addr => x == n && f.page addr == a / 4096)).1.endCmd g id 0
            (count (fun q => q.ctxid == n && q.f.page q.addr == a / 4096))))
        ∧ (c.cf = 1 → runs (.replay c) ((s.replayFail n (c.w0.truncate 8)).1.endCmd g id 0 (count (fun q => q.ctxid == n)))))
    ∧ (∀ n, s.target m c = some n → structFault a 32 = none →
        let job (u : Bool) : MapJob := { unmap := u, f := s.funcOf n, ctxid := n, d := MapDesc.of m.prog.hdr }
        let inst (u : Bool) : Instr := if u then .punmap c else .pmap c
        (∀ u s1 bs, m.prog.stage = 0 → s.eRead g id m a 32 = (s1, .ok bs) →
          (mapOk bs false u = true → runs (inst u) (s1.progress g id (fun p => { p with stage := 1, hdr := bs })))
          ∧ (mapOk bs false u = false → runs (inst u) (s1.failCmd g id Cause.cmdInvalid)))
        ∧ (∀ u s1 p, m.prog.stage = 1 ∨ m.prog.stage = 2 → s.mapStep (job u) m.prog = (s1, .go p) →
            runs (inst u) ((s1.stamp g).updCmd g id (fun m => { m with prog := p, wait := none })))
        ∧ (∀ u s1 e v, m.prog.stage = 1 ∨ m.prog.stage = 2 → s.mapStep (job u) m.prog = (s1, .stop (.fail e (some v))) →
            runs (inst u) (s1.endCmd g id e v))
        ∧ (∀ s1, m.prog.stage = 2 → s.mapStep (job false) m.prog = (s1, .done) →
            let r := (s1.mapDrop (job false)).mapRelease (job false)
            runs (.pmap c) (r.1.endCmd g id 0 (min r.2 (2 ^ 32 - 1))))
        ∧ (∀ s1, m.prog.stage = 2 → s.mapStep (job true) m.prog = (s1, .done) →
            let s2 := s1.mapDrop (job true)
            let gone := (job true).removed m.prog.tab
            runs (.punmap c) ((s2.stamp g).updCmd g id (fun x =>
              { x with prog := { m.prog with stage := 3, io := [], waits := s2.mapWaits (job true) gone }, wait := none })))
        ∧ (m.prog.stage = 3 →
            let gone := (job true).removed m.prog.tab
            (s.mapAwaits (job true) gone m.prog.waits = false → runs (.punmap c) (s.endCmd g id 0 ((job true).count m.prog.tab)))
            ∧ (s.mapAwaits (job true) gone m.prog.waits = true → runs (.punmap c) s)))
    ∧ (∀ (j : MapJob) at_ e, j.d.sz = 0 →
        (j.unmap = false → j.writes [at_, e] = [(at_, j.d.oa + j.d.attr + (if j.d.w then 4 else 0) + 3)])
        ∧ (j.unmap = true → j.sound e = true → e.testBit 4 = false → j.writes [at_, e] = [(at_, e - 1)] ∧ j.count [at_, e] = 1)
        ∧ (j.unmap = true → j.sound e = false → j.writes [at_, e] = [] ∧ j.count [at_, e] = 0))
    ∧ (∀ s1 pl, m.prog.stage = 0 → memFault a 1 = none → s.translate g m.ctxid a {} = (s1, .ok pl) →
        let n := granule pl.pa
        let toHost := !c.cf.getLsbD 0
        let owned : Bool := Tab.getD s1.hostOwned n
        (isDevice pl.pa = false → runs (.ownxfer c) (s1.failCmd g id Cause.cmdInvalid))
        ∧ (isDevice pl.pa = true → Tab.has s1.xfers n = false → owned = toHost → runs (.ownxfer c) (s1.endCmd g id 0 0))
        ∧ (isDevice pl.pa = true → Tab.has s1.xfers n = false → owned ≠ toHost →
            let s2 := s1.progress g id (fun p => { p with stage := 1 })
            runs (.ownxfer c) { s2 with xfers := Tab.set s2.xfers n { toHost := toHost, began := s2.now, cmds := [(g, id)] } }))

/-- 17 R337 to R341, R349, R350: the root core takes the first record that travels to it: one of an access that is parked no more is
discarded, one with an open entry only counts, any other is written or waits, and a FATAL one ends every kernel of the context that holds its
reporter; a context without an open fault stream makes a record fatal. A transfer that ends within 100 µs changes the owner and completes its
`ownxfer`s with VALUE 1, and one that does not leaves the owner, fails them, drops host accesses with an entry and parks what else waits; a host
access performs where the host is owner, and otherwise waits on a transfer. VALUE of a FATAL record's kernels is by log 43. -/
def Obligations.RecordsAndTransfers : Prop :=
  ∀ (s : State),
    (∀ r rest, s.arm.rebuild = 0 → s.ringWait = [] → s.records = r :: rest →
        let r' : Report := { r with time := s.now, count := if r.hang then r.count else 1 }
        let s0 : State := { s with records := rest }
        let takes (t : State) : Prop := Claims.Next (exec (.faultRecord 0) s) t
        let entry (o : OpenFault) : Bool := o.sameKey r'.key
        (r'.ofParked = true → s.stillParked r' = false → takes s0)
        ∧ (r'.ofParked = true → s.stillParked r' = true → r.s2 = true ∨ s.faultOpen r.ctxid = true → s.openf.any entry = true →
            takes { s0 with openf := s.openf.map (fun o => if entry o then { o with count := o.count + 1 } else o) })
        ∧ (r'.ofParked = true → s.stillParked r' = true → r.s2 = false → s.faultOpen r.ctxid = true → s.openf.any entry = false →
            takes (s0.place' r'))
        ∧ (r.fatal = true → r.s2 = false → s.faultOpen r.ctxid = true → takes ((s0.fatal r').place' r'))
        ∧ (r.fatal = true → r.s2 = false → s.faultOpen r.ctxid = false → takes (s0.fatal r'))
        ∧ (r'.ofParked = true → s.stillParked r' = true → r.s2 = false → s.faultOpen r.ctxid = false → takes (s0.fatal r')))
    ∧ (∀ r rest n k, s.arm.rebuild = 0 → s.ringWait = [] → s.records = r :: rest → r.fatal = true → r.s2 = false → s.faultOpen r.ctxid = false →
        r.rep ≠ 0xFFFF → r.gen = s.genOf r.ctxid → Tab.get s.kernels n = some k → k.ctxid = r.ctxid → k.stop = none → (s.reg r.g).groups = [] →
        ∃ t, Claims.Next (exec (.faultRecord 0) s) t
          ∧ (Tab.get t.kernels n).bind Kernel.stop = some (r.cause, k.regNo r.g % k.regions.length))
    ∧ (∀ addr wr, let n := granule addr
        (isDevice addr = false → isHost addr = true → Claims.Next (exec (.hostMemoryAccess addr wr) s) (s.hostPerform (addr, wr)))
        ∧ (isDevice addr = true → (Tab.getD s.hostOwned n : Bool) = true → Tab.has s.xfers n = false →
            Claims.Next (exec (.hostMemoryAccess addr wr) s) (s.hostPerform (addr, wr)))
        ∧ (isDevice addr = true → (Tab.getD s.hostOwned n : Bool) = false → Tab.has s.xfers n = false →
            ∃ t, Claims.Next (exec (.hostMemoryAccess addr wr) s) t ∧ t.mem = s.mem
              ∧ Tab.get t.xfers n = some { toHost := true, began := s.now, hosts := [(addr, wr)] }))
    ∧ (∀ n x, Tab.get s.xfers n = some x → s.now ≤ x.began + 100 → x.hosts = [] →
        ∃ t, Claims.Next (exec (.ownershipTransferEnd n) s) t ∧ (Tab.getD t.hostOwned n : Bool) = x.toHost ∧ Tab.has t.xfers n = false
          ∧ t.mem = s.mem ∧ t.banks = s.banks)
    ∧ (∀ n x g id, Tab.get s.xfers n = some x → s.now ≤ x.began + 100 → x.cmds = [(g, id)] → x.hosts = [] → Tab.has (s.core g).cmds id = true →
        ∃ t, Claims.Next (exec (.ownershipTransferEnd n) s) t ∧ (t.cmd g id).done = true ∧ (t.cmd g id).cause = 0 ∧ (t.cmd g id).value = 1)
    ∧ (∀ n x, Tab.get s.xfers n = some x → x.began + 100 ≤ s.now → x.waits = [] →
        let s1 := x.cmds.foldl (fun s c => s.endCmdFree c.1 c.2 Cause.ownershipTimeout) { s with xfers := Tab.erase s.xfers n }
        Claims.Next (exec (.ownershipTimeout n) s) (x.hosts.foldl State.hostTimeout s1))
    ∧ (∀ n x g id a pl va gpa wr, Tab.get s.xfers n = some x → x.began + 100 ≤ s.now → x.cmds = [] → x.hosts = [] →
        x.waits = [(.event (.accessPerform g id), va, gpa, wr)] → s.acc g id = some a → a.phase = .ready pl →
        Claims.Next (exec (.ownershipTimeout n) s)
          ({ s with xfers := Tab.erase s.xfers n }.parkAcc g id { cause := Cause.ownershipTimeout, s2 := true, gpa := gpa } va))
    ∧ (∀ n x, Tab.get s.xfers n = some x → s.now < x.began + 100 → Claims.Next (exec (.ownershipTimeout n) s) s)

/-! ## The mesh and the block scheduler (01, 04, 09, 16) -/

/-- 01 R38, R42 to R46, 10 R265, 16 R308: a source port pulls the token that its slots wrote first, when its FIFO has room; the head of a
source FIFO enters its router while the input buffer holds fewer than 4 flits and no other token's flits are entering there; a flit moves in
dimension order toward its destination, while ready is high, and, at its router, into the port while the destination FIFO has room; a marker of
virtual channel 1 is acknowledged, and the acknowledgement reopens the channel. A control token at a block-entry port joins the queue of its
block, and a marker there is discarded. When a dropped ready holds its sender is a free choice (log 71), and a channel's tokens on two virtual
channels enter one after another (log 70). -/
def Obligations.TokensCrossTheMesh : Prop :=
  ∀ (s : State) (g : RegionNo),
    let k := s.core g
    (∀ (ch : BitVec 7) seq slot second t,
        let c : Chan := Tab.getD k.chans ch.toNat
        let d := c.desc
        let cell : CellNo := BitVec.ofNat 8 (dSRC d)
        k.chanActive ch.toNat = true → s.moves g d = true → c.jout = [] → c.rmark = [] → dSRC d < 256 →
        earliest (slotsToward (s.cell g cell) (dCTX d) ch.toNat) = some (seq, slot, second, t) →
        (c.takes t = true → (s.reg g).cellRuns cell (dCTX d) = true → Claims.Next (exec (.sourcePortPull g ch) s)
          ((s.pull g (dCTX d) (.res cell slot second)).updChan g ch.toNat (fun c => c.place ch.toNat s.tick t)))
        ∧ (c.takes t = false → Claims.Next (exec (.sourcePortPull g ch) s) s))
    ∧ (∀ n f rest,
        let c : Chan := Tab.getD k.chans n
        let loc := codeRouter (dSRC c.desc)
        let inp := codeSide (dSRC c.desc)
        let key := lockKey loc (8 + inp) f.vc
        c.sfifo = f :: rest → s.moves g c.desc = true →
        (k.buffered loc inp f.vc < 4 → k.lockFree key f.tid = true → k.inTurn n c.desc f = true → Claims.Next (exec (.flitMove g (5 * n)) s)
          (((s.stamp g).updChan g n (fun c => { c with sfifo := rest })).updCore g (fun k =>
            { k.pass key f with flits := k.flits ++ [{ f with ch := n, loc := loc, inp := inp }] })))
        ∧ (4 ≤ k.buffered loc inp f.vc ∨ k.lockFree key f.tid = false → Claims.Next (exec (.flitMove g (5 * n)) s) s))
    ∧ (∀ i f,
        let c : Chan := Tab.getD k.chans f.ch
        let d := f.toward c.desc
        let out := outputTo f.loc d
        let to_ := hop f.loc out
        k.flits[i]? = some f → s.moves g c.desc = true → k.firstFlit i f = true → k.lockFree (lockKey f.loc out f.vc) f.tid = true →
        (f.loc ≠ codeRouter d → k.buffered to_.1 to_.2 f.vc ≤ 1 →
          ∃ t, Claims.Next (exec (.flitMove g (5 * i + 1)) s) t
            ∧ (t.core g).flits = k.flits.eraseIdx i ++ [{ f with loc := to_.1, inp := to_.2 }] ∧ (t.core g).chans = k.chans)
        ∧ (f.loc ≠ codeRouter d → 4 ≤ k.buffered to_.1 to_.2 f.vc → Claims.Next (exec (.flitMove g (5 * i + 1)) s) s)
        ∧ (f.loc = codeRouter d → f.kind = .ack → f.of ≤ f.idx + 1 →
          ∃ t, Claims.Next (exec (.flitMove g (5 * i + 1)) s) t ∧ (t.core g).flits = k.flits.eraseIdx i
            ∧ (Tab.getD (t.core g).chans f.ch : Chan) = { c with unacked := false })
        ∧ (f.loc = codeRouter d → f.kind = .token → f.of ≤ f.idx + 1 → f.idx ≠ 0 → dVC c.desc ≠ 1 → fKIND c.entry = 0 →
          ∃ t, Claims.Next (exec (.flitMove g (5 * i + 1)) s) t ∧ (t.core g).flits = k.flits.eraseIdx i
            ∧ (Tab.getD (t.core g).chans f.ch : Chan) = c.stage 1 f.tok [f.tok]))
    ∧ (∀ (port : BitVec 6) ch t,
        let d := (Tab.getD k.chans ch : Chan).desc
        let x := dCTX d
        let block := port.toNat % 16
        let e : EdgePort := Tab.getD k.ports port.toNat
        let q : List (List (BitVec 16)) := Tab.getD (Tab.getD k.sched x.toNat : Sched).queues block
        k.headToward port.toNat = some (ch, t) → Tab.has k.ports port.toNat = true → e.kind = 0 → e.tokArm = [] → e.markArm = [] →
        s.portMoves g d = true →
        let s1 := (s.updChan g ch Chan.pull).stamp g
        (t.kind = .marker → Claims.Next (exec (.threadTokenEntry g port) s) s1)
        ∧ (t.kind = .control → t.form = .tile → block < hNBLK (Tab.getD s.kernels (s.grant g x).kernel : Kernel).image → q.length < 4096 →
            let coords := (List.range 4).map (fun i => BitVec.ofNat 16 (t.pay.toNat >>> (16 * i)))
            Claims.Next (exec (.threadTokenEntry g port) s)
              (s1.updSched g x (fun c => { c with queues := Tab.set c.queues block (q ++ [coords]) })))
        ∧ (t.kind ≠ .marker → t.kind ≠ .control →
            Claims.Next (exec (.threadTokenEntry g port) s) (s1.portFault g port.toNat x Cause.illegal 0)))

/-- 04 R111, R118, 06 R180, 09 R232, 16 R309, R310: the block scheduler decides once its active block is quiescent: a block passed over 48
times goes first, else the one with the most waiting thread tokens, and every other block with waiting tokens is passed over once
more; a block that `cfggo` forces is chosen at once; the chosen configuration becomes active when the cell accesses of the
previous one have performed; the tokens of its batch are admitted one after another to every `tid` slot whose result register is
empty. -/
def Obligations.BlocksAreScheduled : Prop :=
  ∀ (s : State) (g : RegionNo) (x : CtxNo),
    let k := s.core g
    let sc := s.sched g x
    let may := Tab.has k.grants x.toNat = true ∧ s.schedulersRun = true ∧ s.ctxRuns g x = true ∧ sc.chosen = none
    (∀ b, may → sc.forced = some b → Claims.Next (exec (.blockDecision g x) s) (s.updSched g x (fun c => c.decide b true)))
    ∧ (may → sc.forced = none → sc.active ≠ none → s.quiescent g x = false → Claims.Next (exec (.blockDecision g x) s) s)
    ∧ (∀ b, may → sc.forced = none → sc.active = none ∨ s.quiescent g x = true → sc.queue b ≠ [] → b < 16 → (∀ j < 16, sc.passed j < 48) →
        (∀ j < 16, j ≠ b → (sc.queue j).length < (sc.queue b).length) →
        ∃ t, Claims.Next (exec (.blockDecision g x) s) t ∧ (t.sched g x).chosen = some b ∧ (t.sched g x).passed b = 0
          ∧ ∀ j < 16, j ≠ b → (t.sched g x).passed j = if sc.queue j = [] then sc.passed j else sc.passed j + 1)
    ∧ (∀ b, may → sc.forced = none → sc.active = none ∨ s.quiescent g x = true → sc.queue b ≠ [] → b < 16 → 48 ≤ sc.passed b →
        (∀ j < 16, j ≠ b → sc.passed j < 48) →
        ∃ t, Claims.Next (exec (.blockDecision g x) s) t ∧ (t.sched g x).chosen = some b ∧ (t.sched g x).passed b = 0)
    ∧ (∀ b c, sc.chosen = some b → Tab.get sc.staged b = some c → s.ctxRuns g x = true → k.cellsOut x = false → k.quiet x = true →
        sc.force = false → k.chanClash x c = false →
        Claims.Next (exec (.activate g x) s) (((s.stamp g).updCore g (fun k => k.activate x b c)).goneTo g x b))
    ∧ (∀ b c, sc.chosen = some b → Tab.get sc.staged b = some c → s.ctxRuns g x = true → k.cellsOut x = false → k.quiet x = true →
        sc.force = false → k.chanClash x c = false → (∀ y, (s.thread g y).going = none) → (sc.active = some b → sc.batch = []) →
        ∃ t, Claims.Next (exec (.activate g x) s) t ∧ (t.sched g x).active = some b ∧ (t.sched g x).loaded = c ∧ (t.sched g x).chosen = none
          ∧ (t.sched g x).batch = (if c.hasTid then sc.queue b else []) ∧ (t.sched g x).queue b = [])
    ∧ (∀ coords rest, sc.batch = coords :: rest → s.ctxRuns g x = true → sc.active ≠ none →
        let tids := (k.ctxSlots x).filter (fun e => fld e.2.word 55 9 == 0x008#9)
        (tids.all (fun e => e.2.res.empty) = true → Claims.Next (exec (.threadTokenAdmit g x) s)
          ((s.updCore g (fun k => k.putSlots x (tids.map (fun e => (e.1, { e.2 with tids := e.2.tids ++ [coords] }))))).updSched g x
            (fun c => { c with batch := rest })))
        ∧ (tids.all (fun e => e.2.res.empty) = false → Claims.Next (exec (.threadTokenAdmit g x) s) s))

/-! ## Region images (16, 17) -/

/-- 16 R307, R311 to R316, 17 R342: the images of a region. The end of a quantum switches to a ready image of at least the resident one's
priority, and otherwise the quantum starts again, with the values of QUANT written since; pre-empt markers enter from the region's ports behind
the tokens there and go on from router to router behind the flits that wait, and an image that leaves is saved once every cell is passed, every
started firing has written and nothing moves behind the markers, with its leased bank bytes, and its region is empty; a
ready image is restored into an empty region; a region without a context for 50 µs is power-gated and keeps no state; at T1 a region that only
waits is clock-gated, to resume with an event that its waits name, and at T2 it leaves, to be saved by markers and power-gated, with one HANG
entry; an access parked for the drain limit drains its region. That a marker takes no place of a flit and passes flits that can move no
further is log 71; the HANG entry's first agent and PC are log 78; the events that wake a region log 32, the context of T1 and T2 log 61, what
a power-gated region wakes with logs 2 and 31. -/
def Sys2Proof.Claims.RegionsSwitchImages : Prop :=
  ∀ (s : State) (g : RegionNo),
    let r := s.reg g
    (∀ j im, s.maySwitch g = true → r.core.quant ≤ r.quantum → r.best = some (j, im) → r.core.prio ≤ im.core.prio →
        Claims.Next (exec (.quantumEnd g) s) (s.startSwitch g false))
    ∧ (s.maySwitch g = true → r.core.quant ≤ r.quantum → r.best = none → Claims.Next (exec (.quantumEnd g) s)
        ((s.setReg g { r with quantum := 0, core := r.core.newQuantum }).syncGrants r.core))
    ∧ (∀ j im, s.maySwitch g = true → r.core.quant ≤ r.quantum → r.best = some (j, im) → r.core.prio ≤ im.core.prio → r.core.sends = [] → r.held = [] →
        ∃ t, Claims.Next (exec (.quantumEnd g) s) t ∧ (t.reg g).leaving = true ∧ (t.reg g).runs = false ∧ t.core g = r.core)
    ∧ (∀ p : BitVec 6, r.leaving = true → r.core.swept.contains (8 * edgeCell p.toNat + edgeSide p.toNat) = false →
        let free : Prop := ∀ e ∈ r.core.chans, dSRC e.2.desc = 256 + p.toNat → e.2.sfifo = [] ∧ e.2.jout = []
        (free ∨ s.still g (fun _ => true) = true → Claims.Next (exec (.flitMove g (5 * p.toNat + 4)) s)
          (s.updCore g (fun k => { k with swept := k.swept ++ [8 * edgeCell p.toNat + edgeSide p.toNat] })))
        ∧ (¬ free → s.still g (fun _ => true) = false → Claims.Next (exec (.flitMove g (5 * p.toNat + 4)) s) s))
    ∧ (∀ c out, r.leaving = true → c < 256 → (out = 1 ∧ 16 ≤ c) ∨ (out = 2 ∧ c % 16 < 15) ∨ (out = 3 ∧ c < 240) ∨ (out = 4 ∧ 0 < c % 16) →
        let at_ := 8 * (hop c out).1 + (hop c out).2
        let run (t : State) : Prop := Claims.Next (exec (.flitMove g (5 * (64 + 8 * c + out) + 4)) s) t
        let here (f : Flit) : Prop := f.loc = c ∧ outputTo c (f.toward (Tab.getD r.core.chans f.ch : Chan).desc) = out
        ((∀ i ∈ feeders c out, 8 * c + i ∈ r.core.swept) → r.core.swept.contains at_ = false → (∀ f ∈ r.core.flits, ¬ here f) →
          run (s.updCore g (fun k => { k with swept := k.swept ++ [at_] })))
        ∧ ((∃ i ∈ feeders c out, 8 * c + i ∉ r.core.swept) → run s)
        ∧ ((∃ f ∈ r.core.flits, here f) → s.still g (fun _ => true) = false → run s))
    ∧ (r.leaving = true → (List.range 256).all r.core.passed = false ∨ s.still g (fun _ => true) = false →
        Claims.Next (exec (.regionSave g) s) s)
    ∧ (r.leaving = true → r.settled = true → (List.range 256).all r.core.passed = true → s.still g (fun _ => true) = true →
        s.schedulersRun = true → r.gating = none →
        (s.scbsOf r.core).findSome? (fun e => s.heldFunc e.1 e.2.1 128) = none →
        Claims.Next (exec (.regionSave g) s) (s.saveRegion g r.draining false {}) ∧
        ∃ t im, Claims.Next (exec (.regionSave g) s) t ∧ (t.reg g).images = r.images ++ [im] ∧ t.core g = {} ∧ im.core = r.core.save
          ∧ im.drained = r.draining ∧ im.gated = false ∧ (t.reg g).leaving = false
          ∧ (∀ a, a / 2 ^ 24 = g.toNat → ∀ e ∈ r.core.grants, e.2.base * 4096 ≤ a % 65536 → a % 65536 < (e.2.base + e.2.lease) * 4096 →
              im.banks.read a = s.banks.read a))
    ∧ (∀ w, r.leaving = true → r.settled = true → (List.range 256).all r.core.passed = true → s.still g (fun _ => true) = true →
        s.schedulersRun = true → r.gating = some w → (s.scbsOf r.core).findSome? (fun e => s.heldFunc e.1 e.2.1 128) = none →
        Claims.Next (exec (.regionSave g) s) (s.saveGated g w) ∧
        ∃ t im, Claims.Next (exec (.regionSave g) s) t ∧ (t.reg g).images = r.images ++ [im] ∧ t.core g = {} ∧ (t.reg g).powerGated = true
          ∧ im.core = r.core.save ∧ im.gated = !s.woken g w { r.core with swept := [] } r.called)
    ∧ (∀ i im, r.core.grants = [] → r.best = some (i, im) → s.schedulersRun = true →
        Claims.Next (exec (.regionRestore g i) s) (s.restoreRegion g i))
    ∧ (∀ i im, r.images[i]? = some im → im.gated = true → im.drained = false → s.woken g im.watch im.core im.called = true →
        im.core.prio ≤ r.core.prio →
        Claims.Next (exec (.imageReady g i) s)
          ((s.dropHangs g im.core).setReg g { r with images := r.images.set i { im with gated := false, since := s.now } }))
    ∧ (∀ i im, r.images[i]? = some im → im.gated = true → im.drained = false → s.woken g im.watch im.core im.called = false →
        Claims.Next (exec (.imageReady g i) s) (s.setReg g { r with images := r.images.set i im }))
    ∧ (∀ i im, r.images[i]? = some im → im.drained = true → im.gated = false → im.core.anyParked = false →
        (∀ e ∈ im.core.grants, r.hopParked e.2.ctxid = false) → im.core.prio ≤ r.core.prio →
        Claims.Next (exec (.imageReady g i) s) (s.setReg g { r with images := r.images.set i { im with drained := false, since := s.now } }))
    ∧ (r.core.grants = [] → r.powerGated = false → r.idle + 50 ≤ s.now →
        ∃ t, Claims.Next (exec (.powerGate g) s) t ∧ (t.reg g).powerGated = true ∧ t.core g = {} ∧ (t.reg g).cb = []
          ∧ (t.reg g).rng = [] ∧ (t.reg g).tlb = [] ∧ (t.reg g).micro.scratch = []
          ∧ (∀ a, a / 2 ^ 24 = g.toNat → t.banks.read a = 0) ∧ (∀ a, a / 2 ^ 24 ≠ g.toNat → t.banks.read a = s.banks.read a))
    ∧ (∀ w, s.residencyWait g = some w →
        let c : Ctx := Tab.getD s.ctxs (s.grant g w.x).ctxid
        (c.t1 ≤ r.residency → r.clockGated = false →
            Claims.Next (exec (.clockGate g) s) (s.setReg g { r with clockGated := true, seen := s.watchNow g, called := false }))
        ∧ (r.residency < c.t1 → Claims.Next (exec (.clockGate g) s) s)
        ∧ (c.t2 ≤ r.residency → r.switching = false →
            let hang : Report := s.hangReport g w
            hang.cause = Cause.hang ∧ hang.rep = w.rep ∧ hang.addr = w.w.obj ∧ hang.ctxid = (s.grant g w.x).ctxid ∧ hang.g = g
            ∧ (5 < w.w.kind → hang.aux = w.w.kind + 256 * w.w.agent)
            ∧ (w.rep.toNat / 4096 = 12 → hang.pc = (s.thread g w.x).pc)
            ∧ ∃ t, Claims.Next (exec (.residencyT2 g) s) t
              ∧ t.reg g = { r with switching := true, leaving := true, gating := some (s.watchNow g), called := false }
              ∧ t.hangs = s.hangs ++ [hang] ∧ hang ∈ t.records)
        ∧ (r.switching = true → Claims.Next (exec (.residencyT2 g) s) s))
    ∧ (r.clockGated = true → s.woken g r.seen r.core r.called = true →
        Claims.Next (exec (.clockGateResume g) s) (s.setReg g { r with clockGated := false, seen := {}, called := false }))
    ∧ (s.woken g r.seen r.core r.called = false → Claims.Next (exec (.clockGateResume g) s) s)
    ∧ (∀ t, t ∈ r.parkedSince → t + s.boot.drain ≤ s.now → r.draining = false → r.leaving = false → s.schedulersRun = true →
        let s1 := s.failParked g (fun _ => true)
        Claims.Next (exec (.drainLimit g) s) (s1.setReg g { s1.reg g with draining := true, switching := true, leaving := true }))
    ∧ ((∀ t ∈ r.parkedSince, s.now < t + s.boot.drain) → Claims.Next (exec (.drainLimit g) s) s)
    ∧ (∀ id m f, Tab.get r.core.cmds id = some m → r.core.cmds = [(id, m)] → m.parked = some f → m.running = true →
        ((s.failParked g (fun _ => true)).cmd g id).done = true ∧ ((s.failParked g (fun _ => true)).cmd g id).cause = f.2.cause)

/-- 16 R305: a kernel ends once every thread of it has ended and every access of its cells has performed: its contexts and grants are freed
and its LAUNCH completes with VALUE = the exit code of region 0; a kernel whose threads have not been started does not end (log 34). -/
def Sys2Proof.Claims.KernelsEnd : Prop :=
  ∀ (s : State) (n : Nat) (k : Kernel), Tab.get s.kernels n = some k → (∀ g ∈ k.regions, (s.reg g).images = []) →
    let over_ (g : RegionNo) : Prop := (s.core g).doneKernel n = true ∧ (∀ t ∈ (s.core g).threads, ¬ (t.2.live = true ∧ t.2.kernel = n))
    (k.running = true → k.stop = none → k.aborted = false → (∀ g ∈ k.regions, over_ g) →
      (Tab.getD s.ctxs k.ctxid : Ctx).doomed = false →
      (k.regions.foldl (fun s g => s.updCore g (fun c => c.stop n true)) s).heldEnd k = none →
      ∃ t, Claims.Next (exec (.kernelEnd n) s) t ∧ Tab.has t.kernels n = false
        ∧ (∀ g ∈ k.regions, ∀ e ∈ (t.core g).grants, e.2.kernel ≠ n)
        ∧ (∀ h hc, k.host = some h → Tab.get s.hcmds h = some hc → hc.step = 2 →
            (Tab.get t.hcmds h).map (fun c => (c.step, c.cause, c.value)) = some (3, 0, ((Tab.getD k.exits 0 : W32).zeroExtend 64))))
    ∧ (k.running = false → k.stop = none → k.aborted = false → (∀ g ∈ k.regions, (s.core g).threads = []) →
      Claims.Next (exec (.kernelEnd n) s) s)

/-- 16 R305, R307, R311 to R316, 17 R342: the images of a region, and the end of a kernel. -/
def Obligations.ImagesSwitchAndKernelsEnd : Prop := Claims.RegionsSwitchImages ∧ Claims.KernelsEnd

/-! ## The host (16, 17, 19) -/

namespace Sys2Proof.Claims

/-- A host command that the Bureau serves is the agent (16 R301, R302). -/
structure Serves (s : State) (k : Nat) (h : HCmd) : Prop where
  agent : s.cur = .hostCmd k
  cmd   : Tab.get s.hcmds k = some h
  on    : s.bureau = true

/-- A host command has performed its effects, with this cause and VALUE. -/
def answers (t : State) (k : Nat) (cause : Byte) (value : Nat) : Prop :=
  (Tab.get t.hcmds k).map (fun h => (h.step, h.cause, h.value)) = some (3, cause, BitVec.ofNat 64 value)

/-- The twelve host commands with one entry. -/
def hostCommands (e : HostEntry) : List Instr :=
  [.ctxCreate e, .ctxDestroy e, .map e, .unmap e, .launch e, .streamBind e, .drawerCreate e, .queueCreate e, .queueDestroy e, .keyLoad e,
   .snapshot e, .vfReset e]

end Sys2Proof.Claims

/-- 16 R301, R302, 17 R349, 19 R357, R366: how every host command runs: not while the Bureau does not serve, nor while the host owns what its
step would write; with ORDER = 1 not before every earlier command of its queue has completed; it is refused with CMD_INVALID where it names a context that is not live, and a virtual
function's KEY_LOAD or VF_RESET with PRIVILEGED_INSTRUCTION; it takes a journal record first, whose STEP is 1 until it starts and then 2; once
its effects are performed its completion entry is written at CTAIL and it is gone. -/
def Obligations.HostCommandsRunInOrder : Prop :=
  ∀ (s : State) (k : Nat) (h : HCmd),
    (∀ i ∈ Claims.hostCommands h.e, s.cur = .hostCmd k → Tab.get s.hcmds k = some h →
      (s.bureau = false → Claims.Next (exec i s) s)
      ∧ (∀ pl, s.bureau = true → s.hostHeld h = some pl → Claims.Next (exec i s) (s.claim (.hostCmd k) pl 0 true))
      ∧ (s.bureau = true → s.hostHeld h = none → h.step = 1 → h.journalled = false → h.e.flags.getLsbD 0 = true → s.firstOf h = false →
          Claims.Next (exec i s) s)
      ∧ (s.bureau = true → s.hostHeld h = none → h.step = 1 → h.journalled = true →
          (s.hostRefusal h = none → Claims.Next (exec i s) (s.hostRun k h))
          ∧ (∀ c, s.hostRefusal h = some c → Claims.Next (exec i s) (s.hostFail k c)))
      ∧ (s.bureau = true → s.hostHeld h = none → 3 ≤ h.step → Claims.Next (exec i s) (s.hostComplete k h))
      ∧ (s.bureau = true → s.hostHeld h = none → h.step = 1 → h.e.flags.getLsbD 0 = false → (i.hostOpc?.map Prod.fst) = some h.opc →
          ∀ c, h.names = some c → h.e.o0.toNat = c → (∀ x, Tab.get s.ctxs c = some x → x.live = false) → h.opc ∈ [0x02, 0x05, 0x0B] →
          (h.opc = 0x0B → h.e.o2.toNat < 4) →
          Claims.Next (exec i s) (s.hostFail k Cause.cmdInvalid)))
    ∧ (∀ i ∈ [Instr.keyLoad h.e, .vfReset h.e], Claims.Serves s k h → s.hostHeld h = none → h.step = 1 → h.journalled = false →
        h.e.flags.getLsbD 0 = false → h.f ≠ 0 →
        Claims.Next (exec i s) (s.hostFail k Cause.privileged))
    ∧ (∀ n, Claims.Serves s k h → h.step = 1 → h.journalled = false → h.opc = 0x08 → h.e.flags = 0 → h.e.rsvd = 0 → h.queueOk s = true →
        (∀ j ∈ s.hcmds, j.2.step = 1 → h.seq ≤ j.2.seq) → Tab.free s.journal 64 = some n →
        ∃ t, Claims.Next (exec (.queueCreate h.e) s) t
          ∧ (Tab.get t.hcmds k).map (fun h => (h.step, h.journalled, h.jrec)) = some (1, true, n)
          ∧ (Tab.get t.journal n).map Prod.fst = some 1)
    ∧ (h.jctx = none → (Tab.get (s.hostRun k h).hcmds k).map HCmd.step = some 2
        ∧ (Tab.get (s.hostRun k h).journal h.jrec).map Prod.fst = some 2)
    ∧ (∀ i ∈ Claims.hostCommands h.e, Claims.Serves s k h → s.hostHeld h = none → 3 ≤ h.step → h.journalled = false → h.jctx = none →
        ∃ t, Claims.Next (exec i s) t ∧ Tab.has t.hcmds k = false
        ∧ (t.queue h.f h.q).ctail = ((s.queue h.f h.q).ctail + 1) % 2 ^ s.queueSize h.f h.q
        ∧ (t.queue h.f h.q).phase = (if (t.queue h.f h.q).ctail = 0 then !(s.queue h.f h.q).phase else (s.queue h.f h.q).phase))

/-- 16 R303, R305, R317, 07 R211, 11 R278, 17 R345 to R348, 19 R361, R362, R370: the effects of the host commands. CTX_CREATE makes a live context
with the lowest free number and answers it; CTX_DESTROY sets it ending, and ends it with its last kernel; MAP and UNMAP change the tables of
a stage, word by word, UNMAP answering after the last access through a removed entry; LAUNCH reads and checks its image, places its kernel,
writes its DATA line by line and stages its first blocks; STREAM_BIND maps an aperture; DRAWER_CREATE acts as `dcreate`; QUEUE_CREATE
makes an empty queue, and QUEUE_DESTROY removes it with its last command; KEY_LOAD reads its key material, waits for the accesses
translated with the slot, of commands, ports, packets and host commands too, and changes it; SNAPSHOT has the regions of a context save, makes its
stream table current, writes its images and, with STOP = 0, lets them be restored; VF_RESET aborts every command of the function, those that have
not yet written their completions too, and leaves the function without contexts and with its registers at reset. The steps of DATA are by log 35,
of a map by log 6 and 42, of SNAPSHOT by log 13 and 38; the checks of CTX_CREATE are log 36, which commands a destruction awaits log 40. -/
def Obligations.HostCommandsHaveTheirEffect : Prop :=
  ∀ (s : State) (k : Nat) (h : HCmd), Claims.Serves s k h → h.step = 2 → h.jctx = none → s.hostHeld h = none →
    let does (i : HostEntry → Instr) (t : State) : Prop := Claims.Next (exec (i h.e) s) t
    let ctxid := h.e.o0.toNat
    let free (a n : Nat) : Prop := s.heldPages h.f a n = none
    (∀ s1 fs n, free h.e.o1.toNat (512 * 1024) → free h.e.o3.toNat 512 → s.ctxFrames h = (s1, .ok fs) → Tab.free s.ctxs 4096 = some n →
        ∃ t, does .ctxCreate t ∧ Tab.get t.ctxs n = some (h.newCtxOf fs) ∧ Claims.answers t k 0 n
          ∧ (∀ g, ∀ e ∈ (t.reg g).groups, e.1 / 65536 ≠ n))
    ∧ (∀ s1 fs, free h.e.o1.toNat (512 * 1024) → free h.e.o3.toNat 512 → s.ctxFrames h = (s1, .ok fs) → Tab.free s.ctxs 4096 = none →
        does .ctxCreate (s.hostFail k Cause.outOfMemory))
    ∧ (∀ s1 e, free h.e.o1.toNat (512 * 1024) → free h.e.o3.toNat 512 → s.ctxFrames h = (s1, .error e) → does .ctxCreate (s.hostFail k e))
    ∧ (∀ c, h.stage = 0 → Tab.get s.ctxs ctxid = some c → c.live = true → c.ending = false →
        does .ctxDestroy ((((s.updCtx ctxid (fun c => { c with ending := true })).keepSaved ctxid false).abortCtx ctxid).hostStage k 1))
    ∧ (h.stage = 1 → s.hasKernels ctxid = false → (∀ j ∈ s.hcmds, j.1 ≠ k → j.2.step = 2 → j.2.names ≠ some ctxid) →
        does .ctxDestroy ((s.endCtx ctxid).hostEffect k 0 0))
    ∧ (h.stage = 1 → s.hasKernels ctxid = true → does .ctxDestroy s)
    ∧ (let bs := s.mem.readN h.e.o1.toNat 32
       let two := h.e.o0.getLsbD 16
       let c := ctxid % 4096
       let job (u : Bool) : MapJob := { two := two, unmap := u, f := s.funcOf c, ctxid := c, d := MapDesc.of h.prog.hdr }
       let inst (u : Bool) (e : HostEntry) : Instr := if u then .unmap e else .map e
       let put (t : State) (p : Prog) : State := t.updHCmd k (fun h => { h with prog := p })
       let gone := (job true).removed h.prog.tab
       (∀ u, h.prog.stage = 0 → (mapOk bs two u = false → does (inst u) (s.hostFail k Cause.cmdInvalid))
          ∧ (mapOk bs two u = true → does (inst u) (put s { stage := 1, hdr := bs })))
       ∧ (h.prog.stage = 1 ∨ h.prog.stage = 2 → ∀ u t,
          (∀ p, s.mapStep (job u) h.prog = (t, .go p) → does (inst u) (put t p))
          ∧ (∀ e v, s.mapStep (job u) h.prog = (t, .stop (.fail e (some v))) → does (inst u) (t.hostEffect k e v)))
       ∧ (∀ t, h.prog.stage = 2 → s.mapStep (job false) h.prog = (t, .done) →
          let r := (t.mapDrop (job false)).mapRelease (job false)
          does .map (r.1.hostEffect k 0 r.2))
       ∧ (∀ t, h.prog.stage = 2 → s.mapStep (job true) h.prog = (t, .done) →
          let t1 := t.mapDrop (job true)
          does .unmap (put t1 { h.prog with stage := 3, io := [], waits := t1.mapWaits (job true) gone }))
       ∧ (h.prog.stage = 3 → s.mapAwaits (job true) gone h.prog.waits = true → does .unmap s)
       ∧ (h.prog.stage = 3 → s.mapAwaits (job true) gone h.prog.waits = false →
          does .unmap ((if (job true).d.free then s.freeFrames ((job true).outs h.prog.tab) (job true).d.size else s).hostEffect k 0
            ((job true).count h.prog.tab))))
    ∧ (∀ s1 e, h.kernel = none → s.heldFunc h.f h.e.o1.toNat 64 = none → s.readFunc h.f h.e.o1.toNat 64 = (s1, .error e) →
        does .launch (s1.hostFail k e))
    ∧ (∀ s1 s2 hd img gs, h.kernel = none → s.heldFunc h.f h.e.o1.toNat 64 = none → s.readFunc h.f h.e.o1.toNat 64 = (s1, .ok hd) →
        s1.heldFunc h.f h.e.o1.toNat (max 64 (le hd 8 4)) = none → s1.readFunc h.f h.e.o1.toNat (max 64 (le hd 8 4)) = (s2, .ok img) →
        (imageOk img = false → does .launch (s2.hostEffect k Cause.launchBadHeader 0))
        ∧ (imageOk img = true → s2.place? img = some gs → ∃ t, does .launch t ∧ t.nextKernel = s2.nextKernel + 1
            ∧ Tab.get t.kernels s2.nextKernel = some { ctxid := ctxid, regions := gs, image := img, host := some k, o2 := h.e.o2.toNat }
            ∧ (Tab.get t.hcmds k).map (fun h => (h.stage, h.kernel)) = some (1, some s2.nextKernel)))
    ∧ (∀ n, h.kernel = some n → 1 ≤ h.stage → h.stage < dataDone →
        let kn : Kernel := Tab.getD s.kernels n
        let todo := ((imageData kn.image).flatMap (fun d => writeLines d.1 d.2)).drop (h.stage - 1)
        (todo = [] → does .launch (s.updHCmd k (fun h => { h with stage := dataDone })))
        ∧ (∀ e rest t, todo = e :: rest → s.dataLine k (kn.regions.headD 0) n e = (t, .ok ()) →
            does .launch (t.updHCmd k (fun h => { h with stage := h.stage + 1 }))))
    ∧ (∀ n, h.kernel = some n → h.stage = dataDone → does .launch (s.launchStage k n))
    ∧ (∀ a : Aperture, a = { ctxid := ctxid, six := h.e.o1.toNat % 4096, role := h.e.o1.getLsbD 24, gen := s.genOf ctxid } →
        Tab.has (Tab.getD s.funcs h.f : Func).aps (bits h.e.o1.toNat 16 21) = false →
        ∃ t, does .streamBind t ∧ Tab.get (Tab.getD t.funcs h.f : Func).aps (bits h.e.o1.toNat 16 21) = some a ∧ Claims.answers t k 0 0)
    ∧ (let key := drawerKey ctxid h.e.o1.toNat
       h.stage = 0 → (s.drawerBusy key = true → s.anchorLive key = true) → s.createFault key h.e.o2.toNat = none →
       does .drawerCreate ((s.hostStage k 1).createDrawer ctxid h.e.o1.toNat h.e.o2.toNat none (some k)))
    ∧ (let q := h.e.o2.toNat % 16
       let new : HQueue := { created := true, ring := ctxid, cring := h.e.o1.toNat, qs := bits h.e.o2.toNat 8 11 }
       h.queueOk s = true → ∃ t, does .queueCreate t ∧ t.queue h.f q = new ∧ Claims.answers t k 0 0)
    ∧ (h.stage = 1 → (s.queue h.f ctxid).created = true → (∀ j ∈ s.hcmds, j.1 ≠ k → ¬ (j.2.f = h.f ∧ j.2.q = ctxid)) →
        ∃ t, does .queueDestroy t ∧ (t.queue h.f ctxid).created = false ∧ Claims.answers t k 0 0)
    ∧ (let slot := ctxid % 128
       let key := s.mem.readN h.e.o1.toNat 64
       (h.stage = 0 → h.e.o0.getLsbD 8 = true ∨ key.take 32 ≠ key.drop 32 →
          does .keyLoad ((s.dropTlb (fun t => t.place.key == slot)).updHCmd k (fun h =>
            { h with stage := 1, buf := key, wait := s.keyed slot, held := s.lineAccs.filter (fun e => e.pl.usesKey slot) })))
       ∧ (h.stage = 0 → h.e.o0.getLsbD 8 = false → key.take 32 = key.drop 32 → does .keyLoad (s.hostFail k Cause.cmdInvalid))
       ∧ (h.stage = 1 → h.wait.any s.awaits = true ∨ h.held.any s.lineAccs.contains = true → does .keyLoad s)
       ∧ (h.stage = 1 → h.wait.any s.awaits = false → h.held.any s.lineAccs.contains = false → ∃ t, does .keyLoad t ∧ Claims.answers t k 0 0 ∧ t.mem = s.mem
          ∧ Tab.get t.keys slot = if h.e.o0.getLsbD 8 then none else some (BitVec.ofNat 512 (bytesToNat h.buf))))
    ∧ (∀ g, h.stage = 0 → allRegions.filter (fun g => (s.core g).holdsCtx ctxid) = [g] →
        let s0 := (s.keepSaved ctxid true).hostStage k 1
        does .snapshot (if s0.maySwitch g then s0.startSwitch g (h.e.o2.getLsbD 1) else s0.tryLeave g))
    ∧ (h.stage = 1 → allRegions.all (fun g => !(s.core g).holdsCtx ctxid) = true →
        let n := (s.snapSizes ctxid).sum
        s.reachFault h.f h.e.o1.toNat n = none → free h.e.o1.toNat n →
        (s.scbsOf (ctxCore ctxid)).findSome? (fun e => s.heldFunc e.1 e.2.1 128) = none →
        let s1 := (s.writeScbs (ctxCore ctxid)).writeFunc false h.f h.e.o1.toNat ((List.range n).map (Config.imageByte s.saves.length))
        does .snapshot ((if h.e.o2.getLsbD 0 then s1 else (s1.restoreAll ctxid).keepSaved ctxid false).hostEffect k 0 n))
    ∧ (h.stage = 0 →
        let t := (s.abortFunc ctxid).hostStage k 1
        does .vfReset t ∧ (∀ j c, Tab.get s.hcmds j = some c → c.f = ctxid → 3 ≤ c.step →
          (Tab.get t.hcmds j).map (fun c => (c.step, c.abrt, c.cause, c.value)) = some (c.step, true, 0, 0)))
    ∧ (h.stage = 2 → (s.ctxsOf ctxid).any s.hasKernels = false → (∀ j ∈ s.hcmds, j.1 ≠ k → j.2.f ≠ ctxid) →
        ∃ t, does .vfReset t ∧ (∀ e ∈ t.ctxs, e.2.func ≠ ctxid) ∧ (Tab.getD t.funcs ctxid : Func).aps = []
          ∧ (Tab.getD t.funcs ctxid : Func).queues = [(0, { created := true })] ∧ Claims.answers t k 0 0)

/-- 00 R11, 16 R300 to R302, 17 R330, 19 R356 to R360: what the host's registers do. The Bureau accepts the entry at HEAD of a queue whose
completion ring has a place; a TAIL or CHEAD outside its ring is ignored; a write of AQS empties queue 0; S2ROOT n belongs to the physical
function alone and removes the cached translations of function n; S2FQS empties the fault ring; RW fields take the value, and other
writes are ignored; GO = 1 sets BSTATE to 1 while the ROM verifies the image, which then runs, or sets BSTATE 3; QGO = 1 sets QSTATE to 1
while the quote uses up one index and then writes its statement and signature; a page whose hash differs stops the image with BFAIL 3; a register reads as its bits, write-only and reserved ones
as zero. That steps 2 to 8 of the boot are one step of the ROM is log 49, that the stop at a page and the rebuild's step 1 are one step log 47, the
steps of a quote log 50; the S2 ring and AQS are 17 R330 and 16 R300. -/
def Obligations.HostRegisters : Prop :=
  ∀ (s : State) (f : BitVec 5) (q : BitVec 4) (v : W64),
    let n := s.queueSize f.toNat q.toNat
    let hq := s.queue f.toNat q.toNat
    (∀ s1 bs, s.bureau = true → s.queueOn f.toNat q.toNat = true → hq.head ≠ hq.tail → s.queueCount f.toNat q.toNat < 2 ^ n →
        s.heldFunc f.toNat (s.queueRing f.toNat q.toNat + 64 * hq.head) 64 = none →
        s.readFunc f.toNat (s.queueRing f.toNat q.toNat + 64 * hq.head) 64 = (s1, .ok bs) →
        let w := word512 (bytesToNat bs)
        ∃ t, Claims.Next (exec (.commandAccept f q) s) t ∧ (t.queue f.toNat q.toNat).head = (hq.head + 1) % 2 ^ n
          ∧ Tab.get t.hcmds s1.tick = some { f := f.toNat, q := q.toNat, opc := fld w 0 8, e := hostFields w, seq := s1.tick })
    ∧ (2 ^ n ≤ s.queueCount f.toNat q.toNat ∨ hq.head = hq.tail ∨ s.bureau = false → Claims.Next (exec (.commandAccept f q) s) s)
    ∧ (s.queueOn f.toNat q.toNat = true → v.toNat % 4096 < 2 ^ n →
        (∃ t, Claims.Next (exec (.tailWrite f q v) s) t ∧ t.queue f.toNat q.toNat = { hq with tail := v.toNat % 4096 })
        ∧ (∃ t, Claims.Next (exec (.cheadWrite f q v) s) t ∧ (t.queue f.toNat q.toNat).chead = v.toNat % 4096
            ∧ (t.queue f.toNat q.toNat).tail = hq.tail))
    ∧ (s.queueOn f.toNat q.toNat = false ∨ 2 ^ n ≤ v.toNat % 4096 →
        Claims.Next (exec (.tailWrite f q v) s) s ∧ Claims.Next (exec (.cheadWrite f q v) s) s)
    ∧ ((s.func f.toNat).enabled = true → ∃ t, Claims.Next (exec (.aqsWrite f v) s) t ∧ (t.func f.toNat).aqs = v.truncate 4
        ∧ t.queue f.toNat 0 = { created := true })
    ∧ (∀ m : BitVec 5, f = 0 → m.toNat ≤ 16 → ∃ t, Claims.Next (exec (.s2rootWrite f m v) s) t ∧ Tab.get t.s2.root m.toNat = some v
        ∧ (∀ g, ∀ e ∈ (t.reg g).tlb, s.funcOf e.ctxid ≠ m.toNat) ∧ t.mem = s.mem)
    ∧ (f ≠ 0 → (∀ m, Claims.Next (exec (.s2rootWrite f m v) s) s) ∧ Claims.Next (exec (.s2fheadWrite f v) s) s
        ∧ Claims.Next (exec (.s2fqsWrite f v) s) s ∧ Claims.Next (exec (.go f v) s) s ∧ Claims.Next (exec (.qgo f v) s) s)
    ∧ (f = 0 → v.toNat % 65536 < 2 ^ (s.s2.fqs.toNat + 4) →
        Claims.Next (exec (.s2fheadWrite f v) s) { s with s2 := { s.s2 with fhead := v.truncate 16 } })
    ∧ (f = 0 → Claims.Next (exec (.s2fqsWrite f v) s) { s with s2 := { s.s2 with fqs := v.truncate 4, fhead := 0, ftail := 0 } })
    ∧ (f.toNat ≤ 16 → (s.func f.toNat).enabled = true →
        (∃ t, Claims.Next (exec (.registerWrite f 0x0000 v) s) t ∧ t.func f.toNat = { s.func f.toNat with aqbase := v })
        ∧ (∃ t, Claims.Next (exec (.registerWrite f 0x0008 v) s) t ∧ t.func f.toNat = { s.func f.toNat with acbase := v })
        ∧ (f = 0 → Claims.Next (exec (.registerWrite f 0x3000 v) s) { s with boot := { s.boot with addr := v } })
        ∧ (f ≠ 0 → ∀ off : BitVec 16, 0x2000 ≤ off.toNat → Claims.Next (exec (.registerWrite f off v) s) s)
        ∧ (∀ off : BitVec 16, 0x4000 ≤ off.toNat → Claims.Next (exec (.registerWrite f off v) s) s))
    ∧ ((s.func f.toNat).enabled = false → ∀ off, Claims.Next (exec (.registerWrite f off v) s) s)
    ∧ (∀ on, 1 ≤ f.toNat → f.toNat ≤ 16 → ∃ t, Claims.Next (exec (.functionEnable f on) s) t ∧ (t.func f.toNat).enabled = on)
    ∧ (f = 0 → (v.getLsbD 0 = true → s.boot.bstate = 0 ∨ s.boot.bstate = 4 →
          Claims.Next (exec (.go f v) s) { s with boot := { s.boot with bstate := 1 } })
        ∧ (v.getLsbD 0 = false ∨ s.boot.bstate ∈ [1#3, 2#3, 3#3] → Claims.Next (exec (.go f v) s) s))
    ∧ (let p := s.applyRepairs.verify
       s.boot.bstate = 1 → s.arm.holds = false →
        (p.2 = false → s.romStep = p.1)
        ∧ (p.2 = true → p.1.flash.boots ≠ BitVec.allOnes 64 → s.romStep.flash.boots = p.1.flash.boots + 1
            ∧ (s.romStep.boot.bstate = 2 ∨ s.romStep.boot.bstate = 4 ∧ s.romStep.boot.bfail = 3) ∧ s.romStep.boot.meas = p.1.boot.meas))
    ∧ ((s.func 0).enabled = true → s.hostReg 0 0x3000 = s.boot.addr ∧ s.hostReg 0 0x3008 = 0 ∧ s.hostReg 0 0x3068 = 0
        ∧ s.hostReg 0 0x3010 = BitVec.ofNat 64 (s.boot.bfail.toNat * 256 + s.boot.bstate.toNat)
        ∧ s.hostReg 0 0x3018 = s.boot.stale ∧ s.hostReg 0 0x3060 = s.boot.qaddr ∧ s.hostReg 0 0x0000 = (s.func 0).aqbase)
    ∧ (∀ off, 0x2000 ≤ off → s.hostReg (f.toNat + 1) off = 0)
    ∧ (f = 0 → v.getLsbD 0 = true → s.boot.qstate ≠ 1 →
        (s.flash.q < 1024 → Claims.Next (exec (.qgo f v) s) { s with boot := { s.boot with qstate := 1 } })
        ∧ (1024 ≤ s.flash.q → Claims.Next (exec (.qgo f v) s) { s with boot := { s.boot with qstate := 3 } }))
    ∧ (f = 0 → v.getLsbD 0 = false ∨ s.boot.qstate = 1 → Claims.Next (exec (.qgo f v) s) s)
    ∧ (s.boot.qstate = 1 →
        (s.boot.quote = none → s.quoteStep = { s with flash := { s.flash with q := s.flash.q + 1 },
                                                       boot := { s.boot with quote := some (s.flash.q, s.statement) } })
        ∧ (∀ n st, s.boot.quote = some (n, st) →
          let t := s.writeClear s.boot.qaddr.toNat (st ++ (Config.lmsSign s.boot.resets n st ++ List.replicate 1452 0).take 1452)
          s.quoteStep = { t with boot := { t.boot with qstate := 2, quote := none } } ∧ s.quoteStep.flash = s.flash))
    ∧ (∀ page hash, s.bureau = true → s.boot.hashes[page]? = some hash →
        (Sha.sha256 (s.imageBytes (4096 * page) 4096) = hash → Claims.Next (exec (.bureauPageFetch page) s) s)
        ∧ (Sha.sha256 (s.imageBytes (4096 * page) 4096) ≠ hash →
          ∃ t, Claims.Next (exec (.bureauPageFetch page) s) t ∧ t.boot.bstate = 4 ∧ t.boot.bfail = 3 ∧ t.bureau = false))

/-! ## Errors, links, the Armoire, resets, debuggers (06, 08, 19) -/

/-- 19 R363 to R369: three corrected errors of a bank line in 24 hours retire it to a spare of its cell, while one is left, and two of a memory
row in an hour repair it; 64 CRC retries of a link in a second retrain it; an uncorrectable error faults the access or the command
that meets it, which a write of whole units does not, and stays bad for later accesses until such a write; in the Bureau's state it starts a rebuild,
as 1 ms without a heartbeat does, which goes on step by step; one that the scrubber finds is counted and stays bad; a lockstep mismatch stops the package, which then takes nothing but a reset or loss of power. That a step of a
rebuild is one step here is log 47, where the bad bits lie log 48. -/
def Obligations.ErrorsLinksAndTheArmoire : Prop :=
  ∀ (s : State),
    (∀ g c line, let src := ErrSource.bankLine g c line
      let seen := s.errs.filter (fun e => e.1 == src && decide (s.now < e.2 + 24 * usHour))
      (seen.length < 2 → ∃ t, Claims.Next (exec (.correctedError src) s) t ∧ t.flash = s.flash ∧ t.regions = s.regions ∧ (src, s.now) ∈ t.errs)
      ∧ (2 ≤ seen.length → Tab.getD (s.reg g).spares c.toNat < 8 → ∃ t, Claims.Next (exec (.correctedError src) s) t
          ∧ t.flash.lines = s.flash.lines ++ [g.toNat * 2 ^ 17 + c.toNat * 512 + line.toNat]
          ∧ Tab.get (t.reg g).spares c.toNat = some (Tab.getD (s.reg g).spares c.toNat + 1) ∧ t.banks = s.banks))
    ∧ (∀ stack bank row, let src := ErrSource.hbmRow stack bank row
      let seen := s.errs.filter (fun e => e.1 == src && decide (s.now < e.2 + usHour))
      1 ≤ seen.length → (s.flash.rows.filter (fun r => r / 2 ^ 32 == bank * 8 + stack.toNat)).length < 4 →
      ∃ t, Claims.Next (exec (.correctedError src) s) t ∧ t.flash.rows = s.flash.rows ++ [rowKey stack bank row] ∧ t.mem = s.mem)
    ∧ (∀ n : BitVec 4, let l : Link := Tab.getD s.links n.toNat
      (l.up = false → Claims.Next (exec (.linkCrcRetry n) s) s)
      ∧ (l.up = true → (recent s.now usSecond l.retries).length < 63 → Claims.Next (exec (.linkCrcRetry n) s)
          { s with links := Tab.set s.links n.toNat { l with retries := recent s.now usSecond l.retries ++ [s.now] } })
      ∧ (l.up = true → 63 ≤ (recent s.now usSecond l.retries).length → (recent s.now usHour l.trains).length < 3 →
          ∃ t, Claims.Next (exec (.linkCrcRetry n) s) t ∧ (Tab.getD t.links n.toNat : Link).retrain = true
            ∧ (Tab.getD t.links n.toNat : Link).width = l.width)
      ∧ (l.up = true → 63 ≤ (recent s.now usSecond l.retries).length → 3 ≤ (recent s.now usHour l.trains).length → 200 < l.width →
          ∃ t, Claims.Next (exec (.linkCrcRetry n) s) t ∧ (Tab.getD t.links n.toNat : Link).width = l.width / 2
            ∧ Tab.get t.flash.widths n.toNat = some (l.width / 2))
      ∧ (l.up = true → 63 ≤ (recent s.now usSecond l.retries).length → 3 ≤ (recent s.now usHour l.trains).length → l.width ≤ 200 →
          ∃ t, Claims.Next (exec (.linkCrcRetry n) s) t ∧ (Tab.getD t.links n.toNat : Link).up = false
            ∧ Tab.get t.flash.widths n.toNat = some 0)
      ∧ (∃ t, Claims.Next (exec (.linkRetrainDone n) s) t
          ∧ Tab.get t.links n.toNat = some { l with retrain := false, outMsg := l.outMsg ++ l.heldMsg, heldMsg := [] }))
    ∧ (∀ u, let spoilt : State := { s with bad := u :: s.bad }
        (∀ g id a pl, s.acc g id = some a → a.phase = .ready pl → openUnits (s.touched g a pl) = [u] →
          Claims.Next (exec (.uncorrectableError (.access g id)) s) (spoilt.uncorrectable g a))
        ∧ (∀ g id, (s.cmd g id).running = true → (s.cmd g id).parked = none → ioUnits (s.cmd g id).prog.io = [u] →
          ((s.cmd g id).code < 0x60 ∨ 0x80 ≤ (s.cmd g id).code →
            Claims.Next (exec (.uncorrectableError (.command g id)) s) (spoilt.failCmd g id Cause.uncorrectable))
          ∧ ((s.cmd g id).code = 0x70 ∨ (s.cmd g id).code = 0x71 →
            Claims.Next (exec (.uncorrectableError (.command g id)) s) (spoilt.chainFail g id Cause.uncorrectable)))
        ∧ (∀ g (p : BitVec 6) w, (Tab.getD (s.core g).ports p.toNat : EdgePort).work = some w →
          (Tab.getD (s.core g).ports p.toNat : EdgePort).parked = none → ioUnits w.io = [u] →
          Claims.Next (exec (.uncorrectableError (.port g p)) s) (spoilt.failPort g p.toNat Cause.uncorrectable 0))
        ∧ (∀ pl bs, pl.covers bs.length u = true → u ∉ (s.writePlace pl bs).bad)
        ∧ (∀ pl bs, pl.covers bs.length u = false → u ∈ s.bad → u ∈ (s.writePlace pl bs).bad))
    ∧ (∀ g id a pl, s.acc g id = some a → a.phase = .ready pl →
        (openUnits (s.touched g a pl) ≠ [] → ∃ t u, Claims.Next (exec (.uncorrectableError (.access g id)) s) t
          ∧ u ∈ openUnits (s.touched g a pl) ∧ u ∈ t.bad)
        ∧ (∀ bs, a.op = .write bs → pl.base % unitBytes pl.bank = 0 → bs.length % unitBytes pl.bank = 0 →
          Claims.Next (exec (.uncorrectableError (.access g id)) s) s)
        ∧ (s.ringGone a = false → s.holds g a = false → s.pendingFull a = false → s.ownedOk pl = true → s.accSpoiled g a pl = true →
          Claims.Next (exec (.accessPerform g id) s) (s.uncorrectable g a)))
    ∧ (Claims.Next (exec (.uncorrectableError .bureau) s) s.rebuild)
    ∧ (s.bureau = true → s.arm.heart + 1000 ≤ s.now → Claims.Next (exec .heartbeatTimeout s) s.rebuild)
    ∧ (s.rebuild = if s.arm.rebuild = 0 then { s with arm := { s.arm with rebuild := 1 } } else s)
    ∧ ((s.arm.rebuild = 0 ∨ (s.arm.rebuild = 2 ∧ s.arm.holds = true) → s.armoireStep = s)
        ∧ (s.arm.rebuild = 1 → s.armoireStep = { s with arm := { s.arm with rebuild := 2 } })
        ∧ (s.arm.rebuild = 3 → s.armoireStep.arm.rebuild = 4)
        ∧ (s.arm.rebuild = 4 → s.armoireStep.arm.rebuild = 5)
        ∧ (s.arm.rebuild = 5 → s.armoireStep.openf = [] ∧ s.armoireStep.arm.rebuild = 6
          ∧ s.armoireStep.records.length = s.records.length + s.allParked.length)
        ∧ (s.arm.rebuild = 6 → s.armoireStep.arm.rebuild = 0 ∧ s.armoireStep.arm.heart = s.now))
    ∧ (s.now < s.arm.heart + 1000 → Claims.Next (exec .heartbeatTimeout s) s)
    ∧ (s.bureau = true → Claims.Next (exec .heartbeat s) { s with arm := { s.arm with heart := s.now } })
    ∧ (∀ a, (clsOf a = 0xC → Claims.Next (exec (.scrubUncorrectable a) s)
          { s with scrubbed := s.scrubbed + 1, bad := (true, a % 2 ^ 29 / 8) :: s.bad })
        ∧ (clsOf a ≠ 0xC → isDevice a = true → Claims.Next (exec (.scrubUncorrectable a) s)
          { s with scrubbed := s.scrubbed + 1, bad := (false, a / 32) :: s.bad })
        ∧ (clsOf a ≠ 0xC → isDevice a = false → Claims.Next (exec (.scrubUncorrectable a) s) { s with scrubbed := s.scrubbed + 1 }))
    ∧ Claims.Next (exec .lockstepMismatch s) { s with arm := { s.arm with stopped := true } }
    ∧ (s.arm.stopped = true → (∀ i, s.schedule.fetch = some i → i ≠ .reset → i ≠ .powerLoss → step s = .fault .packageStopped)
        ∧ (s.schedule.fetch = none → step s = .fault .packageStopped))

/-- 19 R357, R359, R362, R363: a conventional reset leaves the contents of memory and the flash, and everything else as it is right
after reset; device memory that has lost power has lost its contents, and the keys are gone in both. What memory each of them leaves, and what
becomes of a quote under way, is log 50. -/
def Sys2Proof.Claims.ResetsLeaveMemoryAndFlash : Prop :=
  ∀ (s : State),
    (∃ t, Claims.Next (exec .reset s) t ∧ t.mem = s.mem ∧ t.lineKey = s.lineKey ∧ t.flash = s.flash ∧ t.keys = [] ∧ t.ctxs = [] ∧ t.regions = []
      ∧ t.banks = [] ∧ t.hcmds = [] ∧ t.streams = [] ∧ t.drawers = [] ∧ t.boot.bstate = 0 ∧ t.boot.meas = [] ∧ t.boot.resets = s.boot.resets + 1
      ∧ t.funcs = State.reset.funcs ∧ t.s2 = {} ∧ t.arm.stopped = false ∧ t.boot.qstate = 0 ∧ t.boot.quote = none)
    ∧ (∃ t, Claims.Next (exec .powerLoss s) t ∧ (∀ a, isHost a = true → t.mem.read a = s.mem.read a) ∧ (∀ a, isHost a = false → t.mem.read a = 0)
      ∧ t.lineKey = [] ∧ t.keys = [] ∧ t.ctxs = [] ∧ t.bad = [] ∧ t.flash = s.flash ∧ t.boot.qstate = 0)

/-- 06 R192, R194 to R196, 08 R226, 17 R336: a microprogram run begins with the oldest report once its cell's accesses are settled, the report's
fields in its registers, and the service image's program freezes the context or, for cause 0, thaws those with nothing parked; a debugger
attaches, halts at a word boundary, resumes and writes registers only of a thread that it is attached to; a stream fault of a thread discards its
access and those behind it and traps at the word at which it stands. That microprograms run as the image's table says, and which thread a
debugger reaches, are the model's (log 17, 79), and so is a bond as the debugger writes it (log 83). -/
def Obligations.MicroprogramsDebuggersAndStreamFaults : Prop :=
  ∀ (s : State) (g : RegionNo) (x : CtxNo),
    let m := (s.reg g).micro
    let t := s.thread g x
    (∀ r rest, m.stopped = false → m.running = false → m.queue = r :: rest → s.reportDue g r = true → m.ofService = false →
        ∃ u, Claims.Next (exec (.microprogramRun g) s) u ∧ (u.reg g).micro.running = true ∧ (u.reg g).micro.queue = rest
          ∧ (u.reg g).micro.th.pc = BitVec.ofNat 64 (64 * r.cause.toNat) ∧ (u.reg g).micro.th.rg 1 = r.cause.zeroExtend 64
          ∧ (u.reg g).micro.th.rg 2 = r.rep.zeroExtend 64 ∧ (u.reg g).micro.th.rg 3 = BitVec.ofNat 64 r.addr
          ∧ (u.reg g).micro.th.rg 4 = r.x.zeroExtend 64)
    ∧ (m.stopped = false → m.running = true → m.ofService = true → m.cur.cause = 0 →
        ∃ u, Claims.Next (exec (.microprogramRun g) s) u ∧ (u.reg g).micro.running = false
          ∧ ∀ e ∈ (u.core g).frozen, (s.core g).hasParked (BitVec.ofNat 2 e.1) = true
            ∨ (s.reg g).hopParked (Tab.getD (s.core g).grants e.1 : Grant).ctxid = true)
    ∧ (m.stopped = false → m.running = true → m.ofService = true → m.cur.cause ≠ 0 → (s.core g).quiet m.cur.x = true → s.ftokHeld m.cur = false →
        ∃ u, Claims.Next (exec (.microprogramRun g) s) u ∧ (u.reg g).micro.running = false
          ∧ u.records = s.records ++ [{ m.cur with count := 0 }] ∧ Tab.getD (u.core g).frozen m.cur.x.toNat = true)
    ∧ (s.debugImage g x = none → ∀ on, Claims.Next (exec (.debugAttach g x on) s) (s.updThread g x (fun t => { t with dbge := on })))
    ∧ (s.debugImage g x = none → t.dbge = true → (∃ u, Claims.Next (exec (.debugHalt g x) s) u ∧ (u.thread g x).halted = true ∧ (u.thread g x).wait = none
          ∧ (∀ id, t.hold = some (id, true) → ∀ a ∈ (u.core g).accs, a.id ≠ id)
          ∧ (u.thread g x).pc = (match t.wait with | some w => if w.kind = 13 then t.pc + 4 else t.pc | none => t.pc))
        ∧ Claims.Next (exec (.debugResume g x) s) (s.updThread g x (fun t => { t with halted := false }))
        ∧ (∀ n v, Claims.Next (exec (.debugRegisterWrite g x (.g n) v) s) (s.updThread g x (fun t => t.wg n (v.truncate 64))))
        ∧ (∀ v, ∃ u, Claims.Next (exec (.debugRegisterWrite g x .pc v) s) u ∧ (u.thread g x).pc.toNat % 4 = 0
            ∧ (u.thread g x).pc.toNat < 2 ^ 14)
        ∧ (∀ v, Claims.Next (exec (.debugRegisterWrite g x .lval v) s) (s.updThread g x (fun t => { t with lval := v.truncate 64 })))
        ∧ (∀ n v, Claims.Next (exec (.debugRegisterWrite g x (.bd n) v) s)
            (s.updThread g x (fun t => { t with bd := Tab.set t.bd n.toNat (v.truncate 16) }))))
    ∧ (∀ n id, s.debugImage g x = some n → (s.debugThread g x).dbge = true → (s.debugThread g x).hold = some (id, true) →
        ∃ u, Claims.Next (exec (.debugHalt g x) s) u ∧ (∀ a ∈ ((u.reg g).images.getD n {}).core.accs, a.id ≠ id)
          ∧ (Tab.getD ((u.reg g).images.getD n {}).core.threads x.toNat : Thread).halted = true)
    ∧ (∀ n on, s.debugImage g x = some n → ∃ u, Claims.Next (exec (.debugAttach g x on) s) u ∧ u.core g = s.core g
        ∧ (u.debugThread g x).dbge = on)
    ∧ (s.debugImage g x = none → t.dbge = false → Claims.Next (exec (.debugHalt g x) s) s ∧ Claims.Next (exec (.debugResume g x) s) s
        ∧ ∀ tg v, Claims.Next (exec (.debugRegisterWrite g x tg v) s) s)
    ∧ (∀ a c, (s.core g).accs.find? (fun a => a.port == .thread x && (match a.phase with | .faulted _ => true | _ => false)) = some a →
        a.phase = .faulted c →
        let before (e : Acc) : Bool := e.port == .thread x && e.op == .read && e.id < a.id
        let gone (e : Acc) : Bool := e.port == .thread x && e.id ≥ a.id && !e.done
        let s0 := ((s.core g).accs.filter gone).foldl (fun s e => if clsOf e.addr == 4 then s.clearWait e.scb (.acc g e.id) else s) s
        let s1 := (s0.updCore g (fun k => { k with accs := k.accs.filter (fun e => !gone e) })).updThread g x (fun t => { t with hold := none })
        let cause := if c = Cause.streamPeerGone then Cause.streamClosed else c
        let v := BitVec.ofNat 64 a.addr
        ((∃ e ∈ (s.core g).accs, before e = true) → Claims.Next (exec (.streamAccessFault g x) s) s)
        ∧ ((∀ e ∈ (s.core g).accs, before e = false) →
            (s1.core g).accs = (s.core g).accs.filter (fun e => !gone e)
            ∧ (t.ending = none → Claims.Next (exec (.streamAccessFault g x) s) (s1.trapEntry g x cause v t.pc))
            ∧ (∀ e, t.ending = some e → e.kill = true → Claims.Next (exec (.streamAccessFault g x) s)
                ((s1.updThread g x (fun t => { t with ending := none })).trapEntry g x cause v t.pc))
            ∧ (∀ e, t.ending = some e → e.kill = false → Claims.Next (exec (.streamAccessFault g x) s) (s1.stopThread g x cause v))))
    ∧ ((∀ a ∈ (s.core g).accs, a.port = .thread x → ∀ c, a.phase ≠ .faulted c) → Claims.Next (exec (.streamAccessFault g x) s) s)

/-! ## Encodings, the step, reset (00, 02, 03, 09, 16, 19) -/

/-- 03 R78, R87, R92, 16 R301: words that the manual writes out decode to the instructions that it writes above them. -/
def Obligations.WordsDecodeAsWritten : Prop :=
  decodeTableWord 32 0x00611000 = some (.add 3 1 2)
  ∧ decodeTableWord 32 0x84CD0800 = some (.kwait 3 2 2 0)
  ∧ decodeTableWord 32 0x80C81C00 = some (.cissue 1 7)
  ∧ decodeTableWord 32 0x1484C000 = none
  ∧ decodeTableWord 64 0x61B0022400020802 = some (.ffma ⟨6, 0, 1, 0x1200, 0x010, 0x401, false⟩)
  ∧ decodeTableWord 64 0x200013FFFB489C01 = some (.iadd ⟨0, 0, 9, 0xFFFD, 0xA44, 0xE00, true⟩)
  ∧ decodeTableWord 128 0x14D40002000000000000000000000000 = some (.sclose ⟨true, true, 5, 0, 2, 0, 0, 0⟩)
  ∧ decodeTableWord 128 0x64510005C00000000000100000040011 = some (.dtake ⟨false, true, 4, 1, 5, 0xC0000000, 0x1000, 0x00040011⟩)
  ∧ decodeTableWord 512 0x05 = some (.launch ⟨0, 0, 0, 0, 0, 0, 0, 0, 0, 0⟩)
  ∧ decodeTableWord 512 0x0D = none

/-- 03 R78, R87, R92, R93, 16 R301: decode and encode agree: the bytes of a well-formed instruction that has a word decode to it, with
every operand at every value that its encoding admits. -/
def Obligations.EncodeDecodeAgree : Prop :=
  ∀ (i : Instr) (bs : List Byte), i.wf = true → encode i = some bs → decodeTableWord (8 * bs.length) (bytesToNat bs) = some i

/-- 03 R92 to R94: no two Lectern words stand for one instruction, and a word of R94 for none: the encoding of what a word decodes to is
that word, so a word with a field that must be zero, a code that is not listed or a condition that is not listed decodes to nothing. -/
def Obligations.DecodedWordsEncodeBack : Prop :=
  (∀ (w : W32) (i : Instr), decodeLectern w = .ok i → i.wf = true ∧ encodeLectern i = some w)
  ∧ (∀ (w : W64) (i : Instr), decodeSlot w = .ok i → i.slotOp? = some (fld w 55 9, slotFields w) ∧ encodeSlot (fld w 55 9) (slotFields w) = w)
  ∧ (∀ (w : W128) (i : Instr), decodeFrame w = .ok i → i.frameCode? = some (fld w 120 8, frameFields w)
      ∧ FrameRules.pack (fld w 120 8) (frameFields w) = w)

/-- 03 R94, 06 R166, 09 R229: a step executes the instruction of the agent that moves, with that agent taken from the agenda: the word at a
thread's PC, the word of a slot, the frame of a command, the entry of a host command, or the step of a unit; a word that is not defined
and a PC at or beyond the section have their own meanings; an entry that names no command completes without one, and the boot ROM takes
its own step. Slots that are ready are noted first (log 80); with an empty agenda a free choice takes the agenda's place (log 4). -/
def Obligations.StepRunsTheDecodedInstruction : Prop :=
  ∀ (s : State) (a : Agent) (rest : List Agent), s.agenda = a :: rest → s.arm.stopped = false →
    let s1 : State := { s.noteReady with cur := a, agenda := rest, tick := s.tick + 1 }
    (∀ g x w i, a = .lectern g x → (s.thread g x).pc.toNat < 4 * (s.thread g x).prog.length →
        (s.thread g x).prog[(s.thread g x).pc.toNat / 4]? = some w →
        (decodeLectern w = .ok i → step s = exec i s1)
        ∧ (∀ e, decodeLectern w = .error e → step s = exec (.undefinedWord w) s1))
    ∧ (∀ g x, a = .lectern g x → 4 * (s.thread g x).prog.length ≤ (s.thread g x).pc.toNat → step s = exec .fetchBeyondSection s1)
    ∧ (∀ g w i, a = .micro g → (s.reg g).micro.th.pc.toNat < 4 * (s.reg g).micro.th.prog.length →
        (s.reg g).micro.th.prog[(s.reg g).micro.th.pc.toNat / 4]? = some w → decodeLectern w = .ok i → step s = exec i s1)
    ∧ (∀ l i, a = .slot l → decodeSlot (s.slotAt l).word = .ok i → step s = exec i s1)
    ∧ (∀ l, a = .slot l → (s.slotAt l).word = 0 → step s = .next s1)
    ∧ (∀ g id i, a = .command g id → decodeFrame (s.cmd g id).w = .ok i → step s = exec i s1)
    ∧ (∀ k h i, a = .hostCmd k → Tab.get s.hcmds k = some h → hostOf h.opc h.e = some i → step s = exec i s1)
    ∧ (∀ k h, a = .hostCmd k → Tab.get s.hcmds k = some h → hostOf h.opc h.e = none → step s = .next (s1.hostUndefined k))
    ∧ (a = .rom → step s = .next s1.romStep)
    ∧ (∀ i, a = .event i → step s = exec i s1)
    ∧ (∀ us, a = .pass us → step s = .next (s1.elapse us))

/-- 02 R58, 06 R165, R168, 07 R199, 16 R300, 17 R330, 19 R356, R371: what is so right after reset: the registers with a reset value hold it, no thread
is live, every stream is FREE, no context, kernel or Drawer exists, and every cell's generator is seeded with 0xACE1. That memory lists
nothing and is in canonical form is the model's own (log 2). -/
def Sys2Proof.Claims.ResetState : Prop :=
  let s := State.reset
  (∀ g c, s.gen g c = if (0xACE1#16) ^^^ cellIdent g c = 0 then 1 else 0xACE1#16 ^^^ cellIdent g c)
  ∧ (∀ g x, (s.thread g x).live = false ∧ (s.thread g x).pc = 0 ∧ (∀ n, (s.thread g x).rg n = 0) ∧ (∀ n, (s.thread g x).counter n = 0)
      ∧ (∀ n, (s.thread g x).bond n = 1) ∧ (s.thread g x).lquant = 2000 ∧ (s.thread g x).tr = false ∧ (s.thread g x).en = false)
  ∧ (∀ key, (s.scb key).state = 0)
  ∧ s.ctxs = [] ∧ s.kernels = [] ∧ s.drawers = [] ∧ s.hcmds = [] ∧ s.keys = [] ∧ s.frames = []
  ∧ (∀ g, (s.reg g).images = [] ∧ (s.core g).grants = [] ∧ (s.core g).chans = [] ∧ (s.core g).filters = [])
  ∧ s.boot.bstate = 0 ∧ s.boot.bfail = 0 ∧ s.boot.stale = 0 ∧ s.boot.addr = 0 ∧ s.boot.qaddr = 0 ∧ s.boot.qstate = 0 ∧ s.boot.meas = []
  ∧ (s.func 0).aqbase = 0 ∧ (s.func 0).acbase = 0 ∧ (s.func 0).aqs = 0
  ∧ (∀ q, (s.queue 0 q).tail = 0 ∧ (s.queue 0 q).head = 0 ∧ (s.queue 0 q).chead = 0 ∧ (s.queue 0 q).ctail = 0)
  ∧ s.s2.root = [] ∧ s.s2.fbase = 0 ∧ s.s2.fqs = 0 ∧ s.s2.fhead = 0 ∧ s.s2.ftail = 0
  ∧ (∀ n, (Tab.getD s.links n : Link).width = 800)
  ∧ s.memOk = true ∧ (∀ a, s.mem.read a = 0) ∧ (∀ a, s.banks.read a = 0)

/-- 02 R58, 06 R165, R168, 16 R300, 17 R330, 19 R356 to R363: the state right after reset, and what a later reset or a loss of power leaves. That
memory reads zero and is in canonical form is the model's choice (log 2). -/
def Obligations.ResetLeavesTheStatedValues : Prop := Claims.ResetState ∧ Claims.ResetsLeaveMemoryAndFlash

/-- A step of the machine keeps device memory, host memory and the banks in canonical form: addresses rise and no entry equals what an
unlisted address reads as (log 2). -/
def Obligations.StepsKeepMemoryCanonical : Prop :=
  ∀ (s t : State), s.mem.wf = true → s.banks.wf = true → step s = .next t → t.mem.wf = true ∧ t.banks.wf = true

/-- 03 R94, 06 R186, R193: no instruction of the manual stops the machine: every one answers a next state when the agent that executes it is
of its own kind, a trap or a report where the manual gives it one. -/
def Obligations.NoInstructionStops : Prop :=
  ∀ (i : Instr) (s : State), i.fits s.cur = true → ∃ t, Claims.Next (exec i s) t
end

