-- ==== Sys2Proof/Laws/Tab.lean ====
section
/-!
SUPPORT. What a table holds after an entry is replaced.
-/

namespace Sys2Proof

@[simp] theorem Tab.get_nil {α : Type} (n : Nat) : Tab.get ([] : Tab α) n = none := rfl

/-- The entry just set is found. -/
@[simp] theorem Tab.get_set_self {α : Type} (t : Tab α) (n : Nat) (v : α) : Tab.get (Tab.set t n v) n = some v := by
  induction t with
  | nil => simp [Tab.set, Tab.get]
  | cons p r ih =>
    obtain ⟨k, w⟩ := p
    rw [Tab.set]
    split
    · simp [Tab.get]
    · split
      · simp [Tab.get]
      · have hk : (k == n) = false := by simp_all; omega
        simp [Tab.get, hk, ih]

/-- Every other entry is as before. -/
@[simp] theorem Tab.get_set_ne {α : Type} (t : Tab α) (n m : Nat) (v : α) (h : m ≠ n) :
    Tab.get (Tab.set t n v) m = Tab.get t m := by
  have hn : (n == m) = false := by simp; omega
  induction t with
  | nil => simp [Tab.set, Tab.get, hn]
  | cons p r ih =>
    obtain ⟨k, w⟩ := p
    rw [Tab.set]
    split
    · simp [Tab.get, hn]
    · split
      · next hk => simp at hk; subst hk; simp [Tab.get, hn]
      · simp [Tab.get, ih]

@[simp] theorem Tab.getD_set_self {α : Type} [Inhabited α] (t : Tab α) (n : Nat) (v : α) :
    Tab.getD (Tab.set t n v) n = v := by simp [Tab.getD]

@[simp] theorem Tab.getD_set_ne {α : Type} [Inhabited α] (t : Tab α) (n m : Nat) (v : α) (h : m ≠ n) :
    Tab.getD (Tab.set t n v) m = Tab.getD t m := by simp [Tab.getD, h]

@[simp] theorem Tab.getD_upd_self {α : Type} [Inhabited α] (t : Tab α) (n : Nat) (f : α → α) :
    Tab.getD (Tab.upd t n f) n = f (Tab.getD t n) := by simp [Tab.upd]

@[simp] theorem Tab.getD_upd_ne {α : Type} [Inhabited α] (t : Tab α) (n m : Nat) (f : α → α) (h : m ≠ n) :
    Tab.getD (Tab.upd t n f) m = Tab.getD t m := by simp [Tab.upd, h]

@[simp] theorem Tab.get_upd_self {α : Type} [Inhabited α] (t : Tab α) (n : Nat) (f : α → α) :
    Tab.get (Tab.upd t n f) n = some (f (Tab.getD t n)) := by simp [Tab.upd]

@[simp] theorem Tab.get_upd_ne {α : Type} [Inhabited α] (t : Tab α) (n m : Nat) (f : α → α) (h : m ≠ n) :
    Tab.get (Tab.upd t n f) m = Tab.get t m := by simp [Tab.upd, h]

@[simp] theorem Tab.has_set_self {α : Type} (t : Tab α) (n : Nat) (v : α) : Tab.has (Tab.set t n v) n = true := by
  simp [Tab.has]

/-- A second replacement of an entry is the only one that counts. -/
@[simp] theorem Tab.set_set {α : Type} (t : Tab α) (n : Nat) (v w : α) : Tab.set (Tab.set t n v) n w = Tab.set t n w := by
  induction t with
  | nil => simp [Tab.set]
  | cons p r ih =>
    obtain ⟨k, u⟩ := p
    by_cases h1 : n < k
    · simp [Tab.set, h1]
    · by_cases h2 : n = k
      · subst h2; simp [Tab.set]
      · simp [Tab.set, h1, h2, ih]

end Sys2Proof
end

