-- ==== Sys2Proof/Laws/State.lean ====
section
/-!
SUPPORT. What each update of the state leaves as it was, one lemma per field, and what it reads back.
-/

namespace Sys2Proof.Machine

/-! ## `setReg` -/

@[simp] theorem State.setReg_cur (s : State) (g : RegionNo) (r : Region) : (s.setReg g r).cur = s.cur := rfl
@[simp] theorem State.setReg_agenda (s : State) (g : RegionNo) (r : Region) : (s.setReg g r).agenda = s.agenda := rfl
@[simp] theorem State.setReg_tick (s : State) (g : RegionNo) (r : Region) : (s.setReg g r).tick = s.tick := rfl
@[simp] theorem State.setReg_freeCtr (s : State) (g : RegionNo) (r : Region) : (s.setReg g r).freeCtr = s.freeCtr := rfl
@[simp] theorem State.setReg_now (s : State) (g : RegionNo) (r : Region) : (s.setReg g r).now = s.now := rfl
@[simp] theorem State.setReg_mem (s : State) (g : RegionNo) (r : Region) : (s.setReg g r).mem = s.mem := rfl
@[simp] theorem State.setReg_banks (s : State) (g : RegionNo) (r : Region) : (s.setReg g r).banks = s.banks := rfl
@[simp] theorem State.setReg_lineKey (s : State) (g : RegionNo) (r : Region) : (s.setReg g r).lineKey = s.lineKey := rfl
@[simp] theorem State.setReg_frames (s : State) (g : RegionNo) (r : Region) : (s.setReg g r).frames = s.frames := rfl
@[simp] theorem State.setReg_frameBy (s : State) (g : RegionNo) (r : Region) : (s.setReg g r).frameBy = s.frameBy := rfl
@[simp] theorem State.setReg_keys (s : State) (g : RegionNo) (r : Region) : (s.setReg g r).keys = s.keys := rfl
@[simp] theorem State.setReg_hostOwned (s : State) (g : RegionNo) (r : Region) : (s.setReg g r).hostOwned = s.hostOwned := rfl
@[simp] theorem State.setReg_xfers (s : State) (g : RegionNo) (r : Region) : (s.setReg g r).xfers = s.xfers := rfl
@[simp] theorem State.setReg_cxl (s : State) (g : RegionNo) (r : Region) : (s.setReg g r).cxl = s.cxl := rfl
@[simp] theorem State.setReg_ctxs (s : State) (g : RegionNo) (r : Region) : (s.setReg g r).ctxs = s.ctxs := rfl
@[simp] theorem State.setReg_gens (s : State) (g : RegionNo) (r : Region) : (s.setReg g r).gens = s.gens := rfl
@[simp] theorem State.setReg_streams (s : State) (g : RegionNo) (r : Region) : (s.setReg g r).streams = s.streams := rfl
@[simp] theorem State.setReg_drawers (s : State) (g : RegionNo) (r : Region) : (s.setReg g r).drawers = s.drawers := rfl
@[simp] theorem State.setReg_slices (s : State) (g : RegionNo) (r : Region) : (s.setReg g r).slices = s.slices := rfl
@[simp] theorem State.setReg_kernels (s : State) (g : RegionNo) (r : Region) : (s.setReg g r).kernels = s.kernels := rfl
@[simp] theorem State.setReg_nextKernel (s : State) (g : RegionNo) (r : Region) : (s.setReg g r).nextKernel = s.nextKernel := rfl
@[simp] theorem State.setReg_funcs (s : State) (g : RegionNo) (r : Region) : (s.setReg g r).funcs = s.funcs := rfl
@[simp] theorem State.setReg_hcmds (s : State) (g : RegionNo) (r : Region) : (s.setReg g r).hcmds = s.hcmds := rfl
@[simp] theorem State.setReg_journal (s : State) (g : RegionNo) (r : Region) : (s.setReg g r).journal = s.journal := rfl
@[simp] theorem State.setReg_openf (s : State) (g : RegionNo) (r : Region) : (s.setReg g r).openf = s.openf := rfl
@[simp] theorem State.setReg_records (s : State) (g : RegionNo) (r : Region) : (s.setReg g r).records = s.records := rfl
@[simp] theorem State.setReg_ringWait (s : State) (g : RegionNo) (r : Region) : (s.setReg g r).ringWait = s.ringWait := rfl
@[simp] theorem State.setReg_hangs (s : State) (g : RegionNo) (r : Region) : (s.setReg g r).hangs = s.hangs := rfl
@[simp] theorem State.setReg_s2 (s : State) (g : RegionNo) (r : Region) : (s.setReg g r).s2 = s.s2 := rfl
@[simp] theorem State.setReg_boot (s : State) (g : RegionNo) (r : Region) : (s.setReg g r).boot = s.boot := rfl
@[simp] theorem State.setReg_flash (s : State) (g : RegionNo) (r : Region) : (s.setReg g r).flash = s.flash := rfl
@[simp] theorem State.setReg_links (s : State) (g : RegionNo) (r : Region) : (s.setReg g r).links = s.links := rfl
@[simp] theorem State.setReg_losses (s : State) (g : RegionNo) (r : Region) : (s.setReg g r).losses = s.losses := rfl
@[simp] theorem State.setReg_errs (s : State) (g : RegionNo) (r : Region) : (s.setReg g r).errs = s.errs := rfl
@[simp] theorem State.setReg_scrubbed (s : State) (g : RegionNo) (r : Region) : (s.setReg g r).scrubbed = s.scrubbed := rfl
@[simp] theorem State.setReg_bad (s : State) (g : RegionNo) (r : Region) : (s.setReg g r).bad = s.bad := rfl
@[simp] theorem State.setReg_arm (s : State) (g : RegionNo) (r : Region) : (s.setReg g r).arm = s.arm := rfl
@[simp] theorem State.setReg_saves (s : State) (g : RegionNo) (r : Region) : (s.setReg g r).saves = s.saves := rfl

/-! ## `updCore` -/

@[simp] theorem State.updCore_cur (s : State) (g : RegionNo) (f : Core → Core) : (s.updCore g f).cur = s.cur := rfl
@[simp] theorem State.updCore_agenda (s : State) (g : RegionNo) (f : Core → Core) : (s.updCore g f).agenda = s.agenda := rfl
@[simp] theorem State.updCore_tick (s : State) (g : RegionNo) (f : Core → Core) : (s.updCore g f).tick = s.tick := rfl
@[simp] theorem State.updCore_freeCtr (s : State) (g : RegionNo) (f : Core → Core) : (s.updCore g f).freeCtr = s.freeCtr := rfl
@[simp] theorem State.updCore_now (s : State) (g : RegionNo) (f : Core → Core) : (s.updCore g f).now = s.now := rfl
@[simp] theorem State.updCore_mem (s : State) (g : RegionNo) (f : Core → Core) : (s.updCore g f).mem = s.mem := rfl
@[simp] theorem State.updCore_banks (s : State) (g : RegionNo) (f : Core → Core) : (s.updCore g f).banks = s.banks := rfl
@[simp] theorem State.updCore_lineKey (s : State) (g : RegionNo) (f : Core → Core) : (s.updCore g f).lineKey = s.lineKey := rfl
@[simp] theorem State.updCore_frames (s : State) (g : RegionNo) (f : Core → Core) : (s.updCore g f).frames = s.frames := rfl
@[simp] theorem State.updCore_frameBy (s : State) (g : RegionNo) (f : Core → Core) : (s.updCore g f).frameBy = s.frameBy := rfl
@[simp] theorem State.updCore_keys (s : State) (g : RegionNo) (f : Core → Core) : (s.updCore g f).keys = s.keys := rfl
@[simp] theorem State.updCore_hostOwned (s : State) (g : RegionNo) (f : Core → Core) : (s.updCore g f).hostOwned = s.hostOwned := rfl
@[simp] theorem State.updCore_xfers (s : State) (g : RegionNo) (f : Core → Core) : (s.updCore g f).xfers = s.xfers := rfl
@[simp] theorem State.updCore_cxl (s : State) (g : RegionNo) (f : Core → Core) : (s.updCore g f).cxl = s.cxl := rfl
@[simp] theorem State.updCore_ctxs (s : State) (g : RegionNo) (f : Core → Core) : (s.updCore g f).ctxs = s.ctxs := rfl
@[simp] theorem State.updCore_gens (s : State) (g : RegionNo) (f : Core → Core) : (s.updCore g f).gens = s.gens := rfl
@[simp] theorem State.updCore_streams (s : State) (g : RegionNo) (f : Core → Core) : (s.updCore g f).streams = s.streams := rfl
@[simp] theorem State.updCore_drawers (s : State) (g : RegionNo) (f : Core → Core) : (s.updCore g f).drawers = s.drawers := rfl
@[simp] theorem State.updCore_slices (s : State) (g : RegionNo) (f : Core → Core) : (s.updCore g f).slices = s.slices := rfl
@[simp] theorem State.updCore_kernels (s : State) (g : RegionNo) (f : Core → Core) : (s.updCore g f).kernels = s.kernels := rfl
@[simp] theorem State.updCore_nextKernel (s : State) (g : RegionNo) (f : Core → Core) : (s.updCore g f).nextKernel = s.nextKernel := rfl
@[simp] theorem State.updCore_funcs (s : State) (g : RegionNo) (f : Core → Core) : (s.updCore g f).funcs = s.funcs := rfl
@[simp] theorem State.updCore_hcmds (s : State) (g : RegionNo) (f : Core → Core) : (s.updCore g f).hcmds = s.hcmds := rfl
@[simp] theorem State.updCore_journal (s : State) (g : RegionNo) (f : Core → Core) : (s.updCore g f).journal = s.journal := rfl
@[simp] theorem State.updCore_openf (s : State) (g : RegionNo) (f : Core → Core) : (s.updCore g f).openf = s.openf := rfl
@[simp] theorem State.updCore_records (s : State) (g : RegionNo) (f : Core → Core) : (s.updCore g f).records = s.records := rfl
@[simp] theorem State.updCore_ringWait (s : State) (g : RegionNo) (f : Core → Core) : (s.updCore g f).ringWait = s.ringWait := rfl
@[simp] theorem State.updCore_hangs (s : State) (g : RegionNo) (f : Core → Core) : (s.updCore g f).hangs = s.hangs := rfl
@[simp] theorem State.updCore_s2 (s : State) (g : RegionNo) (f : Core → Core) : (s.updCore g f).s2 = s.s2 := rfl
@[simp] theorem State.updCore_boot (s : State) (g : RegionNo) (f : Core → Core) : (s.updCore g f).boot = s.boot := rfl
@[simp] theorem State.updCore_flash (s : State) (g : RegionNo) (f : Core → Core) : (s.updCore g f).flash = s.flash := rfl
@[simp] theorem State.updCore_links (s : State) (g : RegionNo) (f : Core → Core) : (s.updCore g f).links = s.links := rfl
@[simp] theorem State.updCore_losses (s : State) (g : RegionNo) (f : Core → Core) : (s.updCore g f).losses = s.losses := rfl
@[simp] theorem State.updCore_errs (s : State) (g : RegionNo) (f : Core → Core) : (s.updCore g f).errs = s.errs := rfl
@[simp] theorem State.updCore_scrubbed (s : State) (g : RegionNo) (f : Core → Core) : (s.updCore g f).scrubbed = s.scrubbed := rfl
@[simp] theorem State.updCore_bad (s : State) (g : RegionNo) (f : Core → Core) : (s.updCore g f).bad = s.bad := rfl
@[simp] theorem State.updCore_arm (s : State) (g : RegionNo) (f : Core → Core) : (s.updCore g f).arm = s.arm := rfl
@[simp] theorem State.updCore_saves (s : State) (g : RegionNo) (f : Core → Core) : (s.updCore g f).saves = s.saves := rfl

/-! ## `updCell` -/

@[simp] theorem State.updCell_cur (s : State) (g : RegionNo) (c : CellNo) (f : Cell → Cell) : (s.updCell g c f).cur = s.cur := rfl
@[simp] theorem State.updCell_agenda (s : State) (g : RegionNo) (c : CellNo) (f : Cell → Cell) : (s.updCell g c f).agenda = s.agenda := rfl
@[simp] theorem State.updCell_tick (s : State) (g : RegionNo) (c : CellNo) (f : Cell → Cell) : (s.updCell g c f).tick = s.tick := rfl
@[simp] theorem State.updCell_freeCtr (s : State) (g : RegionNo) (c : CellNo) (f : Cell → Cell) : (s.updCell g c f).freeCtr = s.freeCtr := rfl
@[simp] theorem State.updCell_now (s : State) (g : RegionNo) (c : CellNo) (f : Cell → Cell) : (s.updCell g c f).now = s.now := rfl
@[simp] theorem State.updCell_mem (s : State) (g : RegionNo) (c : CellNo) (f : Cell → Cell) : (s.updCell g c f).mem = s.mem := rfl
@[simp] theorem State.updCell_banks (s : State) (g : RegionNo) (c : CellNo) (f : Cell → Cell) : (s.updCell g c f).banks = s.banks := rfl
@[simp] theorem State.updCell_lineKey (s : State) (g : RegionNo) (c : CellNo) (f : Cell → Cell) : (s.updCell g c f).lineKey = s.lineKey := rfl
@[simp] theorem State.updCell_frames (s : State) (g : RegionNo) (c : CellNo) (f : Cell → Cell) : (s.updCell g c f).frames = s.frames := rfl
@[simp] theorem State.updCell_frameBy (s : State) (g : RegionNo) (c : CellNo) (f : Cell → Cell) : (s.updCell g c f).frameBy = s.frameBy := rfl
@[simp] theorem State.updCell_keys (s : State) (g : RegionNo) (c : CellNo) (f : Cell → Cell) : (s.updCell g c f).keys = s.keys := rfl
@[simp] theorem State.updCell_hostOwned (s : State) (g : RegionNo) (c : CellNo) (f : Cell → Cell) : (s.updCell g c f).hostOwned = s.hostOwned := rfl
@[simp] theorem State.updCell_xfers (s : State) (g : RegionNo) (c : CellNo) (f : Cell → Cell) : (s.updCell g c f).xfers = s.xfers := rfl
@[simp] theorem State.updCell_cxl (s : State) (g : RegionNo) (c : CellNo) (f : Cell → Cell) : (s.updCell g c f).cxl = s.cxl := rfl
@[simp] theorem State.updCell_ctxs (s : State) (g : RegionNo) (c : CellNo) (f : Cell → Cell) : (s.updCell g c f).ctxs = s.ctxs := rfl
@[simp] theorem State.updCell_gens (s : State) (g : RegionNo) (c : CellNo) (f : Cell → Cell) : (s.updCell g c f).gens = s.gens := rfl
@[simp] theorem State.updCell_streams (s : State) (g : RegionNo) (c : CellNo) (f : Cell → Cell) : (s.updCell g c f).streams = s.streams := rfl
@[simp] theorem State.updCell_drawers (s : State) (g : RegionNo) (c : CellNo) (f : Cell → Cell) : (s.updCell g c f).drawers = s.drawers := rfl
@[simp] theorem State.updCell_slices (s : State) (g : RegionNo) (c : CellNo) (f : Cell → Cell) : (s.updCell g c f).slices = s.slices := rfl
@[simp] theorem State.updCell_kernels (s : State) (g : RegionNo) (c : CellNo) (f : Cell → Cell) : (s.updCell g c f).kernels = s.kernels := rfl
@[simp] theorem State.updCell_nextKernel (s : State) (g : RegionNo) (c : CellNo) (f : Cell → Cell) : (s.updCell g c f).nextKernel = s.nextKernel := rfl
@[simp] theorem State.updCell_funcs (s : State) (g : RegionNo) (c : CellNo) (f : Cell → Cell) : (s.updCell g c f).funcs = s.funcs := rfl
@[simp] theorem State.updCell_hcmds (s : State) (g : RegionNo) (c : CellNo) (f : Cell → Cell) : (s.updCell g c f).hcmds = s.hcmds := rfl
@[simp] theorem State.updCell_journal (s : State) (g : RegionNo) (c : CellNo) (f : Cell → Cell) : (s.updCell g c f).journal = s.journal := rfl
@[simp] theorem State.updCell_openf (s : State) (g : RegionNo) (c : CellNo) (f : Cell → Cell) : (s.updCell g c f).openf = s.openf := rfl
@[simp] theorem State.updCell_records (s : State) (g : RegionNo) (c : CellNo) (f : Cell → Cell) : (s.updCell g c f).records = s.records := rfl
@[simp] theorem State.updCell_ringWait (s : State) (g : RegionNo) (c : CellNo) (f : Cell → Cell) : (s.updCell g c f).ringWait = s.ringWait := rfl
@[simp] theorem State.updCell_hangs (s : State) (g : RegionNo) (c : CellNo) (f : Cell → Cell) : (s.updCell g c f).hangs = s.hangs := rfl
@[simp] theorem State.updCell_s2 (s : State) (g : RegionNo) (c : CellNo) (f : Cell → Cell) : (s.updCell g c f).s2 = s.s2 := rfl
@[simp] theorem State.updCell_boot (s : State) (g : RegionNo) (c : CellNo) (f : Cell → Cell) : (s.updCell g c f).boot = s.boot := rfl
@[simp] theorem State.updCell_flash (s : State) (g : RegionNo) (c : CellNo) (f : Cell → Cell) : (s.updCell g c f).flash = s.flash := rfl
@[simp] theorem State.updCell_links (s : State) (g : RegionNo) (c : CellNo) (f : Cell → Cell) : (s.updCell g c f).links = s.links := rfl
@[simp] theorem State.updCell_losses (s : State) (g : RegionNo) (c : CellNo) (f : Cell → Cell) : (s.updCell g c f).losses = s.losses := rfl
@[simp] theorem State.updCell_errs (s : State) (g : RegionNo) (c : CellNo) (f : Cell → Cell) : (s.updCell g c f).errs = s.errs := rfl
@[simp] theorem State.updCell_scrubbed (s : State) (g : RegionNo) (c : CellNo) (f : Cell → Cell) : (s.updCell g c f).scrubbed = s.scrubbed := rfl
@[simp] theorem State.updCell_bad (s : State) (g : RegionNo) (c : CellNo) (f : Cell → Cell) : (s.updCell g c f).bad = s.bad := rfl
@[simp] theorem State.updCell_arm (s : State) (g : RegionNo) (c : CellNo) (f : Cell → Cell) : (s.updCell g c f).arm = s.arm := rfl
@[simp] theorem State.updCell_saves (s : State) (g : RegionNo) (c : CellNo) (f : Cell → Cell) : (s.updCell g c f).saves = s.saves := rfl

/-! ## `updSlot` -/

@[simp] theorem State.updSlot_cur (s : State) (l : SlotLoc) (f : Slot → Slot) : (s.updSlot l f).cur = s.cur := rfl
@[simp] theorem State.updSlot_agenda (s : State) (l : SlotLoc) (f : Slot → Slot) : (s.updSlot l f).agenda = s.agenda := rfl
@[simp] theorem State.updSlot_tick (s : State) (l : SlotLoc) (f : Slot → Slot) : (s.updSlot l f).tick = s.tick := rfl
@[simp] theorem State.updSlot_freeCtr (s : State) (l : SlotLoc) (f : Slot → Slot) : (s.updSlot l f).freeCtr = s.freeCtr := rfl
@[simp] theorem State.updSlot_now (s : State) (l : SlotLoc) (f : Slot → Slot) : (s.updSlot l f).now = s.now := rfl
@[simp] theorem State.updSlot_mem (s : State) (l : SlotLoc) (f : Slot → Slot) : (s.updSlot l f).mem = s.mem := rfl
@[simp] theorem State.updSlot_banks (s : State) (l : SlotLoc) (f : Slot → Slot) : (s.updSlot l f).banks = s.banks := rfl
@[simp] theorem State.updSlot_lineKey (s : State) (l : SlotLoc) (f : Slot → Slot) : (s.updSlot l f).lineKey = s.lineKey := rfl
@[simp] theorem State.updSlot_frames (s : State) (l : SlotLoc) (f : Slot → Slot) : (s.updSlot l f).frames = s.frames := rfl
@[simp] theorem State.updSlot_frameBy (s : State) (l : SlotLoc) (f : Slot → Slot) : (s.updSlot l f).frameBy = s.frameBy := rfl
@[simp] theorem State.updSlot_keys (s : State) (l : SlotLoc) (f : Slot → Slot) : (s.updSlot l f).keys = s.keys := rfl
@[simp] theorem State.updSlot_hostOwned (s : State) (l : SlotLoc) (f : Slot → Slot) : (s.updSlot l f).hostOwned = s.hostOwned := rfl
@[simp] theorem State.updSlot_xfers (s : State) (l : SlotLoc) (f : Slot → Slot) : (s.updSlot l f).xfers = s.xfers := rfl
@[simp] theorem State.updSlot_cxl (s : State) (l : SlotLoc) (f : Slot → Slot) : (s.updSlot l f).cxl = s.cxl := rfl
@[simp] theorem State.updSlot_ctxs (s : State) (l : SlotLoc) (f : Slot → Slot) : (s.updSlot l f).ctxs = s.ctxs := rfl
@[simp] theorem State.updSlot_gens (s : State) (l : SlotLoc) (f : Slot → Slot) : (s.updSlot l f).gens = s.gens := rfl
@[simp] theorem State.updSlot_streams (s : State) (l : SlotLoc) (f : Slot → Slot) : (s.updSlot l f).streams = s.streams := rfl
@[simp] theorem State.updSlot_drawers (s : State) (l : SlotLoc) (f : Slot → Slot) : (s.updSlot l f).drawers = s.drawers := rfl
@[simp] theorem State.updSlot_slices (s : State) (l : SlotLoc) (f : Slot → Slot) : (s.updSlot l f).slices = s.slices := rfl
@[simp] theorem State.updSlot_kernels (s : State) (l : SlotLoc) (f : Slot → Slot) : (s.updSlot l f).kernels = s.kernels := rfl
@[simp] theorem State.updSlot_nextKernel (s : State) (l : SlotLoc) (f : Slot → Slot) : (s.updSlot l f).nextKernel = s.nextKernel := rfl
@[simp] theorem State.updSlot_funcs (s : State) (l : SlotLoc) (f : Slot → Slot) : (s.updSlot l f).funcs = s.funcs := rfl
@[simp] theorem State.updSlot_hcmds (s : State) (l : SlotLoc) (f : Slot → Slot) : (s.updSlot l f).hcmds = s.hcmds := rfl
@[simp] theorem State.updSlot_journal (s : State) (l : SlotLoc) (f : Slot → Slot) : (s.updSlot l f).journal = s.journal := rfl
@[simp] theorem State.updSlot_openf (s : State) (l : SlotLoc) (f : Slot → Slot) : (s.updSlot l f).openf = s.openf := rfl
@[simp] theorem State.updSlot_records (s : State) (l : SlotLoc) (f : Slot → Slot) : (s.updSlot l f).records = s.records := rfl
@[simp] theorem State.updSlot_ringWait (s : State) (l : SlotLoc) (f : Slot → Slot) : (s.updSlot l f).ringWait = s.ringWait := rfl
@[simp] theorem State.updSlot_hangs (s : State) (l : SlotLoc) (f : Slot → Slot) : (s.updSlot l f).hangs = s.hangs := rfl
@[simp] theorem State.updSlot_s2 (s : State) (l : SlotLoc) (f : Slot → Slot) : (s.updSlot l f).s2 = s.s2 := rfl
@[simp] theorem State.updSlot_boot (s : State) (l : SlotLoc) (f : Slot → Slot) : (s.updSlot l f).boot = s.boot := rfl
@[simp] theorem State.updSlot_flash (s : State) (l : SlotLoc) (f : Slot → Slot) : (s.updSlot l f).flash = s.flash := rfl
@[simp] theorem State.updSlot_links (s : State) (l : SlotLoc) (f : Slot → Slot) : (s.updSlot l f).links = s.links := rfl
@[simp] theorem State.updSlot_losses (s : State) (l : SlotLoc) (f : Slot → Slot) : (s.updSlot l f).losses = s.losses := rfl
@[simp] theorem State.updSlot_errs (s : State) (l : SlotLoc) (f : Slot → Slot) : (s.updSlot l f).errs = s.errs := rfl
@[simp] theorem State.updSlot_scrubbed (s : State) (l : SlotLoc) (f : Slot → Slot) : (s.updSlot l f).scrubbed = s.scrubbed := rfl
@[simp] theorem State.updSlot_bad (s : State) (l : SlotLoc) (f : Slot → Slot) : (s.updSlot l f).bad = s.bad := rfl
@[simp] theorem State.updSlot_arm (s : State) (l : SlotLoc) (f : Slot → Slot) : (s.updSlot l f).arm = s.arm := rfl
@[simp] theorem State.updSlot_saves (s : State) (l : SlotLoc) (f : Slot → Slot) : (s.updSlot l f).saves = s.saves := rfl

/-! ## `updThread` -/

@[simp] theorem State.updThread_cur (s : State) (g : RegionNo) (x : CtxNo) (f : Thread → Thread) : (s.updThread g x f).cur = s.cur := rfl
@[simp] theorem State.updThread_agenda (s : State) (g : RegionNo) (x : CtxNo) (f : Thread → Thread) : (s.updThread g x f).agenda = s.agenda := rfl
@[simp] theorem State.updThread_tick (s : State) (g : RegionNo) (x : CtxNo) (f : Thread → Thread) : (s.updThread g x f).tick = s.tick := rfl
@[simp] theorem State.updThread_freeCtr (s : State) (g : RegionNo) (x : CtxNo) (f : Thread → Thread) : (s.updThread g x f).freeCtr = s.freeCtr := rfl
@[simp] theorem State.updThread_now (s : State) (g : RegionNo) (x : CtxNo) (f : Thread → Thread) : (s.updThread g x f).now = s.now := rfl
@[simp] theorem State.updThread_mem (s : State) (g : RegionNo) (x : CtxNo) (f : Thread → Thread) : (s.updThread g x f).mem = s.mem := rfl
@[simp] theorem State.updThread_banks (s : State) (g : RegionNo) (x : CtxNo) (f : Thread → Thread) : (s.updThread g x f).banks = s.banks := rfl
@[simp] theorem State.updThread_lineKey (s : State) (g : RegionNo) (x : CtxNo) (f : Thread → Thread) : (s.updThread g x f).lineKey = s.lineKey := rfl
@[simp] theorem State.updThread_frames (s : State) (g : RegionNo) (x : CtxNo) (f : Thread → Thread) : (s.updThread g x f).frames = s.frames := rfl
@[simp] theorem State.updThread_frameBy (s : State) (g : RegionNo) (x : CtxNo) (f : Thread → Thread) : (s.updThread g x f).frameBy = s.frameBy := rfl
@[simp] theorem State.updThread_keys (s : State) (g : RegionNo) (x : CtxNo) (f : Thread → Thread) : (s.updThread g x f).keys = s.keys := rfl
@[simp] theorem State.updThread_hostOwned (s : State) (g : RegionNo) (x : CtxNo) (f : Thread → Thread) : (s.updThread g x f).hostOwned = s.hostOwned := rfl
@[simp] theorem State.updThread_xfers (s : State) (g : RegionNo) (x : CtxNo) (f : Thread → Thread) : (s.updThread g x f).xfers = s.xfers := rfl
@[simp] theorem State.updThread_cxl (s : State) (g : RegionNo) (x : CtxNo) (f : Thread → Thread) : (s.updThread g x f).cxl = s.cxl := rfl
@[simp] theorem State.updThread_ctxs (s : State) (g : RegionNo) (x : CtxNo) (f : Thread → Thread) : (s.updThread g x f).ctxs = s.ctxs := rfl
@[simp] theorem State.updThread_gens (s : State) (g : RegionNo) (x : CtxNo) (f : Thread → Thread) : (s.updThread g x f).gens = s.gens := rfl
@[simp] theorem State.updThread_streams (s : State) (g : RegionNo) (x : CtxNo) (f : Thread → Thread) : (s.updThread g x f).streams = s.streams := rfl
@[simp] theorem State.updThread_drawers (s : State) (g : RegionNo) (x : CtxNo) (f : Thread → Thread) : (s.updThread g x f).drawers = s.drawers := rfl
@[simp] theorem State.updThread_slices (s : State) (g : RegionNo) (x : CtxNo) (f : Thread → Thread) : (s.updThread g x f).slices = s.slices := rfl
@[simp] theorem State.updThread_kernels (s : State) (g : RegionNo) (x : CtxNo) (f : Thread → Thread) : (s.updThread g x f).kernels = s.kernels := rfl
@[simp] theorem State.updThread_nextKernel (s : State) (g : RegionNo) (x : CtxNo) (f : Thread → Thread) : (s.updThread g x f).nextKernel = s.nextKernel := rfl
@[simp] theorem State.updThread_funcs (s : State) (g : RegionNo) (x : CtxNo) (f : Thread → Thread) : (s.updThread g x f).funcs = s.funcs := rfl
@[simp] theorem State.updThread_hcmds (s : State) (g : RegionNo) (x : CtxNo) (f : Thread → Thread) : (s.updThread g x f).hcmds = s.hcmds := rfl
@[simp] theorem State.updThread_journal (s : State) (g : RegionNo) (x : CtxNo) (f : Thread → Thread) : (s.updThread g x f).journal = s.journal := rfl
@[simp] theorem State.updThread_openf (s : State) (g : RegionNo) (x : CtxNo) (f : Thread → Thread) : (s.updThread g x f).openf = s.openf := rfl
@[simp] theorem State.updThread_records (s : State) (g : RegionNo) (x : CtxNo) (f : Thread → Thread) : (s.updThread g x f).records = s.records := rfl
@[simp] theorem State.updThread_ringWait (s : State) (g : RegionNo) (x : CtxNo) (f : Thread → Thread) : (s.updThread g x f).ringWait = s.ringWait := rfl
@[simp] theorem State.updThread_hangs (s : State) (g : RegionNo) (x : CtxNo) (f : Thread → Thread) : (s.updThread g x f).hangs = s.hangs := rfl
@[simp] theorem State.updThread_s2 (s : State) (g : RegionNo) (x : CtxNo) (f : Thread → Thread) : (s.updThread g x f).s2 = s.s2 := rfl
@[simp] theorem State.updThread_boot (s : State) (g : RegionNo) (x : CtxNo) (f : Thread → Thread) : (s.updThread g x f).boot = s.boot := rfl
@[simp] theorem State.updThread_flash (s : State) (g : RegionNo) (x : CtxNo) (f : Thread → Thread) : (s.updThread g x f).flash = s.flash := rfl
@[simp] theorem State.updThread_links (s : State) (g : RegionNo) (x : CtxNo) (f : Thread → Thread) : (s.updThread g x f).links = s.links := rfl
@[simp] theorem State.updThread_losses (s : State) (g : RegionNo) (x : CtxNo) (f : Thread → Thread) : (s.updThread g x f).losses = s.losses := rfl
@[simp] theorem State.updThread_errs (s : State) (g : RegionNo) (x : CtxNo) (f : Thread → Thread) : (s.updThread g x f).errs = s.errs := rfl
@[simp] theorem State.updThread_scrubbed (s : State) (g : RegionNo) (x : CtxNo) (f : Thread → Thread) : (s.updThread g x f).scrubbed = s.scrubbed := rfl
@[simp] theorem State.updThread_bad (s : State) (g : RegionNo) (x : CtxNo) (f : Thread → Thread) : (s.updThread g x f).bad = s.bad := rfl
@[simp] theorem State.updThread_arm (s : State) (g : RegionNo) (x : CtxNo) (f : Thread → Thread) : (s.updThread g x f).arm = s.arm := rfl
@[simp] theorem State.updThread_saves (s : State) (g : RegionNo) (x : CtxNo) (f : Thread → Thread) : (s.updThread g x f).saves = s.saves := rfl

/-! ## `stamp` -/

@[simp] theorem State.stamp_cur (s : State) (g : RegionNo) : (s.stamp g).cur = s.cur := rfl
@[simp] theorem State.stamp_agenda (s : State) (g : RegionNo) : (s.stamp g).agenda = s.agenda := rfl
@[simp] theorem State.stamp_tick (s : State) (g : RegionNo) : (s.stamp g).tick = s.tick := rfl
@[simp] theorem State.stamp_freeCtr (s : State) (g : RegionNo) : (s.stamp g).freeCtr = s.freeCtr := rfl
@[simp] theorem State.stamp_now (s : State) (g : RegionNo) : (s.stamp g).now = s.now := rfl
@[simp] theorem State.stamp_mem (s : State) (g : RegionNo) : (s.stamp g).mem = s.mem := rfl
@[simp] theorem State.stamp_banks (s : State) (g : RegionNo) : (s.stamp g).banks = s.banks := rfl
@[simp] theorem State.stamp_lineKey (s : State) (g : RegionNo) : (s.stamp g).lineKey = s.lineKey := rfl
@[simp] theorem State.stamp_frames (s : State) (g : RegionNo) : (s.stamp g).frames = s.frames := rfl
@[simp] theorem State.stamp_frameBy (s : State) (g : RegionNo) : (s.stamp g).frameBy = s.frameBy := rfl
@[simp] theorem State.stamp_keys (s : State) (g : RegionNo) : (s.stamp g).keys = s.keys := rfl
@[simp] theorem State.stamp_hostOwned (s : State) (g : RegionNo) : (s.stamp g).hostOwned = s.hostOwned := rfl
@[simp] theorem State.stamp_xfers (s : State) (g : RegionNo) : (s.stamp g).xfers = s.xfers := rfl
@[simp] theorem State.stamp_cxl (s : State) (g : RegionNo) : (s.stamp g).cxl = s.cxl := rfl
@[simp] theorem State.stamp_ctxs (s : State) (g : RegionNo) : (s.stamp g).ctxs = s.ctxs := rfl
@[simp] theorem State.stamp_gens (s : State) (g : RegionNo) : (s.stamp g).gens = s.gens := rfl
@[simp] theorem State.stamp_streams (s : State) (g : RegionNo) : (s.stamp g).streams = s.streams := rfl
@[simp] theorem State.stamp_drawers (s : State) (g : RegionNo) : (s.stamp g).drawers = s.drawers := rfl
@[simp] theorem State.stamp_slices (s : State) (g : RegionNo) : (s.stamp g).slices = s.slices := rfl
@[simp] theorem State.stamp_kernels (s : State) (g : RegionNo) : (s.stamp g).kernels = s.kernels := rfl
@[simp] theorem State.stamp_nextKernel (s : State) (g : RegionNo) : (s.stamp g).nextKernel = s.nextKernel := rfl
@[simp] theorem State.stamp_funcs (s : State) (g : RegionNo) : (s.stamp g).funcs = s.funcs := rfl
@[simp] theorem State.stamp_hcmds (s : State) (g : RegionNo) : (s.stamp g).hcmds = s.hcmds := rfl
@[simp] theorem State.stamp_journal (s : State) (g : RegionNo) : (s.stamp g).journal = s.journal := rfl
@[simp] theorem State.stamp_openf (s : State) (g : RegionNo) : (s.stamp g).openf = s.openf := rfl
@[simp] theorem State.stamp_records (s : State) (g : RegionNo) : (s.stamp g).records = s.records := rfl
@[simp] theorem State.stamp_ringWait (s : State) (g : RegionNo) : (s.stamp g).ringWait = s.ringWait := rfl
@[simp] theorem State.stamp_hangs (s : State) (g : RegionNo) : (s.stamp g).hangs = s.hangs := rfl
@[simp] theorem State.stamp_s2 (s : State) (g : RegionNo) : (s.stamp g).s2 = s.s2 := rfl
@[simp] theorem State.stamp_boot (s : State) (g : RegionNo) : (s.stamp g).boot = s.boot := rfl
@[simp] theorem State.stamp_flash (s : State) (g : RegionNo) : (s.stamp g).flash = s.flash := rfl
@[simp] theorem State.stamp_links (s : State) (g : RegionNo) : (s.stamp g).links = s.links := rfl
@[simp] theorem State.stamp_losses (s : State) (g : RegionNo) : (s.stamp g).losses = s.losses := rfl
@[simp] theorem State.stamp_errs (s : State) (g : RegionNo) : (s.stamp g).errs = s.errs := rfl
@[simp] theorem State.stamp_scrubbed (s : State) (g : RegionNo) : (s.stamp g).scrubbed = s.scrubbed := rfl
@[simp] theorem State.stamp_bad (s : State) (g : RegionNo) : (s.stamp g).bad = s.bad := rfl
@[simp] theorem State.stamp_arm (s : State) (g : RegionNo) : (s.stamp g).arm = s.arm := rfl
@[simp] theorem State.stamp_saves (s : State) (g : RegionNo) : (s.stamp g).saves = s.saves := rfl

/-! ## `setGen` -/

@[simp] theorem State.setGen_cur (s : State) (g : RegionNo) (c : CellNo) (v : BitVec 16) : (s.setGen g c v).cur = s.cur := rfl
@[simp] theorem State.setGen_agenda (s : State) (g : RegionNo) (c : CellNo) (v : BitVec 16) : (s.setGen g c v).agenda = s.agenda := rfl
@[simp] theorem State.setGen_tick (s : State) (g : RegionNo) (c : CellNo) (v : BitVec 16) : (s.setGen g c v).tick = s.tick := rfl
@[simp] theorem State.setGen_freeCtr (s : State) (g : RegionNo) (c : CellNo) (v : BitVec 16) : (s.setGen g c v).freeCtr = s.freeCtr := rfl
@[simp] theorem State.setGen_now (s : State) (g : RegionNo) (c : CellNo) (v : BitVec 16) : (s.setGen g c v).now = s.now := rfl
@[simp] theorem State.setGen_mem (s : State) (g : RegionNo) (c : CellNo) (v : BitVec 16) : (s.setGen g c v).mem = s.mem := rfl
@[simp] theorem State.setGen_banks (s : State) (g : RegionNo) (c : CellNo) (v : BitVec 16) : (s.setGen g c v).banks = s.banks := rfl
@[simp] theorem State.setGen_lineKey (s : State) (g : RegionNo) (c : CellNo) (v : BitVec 16) : (s.setGen g c v).lineKey = s.lineKey := rfl
@[simp] theorem State.setGen_frames (s : State) (g : RegionNo) (c : CellNo) (v : BitVec 16) : (s.setGen g c v).frames = s.frames := rfl
@[simp] theorem State.setGen_frameBy (s : State) (g : RegionNo) (c : CellNo) (v : BitVec 16) : (s.setGen g c v).frameBy = s.frameBy := rfl
@[simp] theorem State.setGen_keys (s : State) (g : RegionNo) (c : CellNo) (v : BitVec 16) : (s.setGen g c v).keys = s.keys := rfl
@[simp] theorem State.setGen_hostOwned (s : State) (g : RegionNo) (c : CellNo) (v : BitVec 16) : (s.setGen g c v).hostOwned = s.hostOwned := rfl
@[simp] theorem State.setGen_xfers (s : State) (g : RegionNo) (c : CellNo) (v : BitVec 16) : (s.setGen g c v).xfers = s.xfers := rfl
@[simp] theorem State.setGen_cxl (s : State) (g : RegionNo) (c : CellNo) (v : BitVec 16) : (s.setGen g c v).cxl = s.cxl := rfl
@[simp] theorem State.setGen_ctxs (s : State) (g : RegionNo) (c : CellNo) (v : BitVec 16) : (s.setGen g c v).ctxs = s.ctxs := rfl
@[simp] theorem State.setGen_gens (s : State) (g : RegionNo) (c : CellNo) (v : BitVec 16) : (s.setGen g c v).gens = s.gens := rfl
@[simp] theorem State.setGen_streams (s : State) (g : RegionNo) (c : CellNo) (v : BitVec 16) : (s.setGen g c v).streams = s.streams := rfl
@[simp] theorem State.setGen_drawers (s : State) (g : RegionNo) (c : CellNo) (v : BitVec 16) : (s.setGen g c v).drawers = s.drawers := rfl
@[simp] theorem State.setGen_slices (s : State) (g : RegionNo) (c : CellNo) (v : BitVec 16) : (s.setGen g c v).slices = s.slices := rfl
@[simp] theorem State.setGen_kernels (s : State) (g : RegionNo) (c : CellNo) (v : BitVec 16) : (s.setGen g c v).kernels = s.kernels := rfl
@[simp] theorem State.setGen_nextKernel (s : State) (g : RegionNo) (c : CellNo) (v : BitVec 16) : (s.setGen g c v).nextKernel = s.nextKernel := rfl
@[simp] theorem State.setGen_funcs (s : State) (g : RegionNo) (c : CellNo) (v : BitVec 16) : (s.setGen g c v).funcs = s.funcs := rfl
@[simp] theorem State.setGen_hcmds (s : State) (g : RegionNo) (c : CellNo) (v : BitVec 16) : (s.setGen g c v).hcmds = s.hcmds := rfl
@[simp] theorem State.setGen_journal (s : State) (g : RegionNo) (c : CellNo) (v : BitVec 16) : (s.setGen g c v).journal = s.journal := rfl
@[simp] theorem State.setGen_openf (s : State) (g : RegionNo) (c : CellNo) (v : BitVec 16) : (s.setGen g c v).openf = s.openf := rfl
@[simp] theorem State.setGen_records (s : State) (g : RegionNo) (c : CellNo) (v : BitVec 16) : (s.setGen g c v).records = s.records := rfl
@[simp] theorem State.setGen_ringWait (s : State) (g : RegionNo) (c : CellNo) (v : BitVec 16) : (s.setGen g c v).ringWait = s.ringWait := rfl
@[simp] theorem State.setGen_hangs (s : State) (g : RegionNo) (c : CellNo) (v : BitVec 16) : (s.setGen g c v).hangs = s.hangs := rfl
@[simp] theorem State.setGen_s2 (s : State) (g : RegionNo) (c : CellNo) (v : BitVec 16) : (s.setGen g c v).s2 = s.s2 := rfl
@[simp] theorem State.setGen_boot (s : State) (g : RegionNo) (c : CellNo) (v : BitVec 16) : (s.setGen g c v).boot = s.boot := rfl
@[simp] theorem State.setGen_flash (s : State) (g : RegionNo) (c : CellNo) (v : BitVec 16) : (s.setGen g c v).flash = s.flash := rfl
@[simp] theorem State.setGen_links (s : State) (g : RegionNo) (c : CellNo) (v : BitVec 16) : (s.setGen g c v).links = s.links := rfl
@[simp] theorem State.setGen_losses (s : State) (g : RegionNo) (c : CellNo) (v : BitVec 16) : (s.setGen g c v).losses = s.losses := rfl
@[simp] theorem State.setGen_errs (s : State) (g : RegionNo) (c : CellNo) (v : BitVec 16) : (s.setGen g c v).errs = s.errs := rfl
@[simp] theorem State.setGen_scrubbed (s : State) (g : RegionNo) (c : CellNo) (v : BitVec 16) : (s.setGen g c v).scrubbed = s.scrubbed := rfl
@[simp] theorem State.setGen_bad (s : State) (g : RegionNo) (c : CellNo) (v : BitVec 16) : (s.setGen g c v).bad = s.bad := rfl
@[simp] theorem State.setGen_arm (s : State) (g : RegionNo) (c : CellNo) (v : BitVec 16) : (s.setGen g c v).arm = s.arm := rfl
@[simp] theorem State.setGen_saves (s : State) (g : RegionNo) (c : CellNo) (v : BitVec 16) : (s.setGen g c v).saves = s.saves := rfl

/-! ## `report` -/

@[simp] theorem State.report_cur (s : State) (g : RegionNo) (r : Report) : (s.report g r).cur = s.cur := rfl
@[simp] theorem State.report_agenda (s : State) (g : RegionNo) (r : Report) : (s.report g r).agenda = s.agenda := rfl
@[simp] theorem State.report_tick (s : State) (g : RegionNo) (r : Report) : (s.report g r).tick = s.tick := rfl
@[simp] theorem State.report_freeCtr (s : State) (g : RegionNo) (r : Report) : (s.report g r).freeCtr = s.freeCtr := rfl
@[simp] theorem State.report_now (s : State) (g : RegionNo) (r : Report) : (s.report g r).now = s.now := rfl
@[simp] theorem State.report_mem (s : State) (g : RegionNo) (r : Report) : (s.report g r).mem = s.mem := rfl
@[simp] theorem State.report_banks (s : State) (g : RegionNo) (r : Report) : (s.report g r).banks = s.banks := rfl
@[simp] theorem State.report_lineKey (s : State) (g : RegionNo) (r : Report) : (s.report g r).lineKey = s.lineKey := rfl
@[simp] theorem State.report_frames (s : State) (g : RegionNo) (r : Report) : (s.report g r).frames = s.frames := rfl
@[simp] theorem State.report_frameBy (s : State) (g : RegionNo) (r : Report) : (s.report g r).frameBy = s.frameBy := rfl
@[simp] theorem State.report_keys (s : State) (g : RegionNo) (r : Report) : (s.report g r).keys = s.keys := rfl
@[simp] theorem State.report_hostOwned (s : State) (g : RegionNo) (r : Report) : (s.report g r).hostOwned = s.hostOwned := rfl
@[simp] theorem State.report_xfers (s : State) (g : RegionNo) (r : Report) : (s.report g r).xfers = s.xfers := rfl
@[simp] theorem State.report_cxl (s : State) (g : RegionNo) (r : Report) : (s.report g r).cxl = s.cxl := rfl
@[simp] theorem State.report_ctxs (s : State) (g : RegionNo) (r : Report) : (s.report g r).ctxs = s.ctxs := rfl
@[simp] theorem State.report_gens (s : State) (g : RegionNo) (r : Report) : (s.report g r).gens = s.gens := rfl
@[simp] theorem State.report_streams (s : State) (g : RegionNo) (r : Report) : (s.report g r).streams = s.streams := rfl
@[simp] theorem State.report_drawers (s : State) (g : RegionNo) (r : Report) : (s.report g r).drawers = s.drawers := rfl
@[simp] theorem State.report_slices (s : State) (g : RegionNo) (r : Report) : (s.report g r).slices = s.slices := rfl
@[simp] theorem State.report_kernels (s : State) (g : RegionNo) (r : Report) : (s.report g r).kernels = s.kernels := rfl
@[simp] theorem State.report_nextKernel (s : State) (g : RegionNo) (r : Report) : (s.report g r).nextKernel = s.nextKernel := rfl
@[simp] theorem State.report_funcs (s : State) (g : RegionNo) (r : Report) : (s.report g r).funcs = s.funcs := rfl
@[simp] theorem State.report_hcmds (s : State) (g : RegionNo) (r : Report) : (s.report g r).hcmds = s.hcmds := rfl
@[simp] theorem State.report_journal (s : State) (g : RegionNo) (r : Report) : (s.report g r).journal = s.journal := rfl
@[simp] theorem State.report_openf (s : State) (g : RegionNo) (r : Report) : (s.report g r).openf = s.openf := rfl
@[simp] theorem State.report_records (s : State) (g : RegionNo) (r : Report) : (s.report g r).records = s.records := rfl
@[simp] theorem State.report_ringWait (s : State) (g : RegionNo) (r : Report) : (s.report g r).ringWait = s.ringWait := rfl
@[simp] theorem State.report_hangs (s : State) (g : RegionNo) (r : Report) : (s.report g r).hangs = s.hangs := rfl
@[simp] theorem State.report_s2 (s : State) (g : RegionNo) (r : Report) : (s.report g r).s2 = s.s2 := rfl
@[simp] theorem State.report_boot (s : State) (g : RegionNo) (r : Report) : (s.report g r).boot = s.boot := rfl
@[simp] theorem State.report_flash (s : State) (g : RegionNo) (r : Report) : (s.report g r).flash = s.flash := rfl
@[simp] theorem State.report_links (s : State) (g : RegionNo) (r : Report) : (s.report g r).links = s.links := rfl
@[simp] theorem State.report_losses (s : State) (g : RegionNo) (r : Report) : (s.report g r).losses = s.losses := rfl
@[simp] theorem State.report_errs (s : State) (g : RegionNo) (r : Report) : (s.report g r).errs = s.errs := rfl
@[simp] theorem State.report_scrubbed (s : State) (g : RegionNo) (r : Report) : (s.report g r).scrubbed = s.scrubbed := rfl
@[simp] theorem State.report_bad (s : State) (g : RegionNo) (r : Report) : (s.report g r).bad = s.bad := rfl
@[simp] theorem State.report_arm (s : State) (g : RegionNo) (r : Report) : (s.report g r).arm = s.arm := rfl
@[simp] theorem State.report_saves (s : State) (g : RegionNo) (r : Report) : (s.report g r).saves = s.saves := rfl

/-! ## `record` -/

@[simp] theorem State.record_cur (s : State) (r : Report) : (s.record r).cur = s.cur := rfl
@[simp] theorem State.record_agenda (s : State) (r : Report) : (s.record r).agenda = s.agenda := rfl
@[simp] theorem State.record_tick (s : State) (r : Report) : (s.record r).tick = s.tick := rfl
@[simp] theorem State.record_freeCtr (s : State) (r : Report) : (s.record r).freeCtr = s.freeCtr := rfl
@[simp] theorem State.record_now (s : State) (r : Report) : (s.record r).now = s.now := rfl
@[simp] theorem State.record_regions (s : State) (r : Report) : (s.record r).regions = s.regions := rfl
@[simp] theorem State.record_mem (s : State) (r : Report) : (s.record r).mem = s.mem := rfl
@[simp] theorem State.record_banks (s : State) (r : Report) : (s.record r).banks = s.banks := rfl
@[simp] theorem State.record_lineKey (s : State) (r : Report) : (s.record r).lineKey = s.lineKey := rfl
@[simp] theorem State.record_frames (s : State) (r : Report) : (s.record r).frames = s.frames := rfl
@[simp] theorem State.record_frameBy (s : State) (r : Report) : (s.record r).frameBy = s.frameBy := rfl
@[simp] theorem State.record_keys (s : State) (r : Report) : (s.record r).keys = s.keys := rfl
@[simp] theorem State.record_hostOwned (s : State) (r : Report) : (s.record r).hostOwned = s.hostOwned := rfl
@[simp] theorem State.record_xfers (s : State) (r : Report) : (s.record r).xfers = s.xfers := rfl
@[simp] theorem State.record_cxl (s : State) (r : Report) : (s.record r).cxl = s.cxl := rfl
@[simp] theorem State.record_ctxs (s : State) (r : Report) : (s.record r).ctxs = s.ctxs := rfl
@[simp] theorem State.record_gens (s : State) (r : Report) : (s.record r).gens = s.gens := rfl
@[simp] theorem State.record_streams (s : State) (r : Report) : (s.record r).streams = s.streams := rfl
@[simp] theorem State.record_drawers (s : State) (r : Report) : (s.record r).drawers = s.drawers := rfl
@[simp] theorem State.record_slices (s : State) (r : Report) : (s.record r).slices = s.slices := rfl
@[simp] theorem State.record_kernels (s : State) (r : Report) : (s.record r).kernels = s.kernels := rfl
@[simp] theorem State.record_nextKernel (s : State) (r : Report) : (s.record r).nextKernel = s.nextKernel := rfl
@[simp] theorem State.record_funcs (s : State) (r : Report) : (s.record r).funcs = s.funcs := rfl
@[simp] theorem State.record_hcmds (s : State) (r : Report) : (s.record r).hcmds = s.hcmds := rfl
@[simp] theorem State.record_journal (s : State) (r : Report) : (s.record r).journal = s.journal := rfl
@[simp] theorem State.record_openf (s : State) (r : Report) : (s.record r).openf = s.openf := rfl
@[simp] theorem State.record_ringWait (s : State) (r : Report) : (s.record r).ringWait = s.ringWait := rfl
@[simp] theorem State.record_hangs (s : State) (r : Report) : (s.record r).hangs = s.hangs := rfl
@[simp] theorem State.record_s2 (s : State) (r : Report) : (s.record r).s2 = s.s2 := rfl
@[simp] theorem State.record_boot (s : State) (r : Report) : (s.record r).boot = s.boot := rfl
@[simp] theorem State.record_flash (s : State) (r : Report) : (s.record r).flash = s.flash := rfl
@[simp] theorem State.record_links (s : State) (r : Report) : (s.record r).links = s.links := rfl
@[simp] theorem State.record_losses (s : State) (r : Report) : (s.record r).losses = s.losses := rfl
@[simp] theorem State.record_errs (s : State) (r : Report) : (s.record r).errs = s.errs := rfl
@[simp] theorem State.record_scrubbed (s : State) (r : Report) : (s.record r).scrubbed = s.scrubbed := rfl
@[simp] theorem State.record_bad (s : State) (r : Report) : (s.record r).bad = s.bad := rfl
@[simp] theorem State.record_arm (s : State) (r : Report) : (s.record r).arm = s.arm := rfl
@[simp] theorem State.record_saves (s : State) (r : Report) : (s.record r).saves = s.saves := rfl

/-! ## `dropStale` -/

@[simp] theorem State.dropStale_cur (s : State) : (s.dropStale).cur = s.cur := rfl
@[simp] theorem State.dropStale_agenda (s : State) : (s.dropStale).agenda = s.agenda := rfl
@[simp] theorem State.dropStale_tick (s : State) : (s.dropStale).tick = s.tick := rfl
@[simp] theorem State.dropStale_freeCtr (s : State) : (s.dropStale).freeCtr = s.freeCtr := rfl
@[simp] theorem State.dropStale_now (s : State) : (s.dropStale).now = s.now := rfl
@[simp] theorem State.dropStale_regions (s : State) : (s.dropStale).regions = s.regions := rfl
@[simp] theorem State.dropStale_mem (s : State) : (s.dropStale).mem = s.mem := rfl
@[simp] theorem State.dropStale_banks (s : State) : (s.dropStale).banks = s.banks := rfl
@[simp] theorem State.dropStale_lineKey (s : State) : (s.dropStale).lineKey = s.lineKey := rfl
@[simp] theorem State.dropStale_frames (s : State) : (s.dropStale).frames = s.frames := rfl
@[simp] theorem State.dropStale_frameBy (s : State) : (s.dropStale).frameBy = s.frameBy := rfl
@[simp] theorem State.dropStale_keys (s : State) : (s.dropStale).keys = s.keys := rfl
@[simp] theorem State.dropStale_hostOwned (s : State) : (s.dropStale).hostOwned = s.hostOwned := rfl
@[simp] theorem State.dropStale_xfers (s : State) : (s.dropStale).xfers = s.xfers := rfl
@[simp] theorem State.dropStale_cxl (s : State) : (s.dropStale).cxl = s.cxl := rfl
@[simp] theorem State.dropStale_ctxs (s : State) : (s.dropStale).ctxs = s.ctxs := rfl
@[simp] theorem State.dropStale_gens (s : State) : (s.dropStale).gens = s.gens := rfl
@[simp] theorem State.dropStale_streams (s : State) : (s.dropStale).streams = s.streams := rfl
@[simp] theorem State.dropStale_drawers (s : State) : (s.dropStale).drawers = s.drawers := rfl
@[simp] theorem State.dropStale_slices (s : State) : (s.dropStale).slices = s.slices := rfl
@[simp] theorem State.dropStale_kernels (s : State) : (s.dropStale).kernels = s.kernels := rfl
@[simp] theorem State.dropStale_nextKernel (s : State) : (s.dropStale).nextKernel = s.nextKernel := rfl
@[simp] theorem State.dropStale_funcs (s : State) : (s.dropStale).funcs = s.funcs := rfl
@[simp] theorem State.dropStale_hcmds (s : State) : (s.dropStale).hcmds = s.hcmds := rfl
@[simp] theorem State.dropStale_journal (s : State) : (s.dropStale).journal = s.journal := rfl
@[simp] theorem State.dropStale_openf (s : State) : (s.dropStale).openf = s.openf := rfl
@[simp] theorem State.dropStale_records (s : State) : (s.dropStale).records = s.records := rfl
@[simp] theorem State.dropStale_ringWait (s : State) : (s.dropStale).ringWait = s.ringWait := rfl
@[simp] theorem State.dropStale_hangs (s : State) : (s.dropStale).hangs = s.hangs := rfl
@[simp] theorem State.dropStale_s2 (s : State) : (s.dropStale).s2 = s.s2 := rfl
@[simp] theorem State.dropStale_flash (s : State) : (s.dropStale).flash = s.flash := rfl
@[simp] theorem State.dropStale_links (s : State) : (s.dropStale).links = s.links := rfl
@[simp] theorem State.dropStale_losses (s : State) : (s.dropStale).losses = s.losses := rfl
@[simp] theorem State.dropStale_errs (s : State) : (s.dropStale).errs = s.errs := rfl
@[simp] theorem State.dropStale_scrubbed (s : State) : (s.dropStale).scrubbed = s.scrubbed := rfl
@[simp] theorem State.dropStale_bad (s : State) : (s.dropStale).bad = s.bad := rfl
@[simp] theorem State.dropStale_arm (s : State) : (s.dropStale).arm = s.arm := rfl
@[simp] theorem State.dropStale_saves (s : State) : (s.dropStale).saves = s.saves := rfl

/-! ## `updTh` -/

@[simp] theorem State.updTh_cur (s : State) (w : Who) (f : Thread → Thread) : (s.updTh w f).cur = s.cur := by cases w <;> rfl
@[simp] theorem State.updTh_agenda (s : State) (w : Who) (f : Thread → Thread) : (s.updTh w f).agenda = s.agenda := by cases w <;> rfl
@[simp] theorem State.updTh_tick (s : State) (w : Who) (f : Thread → Thread) : (s.updTh w f).tick = s.tick := by cases w <;> rfl
@[simp] theorem State.updTh_freeCtr (s : State) (w : Who) (f : Thread → Thread) : (s.updTh w f).freeCtr = s.freeCtr := by cases w <;> rfl
@[simp] theorem State.updTh_now (s : State) (w : Who) (f : Thread → Thread) : (s.updTh w f).now = s.now := by cases w <;> rfl
@[simp] theorem State.updTh_mem (s : State) (w : Who) (f : Thread → Thread) : (s.updTh w f).mem = s.mem := by cases w <;> rfl
@[simp] theorem State.updTh_banks (s : State) (w : Who) (f : Thread → Thread) : (s.updTh w f).banks = s.banks := by cases w <;> rfl
@[simp] theorem State.updTh_lineKey (s : State) (w : Who) (f : Thread → Thread) : (s.updTh w f).lineKey = s.lineKey := by cases w <;> rfl
@[simp] theorem State.updTh_frames (s : State) (w : Who) (f : Thread → Thread) : (s.updTh w f).frames = s.frames := by cases w <;> rfl
@[simp] theorem State.updTh_frameBy (s : State) (w : Who) (f : Thread → Thread) : (s.updTh w f).frameBy = s.frameBy := by cases w <;> rfl
@[simp] theorem State.updTh_keys (s : State) (w : Who) (f : Thread → Thread) : (s.updTh w f).keys = s.keys := by cases w <;> rfl
@[simp] theorem State.updTh_hostOwned (s : State) (w : Who) (f : Thread → Thread) : (s.updTh w f).hostOwned = s.hostOwned := by cases w <;> rfl
@[simp] theorem State.updTh_xfers (s : State) (w : Who) (f : Thread → Thread) : (s.updTh w f).xfers = s.xfers := by cases w <;> rfl
@[simp] theorem State.updTh_cxl (s : State) (w : Who) (f : Thread → Thread) : (s.updTh w f).cxl = s.cxl := by cases w <;> rfl
@[simp] theorem State.updTh_ctxs (s : State) (w : Who) (f : Thread → Thread) : (s.updTh w f).ctxs = s.ctxs := by cases w <;> rfl
@[simp] theorem State.updTh_gens (s : State) (w : Who) (f : Thread → Thread) : (s.updTh w f).gens = s.gens := by cases w <;> rfl
@[simp] theorem State.updTh_streams (s : State) (w : Who) (f : Thread → Thread) : (s.updTh w f).streams = s.streams := by cases w <;> rfl
@[simp] theorem State.updTh_drawers (s : State) (w : Who) (f : Thread → Thread) : (s.updTh w f).drawers = s.drawers := by cases w <;> rfl
@[simp] theorem State.updTh_slices (s : State) (w : Who) (f : Thread → Thread) : (s.updTh w f).slices = s.slices := by cases w <;> rfl
@[simp] theorem State.updTh_kernels (s : State) (w : Who) (f : Thread → Thread) : (s.updTh w f).kernels = s.kernels := by cases w <;> rfl
@[simp] theorem State.updTh_nextKernel (s : State) (w : Who) (f : Thread → Thread) : (s.updTh w f).nextKernel = s.nextKernel := by cases w <;> rfl
@[simp] theorem State.updTh_funcs (s : State) (w : Who) (f : Thread → Thread) : (s.updTh w f).funcs = s.funcs := by cases w <;> rfl
@[simp] theorem State.updTh_hcmds (s : State) (w : Who) (f : Thread → Thread) : (s.updTh w f).hcmds = s.hcmds := by cases w <;> rfl
@[simp] theorem State.updTh_journal (s : State) (w : Who) (f : Thread → Thread) : (s.updTh w f).journal = s.journal := by cases w <;> rfl
@[simp] theorem State.updTh_openf (s : State) (w : Who) (f : Thread → Thread) : (s.updTh w f).openf = s.openf := by cases w <;> rfl
@[simp] theorem State.updTh_records (s : State) (w : Who) (f : Thread → Thread) : (s.updTh w f).records = s.records := by cases w <;> rfl
@[simp] theorem State.updTh_ringWait (s : State) (w : Who) (f : Thread → Thread) : (s.updTh w f).ringWait = s.ringWait := by cases w <;> rfl
@[simp] theorem State.updTh_hangs (s : State) (w : Who) (f : Thread → Thread) : (s.updTh w f).hangs = s.hangs := by cases w <;> rfl
@[simp] theorem State.updTh_s2 (s : State) (w : Who) (f : Thread → Thread) : (s.updTh w f).s2 = s.s2 := by cases w <;> rfl
@[simp] theorem State.updTh_boot (s : State) (w : Who) (f : Thread → Thread) : (s.updTh w f).boot = s.boot := by cases w <;> rfl
@[simp] theorem State.updTh_flash (s : State) (w : Who) (f : Thread → Thread) : (s.updTh w f).flash = s.flash := by cases w <;> rfl
@[simp] theorem State.updTh_links (s : State) (w : Who) (f : Thread → Thread) : (s.updTh w f).links = s.links := by cases w <;> rfl
@[simp] theorem State.updTh_losses (s : State) (w : Who) (f : Thread → Thread) : (s.updTh w f).losses = s.losses := by cases w <;> rfl
@[simp] theorem State.updTh_errs (s : State) (w : Who) (f : Thread → Thread) : (s.updTh w f).errs = s.errs := by cases w <;> rfl
@[simp] theorem State.updTh_scrubbed (s : State) (w : Who) (f : Thread → Thread) : (s.updTh w f).scrubbed = s.scrubbed := by cases w <;> rfl
@[simp] theorem State.updTh_bad (s : State) (w : Who) (f : Thread → Thread) : (s.updTh w f).bad = s.bad := by cases w <;> rfl
@[simp] theorem State.updTh_arm (s : State) (w : Who) (f : Thread → Thread) : (s.updTh w f).arm = s.arm := by cases w <;> rfl
@[simp] theorem State.updTh_saves (s : State) (w : Who) (f : Thread → Thread) : (s.updTh w f).saves = s.saves := by cases w <;> rfl

/-! ## Regions, cells, threads and slots read back -/

theorem RegionNo.toNat_ne {g h : RegionNo} (e : h ≠ g) : h.toNat ≠ g.toNat := fun k => e (BitVec.eq_of_toNat_eq k)

@[simp] theorem State.reg_setReg_self (s : State) (g : RegionNo) (r : Region) : (s.setReg g r).reg g = r := by
  simp [State.reg, State.setReg]

@[simp] theorem State.reg_setReg_ne (s : State) (g h : RegionNo) (r : Region) (e : h ≠ g) : (s.setReg g r).reg h = s.reg h := by
  simp [State.reg, State.setReg, RegionNo.toNat_ne e]

@[simp] theorem State.setReg_setReg (s : State) (g : RegionNo) (r r' : Region) : (s.setReg g r).setReg g r' = s.setReg g r' := by
  simp [State.setReg]

@[simp] theorem State.core_setReg_self (s : State) (g : RegionNo) (r : Region) : (s.setReg g r).core g = r.core := by
  simp [State.core]

@[simp] theorem State.reg_updCore_self (s : State) (g : RegionNo) (f : Core → Core) :
    (s.updCore g f).reg g = { s.reg g with core := f (s.core g) } := by simp [State.updCore]

@[simp] theorem State.reg_updCore_ne (s : State) (g h : RegionNo) (f : Core → Core) (e : h ≠ g) :
    (s.updCore g f).reg h = s.reg h := by simp [State.updCore, e]

@[simp] theorem State.core_updCore_self (s : State) (g : RegionNo) (f : Core → Core) : (s.updCore g f).core g = f (s.core g) := by
  simp [State.core]

@[simp] theorem State.core_updCore_ne (s : State) (g h : RegionNo) (f : Core → Core) (e : h ≠ g) :
    (s.updCore g f).core h = s.core h := by simp [State.core, e]

@[simp] theorem State.cell_updCell_self (s : State) (g : RegionNo) (c : CellNo) (f : Cell → Cell) :
    (s.updCell g c f).cell g c = f (s.cell g c) := by simp [State.cell, State.updCell]

@[simp] theorem State.slotAt_updSlot_self (s : State) (l : SlotLoc) (f : Slot → Slot) :
    (s.updSlot l f).slotAt l = f (s.slotAt l) := by simp [State.slotAt, State.updSlot]

@[simp] theorem State.thread_updThread_self (s : State) (g : RegionNo) (x : CtxNo) (f : Thread → Thread) :
    (s.updThread g x f).thread g x = f (s.thread g x) := by simp [State.thread, State.updThread]

@[simp] theorem State.thread_updThread_ne (s : State) (g : RegionNo) (x y : CtxNo) (f : Thread → Thread) (e : y ≠ x) :
    (s.updThread g x f).thread g y = s.thread g y := by
  have : y.toNat ≠ x.toNat := fun k => e (BitVec.eq_of_toNat_eq k)
  simp [State.thread, State.updThread, this]

@[simp] theorem State.th_updTh_self (s : State) (w : Who) (f : Thread → Thread) : (s.updTh w f).th w = f (s.th w) := by
  cases w <;> simp [State.th, State.updTh]

/-- The other fields of the resident part when a thread changes. -/
theorem State.core_updThread (s : State) (g : RegionNo) (x : CtxNo) (f : Thread → Thread) :
    (s.updThread g x f).core g = { s.core g with threads := Tab.upd (s.core g).threads x.toNat f } := by
  simp [State.updThread]

/-! ## Registers of a thread -/

@[simp] theorem Thread.rg_zero (t : Thread) : t.rg 0 = 0 := rfl

@[simp] theorem Thread.wg_zero (t : Thread) (v : W64) : t.wg 0 v = t := rfl

@[simp] theorem Thread.rg_wg_self (t : Thread) (n : BitVec 5) (v : W64) (h : n ≠ 0#5) : (t.wg n v).rg n = v := by
  simp [Thread.rg, Thread.wg, h]

@[simp] theorem Thread.rg_wg_ne (t : Thread) (n m : BitVec 5) (v : W64) (h : m ≠ n) : (t.wg n v).rg m = t.rg m := by
  have : m.toNat ≠ n.toNat := fun k => h (BitVec.eq_of_toNat_eq k)
  by_cases h0 : n = 0#5
  · simp [Thread.wg, h0]
  · simp [Thread.rg, Thread.wg, h0, this]

@[simp] theorem Thread.wg_pc (t : Thread) (n : BitVec 5) (v : W64) : (t.wg n v).pc = t.pc := by unfold Thread.wg; split <;> rfl
@[simp] theorem Thread.wg_c (t : Thread) (n : BitVec 5) (v : W64) : (t.wg n v).c = t.c := by unfold Thread.wg; split <;> rfl
@[simp] theorem Thread.wg_k (t : Thread) (n : BitVec 5) (v : W64) : (t.wg n v).k = t.k := by unfold Thread.wg; split <;> rfl
@[simp] theorem Thread.wg_bd (t : Thread) (n : BitVec 5) (v : W64) : (t.wg n v).bd = t.bd := by unfold Thread.wg; split <;> rfl
@[simp] theorem Thread.wg_ports (t : Thread) (n : BitVec 5) (v : W64) : (t.wg n v).ports = t.ports := by
  unfold Thread.wg; split <;> rfl
@[simp] theorem Thread.wg_tr (t : Thread) (n : BitVec 5) (v : W64) : (t.wg n v).tr = t.tr := by unfold Thread.wg; split <;> rfl
@[simp] theorem Thread.wg_en (t : Thread) (n : BitVec 5) (v : W64) : (t.wg n v).en = t.en := by unfold Thread.wg; split <;> rfl
@[simp] theorem Thread.wg_vec (t : Thread) (n : BitVec 5) (v : W64) : (t.wg n v).vec = t.vec := by unfold Thread.wg; split <;> rfl
@[simp] theorem Thread.wg_lepc (t : Thread) (n : BitVec 5) (v : W64) : (t.wg n v).lepc = t.lepc := by unfold Thread.wg; split <;> rfl
@[simp] theorem Thread.wg_lcause (t : Thread) (n : BitVec 5) (v : W64) : (t.wg n v).lcause = t.lcause := by
  unfold Thread.wg; split <;> rfl
@[simp] theorem Thread.wg_lval (t : Thread) (n : BitVec 5) (v : W64) : (t.wg n v).lval = t.lval := by unfold Thread.wg; split <;> rfl
@[simp] theorem Thread.wg_ceil (t : Thread) (n : BitVec 5) (v : W64) : (t.wg n v).ceil = t.ceil := by unfold Thread.wg; split <;> rfl
@[simp] theorem Thread.wg_prio (t : Thread) (n : BitVec 5) (v : W64) : (t.wg n v).prio = t.prio := by unfold Thread.wg; split <;> rfl
@[simp] theorem Thread.wg_quant (t : Thread) (n : BitVec 5) (v : W64) : (t.wg n v).quant = t.quant := by unfold Thread.wg; split <;> rfl
@[simp] theorem Thread.wg_prog (t : Thread) (n : BitVec 5) (v : W64) : (t.wg n v).prog = t.prog := by unfold Thread.wg; split <;> rfl
@[simp] theorem Thread.wg_live (t : Thread) (n : BitVec 5) (v : W64) : (t.wg n v).live = t.live := by unfold Thread.wg; split <;> rfl


end Sys2Proof.Machine
end

