-- ==== Sys2Proof/Laws/Cell.lean ====
section
/-!
SUPPORT. A firing of a cell, said once: what it answers when its operands are present and accepted, when a token is not, and everything
it can answer (01 R36, 03 R104, 04 R107, R108).
-/

namespace Sys2Proof.Machine
open SlotWord

@[simp] theorem State.slotAgent_slot {s : State} {l : SlotLoc} (h : s.cur = .slot l) : s.slotAgent = some l := by
  simp [State.slotAgent, h]

/-- An operand that is a token of FORM 3. -/
def Opnd.sparse (o : Opnd) : Bool := match o.tok with
  | some t => t.form == .sparse
  | none => false

/-- The TAG of the first token of FORM 3. -/
def tagOf (os : List Opnd) : Option (BitVec 16) := os.findSome? (fun o => match o.tok with
  | some t => if t.form == .sparse then some t.tag else none
  | none => none)

/-- A value with the TAG that a token of FORM 3 hands on. -/
def FireOut.tagged (o : FireOut) (os : List Opnd) : FireOut := match tagOf os with
  | some g => { o with form := .sparse, tag := g }
  | none => o

/-- Whether a firing is one of a vector. -/
def vecFiring (vector : Bool) (w : SlotWord) (os : List Opnd) : Bool := vector || w.ty.toNat == 14 || os.any (fun o => o.vec)

/-- A firing whose operands are present and accepted forms its value. -/
theorem State.fire_fires {s s1 : State} {l : SlotLoc} {op : BitVec 9} {w : SlotWord} {forms : List TokForm} {vector : Bool}
    {effect : FireIn → State → Option (FireOut × State)} {os : List Opnd} {o : FireOut} (h1 : s.cur = .slot l)
    (h2 : s.slotFree l w = true) (h3 : s.mayFire l (SlotRules.positions op w) = true)
    (h4 : s.sources l w.ty.toNat w ([w.sa, w.sb] ++ (if SlotRules.third op then [w.fn] else [])) = some os)
    (h5 : os.all (accepts w.ty.toNat forms) = true) (h6 : os.any Opnd.sparse = true → vecFiring vector w os = false)
    (h7 : effect ⟨l, w, w.ty.toNat, os, vecFiring vector w os⟩ s = some (o, s1)) :
    s.fire op w forms vector effect = .next ((s1.pullAll l (SlotRules.positions op w)).launchFlight l w (o.tagged os)
      ((o.tagged os).token l.ctx (s.roundOf l (SlotRules.positions op w)) (andP os))) := by
  have h8 : (os.any Opnd.sparse && vecFiring vector w os) = false := by
    cases h : os.any Opnd.sparse with
    | false => rfl
    | true => simp [h6 h]
  unfold State.fire
  simp only [State.slotAgent_slot h1, h2, h3, h4, h5]
  change (if (!true || !true) = true then _ else if (!true || (os.any Opnd.sparse && vecFiring vector w os)) = true then _ else
    match effect ⟨l, w, w.ty.toNat, os, vecFiring vector w os⟩ s with
    | none => _
    | some (o, s1) => _) = _
  rw [h7, h8]
  rfl

/-- A token that the instruction does not take ends the firing. -/
theorem State.fire_faults {s : State} {l : SlotLoc} {op : BitVec 9} {w : SlotWord} {forms : List TokForm} {vector : Bool}
    {effect : FireIn → State → Option (FireOut × State)} {os : List Opnd} (h1 : s.cur = .slot l) (h2 : s.slotFree l w = true)
    (h3 : s.mayFire l (SlotRules.positions op w) = true)
    (h4 : s.sources l w.ty.toNat w ([w.sa, w.sb] ++ (if SlotRules.third op then [w.fn] else [])) = some os)
    (h5 : os.all (accepts w.ty.toNat forms) = false ∨ (os.any Opnd.sparse = true ∧ vecFiring vector w os = true)) :
    s.fire op w forms vector effect = .next (s.fireFault l (SlotRules.positions op w) Cause.illegal 0 false) := by
  have h8 : (!os.all (accepts w.ty.toNat forms) || (os.any Opnd.sparse && vecFiring vector w os)) = true := by
    rcases h5 with h | ⟨h, h'⟩ <;> simp [*]
  unfold State.fire
  simp only [State.slotAgent_slot h1, h2, h3, h4]
  change (if (!true || !true) = true then _ else
    if (!os.all (accepts w.ty.toNat forms) || (os.any Opnd.sparse && vecFiring vector w os)) = true then _ else _) = _
  rw [h8]
  rfl

/-- Everything a firing can answer: nothing has changed, a fault of the cell, or one value formed. -/
theorem State.fire_inv {s t : State} {op : BitVec 9} {w : SlotWord} {forms : List TokForm} {vector : Bool}
    {effect : FireIn → State → Option (FireOut × State)} (h : s.fire op w forms vector effect = .next t) :
    t = s ∨ ∃ l ps, s.slotAgent = some l ∧ (t = s.fireFault l ps Cause.illegal 0 false
      ∨ ∃ f o s1 tok o', effect f s = some (o, s1) ∧ f.l = l ∧ t = (s1.pullAll l ps).launchFlight l w o' tok) := by
  unfold State.fire at h
  split at h
  · cases h
  · next l hl =>
    dsimp only at h
    split at h
    · left; cases h; rfl
    · split at h
      · left; cases h; rfl
      · right
        refine ⟨l, SlotRules.positions op w, hl, ?_⟩
        split at h
        · left; cases h; rfl
        · split at h
          · left; cases h; rfl
          · next o s1 he =>
            right
            cases h
            exact ⟨_, o, s1, _, _, he, rfl, rfl⟩

/-- A firing never stops the machine. -/
theorem State.fire_next {s : State} {l : SlotLoc} (h : s.cur = .slot l) (op : BitVec 9) (w : SlotWord) (forms : List TokForm)
    (vector : Bool) (effect : FireIn → State → Option (FireOut × State)) : ∃ t, s.fire op w forms vector effect = .next t := by
  unfold State.fire
  rw [State.slotAgent_slot h]
  dsimp only
  split
  · exact ⟨_, rfl⟩
  · split
    · exact ⟨_, rfl⟩
    · split
      · exact ⟨_, rfl⟩
      · split <;> exact ⟨_, rfl⟩

/-- A firing that starts an access, its operands present and accepted, with the access it builds. -/
theorem State.fireAcc_starts {s : State} {l : SlotLoc} {op : BitVec 9} {w : SlotWord} {wr : Bool} {room : SlotLoc → Bool}
    {build : SlotLoc → Grant → Opnd → Opnd → Except MemErr Acc} {a b : Opnd} {acc : Acc} (h1 : s.cur = .slot l)
    (h2 : s.slotFree l w = true) (h3 : s.mayFire l (SlotRules.positions op w) = true) (h4 : room l = true)
    (h5 : s.source l w.ty.toNat w w.sa = some a) (h6 : s.source l w.ty.toNat w w.sb = some b) (h7 : memToken a = true)
    (h8 : memToken b = true) (h9 : build l (s.grant l.g l.ctx) a b = .ok acc) :
    s.fireAcc op w wr room build = .next ((s.pullAll l (SlotRules.positions op w)).startAcc l w { acc with wr := wr }
      (s.roundOf l (SlotRules.positions op w)) (andP [a, b])) := by
  unfold State.fireAcc
  simp only [State.slotAgent_slot h1, h2, h3, h4, h5, h6, h7, h8, h9]
  rfl

/-- Such a firing whose address or data is refused. -/
theorem State.fireAcc_fails {s : State} {l : SlotLoc} {op : BitVec 9} {w : SlotWord} {wr : Bool} {room : SlotLoc → Bool}
    {build : SlotLoc → Grant → Opnd → Opnd → Except MemErr Acc} {a b : Opnd} {c : Byte} {va : Nat} (h1 : s.cur = .slot l)
    (h2 : s.slotFree l w = true) (h3 : s.mayFire l (SlotRules.positions op w) = true) (h4 : room l = true)
    (h5 : s.source l w.ty.toNat w w.sa = some a) (h6 : s.source l w.ty.toNat w w.sb = some b) (h7 : memToken a = true)
    (h8 : memToken b = true) (h9 : build l (s.grant l.g l.ctx) a b = .error (c, va)) :
    s.fireAcc op w wr room build = .next (s.fireFault l (SlotRules.positions op w) c va wr) := by
  unfold State.fireAcc
  simp only [State.slotAgent_slot h1, h2, h3, h4, h5, h6, h7, h8, h9]
  rfl

/-- Such a firing never stops the machine. -/
theorem State.fireAcc_next {s : State} {l : SlotLoc} (h : s.cur = .slot l) (op : BitVec 9) (w : SlotWord) (wr : Bool)
    (room : SlotLoc → Bool) (build : SlotLoc → Grant → Opnd → Opnd → Except MemErr Acc) :
    ∃ t, s.fireAcc op w wr room build = .next t := by
  unfold State.fireAcc
  rw [State.slotAgent_slot h]
  dsimp only
  split
  · exact ⟨_, rfl⟩
  · split
    · split
      · exact ⟨_, rfl⟩
      · split <;> exact ⟨_, rfl⟩
    · exact ⟨_, rfl⟩

/-- A memory firing never stops the machine. -/
theorem State.fireMem_next {s : State} {l : SlotLoc} (h : s.cur = .slot l) (op : BitVec 9) (w : SlotWord) (wr : Bool)
    (build : SlotLoc → Grant → Opnd → Opnd → Except MemErr Acc) : ∃ t, s.fireMem op w wr build = .next t :=
  State.fireAcc_next h op w wr s.memRoom build

end Sys2Proof.Machine
end

