-- ==== Sys2Proof/Laws/Encode.lean ====
section
/-!
SUPPORT. Each field of an encoded word is the operand it was made from, and bytes and numbers agree (03 R78, R87, R92; 16 R301).
-/

namespace Sys2Proof

/-! ## Bytes and numbers -/

@[simp] theorem length_natToBytes (n v : Nat) : (natToBytes n v).length = n := by
  induction n generalizing v with
  | zero => rfl
  | succ n ih => simp [natToBytes, ih]

theorem bytesToNat_natToBytes (n v : Nat) (h : v < 256 ^ n) : bytesToNat (natToBytes n v) = v := by
  induction n generalizing v with
  | zero => simp at h; simp [natToBytes, bytesToNat, h]
  | succ n ih =>
    have : v / 256 < 256 ^ n := by rw [Nat.pow_succ] at h; omega
    simp only [natToBytes, bytesToNat, ih _ this, BitVec.toNat_ofNat]
    omega

theorem natToBytes_bytesToNat (bs : List Byte) : natToBytes bs.length (bytesToNat bs) = bs := by
  induction bs with
  | nil => rfl
  | cons b bs ih =>
    have hb := b.isLt
    have h1 : (b.toNat + 256 * bytesToNat bs) / 256 = bytesToNat bs := by omega
    have h2 : BitVec.ofNat 8 (b.toNat + 256 * bytesToNat bs) = b := by
      apply BitVec.eq_of_toNat_eq
      simp only [BitVec.toNat_ofNat]
      omega
    simp only [List.length_cons, natToBytes, bytesToNat, h1, h2, ih]

/-! ## Fields of joined words -/

/-- A field that lies in the low part. -/
theorem fld_append_low {m k : Nat} (a : BitVec m) (b : BitVec k) (lo n : Nat) (h : lo + n ≤ k) : fld (a ++ b) lo n = fld b lo n := by
  apply BitVec.eq_of_getLsbD_eq
  intro i hi
  have h1 : lo + i < k := by omega
  simp [BitVec.getLsbD_append, hi, h1]

/-- A field that lies in the high part. -/
theorem fld_append_high {m k : Nat} (a : BitVec m) (b : BitVec k) (lo n : Nat) (h : k ≤ lo) :
    fld (a ++ b) lo n = fld a (lo - k) n := by
  apply BitVec.eq_of_getLsbD_eq
  intro i hi
  have h1 : ¬ lo + i < k := by omega
  have h2 : lo + i - k = lo - k + i := by omega
  simp [BitVec.getLsbD_append, hi, h1, h2]

/-- The field that is the whole. -/
@[simp] theorem fld_whole {n : Nat} (x : BitVec n) : fld x 0 n = x := by
  apply BitVec.eq_of_getLsbD_eq
  intro i hi
  simp [hi]

/-- One bit, as a field of one bit. -/
theorem bit_fld {m : Nat} (w : BitVec m) (i : Nat) : w.getLsbD i = (fld w i 1).getLsbD 0 := by simp

/-! ## The fields of each kind of word -/

theorem fld_encodeSlot_op (op : BitVec 9) (w : SlotWord) : fld (encodeSlot op w) 55 9 = op := by
  unfold encodeSlot
  simp (disch := omega) only [fld_append_high, Nat.reduceSub]
  simp

theorem slotFields_encodeSlot (op : BitVec 9) (w : SlotWord) : slotFields (encodeSlot op w) = w := by
  obtain ⟨ty, sa, sb, ix, t0, t1, m⟩ := w
  simp only [slotFields, encodeSlot, SlotWord.mk.injEq]
  rw [bit_fld]
  simp (disch := omega) only [fld_append_low, fld_append_high, Nat.reduceSub]
  simp

theorem encodeSlot_ne_zero {op : BitVec 9} (h : op ≠ 0) (w : SlotWord) : encodeSlot op w ≠ 0 := by
  intro e
  have := fld_encodeSlot_op op w
  rw [e] at this
  exact h (by rw [← this]; decide)

theorem fld_pack_code (code : BitVec 8) (c : Frame) : fld (FrameRules.pack code c) 120 8 = code := by
  unfold FrameRules.pack
  simp (disch := omega) only [fld_append_high, Nat.reduceSub]
  simp

theorem frameFields_pack (code : BitVec 8) (c : Frame) : frameFields (FrameRules.pack code c) = c := by
  obtain ⟨ord, ken, ksel, cf, handle, w2, w1, w0⟩ := c
  simp only [frameFields, FrameRules.pack, Frame.mk.injEq]
  rw [bit_fld _ 119, bit_fld _ 118]
  simp (disch := omega) only [fld_append_low, fld_append_high, Nat.reduceSub]
  simp

theorem fld_encodeHost_opc (opc : BitVec 8) (e : HostEntry) : fld (encodeHost opc e) 0 8 = opc := by
  unfold encodeHost
  rw [fld_append_low _ _ _ _ (by decide)]
  exact fld_whole _

theorem hostFields_encodeHost (opc : BitVec 8) (e : HostEntry) : hostFields (encodeHost opc e) = e := by
  obtain ⟨flags, cid, rsvd, o0, o1, o2, o3, o4, o5, o6⟩ := e
  simp only [hostFields, encodeHost, HostEntry.mk.injEq]
  simp (disch := omega) only [fld_append_low, fld_append_high, Nat.reduceSub]
  simp

section
variable (fn op : Nat) (d a b g : BitVec 5) (imm : BitVec 16) (c : BitVec 3) (p x : BitVec 4) (i10 : BitVec 10)

theorem fld_wordA : fld (wordA fn d a b) 26 6 = 0#6 ∧ fld (wordA fn d a b) 21 5 = d ∧ fld (wordA fn d a b) 16 5 = a
    ∧ fld (wordA fn d a b) 11 5 = b ∧ fld (wordA fn d a b) 0 11 = BitVec.ofNat 11 fn := by
  unfold wordA
  simp (disch := omega) only [fld_append_low, fld_append_high, Nat.reduceSub]
  simp

theorem fld_wordI : fld (wordI op d a imm) 26 6 = BitVec.ofNat 6 op ∧ fld (wordI op d a imm) 21 5 = d
    ∧ fld (wordI op d a imm) 16 5 = a ∧ fld (wordI op d a imm) 0 16 = imm := by
  unfold wordI
  simp (disch := omega) only [fld_append_low, fld_append_high, Nat.reduceSub]
  simp

/-- The six-bit count of a shift word and the ten zeros above it. -/
theorem fld_wordI_shift (n : BitVec 6) :
    fld (wordI op d a ((0#10) ++ n)) 0 6 = n ∧ fld (wordI op d a ((0#10) ++ n)) 6 10 = 0#10 := by
  unfold wordI
  simp (disch := omega) only [fld_append_low, fld_append_high, Nat.reduceSub]
  simp

theorem fld_wordC : fld (wordC fn c g p i10) 26 6 = 0x20#6 ∧ fld (wordC fn c g p i10) 22 4 = BitVec.ofNat 4 fn
    ∧ fld (wordC fn c g p i10) 19 3 = c ∧ fld (wordC fn c g p i10) 14 5 = g ∧ fld (wordC fn c g p i10) 10 4 = p
    ∧ fld (wordC fn c g p i10) 0 10 = i10 := by
  unfold wordC
  simp (disch := omega) only [fld_append_low, fld_append_high, Nat.reduceSub]
  simp

theorem fld_wordW : fld (wordW op fn x c g i10) 26 6 = BitVec.ofNat 6 op ∧ fld (wordW op fn x c g i10) 22 4 = BitVec.ofNat 4 fn
    ∧ fld (wordW op fn x c g i10) 18 4 = x ∧ fld (wordW op fn x c g i10) 15 3 = c ∧ fld (wordW op fn x c g i10) 10 5 = g
    ∧ fld (wordW op fn x c g i10) 0 10 = i10 := by
  unfold wordW
  simp (disch := omega) only [fld_append_low, fld_append_high, Nat.reduceSub]
  simp

theorem fld_jal (off : BitVec 26) : fld ((0x1E#6) ++ off) 26 6 = 0x1E#6 ∧ fld ((0x1E#6) ++ off) 0 26 = off := by
  simp (disch := omega) only [fld_append_low, fld_append_high, Nat.reduceSub]
  simp

/-- The part of a command register, named in ten bits. -/
theorem fld_part (q : BitVec 3) : fld ((0#7) ++ q) 3 7 = 0#7 ∧ fld ((0#7) ++ q) 0 3 = q := by
  simp (disch := omega) only [fld_append_low, fld_append_high, Nat.reduceSub]
  simp

/-- The NB bit of a `cwait`. -/
theorem fld_nb (nb : Bool) : fld ((0#9) ++ BitVec.ofBool nb) 1 9 = 0#9 ∧ ((0#9) ++ BitVec.ofBool nb).getLsbD 0 = nb := by
  rw [bit_fld]
  simp (disch := omega) only [fld_append_low, fld_append_high, Nat.reduceSub]
  simp

end

/-! ## Words to bytes and back -/

/-- A word written as bytes is decoded as the word. -/
theorem decodeTableWord_bytes (k : Nat) (w : BitVec (8 * k)) :
    decodeTableWord (8 * (natToBytes k w.toNat).length) (bytesToNat (natToBytes k w.toNat)) = decodeTableWord (8 * k) w.toNat := by
  have hw : w.toNat < 256 ^ k := by
    have h := w.isLt
    rw [Nat.pow_mul] at h
    exact h
  rw [length_natToBytes, bytesToNat_natToBytes _ _ hw]

theorem decodeTableWord_lectern {w : W32} {i : Instr} (h : decodeLectern w = .ok i) : decodeTableWord 32 w.toNat = some i := by
  simp [decodeTableWord, h]

theorem decodeTableWord_slot {op : BitVec 9} {w : SlotWord} {i : Instr} (h0 : op ≠ 0) (h : slotOf op w = some i) :
    decodeTableWord 64 (encodeSlot op w).toNat = some i := by
  have hz : (encodeSlot op w == 0) = false := by simpa using encodeSlot_ne_zero h0 w
  have h1 : decodeSlot (encodeSlot op w) = .ok i := by
    unfold decodeSlot
    rw [hz, fld_encodeSlot_op, slotFields_encodeSlot, h]
    rfl
  simp [decodeTableWord, h1]

theorem decodeTableWord_frame {code : BitVec 8} {c : Frame} {i : Instr} (h : frameOf code c = some i) :
    decodeTableWord 128 (FrameRules.pack code c).toNat = some i := by
  have h1 : decodeFrame (FrameRules.pack code c) = .ok i := by
    unfold decodeFrame
    rw [fld_pack_code, frameFields_pack, h]
  simp [decodeTableWord, h1]

/-- The two halves of a number of 512 bits make it. -/
theorem word512_eq (w : Nat) : word512 w = BitVec.ofNat 512 w := by
  apply BitVec.eq_of_toNat_eq
  simp only [word512, BitVec.toNat_append, BitVec.toNat_ofNat, Nat.shiftRight_eq_div_pow]
  rw [← Nat.shiftLeft_add_eq_or_of_lt (Nat.mod_lt _ (by decide)), Nat.shiftLeft_eq]
  have h : (2 : Nat) ^ 512 = 2 ^ 256 * 2 ^ 256 := by rw [← Nat.pow_add]
  rw [h, Nat.mod_mul, Nat.mul_comm, Nat.add_comm]

theorem decodeTableWord_host {opc : BitVec 8} {e : HostEntry} {i : Instr} (h : hostOf opc e = some i) :
    decodeTableWord 512 (encodeHost opc e).toNat = some i := by
  have h1 : decodeHost (encodeHost opc e) = .ok i := by
    unfold decodeHost
    rw [fld_encodeHost_opc, hostFields_encodeHost, h]
  simp [decodeTableWord, word512_eq, h1]

end Sys2Proof
end

