-- ==== Sys2Proof/Laws/Engine.lean ====
section
/-! SUPPORT. What a stage of a command reads and writes once every access of it has performed (09 R229, R230; log 6). -/

set_option autoImplicit false

namespace Sys2Proof.Machine

/-- The lines of a range stand at its address or above. -/
theorem linesOf_addr_le (wr : Option (List Byte)) (f a n : Nat) (e : EAcc) (h : e ∈ linesOf wr f a n) : a ≤ e.addr := by
  induction f generalizing wr a n with
  | zero => simp [linesOf] at h
  | succ f ih =>
    simp only [linesOf] at h
    split at h
    · simp at h
    · rcases List.mem_cons.1 h with rfl | h
      · exact Nat.le_refl _
      · exact Nat.le_trans (Nat.le_add_right _ _) (ih _ _ _ h)

/-- An entry of a queue that holds the accesses of a range is found under the access. -/
theorem find_linesOf (wr : Option (List Byte)) (f a n : Nat) (got : EAcc → Option (List Byte)) (pre : List EAcc)
    (hp : ∀ q ∈ pre, q.addr < a) (e : EAcc) (h : e ∈ linesOf wr f a n) :
    (pre ++ (linesOf wr f a n).map (fun e : EAcc => { e with got := got e })).find? e.same = some { e with got := got e } := by
  have same_addr : ∀ q : EAcc, e.same q = true → q.addr = e.addr := by
    intro q hq; simp only [EAcc.same, Bool.and_eq_true, beq_iff_eq] at hq; exact hq.1.1.2.symm
  induction f generalizing wr a n pre with
  | zero => simp [linesOf] at h
  | succ f ih =>
    simp only [linesOf] at h ⊢
    split at h
    · simp at h
    · next hn =>
      rw [if_neg hn]
      have hpre : ∀ q ∈ pre, ¬ e.same q = true := fun q hq hs => by
        have := same_addr q hs
        have := hp q hq
        rcases List.mem_cons.1 h with rfl | h
        · simp_all
        · have := linesOf_addr_le _ _ _ _ _ h; omega
      rcases List.mem_cons.1 h with rfl | h
      · rw [List.find?_append, List.find?_eq_none.2 hpre]
        simp [EAcc.same]
      · have hk : 0 < min n (128 - a % 128) := by simp at hn; omega
        have := ih (wr.map (·.drop (min n (128 - a % 128)))) (a + min n (128 - a % 128)) (n - min n (128 - a % 128))
          (pre ++ [{ addr := a, n := min n (128 - a % 128), wr := wr.map (·.take (min n (128 - a % 128))),
                     got := got { addr := a, n := min n (128 - a % 128), wr := wr.map (·.take (min n (128 - a % 128))) } }])
          (by intro q hq; rcases List.mem_append.1 hq with hq | hq
              · have := hp q hq; omega
              · simp at hq; subst hq; simp; omega) h
        simpa using this

theorem flatMap_congr_mem {α β : Type} {l : List α} {f h : α → List β} (e : ∀ x ∈ l, f x = h x) : l.flatMap f = l.flatMap h := by
  induction l with
  | nil => rfl
  | cons x l ih => simp [e x (by simp), ih (fun y hy => e y (by simp [hy]))]

/-- The issue queue of a command whose accesses of a range have performed. -/
def performedLines (es : List EAcc) (got : EAcc → List Byte) : List EAcc := es.map (fun e => { e with got := some (got e) })

theorem did_performedLines (p : Prog) (wr : Option (List Byte)) (f a n : Nat) (got : EAcc → List Byte)
    (hio : p.io = performedLines (linesOf wr f a n) got) (e : EAcc) (h : e ∈ linesOf wr f a n) :
    p.find e = some { e with got := some (got e) } ∧ p.did e = true := by
  have : p.find e = some { e with got := some (got e) } := by
    simp only [Prog.find, hio, performedLines]
    simpa using find_linesOf wr f a n (fun e => some (got e)) [] (by simp) e h
  exact ⟨this, by simp [Prog.did, this]⟩

/-- Once every access of a part has performed, the part answers what they read. -/
theorem ioAll_performed (s : State) (g : RegionNo) (id : Nat) (start : State → EAcc → State × Except Stop EAcc)
    (wr : Option (List Byte)) (f a n : Nat) (got : EAcc → List Byte)
    (hio : (s.cmd g id).prog.io = performedLines (linesOf wr f a n) got) :
    s.ioAll g id start (linesOf wr f a n) = (s, .ok ((linesOf wr f a n).flatMap got)) := by
  have hd := did_performedLines (s.cmd g id).prog wr f a n got hio
  have hf : (linesOf wr f a n).filter (fun e => !(s.cmd g id).prog.did e) = [] := by
    rw [List.filter_eq_nil_iff]; intro e he; simp [(hd e he).2]
  simp only [State.ioAll, hf]
  congr 2
  exact flatMap_congr_mem (fun e he => by simp [(hd e he).1])

/-- A read whose accesses have performed answers what they read. -/
theorem eRead_performed (s : State) (g : RegionNo) (id : Nat) (c : Cmd) (a n : Nat) (got : EAcc → List Byte)
    (hio : (s.cmd g id).prog.io = performedLines (readLines a n) got) : s.eRead g id c a n = (s, .ok ((readLines a n).flatMap got)) :=
  ioAll_performed s g id _ none _ a n got hio

/-- A write whose accesses have performed is done. -/
theorem eWrite_performed (s : State) (g : RegionNo) (id : Nat) (c : Cmd) (a : Nat) (bs : List Byte) (got : EAcc → List Byte)
    (hio : (s.cmd g id).prog.io = performedLines (writeLines a bs) got) : s.eWrite g id c a bs = (s, .ok ()) := by
  simp only [State.eWrite, writeLines] at *
  rw [ioAll_performed s g id _ (some bs) _ a bs.length got hio]

/-- The parts of bytes that lines of a range cover, one after another, are the bytes. -/
theorem flatMap_lines (bs : List Byte) (a : Nat) (f b n : Nat) (hab : a ≤ b) (hf : n ≤ 128 * f - b % 128) :
    (linesOf none f b n).flatMap (fun e => (bs.drop (e.addr - a)).take e.n) = (bs.drop (b - a)).take n := by
  induction f generalizing b n with
  | zero => have : n = 0 := by omega
            simp [linesOf, this]
  | succ f ih =>
    simp only [linesOf]
    split
    · next h => simp at h; simp [h]
    · next h =>
      simp only [Option.map_none, List.flatMap_cons]
      generalize hk : min n (128 - b % 128) = k
      have hn : 0 < n := by simp at h; omega
      rw [ih (b + k) (n - k) (by omega) (by omega), Nat.sub_add_comm hab, ← List.drop_drop, ← List.take_add]
      congr 1; omega

/-- A read whose accesses have read the bytes answers them. -/
theorem eRead_bytes (s : State) (g : RegionNo) (id : Nat) (c : Cmd) (a : Nat) (bs : List Byte)
    (hio : (s.cmd g id).prog.io = performedLines (readLines a bs.length) (fun e => (bs.drop (e.addr - a)).take e.n)) :
    s.eRead g id c a bs.length = (s, .ok bs) := by
  rw [eRead_performed s g id c a bs.length _ hio, readLines, flatMap_lines bs a _ a _ (Nat.le_refl _) (by omega)]
  simp

/-! ## Images (16 R320) -/

theorem length_bigEndian (n v : Nat) : (Sha.bigEndian n v).length = n := by
  induction n with
  | zero => rfl
  | succ n ih => simp [Sha.bigEndian, ih]

theorem length_foldl_round (l h : List W32) (e : h.length = 8) : (l.foldl Sha.round h).length = 8 := by
  induction l generalizing h with
  | nil => exact e
  | cons x l ih => exact ih _ rfl

theorem length_blocks (n : Nat) (bs : List Byte) (h : List W32) (e : h.length = 8) : (Sha.blocks n bs h).length = 8 := by
  induction n generalizing bs h with
  | zero => exact e
  | succ n ih =>
    rw [Sha.blocks]
    exact ih _ _ (by simp [e, length_foldl_round])

/-- A SHA-256 has 32 bytes. -/
theorem length_sha256 (bs : List Byte) : (Sha.sha256 bs).length = 32 := by
  simp [Sha.sha256, length_bigEndian, length_blocks _ _ _ (by simp [Sha.h256, Sha.primes] : Sha.h256.length = 8)]

/-- The header of an image has 256 bytes, so what `ctxsave` writes is an image (16 R320). -/
theorem isImage_imageWith (img : List Byte) (kreg : Nat) (rest : List Byte) (h : 64 ≤ img.length) :
    isImage img kreg (imageWith img kreg rest) = true := by
  have hl : (natToBytes 4 0x49544348).length = 4 := rfl
  have : (imageWith img kreg rest).drop 256 = rest := by
    rw [imageWith]
    exact List.drop_left' (by
      simp only [List.length_append, List.length_map, List.length_cons, List.length_nil, List.length_replicate, List.length_take,
        List.length_drop, length_sha256, hl]
      omega)
  rw [isImage, this, beq_self_eq_true]

end Sys2Proof.Machine
end

