-- ==== Sys2Proof/Laws/Exec.lean ====
section
/-!
SUPPORT. Which meaning each arm of exec calls, one lemma an instruction, so that no proof unfolds exec.
-/

namespace Sys2Proof.Machine

variable (s : State)

@[simp] theorem exec_cpy (w : SlotWord) : exec (.cpy w) s = execCpy w s := rfl
@[simp] theorem exec_sink (w : SlotWord) : exec (.sink w) s = execSink w s := rfl
@[simp] theorem exec_gate (w : SlotWord) : exec (.gate w) s = execGate w s := rfl
@[simp] theorem exec_steer (w : SlotWord) : exec (.steer w) s = execSteer w s := rfl
@[simp] theorem exec_merge (w : SlotWord) : exec (.merge w) s = execMerge w s := rfl
@[simp] theorem exec_const (w : SlotWord) : exec (.const w) s = execConst w s := rfl
@[simp] theorem exec_iter (w : SlotWord) : exec (.iter w) s = execIter w s := rfl
@[simp] theorem exec_tid (w : SlotWord) : exec (.tid w) s = execTid w s := rfl
@[simp] theorem exec_iadd (w : SlotWord) : exec (.iadd w) s = execIadd w s := rfl
@[simp] theorem exec_isub (w : SlotWord) : exec (.isub w) s = execIsub w s := rfl
@[simp] theorem exec_imul (w : SlotWord) : exec (.imul w) s = execImul w s := rfl
@[simp] theorem exec_imulh (w : SlotWord) : exec (.imulh w) s = execImulh w s := rfl
@[simp] theorem exec_imad (w : SlotWord) : exec (.imad w) s = execImad w s := rfl
@[simp] theorem exec_idiv (w : SlotWord) : exec (.idiv w) s = execIdiv w s := rfl
@[simp] theorem exec_irem (w : SlotWord) : exec (.irem w) s = execIrem w s := rfl
@[simp] theorem exec_ineg (w : SlotWord) : exec (.ineg w) s = execIneg w s := rfl
@[simp] theorem exec_iabs (w : SlotWord) : exec (.iabs w) s = execIabs w s := rfl
@[simp] theorem exec_imin (w : SlotWord) : exec (.imin w) s = execImin w s := rfl
@[simp] theorem exec_imax (w : SlotWord) : exec (.imax w) s = execImax w s := rfl
@[simp] theorem exec_cellAnd (w : SlotWord) : exec (.cellAnd w) s = execCellAnd w s := rfl
@[simp] theorem exec_cellOr (w : SlotWord) : exec (.cellOr w) s = execCellOr w s := rfl
@[simp] theorem exec_cellXor (w : SlotWord) : exec (.cellXor w) s = execCellXor w s := rfl
@[simp] theorem exec_cellNot (w : SlotWord) : exec (.cellNot w) s = execCellNot w s := rfl
@[simp] theorem exec_shl (w : SlotWord) : exec (.shl w) s = execShl w s := rfl
@[simp] theorem exec_shr (w : SlotWord) : exec (.shr w) s = execShr w s := rfl
@[simp] theorem exec_sar (w : SlotWord) : exec (.sar w) s = execSar w s := rfl
@[simp] theorem exec_popc (w : SlotWord) : exec (.popc w) s = execPopc w s := rfl
@[simp] theorem exec_clz (w : SlotWord) : exec (.clz w) s = execClz w s := rfl
@[simp] theorem exec_icmp (w : SlotWord) : exec (.icmp w) s = execIcmp w s := rfl
@[simp] theorem exec_sel (w : SlotWord) : exec (.sel w) s = execSel w s := rfl
@[simp] theorem exec_agen (w : SlotWord) : exec (.agen w) s = execAgen w s := rfl
@[simp] theorem exec_bcast (w : SlotWord) : exec (.bcast w) s = execBcast w s := rfl
@[simp] theorem exec_shuf (w : SlotWord) : exec (.shuf w) s = execShuf w s := rfl
@[simp] theorem exec_rot (w : SlotWord) : exec (.rot w) s = execRot w s := rfl
@[simp] theorem exec_pack (w : SlotWord) : exec (.pack w) s = execPack w s := rfl
@[simp] theorem exec_unpack (w : SlotWord) : exec (.unpack w) s = execUnpack w s := rfl
@[simp] theorem exec_fadd (w : SlotWord) : exec (.fadd w) s = execFadd w s := rfl
@[simp] theorem exec_fsub (w : SlotWord) : exec (.fsub w) s = execFsub w s := rfl
@[simp] theorem exec_fmul (w : SlotWord) : exec (.fmul w) s = execFmul w s := rfl
@[simp] theorem exec_ffma (w : SlotWord) : exec (.ffma w) s = execFfma w s := rfl
@[simp] theorem exec_fmin (w : SlotWord) : exec (.fmin w) s = execFmin w s := rfl
@[simp] theorem exec_fmax (w : SlotWord) : exec (.fmax w) s = execFmax w s := rfl
@[simp] theorem exec_fabs (w : SlotWord) : exec (.fabs w) s = execFabs w s := rfl
@[simp] theorem exec_fneg (w : SlotWord) : exec (.fneg w) s = execFneg w s := rfl
@[simp] theorem exec_frcp (w : SlotWord) : exec (.frcp w) s = execFrcp w s := rfl
@[simp] theorem exec_frsq (w : SlotWord) : exec (.frsq w) s = execFrsq w s := rfl
@[simp] theorem exec_fexp2 (w : SlotWord) : exec (.fexp2 w) s = execFexp2 w s := rfl
@[simp] theorem exec_flog2 (w : SlotWord) : exec (.flog2 w) s = execFlog2 w s := rfl
@[simp] theorem exec_fcmp (w : SlotWord) : exec (.fcmp w) s = execFcmp w s := rfl
@[simp] theorem exec_cvt (w : SlotWord) : exec (.cvt w) s = execCvt w s := rfl
@[simp] theorem exec_scale (w : SlotWord) : exec (.scale w) s = execScale w s := rfl
@[simp] theorem exec_quant (w : SlotWord) : exec (.quant w) s = execQuant w s := rfl
@[simp] theorem exec_vsum (w : SlotWord) : exec (.vsum w) s = execVsum w s := rfl
@[simp] theorem exec_vmax (w : SlotWord) : exec (.vmax w) s = execVmax w s := rfl
@[simp] theorem exec_ld (w : SlotWord) : exec (.ld w) s = execLd w s := rfl
@[simp] theorem exec_st (w : SlotWord) : exec (.st w) s = execSt w s := rfl
@[simp] theorem exec_ldg (w : SlotWord) : exec (.ldg w) s = execLdg w s := rfl
@[simp] theorem exec_stg (w : SlotWord) : exec (.stg w) s = execStg w s := rfl
@[simp] theorem exec_sld (w : SlotWord) : exec (.sld w) s = execSld w s := rfl
@[simp] theorem exec_sst (w : SlotWord) : exec (.sst w) s = execSst w s := rfl
@[simp] theorem exec_srel (w : SlotWord) : exec (.srel w) s = execSrel w s := rfl
@[simp] theorem exec_spub (w : SlotWord) : exec (.spub w) s = execSpub w s := rfl
@[simp] theorem exec_spill (w : SlotWord) : exec (.spill w) s = execSpill w s := rfl
@[simp] theorem exec_fill (w : SlotWord) : exec (.fill w) s = execFill w s := rfl
@[simp] theorem exec_mload (w : SlotWord) : exec (.mload w) s = execMload w s := rfl
@[simp] theorem exec_mswap (w : SlotWord) : exec (.mswap w) s = execMswap w s := rfl
@[simp] theorem exec_mfire (w : SlotWord) : exec (.mfire w) s = execMfire w s := rfl
@[simp] theorem exec_mdrain (w : SlotWord) : exec (.mdrain w) s = execMdrain w s := rfl
@[simp] theorem exec_mzero (w : SlotWord) : exec (.mzero w) s = execMzero w s := rfl
@[simp] theorem exec_msmeta (w : SlotWord) : exec (.msmeta w) s = execMsmeta w s := rfl
@[simp] theorem exec_isect (w : SlotWord) : exec (.isect w) s = execIsect w s := rfl
@[simp] theorem exec_mark (w : SlotWord) : exec (.mark w) s = execMark w s := rfl
@[simp] theorem exec_aupd (w : SlotWord) : exec (.aupd w) s = execAupd w s := rfl
@[simp] theorem exec_own (w : SlotWord) : exec (.own w) s = execOwn w s := rfl
@[simp] theorem exec_barr (w : SlotWord) : exec (.barr w) s = execBarr w s := rfl
@[simp] theorem exec_bwait (w : SlotWord) : exec (.bwait w) s = execBwait w s := rfl
@[simp] theorem exec_add (d a b : BitVec 5) : exec (.add d a b) s = execAdd d a b s := rfl
@[simp] theorem exec_sub (d a b : BitVec 5) : exec (.sub d a b) s = execSub d a b s := rfl
@[simp] theorem exec_mul (d a b : BitVec 5) : exec (.mul d a b) s = execMul d a b s := rfl
@[simp] theorem exec_mulh (d a b : BitVec 5) : exec (.mulh d a b) s = execMulh d a b s := rfl
@[simp] theorem exec_div (d a b : BitVec 5) : exec (.div d a b) s = execDiv d a b s := rfl
@[simp] theorem exec_rem (d a b : BitVec 5) : exec (.rem d a b) s = execRem d a b s := rfl
@[simp] theorem exec_lecternAnd (d a b : BitVec 5) : exec (.lecternAnd d a b) s = execLecternAnd d a b s := rfl
@[simp] theorem exec_lecternOr (d a b : BitVec 5) : exec (.lecternOr d a b) s = execLecternOr d a b s := rfl
@[simp] theorem exec_lecternXor (d a b : BitVec 5) : exec (.lecternXor d a b) s = execLecternXor d a b s := rfl
@[simp] theorem exec_sll (d a b : BitVec 5) : exec (.sll d a b) s = execSll d a b s := rfl
@[simp] theorem exec_srl (d a b : BitVec 5) : exec (.srl d a b) s = execSrl d a b s := rfl
@[simp] theorem exec_sra (d a b : BitVec 5) : exec (.sra d a b) s = execSra d a b s := rfl
@[simp] theorem exec_slt (d a b : BitVec 5) : exec (.slt d a b) s = execSlt d a b s := rfl
@[simp] theorem exec_sltu (d a b : BitVec 5) : exec (.sltu d a b) s = execSltu d a b s := rfl
@[simp] theorem exec_addi (d a : BitVec 5) (imm : BitVec 16) : exec (.addi d a imm) s = execAddi d a imm s := rfl
@[simp] theorem exec_andi (d a : BitVec 5) (imm : BitVec 16) : exec (.andi d a imm) s = execAndi d a imm s := rfl
@[simp] theorem exec_ori (d a : BitVec 5) (imm : BitVec 16) : exec (.ori d a imm) s = execOri d a imm s := rfl
@[simp] theorem exec_xori (d a : BitVec 5) (imm : BitVec 16) : exec (.xori d a imm) s = execXori d a imm s := rfl
@[simp] theorem exec_slli (d a : BitVec 5) (n : BitVec 6) : exec (.slli d a n) s = execSlli d a n s := rfl
@[simp] theorem exec_srli (d a : BitVec 5) (n : BitVec 6) : exec (.srli d a n) s = execSrli d a n s := rfl
@[simp] theorem exec_srai (d a : BitVec 5) (n : BitVec 6) : exec (.srai d a n) s = execSrai d a n s := rfl
@[simp] theorem exec_slti (d a : BitVec 5) (imm : BitVec 16) : exec (.slti d a imm) s = execSlti d a imm s := rfl
@[simp] theorem exec_lui (d : BitVec 5) (imm : BitVec 16) : exec (.lui d imm) s = execLui d imm s := rfl
@[simp] theorem exec_adr (d : BitVec 5) (imm : BitVec 16) : exec (.adr d imm) s = execAdr d imm s := rfl
@[simp] theorem exec_ldB (d a : BitVec 5) (off : BitVec 16) : exec (.ldB d a off) s = execLdB d a off s := rfl
@[simp] theorem exec_ldH (d a : BitVec 5) (off : BitVec 16) : exec (.ldH d a off) s = execLdH d a off s := rfl
@[simp] theorem exec_ldW (d a : BitVec 5) (off : BitVec 16) : exec (.ldW d a off) s = execLdW d a off s := rfl
@[simp] theorem exec_ldD (d a : BitVec 5) (off : BitVec 16) : exec (.ldD d a off) s = execLdD d a off s := rfl
@[simp] theorem exec_stB (a b : BitVec 5) (off : BitVec 16) : exec (.stB a b off) s = execStB a b off s := rfl
@[simp] theorem exec_stH (a b : BitVec 5) (off : BitVec 16) : exec (.stH a b off) s = execStH a b off s := rfl
@[simp] theorem exec_stW (a b : BitVec 5) (off : BitVec 16) : exec (.stW a b off) s = execStW a b off s := rfl
@[simp] theorem exec_stD (a b : BitVec 5) (off : BitVec 16) : exec (.stD a b off) s = execStD a b off s := rfl
@[simp] theorem exec_beq (a b : BitVec 5) (off : BitVec 16) : exec (.beq a b off) s = execBeq a b off s := rfl
@[simp] theorem exec_bne (a b : BitVec 5) (off : BitVec 16) : exec (.bne a b off) s = execBne a b off s := rfl
@[simp] theorem exec_blt (a b : BitVec 5) (off : BitVec 16) : exec (.blt a b off) s = execBlt a b off s := rfl
@[simp] theorem exec_bge (a b : BitVec 5) (off : BitVec 16) : exec (.bge a b off) s = execBge a b off s := rfl
@[simp] theorem exec_bltu (a b : BitVec 5) (off : BitVec 16) : exec (.bltu a b off) s = execBltu a b off s := rfl
@[simp] theorem exec_bgeu (a b : BitVec 5) (off : BitVec 16) : exec (.bgeu a b off) s = execBgeu a b off s := rfl
@[simp] theorem exec_jal (off : BitVec 26) : exec (.jal off) s = execJal off s := rfl
@[simp] theorem exec_jalr (d a : BitVec 5) (off : BitVec 16) : exec (.jalr d a off) s = execJalr d a off s := rfl
@[simp] theorem exec_cld (c : BitVec 3) (g : BitVec 5) (n : BitVec 10) : exec (.cld c g n) s = execCld c g n s := rfl
@[simp] theorem exec_cset (c : BitVec 3) (g : BitVec 5) (part : BitVec 3) : exec (.cset c g part) s = execCset c g part s := rfl
@[simp] theorem exec_cget (c : BitVec 3) (g : BitVec 5) (part : BitVec 3) : exec (.cget c g part) s = execCget c g part s := rfl
@[simp] theorem exec_cissue (c : BitVec 3) (port : BitVec 4) : exec (.cissue c port) s = execCissue c port s := rfl
@[simp] theorem exec_cwait (g : BitVec 5) (port : BitVec 4) (nb : Bool) : exec (.cwait g port nb) s = execCwait g port nb s := rfl
@[simp] theorem exec_kset (k : BitVec 4) (g : BitVec 5) (imm : BitVec 10) : exec (.kset k g imm) s = execKset k g imm s := rfl
@[simp] theorem exec_kadd (k : BitVec 4) (g : BitVec 5) (imm : BitVec 10) : exec (.kadd k g imm) s = execKadd k g imm s := rfl
@[simp] theorem exec_krd (k : BitVec 4) (g : BitVec 5) : exec (.krd k g) s = execKrd k g s := rfl
@[simp] theorem exec_kwait (k : BitVec 4) (cond : BitVec 3) (g : BitVec 5) (imm : BitVec 10) : exec (.kwait k cond g imm) s = execKwait k cond g imm s := rfl
@[simp] theorem exec_cfgload (b : BitVec 4) : exec (.cfgload b) s = execCfgload b s := rfl
@[simp] theorem exec_cfggo (b : BitVec 4) : exec (.cfggo b) s = execCfggo b s := rfl
@[simp] theorem exec_bdset (b : BitVec 4) (g : BitVec 5) (imm : BitVec 10) : exec (.bdset b g imm) s = execBdset b g imm s := rfl
@[simp] theorem exec_bdrd (b : BitVec 4) (g : BitVec 5) : exec (.bdrd b g) s = execBdrd b g s := rfl
@[simp] theorem exec_bwarr (g : BitVec 5) : exec (.bwarr g) s = execBwarr g s := rfl
@[simp] theorem exec_phase (g : BitVec 5) : exec (.phase g) s = execPhase g s := rfl
@[simp] theorem exec_fence (scope : BitVec 4) : exec (.fence scope) s = execFence scope s := rfl
@[simp] theorem exec_rdst (r : BitVec 4) (g : BitVec 5) : exec (.rdst r g) s = execRdst r g s := rfl
@[simp] theorem exec_wrst (r : BitVec 4) (g : BitVec 5) (imm : BitVec 10) : exec (.wrst r g imm) s = execWrst r g imm s := rfl
@[simp] theorem exec_trap (code : BitVec 10) : exec (.trap code) s = execTrap code s := rfl
@[simp] theorem exec_eret : exec (.eret) s = execEret s := rfl
@[simp] theorem exec_brk : exec (.brk) s = execBrk s := rfl
@[simp] theorem exec_idle : exec (.idle) s = execIdle s := rfl
@[simp] theorem exec_lexit (g : BitVec 5) : exec (.lexit g) s = execLexit g s := rfl
@[simp] theorem exec_lkill : exec (.lkill) s = execLkill s := rfl
@[simp] theorem exec_xinv (x : BitVec 4) (g : BitVec 5) : exec (.xinv x g) s = execXinv x g s := rfl
@[simp] theorem exec_frz (g : BitVec 5) : exec (.frz g) s = execFrz g s := rfl
@[simp] theorem exec_thaw (g : BitVec 5) : exec (.thaw g) s = execThaw g s := rfl
@[simp] theorem exec_ftok (g : BitVec 5) : exec (.ftok g) s = execFtok g s := rfl
@[simp] theorem exec_sopen (c : Frame) : exec (.sopen c) s = execSopen c s := rfl
@[simp] theorem exec_spublish (c : Frame) : exec (.spublish c) s = execSpublish c s := rfl
@[simp] theorem exec_srelease (c : Frame) : exec (.srelease c) s = execSrelease c s := rfl
@[simp] theorem exec_srewind (c : Frame) : exec (.srewind c) s = execSrewind c s := rfl
@[simp] theorem exec_sclose (c : Frame) : exec (.sclose c) s = execSclose c s := rfl
@[simp] theorem exec_sstat (c : Frame) : exec (.sstat c) s = execSstat c s := rfl
@[simp] theorem exec_sbind (c : Frame) : exec (.sbind c) s = execSbind c s := rfl
@[simp] theorem exec_tcopy (c : Frame) : exec (.tcopy c) s = execTcopy c s := rfl
@[simp] theorem exec_qcopy (c : Frame) : exec (.qcopy c) s = execQcopy c s := rfl
@[simp] theorem exec_tfill (c : Frame) : exec (.tfill c) s = execTfill c s := rfl
@[simp] theorem exec_tgather (c : Frame) : exec (.tgather c) s = execTgather c s := rfl
@[simp] theorem exec_tscatter (c : Frame) : exec (.tscatter c) s = execTscatter c s := rfl
@[simp] theorem exec_karm (c : Frame) : exec (.karm c) s = execKarm c s := rfl
@[simp] theorem exec_binit (c : Frame) : exec (.binit c) s = execBinit c s := rfl
@[simp] theorem exec_fprobe (c : Frame) : exec (.fprobe c) s = execFprobe c s := rfl
@[simp] theorem exec_rmark (c : Frame) : exec (.rmark c) s = execRmark c s := rfl
@[simp] theorem exec_cfgput (c : Frame) : exec (.cfgput c) s = execCfgput c s := rfl
@[simp] theorem exec_ctxsave (c : Frame) : exec (.ctxsave c) s = execCtxsave c s := rfl
@[simp] theorem exec_ctxload (c : Frame) : exec (.ctxload c) s = execCtxload c s := rfl
@[simp] theorem exec_pmark (c : Frame) : exec (.pmark c) s = execPmark c s := rfl
@[simp] theorem exec_ngroup (c : Frame) : exec (.ngroup c) s = execNgroup c s := rfl
@[simp] theorem exec_nsend (c : Frame) : exec (.nsend c) s = execNsend c s := rfl
@[simp] theorem exec_npause (c : Frame) : exec (.npause c) s = execNpause c s := rfl
@[simp] theorem exec_nresume (c : Frame) : exec (.nresume c) s = execNresume c s := rfl
@[simp] theorem exec_dcreate (c : Frame) : exec (.dcreate c) s = execDcreate c s := rfl
@[simp] theorem exec_ddestroy (c : Frame) : exec (.ddestroy c) s = execDdestroy c s := rfl
@[simp] theorem exec_ddeposit (c : Frame) : exec (.ddeposit c) s = execDdeposit c s := rfl
@[simp] theorem exec_dcopy (c : Frame) : exec (.dcopy c) s = execDcopy c s := rfl
@[simp] theorem exec_dtake (c : Frame) : exec (.dtake c) s = execDtake c s := rfl
@[simp] theorem exec_chainrun (c : Frame) : exec (.chainrun c) s = execChainrun c s := rfl
@[simp] theorem exec_chainstep (c : Frame) : exec (.chainstep c) s = execChainstep c s := rfl
@[simp] theorem exec_replay (c : Frame) : exec (.replay c) s = execReplay c s := rfl
@[simp] theorem exec_pmap (c : Frame) : exec (.pmap c) s = execPmap c s := rfl
@[simp] theorem exec_punmap (c : Frame) : exec (.punmap c) s = execPunmap c s := rfl
@[simp] theorem exec_ownxfer (c : Frame) : exec (.ownxfer c) s = execOwnxfer c s := rfl
@[simp] theorem exec_ctxCreate (e : HostEntry) : exec (.ctxCreate e) s = execCtxCreate e s := rfl
@[simp] theorem exec_ctxDestroy (e : HostEntry) : exec (.ctxDestroy e) s = execCtxDestroy e s := rfl
@[simp] theorem exec_map (e : HostEntry) : exec (.map e) s = execMap e s := rfl
@[simp] theorem exec_unmap (e : HostEntry) : exec (.unmap e) s = execUnmap e s := rfl
@[simp] theorem exec_launch (e : HostEntry) : exec (.launch e) s = execLaunch e s := rfl
@[simp] theorem exec_streamBind (e : HostEntry) : exec (.streamBind e) s = execStreamBind e s := rfl
@[simp] theorem exec_drawerCreate (e : HostEntry) : exec (.drawerCreate e) s = execDrawerCreate e s := rfl
@[simp] theorem exec_queueCreate (e : HostEntry) : exec (.queueCreate e) s = execQueueCreate e s := rfl
@[simp] theorem exec_queueDestroy (e : HostEntry) : exec (.queueDestroy e) s = execQueueDestroy e s := rfl
@[simp] theorem exec_keyLoad (e : HostEntry) : exec (.keyLoad e) s = execKeyLoad e s := rfl
@[simp] theorem exec_snapshot (e : HostEntry) : exec (.snapshot e) s = execSnapshot e s := rfl
@[simp] theorem exec_vfReset (e : HostEntry) : exec (.vfReset e) s = execVfReset e s := rfl
@[simp] theorem exec_iterNextValue (l : SlotLoc) : exec (.iterNextValue l) s = execIterNextValue l s := rfl
@[simp] theorem exec_markerJoin (l : SlotLoc) : exec (.markerJoin l) s = execMarkerJoin l s := rfl
@[simp] theorem exec_statefulRelease (l : SlotLoc) : exec (.statefulRelease l) s = execStatefulRelease l s := rfl
@[simp] theorem exec_resultWrite (g : RegionNo) (cell : CellNo) (seq : Nat) : exec (.resultWrite g cell seq) s = execResultWrite g cell seq s := rfl
@[simp] theorem exec_undefinedWord (w : W32) : exec (.undefinedWord w) s = execUndefinedWord w s := rfl
@[simp] theorem exec_fetchBeyondSection : exec (.fetchBeyondSection) s = execFetchBeyondSection s := rfl
@[simp] theorem exec_streamAccessFault (g : RegionNo) (x : CtxNo) : exec (.streamAccessFault g x) s = execStreamAccessFault g x s := rfl
@[simp] theorem exec_microprogramRun (g : RegionNo) : exec (.microprogramRun g) s = execMicroprogramRun g s := rfl
@[simp] theorem exec_debugAttach (g : RegionNo) (x : CtxNo) (on : Bool) : exec (.debugAttach g x on) s = execDebugAttach g x on s := rfl
@[simp] theorem exec_debugHalt (g : RegionNo) (x : CtxNo) : exec (.debugHalt g x) s = execDebugHalt g x s := rfl
@[simp] theorem exec_debugResume (g : RegionNo) (x : CtxNo) : exec (.debugResume g x) s = execDebugResume g x s := rfl
@[simp] theorem exec_debugRegisterWrite (g : RegionNo) (x : CtxNo) (t : DebugTarget) (v : Line) : exec (.debugRegisterWrite g x t v) s = execDebugRegisterWrite g x t v s := rfl
@[simp] theorem exec_streamRead (g : RegionNo) (id : Nat) : exec (.streamRead g id) s = execStreamRead g id s := rfl
@[simp] theorem exec_streamWrite (g : RegionNo) (id : Nat) : exec (.streamWrite g id) s = execStreamWrite g id s := rfl
@[simp] theorem exec_hwmWrite (f : BitVec 5) (ap : BitVec 6) (v : W64) : exec (.hwmWrite f ap v) s = execHwmWrite f ap v s := rfl
@[simp] theorem exec_hrelWrite (f : BitVec 5) (ap : BitVec 6) (v : W64) : exec (.hrelWrite f ap v) s = execHrelWrite f ap v s := rfl
@[simp] theorem exec_apertureDataWrite (f : BitVec 5) (ap : BitVec 6) (off : Nat) (bytes : List Byte) : exec (.apertureDataWrite f ap off bytes) s = execApertureDataWrite f ap off bytes s := rfl
@[simp] theorem exec_edgePortStreamRead (g : RegionNo) (port : BitVec 6) : exec (.edgePortStreamRead g port) s = execEdgePortStreamRead g port s := rfl
@[simp] theorem exec_edgePortStreamWrite (g : RegionNo) (port : BitVec 6) : exec (.edgePortStreamWrite g port) s = execEdgePortStreamWrite g port s := rfl
@[simp] theorem exec_edgePortMarkerPublish (g : RegionNo) (port : BitVec 6) : exec (.edgePortMarkerPublish g port) s = execEdgePortMarkerPublish g port s := rfl
@[simp] theorem exec_barrierCount (g : RegionNo) (id : Nat) : exec (.barrierCount g id) s = execBarrierCount g id s := rfl
@[simp] theorem exec_probeReturn (g : RegionNo) (ch : BitVec 7) : exec (.probeReturn g ch) s = execProbeReturn g ch s := rfl
@[simp] theorem exec_collectiveHop (g : RegionNo) (arrival : Option (BitVec 4 × Packet)) : exec (.collectiveHop g arrival) s = execCollectiveHop g arrival s := rfl
@[simp] theorem exec_groupPauseReceive (g : RegionNo) (cid : BitVec 12) (grp : BitVec 16) (p : PauseMsg) : exec (.groupPauseReceive g cid grp p) s = execGroupPauseReceive g cid grp p s := rfl
@[simp] theorem exec_groupPauseReport (g : RegionNo) (cid : BitVec 12) (grp : BitVec 16) (rank : BitVec 16) : exec (.groupPauseReport g cid grp rank) s = execGroupPauseReport g cid grp rank s := rfl
@[simp] theorem exec_groupResumeReceive (g : RegionNo) (cid : BitVec 12) (grp : BitVec 16) : exec (.groupResumeReceive g cid grp) s = execGroupResumeReceive g cid grp s := rfl
@[simp] theorem exec_memberLoss (cid : BitVec 12) (grp : BitVec 16) (rank : BitVec 16) (reports : LossMsg) : exec (.memberLoss cid grp rank reports) s = execMemberLoss cid grp rank reports s := rfl
@[simp] theorem exec_voingTokenReceive (link : BitVec 4) (ch : Byte) (tok : Token) : exec (.voingTokenReceive link ch tok) s = execVoingTokenReceive link ch tok s := rfl
@[simp] theorem exec_voingAcknowledgement (link : BitVec 4) : exec (.voingAcknowledgement link) s = execVoingAcknowledgement link s := rfl
@[simp] theorem exec_cxlWriteCompletion (line : Nat) : exec (.cxlWriteCompletion line) s = execCxlWriteCompletion line s := rfl
@[simp] theorem exec_anchorReserve (slice : BitVec 7) (i : Nat) : exec (.anchorReserve slice i) s = execAnchorReserve slice i s := rfl
@[simp] theorem exec_homeDeposit (slice : BitVec 7) (i : Nat) : exec (.homeDeposit slice i) s = execHomeDeposit slice i s := rfl
@[simp] theorem exec_homeMatch (slice : BitVec 7) (i : Nat) : exec (.homeMatch slice i) s = execHomeMatch slice i s := rfl
@[simp] theorem exec_anchorReturn (slice : BitVec 7) (i : Nat) : exec (.anchorReturn slice i) s = execAnchorReturn slice i s := rfl
@[simp] theorem exec_drawerResend (g : RegionNo) (i : Nat) : exec (.drawerResend g i) s = execDrawerResend g i s := rfl
@[simp] theorem exec_drawerLiveMark (slice : BitVec 7) (i : Nat) : exec (.drawerLiveMark slice i) s = execDrawerLiveMark slice i s := rfl
@[simp] theorem exec_drawerSweep (slice : BitVec 7) (i : Nat) : exec (.drawerSweep slice i) s = execDrawerSweep slice i s := rfl
@[simp] theorem exec_chainStepStart (g : RegionNo) (id : Nat) : exec (.chainStepStart g id) s = execChainStepStart g id s := rfl
@[simp] theorem exec_commandStart (g : RegionNo) (x : CtxNo) (port : BitVec 4) : exec (.commandStart g x port) s = execCommandStart g x port s := rfl
@[simp] theorem exec_commandComplete (g : RegionNo) (x : CtxNo) (port : BitVec 4) : exec (.commandComplete g x port) s = execCommandComplete g x port s := rfl
@[simp] theorem exec_accessPerform (g : RegionNo) (id : Nat) : exec (.accessPerform g id) s = execAccessPerform g id s := rfl
@[simp] theorem exec_accessDeliver (g : RegionNo) (id : Nat) : exec (.accessDeliver g id) s = execAccessDeliver g id s := rfl
@[simp] theorem exec_sourcePortPull (g : RegionNo) (ch : BitVec 7) : exec (.sourcePortPull g ch) s = execSourcePortPull g ch s := rfl
@[simp] theorem exec_flitMove (g : RegionNo) (i : Nat) : exec (.flitMove g i) s = execFlitMove g i s := rfl
@[simp] theorem exec_threadTokenEntry (g : RegionNo) (port : BitVec 6) : exec (.threadTokenEntry g port) s = execThreadTokenEntry g port s := rfl
@[simp] theorem exec_threadTokenAdmit (g : RegionNo) (x : CtxNo) : exec (.threadTokenAdmit g x) s = execThreadTokenAdmit g x s := rfl
@[simp] theorem exec_blockDecision (g : RegionNo) (x : CtxNo) : exec (.blockDecision g x) s = execBlockDecision g x s := rfl
@[simp] theorem exec_activate (g : RegionNo) (x : CtxNo) : exec (.activate g x) s = execActivate g x s := rfl
@[simp] theorem exec_quantumEnd (g : RegionNo) : exec (.quantumEnd g) s = execQuantumEnd g s := rfl
@[simp] theorem exec_imageReady (g : RegionNo) (i : Nat) : exec (.imageReady g i) s = execImageReady g i s := rfl
@[simp] theorem exec_regionSave (g : RegionNo) : exec (.regionSave g) s = execRegionSave g s := rfl
@[simp] theorem exec_regionRestore (g : RegionNo) (i : Nat) : exec (.regionRestore g i) s = execRegionRestore g i s := rfl
@[simp] theorem exec_powerGate (g : RegionNo) : exec (.powerGate g) s = execPowerGate g s := rfl
@[simp] theorem exec_clockGate (g : RegionNo) : exec (.clockGate g) s = execClockGate g s := rfl
@[simp] theorem exec_clockGateResume (g : RegionNo) : exec (.clockGateResume g) s = execClockGateResume g s := rfl
@[simp] theorem exec_residencyT2 (g : RegionNo) : exec (.residencyT2 g) s = execResidencyT2 g s := rfl
@[simp] theorem exec_kernelEnd (k : Nat) : exec (.kernelEnd k) s = execKernelEnd k s := rfl
@[simp] theorem exec_faultRecord (i : Nat) : exec (.faultRecord i) s = execFaultRecord i s := rfl
@[simp] theorem exec_drainLimit (g : RegionNo) : exec (.drainLimit g) s = execDrainLimit g s := rfl
@[simp] theorem exec_hostMemoryAccess (addr : Nat) (wr : Option (List Byte)) : exec (.hostMemoryAccess addr wr) s = execHostMemoryAccess addr wr s := rfl
@[simp] theorem exec_ownershipTransferEnd (granule : Nat) : exec (.ownershipTransferEnd granule) s = execOwnershipTransferEnd granule s := rfl
@[simp] theorem exec_ownershipTimeout (granule : Nat) : exec (.ownershipTimeout granule) s = execOwnershipTimeout granule s := rfl
@[simp] theorem exec_commandAccept (f : BitVec 5) (q : BitVec 4) : exec (.commandAccept f q) s = execCommandAccept f q s := rfl
@[simp] theorem exec_tailWrite (f : BitVec 5) (q : BitVec 4) (v : W64) : exec (.tailWrite f q v) s = execTailWrite f q v s := rfl
@[simp] theorem exec_cheadWrite (f : BitVec 5) (q : BitVec 4) (v : W64) : exec (.cheadWrite f q v) s = execCheadWrite f q v s := rfl
@[simp] theorem exec_aqsWrite (f : BitVec 5) (v : W64) : exec (.aqsWrite f v) s = execAqsWrite f v s := rfl
@[simp] theorem exec_s2rootWrite (f : BitVec 5) (n : BitVec 5) (v : W64) : exec (.s2rootWrite f n v) s = execS2rootWrite f n v s := rfl
@[simp] theorem exec_s2fheadWrite (f : BitVec 5) (v : W64) : exec (.s2fheadWrite f v) s = execS2fheadWrite f v s := rfl
@[simp] theorem exec_s2fqsWrite (f : BitVec 5) (v : W64) : exec (.s2fqsWrite f v) s = execS2fqsWrite f v s := rfl
@[simp] theorem exec_go (f : BitVec 5) (v : W64) : exec (.go f v) s = execGo f v s := rfl
@[simp] theorem exec_qgo (f : BitVec 5) (v : W64) : exec (.qgo f v) s = execQgo f v s := rfl
@[simp] theorem exec_registerWrite (f : BitVec 5) (off : BitVec 16) (v : W64) : exec (.registerWrite f off v) s = execRegisterWrite f off v s := rfl
@[simp] theorem exec_bureauPageFetch (page : Nat) : exec (.bureauPageFetch page) s = execBureauPageFetch page s := rfl
@[simp] theorem exec_correctedError (src : ErrSource) : exec (.correctedError src) s = execCorrectedError src s := rfl
@[simp] theorem exec_linkCrcRetry (link : BitVec 4) : exec (.linkCrcRetry link) s = execLinkCrcRetry link s := rfl
@[simp] theorem exec_linkRetrainDone (link : BitVec 4) : exec (.linkRetrainDone link) s = execLinkRetrainDone link s := rfl
@[simp] theorem exec_uncorrectableError (t : ErrTarget) : exec (.uncorrectableError t) s = execUncorrectableError t s := rfl
@[simp] theorem exec_scrubUncorrectable (addr : Nat) : exec (.scrubUncorrectable addr) s = execScrubUncorrectable addr s := rfl
@[simp] theorem exec_heartbeat : exec (.heartbeat) s = execHeartbeat s := rfl
@[simp] theorem exec_heartbeatTimeout : exec (.heartbeatTimeout) s = execHeartbeatTimeout s := rfl
@[simp] theorem exec_lockstepMismatch : exec (.lockstepMismatch) s = execLockstepMismatch s := rfl
@[simp] theorem exec_reset : exec (.reset) s = execReset s := rfl
@[simp] theorem exec_powerLoss : exec (.powerLoss) s = execPowerLoss s := rfl
@[simp] theorem exec_functionEnable (f : BitVec 5) (on : Bool) : exec (.functionEnable f on) s = execFunctionEnable f on s := rfl

end Sys2Proof.Machine
end

