-- ==== Sys2Proof/Laws/Frames.lean ====
section
/-!
SUPPORT. What the shared operations of a firing leave alone, said once: the pulling of tokens, the flight of a result, a fault and
its report change slots, flights, channels and the queue of the microprogram of one region, and nothing else (01 R36, 03 R83, R104).
-/

namespace Sys2Proof.Machine

/-! ## Cells, threads and slots beside the one that changes -/

theorem CellNo.toNat_ne {c d : CellNo} (e : d ≠ c) : d.toNat ≠ c.toNat := fun k => e (BitVec.eq_of_toNat_eq k)

@[simp] theorem State.core_stamp (s : State) (g h : RegionNo) : (s.stamp g).core h = s.core h := by
  by_cases e : h = g
  · subst e; simp [State.stamp, State.core]
  · simp [State.stamp, State.core, e]

@[simp] theorem State.cell_stamp (s : State) (g h : RegionNo) (c : CellNo) : (s.stamp g).cell h c = s.cell h c := by simp [State.cell]

@[simp] theorem State.slotAt_stamp (s : State) (g : RegionNo) (l : SlotLoc) : (s.stamp g).slotAt l = s.slotAt l := by
  simp [State.slotAt]

@[simp] theorem State.thread_stamp (s : State) (g h : RegionNo) (x : CtxNo) : (s.stamp g).thread h x = s.thread h x := by
  simp [State.thread]

@[simp] theorem State.cell_updCell_ne (s : State) (g h : RegionNo) (c d : CellNo) (f : Cell → Cell) (e : h ≠ g ∨ d ≠ c) :
    (s.updCell g c f).cell h d = s.cell h d := by
  by_cases e' : h = g
  · subst e'
    have := CellNo.toNat_ne (e.resolve_left (by simp))
    simp [State.cell, State.updCell, this]
  · simp [State.cell, State.updCell, e']

@[simp] theorem State.cell_updThread (s : State) (g h : RegionNo) (x : CtxNo) (c : CellNo) (f : Thread → Thread) :
    (s.updThread g x f).cell h c = s.cell h c := by
  by_cases e : h = g
  · subst e; simp [State.cell, State.updThread]
  · simp [State.cell, State.updThread, e]

@[simp] theorem State.thread_updCell (s : State) (g h : RegionNo) (x : CtxNo) (c : CellNo) (f : Cell → Cell) :
    (s.updCell g c f).thread h x = s.thread h x := by
  by_cases e : h = g
  · subst e; simp [State.thread, State.updCell]
  · simp [State.thread, State.updCell, e]

/-- The registers of a cell when a slot changes. -/
theorem State.cell_updSlot (s : State) (l : SlotLoc) (f : Slot → Slot) (g : RegionNo) (c : CellNo) :
    { (s.updSlot l f).cell g c with slots := [] } = { s.cell g c with slots := [] } := by
  by_cases e : g = l.g ∧ c = l.cell
  · obtain ⟨rfl, rfl⟩ := e; simp [State.updSlot]
  · rw [State.updSlot, State.cell_updCell_ne _ _ _ _ _ _ (by by_cases e' : g = l.g <;> simp_all)]

/-! ## Token movement -/

/-- Two states that differ in the slots, flights, ready steps and channels of one region and in its timers and microprogram only. -/
structure State.Tokens (g : RegionNo) (s t : State) : Prop where
  rest    : { t with regions := s.regions } = s
  others  : ∀ h, h ≠ g → t.reg h = s.reg h
  threads : (t.core g).threads = (s.core g).threads
  cmds    : (t.core g).cmds = (s.core g).cmds
  accs    : (t.core g).accs = (s.core g).accs
  grants  : (t.core g).grants = (s.core g).grants
  cells   : ∀ c, { t.cell g c with slots := [], flights := [], ready := [] } = { s.cell g c with slots := [], flights := [], ready := [] }

theorem State.Tokens.mem {g : RegionNo} {s t : State} (h : State.Tokens g s t) : t.mem = s.mem := (congrArg State.mem h.rest :)
theorem State.Tokens.banks {g : RegionNo} {s t : State} (h : State.Tokens g s t) : t.banks = s.banks := (congrArg State.banks h.rest :)
theorem State.Tokens.streams {g : RegionNo} {s t : State} (h : State.Tokens g s t) : t.streams = s.streams := (congrArg State.streams h.rest :)
theorem State.Tokens.ctxs {g : RegionNo} {s t : State} (h : State.Tokens g s t) : t.ctxs = s.ctxs := (congrArg State.ctxs h.rest :)
theorem State.Tokens.records {g : RegionNo} {s t : State} (h : State.Tokens g s t) : t.records = s.records := (congrArg State.records h.rest :)
theorem State.Tokens.cur {g : RegionNo} {s t : State} (h : State.Tokens g s t) : t.cur = s.cur := (congrArg State.cur h.rest :)
theorem State.Tokens.tick {g : RegionNo} {s t : State} (h : State.Tokens g s t) : t.tick = s.tick := (congrArg State.tick h.rest :)
theorem State.Tokens.freeCtr {g : RegionNo} {s t : State} (h : State.Tokens g s t) : t.freeCtr = s.freeCtr := (congrArg State.freeCtr h.rest :)
theorem State.Tokens.kernels {g : RegionNo} {s t : State} (h : State.Tokens g s t) : t.kernels = s.kernels := (congrArg State.kernels h.rest :)
theorem State.Tokens.funcs {g : RegionNo} {s t : State} (h : State.Tokens g s t) : t.funcs = s.funcs := (congrArg State.funcs h.rest :)
theorem State.Tokens.hcmds {g : RegionNo} {s t : State} (h : State.Tokens g s t) : t.hcmds = s.hcmds := (congrArg State.hcmds h.rest :)

/-- The registers of a cell. -/
theorem State.Tokens.regs {g : RegionNo} {s t : State} (h : State.Tokens g s t) (c : CellNo) :
    (t.cell g c).v = (s.cell g c).v ∧ (t.cell g c).o = (s.cell g c).o ∧ (t.cell g c).lr = (s.cell g c).lr
      ∧ (t.cell g c).ta = (s.cell g c).ta ∧ (t.cell g c).tl = (s.cell g c).tl ∧ (t.cell g c).acc = (s.cell g c).acc
      ∧ (t.cell g c).spills = (s.cell g c).spills := by
  have e := h.cells c
  exact ⟨(congrArg Cell.v e :), (congrArg Cell.o e :), (congrArg Cell.lr e :), (congrArg Cell.ta e :), (congrArg Cell.tl e :),
    (congrArg Cell.acc e :), (congrArg Cell.spills e :)⟩

theorem State.Tokens.refl (g : RegionNo) (s : State) : State.Tokens g s s := ⟨rfl, fun _ _ => rfl, rfl, rfl, rfl, rfl, fun _ => rfl⟩

theorem State.Tokens.trans {g : RegionNo} {s t u : State} (h : State.Tokens g s t) (h' : State.Tokens g t u) : State.Tokens g s u where
  rest := by
    have := congrArg (fun v => { v with regions := s.regions }) h'.rest
    exact this.trans h.rest
  others e he := (h'.others e he).trans (h.others e he)
  threads := h'.threads.trans h.threads
  cmds := h'.cmds.trans h.cmds
  accs := h'.accs.trans h.accs
  grants := h'.grants.trans h.grants
  cells c := (h'.cells c).trans (h.cells c)

/-- A region replaced by one with the same resident part. -/
theorem State.Tokens.setReg (s : State) (g : RegionNo) (r : Region) (h : r.core = s.core g) : State.Tokens g s (s.setReg g r) where
  rest := rfl
  others e he := by simp [he]
  threads := by simp [h]
  cmds := by simp [h]
  accs := by simp [h]
  grants := by simp [h]
  cells c := by simp [State.cell, h]

theorem State.Tokens.stamp (s : State) (g : RegionNo) : State.Tokens g s (s.stamp g) := .setReg s g _ rfl

/-- Slots and flights of a cell changed. -/
theorem State.Tokens.updCell (s : State) (g : RegionNo) (c : CellNo) (f : Cell → Cell)
    (h : { f (s.cell g c) with slots := [], flights := [], ready := [] } = { s.cell g c with slots := [], flights := [], ready := [] }) :
    State.Tokens g s (s.updCell g c f) where
  rest := rfl
  others e he := by simp [State.updCell, he]
  threads := by simp [State.updCell]
  cmds := by simp [State.updCell]
  accs := by simp [State.updCell]
  grants := by simp [State.updCell]
  cells d := by
    by_cases e : d = c
    · subst e; rw [State.cell_updCell_self]; exact h
    · rw [State.cell_updCell_ne _ _ _ _ _ _ (.inr e)]

theorem State.Tokens.updSlot (s : State) (l : SlotLoc) (f : Slot → Slot) : State.Tokens l.g s (s.updSlot l f) :=
  .updCell s l.g l.cell _ rfl

theorem State.Tokens.updChan (s : State) (g : RegionNo) (n : Nat) (f : Chan → Chan) : State.Tokens g s (s.updChan g n f) where
  rest := rfl
  others e he := by simp [State.updChan, he]
  threads := by simp [State.updChan]
  cmds := by simp [State.updChan]
  accs := by simp [State.updChan]
  grants := by simp [State.updChan]
  cells c := by simp [State.cell, State.updChan]

theorem State.Tokens.report (s : State) (g : RegionNo) (r : Report) : State.Tokens g s (s.report g r) := .setReg s g _ rfl

theorem State.Tokens.pull (s : State) (g : RegionNo) (x : CtxNo) (p : Src) : State.Tokens g s (s.pull g x p) := by
  refine .trans (.stamp s g) ?_
  cases p with
  | res c n second => exact .updSlot _ ⟨g, c, x, n⟩ _
  | chan n => exact .updChan _ g n _

theorem State.Tokens.pullAll (s : State) (l : SlotLoc) (ps : List (BitVec 2)) : State.Tokens l.g s (s.pullAll l ps) := by
  refine .trans (t := s.issued l) (.updCell s l.g l.cell (fun c => { c with ready := _ }) rfl) ?_
  unfold State.pullAll
  generalize s.issued l = s
  induction ps generalizing s with
  | nil => exact .refl _ _
  | cons p r ih =>
    refine .trans ?_ (ih _)
    dsimp only
    split
    · exact .pull _ _ _ _
    · exact .refl _ _

theorem State.Tokens.launchFlight (s : State) (l : SlotLoc) (w : SlotWord) (o : FireOut) (tok : Token) :
    State.Tokens l.g s (s.launchFlight l w o tok) :=
  .trans (.stamp s l.g) (.trans (.updCell _ l.g l.cell _ rfl) (.updSlot _ l _))

theorem State.Tokens.fireFault (s : State) (l : SlotLoc) (ps : List (BitVec 2)) (cause : Byte) (addr : Nat) (wr : Bool) :
    State.Tokens l.g s (s.fireFault l ps cause addr wr) :=
  .trans (.pullAll s l ps) (.trans (.updSlot _ l _) (.report _ l.g _))

/-- A firing moves tokens only, when what forms its value does. -/
theorem State.Tokens.fire {s t : State} {l : SlotLoc} {op : BitVec 9} {w : SlotWord} {forms : List TokForm} {vector : Bool}
    {effect : FireIn → State → Option (FireOut × State)} (hl : s.cur = .slot l)
    (he : ∀ f o s1, f.l = l → effect f s = some (o, s1) → State.Tokens l.g s s1)
    (h : s.fire op w forms vector effect = .next t) : State.Tokens l.g s t := by
  rcases State.fire_inv h with rfl | ⟨l', ps, hl', rfl | ⟨f, o, s1, tok, o', h1, h2, rfl⟩⟩
  · exact .refl _ _
  · rw [State.slotAgent_slot hl] at hl'; cases hl'; exact .fireFault _ _ _ _ _ _
  · rw [State.slotAgent_slot hl] at hl'; cases hl'
    exact .trans (he f o s1 h2 h1) (.trans (.pullAll _ l ps) (.launchFlight _ l w o' tok))

end Sys2Proof.Machine
end

