-- ==== Sys2Proof/Laws/Lectern.lean ====
section
/-!
SUPPORT. The issue of a Lectern word, said once: what it answers when the thread may issue, and everything it can answer (06 R165,
R167).
-/

namespace Sys2Proof.Machine

@[simp] theorem State.who_lectern {s : State} {g : RegionNo} {x : CtxNo} (h : s.cur = .lectern g x) : s.who = some (.prog g x) := by
  simp [State.who, h]

/-- A word of a thread that may issue has its effect. -/
theorem State.issue_ready {s : State} {w : Who} {regs : List Nat} (f : Who → Thread → State) (h1 : s.who = some w)
    (h2 : s.runnable w = true) (h3 : s.regsReady w regs = true) : s.issue regs f = .next (f w (s.th w)) := by
  simp [State.issue, h1, h2, h3]

/-- A word of a thread that may not issue changes nothing. -/
theorem State.issue_held {s : State} {w : Who} {regs : List Nat} (f : Who → Thread → State) (h1 : s.who = some w)
    (h2 : (s.runnable w && s.regsReady w regs) = false) : s.issue regs f = .next s := by
  simp [State.issue, h1, h2]

/-- Everything a word can answer: nothing has changed, or the effect, of the agent's own thread. -/
theorem State.issue_inv {s t : State} {regs : List Nat} {f : Who → Thread → State} (h : s.issue regs f = .next t) :
    t = s ∨ ∃ w, s.who = some w ∧ s.runnable w = true ∧ t = f w (s.th w) := by
  unfold State.issue at h
  split at h
  · cases h
  · next w hw =>
    split at h
    · next hr =>
      simp only [Bool.and_eq_true] at hr
      right
      exact ⟨w, hw, hr.1, by cases h; rfl⟩
    · left
      cases h
      rfl

/-- A word of a thread never stops the machine. -/
theorem State.issue_next {s : State} {w : Who} (regs : List Nat) (f : Who → Thread → State) (h : s.who = some w) :
    ∃ t, s.issue regs f = .next t := by
  unfold State.issue
  rw [h]
  dsimp only
  split <;> exact ⟨_, rfl⟩

/-- A word that only program threads have the registers for, in a program thread that may issue. -/
theorem State.issueProg_ready {s : State} {g : RegionNo} {x : CtxNo} {regs : List Nat} (f : RegionNo → CtxNo → Thread → State)
    (h1 : s.cur = .lectern g x) (h2 : s.runnable (.prog g x) = true) (h3 : s.regsReady (.prog g x) regs = true) :
    s.issueProg regs f = .next (f g x (s.thread g x)) :=
  State.issue_ready _ (State.who_lectern h1) h2 h3

theorem State.issueProg_next {s : State} {w : Who} (regs : List Nat) (f : RegionNo → CtxNo → Thread → State) (h : s.who = some w) :
    ∃ t, s.issueProg regs f = .next t := State.issue_next regs _ h

/-- A word that writes one register. -/
theorem State.setWord_ready {s : State} {w : Who} {d : BitVec 5} {regs : List (BitVec 5)} (f : Thread → W64) (h1 : s.who = some w)
    (h2 : s.runnable w = true) (h3 : s.regsReady w ((d :: regs).map BitVec.toNat) = true) :
    s.setWord d regs f = .next (s.updTh w (fun _ => ((s.th w).wg d (f (s.th w))).step)) := State.issue_ready _ h1 h2 h3

/-- Everything such a word can answer. -/
theorem State.setWord_inv {s t : State} {d : BitVec 5} {regs : List (BitVec 5)} {f : Thread → W64} (h : s.setWord d regs f = .next t) :
    t = s ∨ ∃ w, s.who = some w ∧ t = s.updTh w (fun _ => ((s.th w).wg d (f (s.th w))).step) := by
  rcases State.issue_inv h with h | ⟨w, hw, _, ht⟩
  · exact .inl h
  · exact .inr ⟨w, hw, ht⟩

@[simp] theorem Thread.step_pc (t : Thread) : t.step.pc = t.pc + 4 := rfl
@[simp] theorem Thread.step_g (t : Thread) : t.step.g = t.g := rfl
@[simp] theorem Thread.step_c (t : Thread) : t.step.c = t.c := rfl
@[simp] theorem Thread.step_k (t : Thread) : t.step.k = t.k := rfl
@[simp] theorem Thread.step_bd (t : Thread) : t.step.bd = t.bd := rfl
@[simp] theorem Thread.step_ports (t : Thread) : t.step.ports = t.ports := rfl
@[simp] theorem Thread.step_rg (t : Thread) (n : BitVec 5) : t.step.rg n = t.rg n := rfl

/-- A trap waits for every load issued before it (06 R186). -/
theorem State.trapEntry_waits {s : State} {g : RegionNo} {x : CtxNo} (cause : Byte) (val pc : W64) (h : s.loadsOut g x = true) :
    s.trapEntry g x cause val pc = s := by
  simp [State.trapEntry, h]

/-- Trap entry of a thread with a handler that is not in it, whose loads have delivered (06 R186). -/
theorem State.trapEntry_handled {s : State} {g : RegionNo} {x : CtxNo} (cause : Byte) (val pc : W64)
    (h0 : s.loadsOut g x = false) (h1 : (s.thread g x).tr = false) (h2 : (s.thread g x).en = true) :
    s.trapEntry g x cause val pc = s.updThread g x (fun t =>
      { t with lcause := cause, lval := val, lepc := pc.extractLsb' 2 12, tr := true, pc := (0#50) ++ t.vec ++ (0#2),
               wait := none, latched := false, going := none }) := by
  simp [State.trapEntry, h0, h1, h2]

/-- A thread in its handler, or without one, stops (06 R186). -/
theorem State.trapEntry_stops {s : State} {g : RegionNo} {x : CtxNo} (cause : Byte) (val pc : W64)
    (h0 : s.loadsOut g x = false) (h : (s.thread g x).tr = true ∨ (s.thread g x).en = false) : s.trapEntry g x cause val pc = s.stopThread g x cause val := by
  rcases h with h | h <;> simp [State.trapEntry, h0, h]

end Sys2Proof.Machine
end

