-- ==== Sys2Proof/Laws/Memory.lean ====
section
/-!
SUPPORT. Memory: reads after writes, and that every memory operation keeps the canonical form (log 2).
-/

namespace Sys2Proof.Machine

/-- Every listed address lies at or above a bound. -/
def Memory.above (m : Memory) (n : Nat) : Prop := ∀ p ∈ m, n ≤ p.1

theorem Memory.wf_cons {a : Nat} {v : Byte} {r : Memory} :
    Memory.wf ((a, v) :: r) = true ↔ v ≠ Memory.blank ∧ Memory.above r (a + 1) ∧ Memory.wf r = true := by
  induction r generalizing a v with
  | nil => simp [Memory.wf, Memory.above]
  | cons p r ih =>
    obtain ⟨b, w⟩ := p
    have h := @ih b w
    simp only [Memory.wf, Bool.and_eq_true, bne_iff_ne, decide_eq_true_eq] at h ⊢
    constructor
    · rintro ⟨⟨hv, hab⟩, hw⟩
      refine ⟨hv, ?_, hw⟩
      intro q hq
      rcases List.mem_cons.1 hq with rfl | hq
      · exact hab
      · have := (h.1 hw).2.1 q hq
        omega
    · rintro ⟨hv, hab, hw⟩
      exact ⟨⟨hv, hab (b, w) (by simp)⟩, hw⟩

theorem Memory.get_above {m : Memory} {n a : Nat} (h : m.above n) (ha : a < n) : Tab.get m a = none := by
  induction m with
  | nil => rfl
  | cons p r ih =>
    obtain ⟨b, w⟩ := p
    have hb : n ≤ b := h (b, w) (by simp)
    have hne : (b == a) = false := by simp; omega
    simp only [Tab.get, hne, Bool.false_eq_true, if_false]
    exact ih (fun q hq => h q (List.mem_cons_of_mem _ hq))

theorem Memory.above_write {m : Memory} {n a : Nat} {v : Byte} (h : m.above n) (ha : n ≤ a) : (m.write a v).above n := by
  induction m with
  | nil =>
    simp only [Memory.write]
    split
    · exact h
    · intro q hq
      simp at hq
      subst hq
      exact ha
  | cons p r ih =>
    obtain ⟨b, w⟩ := p
    have hr : Memory.above r n := fun q hq => h q (List.mem_cons_of_mem _ hq)
    have hb : n ≤ b := h (b, w) (by simp)
    intro q
    simp only [Memory.write]
    split
    · split
      · exact h q
      · simp only [List.mem_cons]
        rintro (rfl | rfl | hq)
        · exact ha
        · exact hb
        · exact hr q hq
    · split
      · split
        · exact hr q
        · simp only [List.mem_cons]
          rintro (rfl | hq)
          · exact ha
          · exact hr q hq
      · simp only [List.mem_cons]
        rintro (rfl | hq)
        · exact hb
        · exact ih hr q hq

/-- A write keeps the canonical form. -/
theorem Memory.wf_write {m : Memory} (h : m.wf = true) (a : Nat) (v : Byte) : (m.write a v).wf = true := by
  induction m with
  | nil =>
    simp only [Memory.write]
    split
    · rfl
    · next hv => simpa [Memory.wf] using hv
  | cons p r ih =>
    obtain ⟨b, w⟩ := p
    obtain ⟨hw, hab, hr⟩ := Memory.wf_cons.1 h
    simp only [Memory.write]
    split
    · next hlt =>
      split
      · exact h
      · next hv =>
        refine Memory.wf_cons.2 ⟨by simpa using hv, ?_, h⟩
        intro q hq
        rcases List.mem_cons.1 hq with rfl | hq
        · exact hlt
        · have := hab q hq
          omega
    · next hnlt =>
      split
      · next heq =>
        split
        · exact hr
        · next hv =>
          refine Memory.wf_cons.2 ⟨by simpa using hv, ?_, hr⟩
          simp at heq
          subst heq
          exact hab
      · next hne =>
        simp at hne
        exact Memory.wf_cons.2 ⟨hw, Memory.above_write hab (by omega), ih hr⟩

/-- The byte just written is read. -/
theorem Memory.read_write_self {m : Memory} (h : m.wf = true) (a : Nat) (v : Byte) : (m.write a v).read a = v := by
  induction m with
  | nil =>
    simp only [Memory.write]
    split
    · next hv => simp at hv; simp [Memory.read, hv]
    · simp [Memory.read, Tab.get]
  | cons p r ih =>
    obtain ⟨b, w⟩ := p
    obtain ⟨hw, hab, hr⟩ := Memory.wf_cons.1 h
    simp only [Memory.write]
    split
    · next hlt =>
      split
      · next hv =>
        simp at hv
        have hne : (b == a) = false := by simp; omega
        have hn := Memory.get_above (a := a) hab (by omega)
        simp [Memory.read, Tab.get, hne, hn, hv]
      · simp [Memory.read, Tab.get]
    · split
      · next heq =>
        simp at heq
        subst heq
        split
        · next hv =>
          simp at hv
          simp [Memory.read, Memory.get_above hab (Nat.lt_succ_self a), hv]
        · simp [Memory.read, Tab.get]
      · next hne =>
        have hba : (b == a) = false := by simp at hne ⊢; omega
        have := ih hr
        simpa [Memory.read, Tab.get, hba] using this

/-- Every other byte is as before. -/
theorem Memory.read_write_ne (m : Memory) (a c : Nat) (v : Byte) (hc : c ≠ a) : (m.write a v).read c = m.read c := by
  have hac : (a == c) = false := by simp; omega
  induction m with
  | nil => simp only [Memory.write]; split <;> simp [Memory.read, Tab.get, hac]
  | cons p r ih =>
    obtain ⟨b, w⟩ := p
    simp only [Memory.write]
    split
    · split <;> simp [Memory.read, Tab.get, hac]
    · split
      · next heq => simp at heq; subst heq; split <;> simp [Memory.read, Tab.get, hac]
      · by_cases hb : (b == c) = true
        · simp [Memory.read, Tab.get, hb]
        · simp only [Bool.not_eq_true] at hb
          simpa [Memory.read, Tab.get, hb] using ih

/-- Bytes written in turn keep the canonical form. -/
theorem Memory.wf_writeN {m : Memory} (h : m.wf = true) (a : Nat) (bs : List Byte) : (m.writeN a bs).wf = true := by
  induction bs generalizing m a with
  | nil => exact h
  | cons b bs ih => exact ih (Memory.wf_write h a b) (a + 1)

/-- Bytes outside the range written are as before. -/
theorem Memory.read_writeN_outside (m : Memory) (a c : Nat) (bs : List Byte) (hc : c < a ∨ a + bs.length ≤ c) :
    (m.writeN a bs).read c = m.read c := by
  induction bs generalizing m a with
  | nil => rfl
  | cons b bs ih =>
    simp only [Memory.writeN, List.length_cons] at hc ⊢
    rw [ih (m.write a b) (a + 1) (by omega)]
    exact Memory.read_write_ne m a c b (by omega)

/-- Every byte written is read. -/
theorem Memory.read_writeN_inside {m : Memory} (h : m.wf = true) (a i : Nat) (bs : List Byte) (hi : i < bs.length) :
    (m.writeN a bs).read (a + i) = bs[i] := by
  induction bs generalizing m a i with
  | nil => simp at hi
  | cons b bs ih =>
    cases i with
    | zero =>
      simp only [Memory.writeN, Nat.add_zero]
      rw [Memory.read_writeN_outside _ _ _ _ (by omega)]
      simpa using Memory.read_write_self h a b
    | succ i =>
      have := ih (Memory.wf_write h a b) (a + 1) i (by simpa using hi)
      simpa [Memory.writeN, Nat.add_assoc, Nat.add_comm 1 i] using this

theorem Memory.length_readN (m : Memory) (a n : Nat) : (m.readN a n).length = n := by
  induction n generalizing a with
  | zero => rfl
  | succ n ih => simp [Memory.readN, ih]

/-- The bytes just written are read. -/
theorem Memory.readN_writeN {m : Memory} (h : m.wf = true) (a : Nat) (bs : List Byte) :
    (m.writeN a bs).readN a bs.length = bs := by
  induction bs generalizing m a with
  | nil => rfl
  | cons b bs ih =>
    have h0 : ((m.write a b).writeN (a + 1) bs).read a = b := by
      rw [Memory.read_writeN_outside _ _ _ _ (by omega)]
      exact Memory.read_write_self h a b
    simp [Memory.writeN, Memory.readN, h0, ih (Memory.wf_write h a b)]

/-- A list of entries written keeps the canonical form. -/
theorem Memory.wf_writeAll {m : Memory} (h : m.wf = true) (es : Memory) : (m.writeAll es).wf = true := by
  unfold Memory.writeAll
  induction es generalizing m with
  | nil => exact h
  | cons p es ih => exact ih (Memory.wf_write h p.1 p.2)

/-- A cleared range keeps the canonical form. -/
theorem Memory.wf_clear {m : Memory} (h : m.wf = true) (lo hi : Nat) : (m.clear lo hi).wf = true := by
  unfold Memory.clear
  generalize m.slice lo hi = es
  induction es generalizing m with
  | nil => exact h
  | cons p es ih => exact ih (Memory.wf_write h p.1 Memory.blank)

/-- A part of a memory has the canonical form. -/
theorem Memory.wf_filter {m : Memory} (h : m.wf = true) (f : Nat × Byte → Bool) : Memory.wf (List.filter f m) = true := by
  induction m with
  | nil => rfl
  | cons p r ih =>
    obtain ⟨a, v⟩ := p
    obtain ⟨hv, hab, hr⟩ := Memory.wf_cons.1 h
    by_cases hf : f (a, v) = true
    · rw [List.filter_cons_of_pos hf]
      exact Memory.wf_cons.2 ⟨hv, fun q hq => hab q (List.mem_of_mem_filter hq), ih hr⟩
    · rw [List.filter_cons_of_neg hf]
      exact ih hr

theorem Memory.wf_slice {m : Memory} (h : m.wf = true) (lo hi : Nat) : (m.slice lo hi).wf = true := Memory.wf_filter h _

@[simp] theorem Memory.wf_nil : Memory.wf [] = true := rfl

end Sys2Proof.Machine
end

