-- ==== Sys2Proof/Laws/PerInstr.lean ====
section
/-!
SUPPORT. Decode and encode agree, one lemma an instruction: the bytes of a well-formed instruction decode to it with every operand
(03 R78, R87, R92, R93; 16 R301).
-/

namespace Sys2Proof.Laws.RoundTrip

/-- The bytes that `encode` gives a well-formed instruction decode to it; a step without a word has none. -/
def Statement (i : Instr) : Prop :=
  i.wf = true → ∀ bs, encode i = some bs → decodeTableWord (8 * bs.length) (bytesToNat bs) = some i

/-! ## One lemma per layer -/

theorem of_lectern {i : Instr} {w : W32} (he : encodeLectern i = some w) (hd : i.wf = true → decodeLectern w = .ok i) :
    Statement i := by
  intro hw bs hb
  have h : bs = natToBytes 4 w.toNat := by simpa [encode, he] using hb.symm
  rw [h, decodeTableWord_bytes 4 w]
  exact decodeTableWord_lectern (hd hw)

theorem of_slot {i : Instr} {op : BitVec 9} {w : SlotWord} (hl : encodeLectern i = none) (he : i.slotOp? = some (op, w))
    (h0 : op ≠ 0) (hd : slotOf op w = some i) : Statement i := by
  intro _ bs hb
  have h : bs = natToBytes 8 (encodeSlot op w).toNat := by simpa [encode, hl, he] using hb.symm
  rw [h, decodeTableWord_bytes 8 (encodeSlot op w)]
  exact decodeTableWord_slot h0 hd

theorem of_frame {i : Instr} {code : BitVec 8} {c : Frame} (hl : encodeLectern i = none) (hs : i.slotOp? = none)
    (he : i.frameCode? = some (code, c)) (hd : frameOf code c = some i) : Statement i := by
  intro _ bs hb
  have h : bs = natToBytes 16 (FrameRules.pack code c).toNat := by simpa [encode, hl, hs, he] using hb.symm
  rw [h, decodeTableWord_bytes 16 (FrameRules.pack code c)]
  exact decodeTableWord_frame hd

theorem of_host {i : Instr} {opc : BitVec 8} {e : HostEntry} (hl : encodeLectern i = none) (hs : i.slotOp? = none)
    (hf : i.frameCode? = none) (he : i.hostOpc? = some (opc, e)) (hd : hostOf opc e = some i) : Statement i := by
  intro _ bs hb
  have h : bs = natToBytes 64 (encodeHost opc e).toNat := by simpa [encode, hl, hs, hf, he] using hb.symm
  rw [h, decodeTableWord_bytes 64 (encodeHost opc e)]
  exact decodeTableWord_host hd

theorem of_none {i : Instr} (h : encode i = none) : Statement i := by
  intro _ bs hb
  rw [h] at hb
  cases hb

/-! ## One lemma per instruction -/

theorem cpy (w : SlotWord) : Statement (.cpy w) :=
  of_slot rfl rfl (by decide) rfl
theorem sink (w : SlotWord) : Statement (.sink w) :=
  of_slot rfl rfl (by decide) rfl
theorem gate (w : SlotWord) : Statement (.gate w) :=
  of_slot rfl rfl (by decide) rfl
theorem steer (w : SlotWord) : Statement (.steer w) :=
  of_slot rfl rfl (by decide) rfl
theorem merge (w : SlotWord) : Statement (.merge w) :=
  of_slot rfl rfl (by decide) rfl
theorem const (w : SlotWord) : Statement (.const w) :=
  of_slot rfl rfl (by decide) rfl
theorem iter (w : SlotWord) : Statement (.iter w) :=
  of_slot rfl rfl (by decide) rfl
theorem tid (w : SlotWord) : Statement (.tid w) :=
  of_slot rfl rfl (by decide) rfl
theorem iadd (w : SlotWord) : Statement (.iadd w) :=
  of_slot rfl rfl (by decide) rfl
theorem isub (w : SlotWord) : Statement (.isub w) :=
  of_slot rfl rfl (by decide) rfl
theorem imul (w : SlotWord) : Statement (.imul w) :=
  of_slot rfl rfl (by decide) rfl
theorem imulh (w : SlotWord) : Statement (.imulh w) :=
  of_slot rfl rfl (by decide) rfl
theorem imad (w : SlotWord) : Statement (.imad w) :=
  of_slot rfl rfl (by decide) rfl
theorem idiv (w : SlotWord) : Statement (.idiv w) :=
  of_slot rfl rfl (by decide) rfl
theorem irem (w : SlotWord) : Statement (.irem w) :=
  of_slot rfl rfl (by decide) rfl
theorem ineg (w : SlotWord) : Statement (.ineg w) :=
  of_slot rfl rfl (by decide) rfl
theorem iabs (w : SlotWord) : Statement (.iabs w) :=
  of_slot rfl rfl (by decide) rfl
theorem imin (w : SlotWord) : Statement (.imin w) :=
  of_slot rfl rfl (by decide) rfl
theorem imax (w : SlotWord) : Statement (.imax w) :=
  of_slot rfl rfl (by decide) rfl
theorem cellAnd (w : SlotWord) : Statement (.cellAnd w) :=
  of_slot rfl rfl (by decide) rfl
theorem cellOr (w : SlotWord) : Statement (.cellOr w) :=
  of_slot rfl rfl (by decide) rfl
theorem cellXor (w : SlotWord) : Statement (.cellXor w) :=
  of_slot rfl rfl (by decide) rfl
theorem cellNot (w : SlotWord) : Statement (.cellNot w) :=
  of_slot rfl rfl (by decide) rfl
theorem shl (w : SlotWord) : Statement (.shl w) :=
  of_slot rfl rfl (by decide) rfl
theorem shr (w : SlotWord) : Statement (.shr w) :=
  of_slot rfl rfl (by decide) rfl
theorem sar (w : SlotWord) : Statement (.sar w) :=
  of_slot rfl rfl (by decide) rfl
theorem popc (w : SlotWord) : Statement (.popc w) :=
  of_slot rfl rfl (by decide) rfl
theorem clz (w : SlotWord) : Statement (.clz w) :=
  of_slot rfl rfl (by decide) rfl
theorem icmp (w : SlotWord) : Statement (.icmp w) :=
  of_slot rfl rfl (by decide) rfl
theorem sel (w : SlotWord) : Statement (.sel w) :=
  of_slot rfl rfl (by decide) rfl
theorem agen (w : SlotWord) : Statement (.agen w) :=
  of_slot rfl rfl (by decide) rfl
theorem bcast (w : SlotWord) : Statement (.bcast w) :=
  of_slot rfl rfl (by decide) rfl
theorem shuf (w : SlotWord) : Statement (.shuf w) :=
  of_slot rfl rfl (by decide) rfl
theorem rot (w : SlotWord) : Statement (.rot w) :=
  of_slot rfl rfl (by decide) rfl
theorem pack (w : SlotWord) : Statement (.pack w) :=
  of_slot rfl rfl (by decide) rfl
theorem unpack (w : SlotWord) : Statement (.unpack w) :=
  of_slot rfl rfl (by decide) rfl
theorem fadd (w : SlotWord) : Statement (.fadd w) :=
  of_slot rfl rfl (by decide) rfl
theorem fsub (w : SlotWord) : Statement (.fsub w) :=
  of_slot rfl rfl (by decide) rfl
theorem fmul (w : SlotWord) : Statement (.fmul w) :=
  of_slot rfl rfl (by decide) rfl
theorem ffma (w : SlotWord) : Statement (.ffma w) :=
  of_slot rfl rfl (by decide) rfl
theorem fmin (w : SlotWord) : Statement (.fmin w) :=
  of_slot rfl rfl (by decide) rfl
theorem fmax (w : SlotWord) : Statement (.fmax w) :=
  of_slot rfl rfl (by decide) rfl
theorem fabs (w : SlotWord) : Statement (.fabs w) :=
  of_slot rfl rfl (by decide) rfl
theorem fneg (w : SlotWord) : Statement (.fneg w) :=
  of_slot rfl rfl (by decide) rfl
theorem frcp (w : SlotWord) : Statement (.frcp w) :=
  of_slot rfl rfl (by decide) rfl
theorem frsq (w : SlotWord) : Statement (.frsq w) :=
  of_slot rfl rfl (by decide) rfl
theorem fexp2 (w : SlotWord) : Statement (.fexp2 w) :=
  of_slot rfl rfl (by decide) rfl
theorem flog2 (w : SlotWord) : Statement (.flog2 w) :=
  of_slot rfl rfl (by decide) rfl
theorem fcmp (w : SlotWord) : Statement (.fcmp w) :=
  of_slot rfl rfl (by decide) rfl
theorem cvt (w : SlotWord) : Statement (.cvt w) :=
  of_slot rfl rfl (by decide) rfl
theorem scale (w : SlotWord) : Statement (.scale w) :=
  of_slot rfl rfl (by decide) rfl
theorem quant (w : SlotWord) : Statement (.quant w) :=
  of_slot rfl rfl (by decide) rfl
theorem vsum (w : SlotWord) : Statement (.vsum w) :=
  of_slot rfl rfl (by decide) rfl
theorem vmax (w : SlotWord) : Statement (.vmax w) :=
  of_slot rfl rfl (by decide) rfl
theorem ld (w : SlotWord) : Statement (.ld w) :=
  of_slot rfl rfl (by decide) rfl
theorem st (w : SlotWord) : Statement (.st w) :=
  of_slot rfl rfl (by decide) rfl
theorem ldg (w : SlotWord) : Statement (.ldg w) :=
  of_slot rfl rfl (by decide) rfl
theorem stg (w : SlotWord) : Statement (.stg w) :=
  of_slot rfl rfl (by decide) rfl
theorem sld (w : SlotWord) : Statement (.sld w) :=
  of_slot rfl rfl (by decide) rfl
theorem sst (w : SlotWord) : Statement (.sst w) :=
  of_slot rfl rfl (by decide) rfl
theorem srel (w : SlotWord) : Statement (.srel w) :=
  of_slot rfl rfl (by decide) rfl
theorem spub (w : SlotWord) : Statement (.spub w) :=
  of_slot rfl rfl (by decide) rfl
theorem spill (w : SlotWord) : Statement (.spill w) :=
  of_slot rfl rfl (by decide) rfl
theorem fill (w : SlotWord) : Statement (.fill w) :=
  of_slot rfl rfl (by decide) rfl
theorem mload (w : SlotWord) : Statement (.mload w) :=
  of_slot rfl rfl (by decide) rfl
theorem mswap (w : SlotWord) : Statement (.mswap w) :=
  of_slot rfl rfl (by decide) rfl
theorem mfire (w : SlotWord) : Statement (.mfire w) :=
  of_slot rfl rfl (by decide) rfl
theorem mdrain (w : SlotWord) : Statement (.mdrain w) :=
  of_slot rfl rfl (by decide) rfl
theorem mzero (w : SlotWord) : Statement (.mzero w) :=
  of_slot rfl rfl (by decide) rfl
theorem msmeta (w : SlotWord) : Statement (.msmeta w) :=
  of_slot rfl rfl (by decide) rfl
theorem isect (w : SlotWord) : Statement (.isect w) :=
  of_slot rfl rfl (by decide) rfl
theorem mark (w : SlotWord) : Statement (.mark w) :=
  of_slot rfl rfl (by decide) rfl
theorem aupd (w : SlotWord) : Statement (.aupd w) :=
  of_slot rfl rfl (by decide) rfl
theorem own (w : SlotWord) : Statement (.own w) :=
  of_slot rfl rfl (by decide) rfl
theorem barr (w : SlotWord) : Statement (.barr w) :=
  of_slot rfl rfl (by decide) rfl
theorem bwait (w : SlotWord) : Statement (.bwait w) :=
  of_slot rfl rfl (by decide) rfl
theorem add (d a b : BitVec 5) : Statement (.add d a b) :=
  of_lectern rfl (fun _ => by simp [decodeLectern, fld_wordA])
theorem sub (d a b : BitVec 5) : Statement (.sub d a b) :=
  of_lectern rfl (fun _ => by simp [decodeLectern, fld_wordA])
theorem mul (d a b : BitVec 5) : Statement (.mul d a b) :=
  of_lectern rfl (fun _ => by simp [decodeLectern, fld_wordA])
theorem mulh (d a b : BitVec 5) : Statement (.mulh d a b) :=
  of_lectern rfl (fun _ => by simp [decodeLectern, fld_wordA])
theorem div (d a b : BitVec 5) : Statement (.div d a b) :=
  of_lectern rfl (fun _ => by simp [decodeLectern, fld_wordA])
theorem rem (d a b : BitVec 5) : Statement (.rem d a b) :=
  of_lectern rfl (fun _ => by simp [decodeLectern, fld_wordA])
theorem lecternAnd (d a b : BitVec 5) : Statement (.lecternAnd d a b) :=
  of_lectern rfl (fun _ => by simp [decodeLectern, fld_wordA])
theorem lecternOr (d a b : BitVec 5) : Statement (.lecternOr d a b) :=
  of_lectern rfl (fun _ => by simp [decodeLectern, fld_wordA])
theorem lecternXor (d a b : BitVec 5) : Statement (.lecternXor d a b) :=
  of_lectern rfl (fun _ => by simp [decodeLectern, fld_wordA])
theorem sll (d a b : BitVec 5) : Statement (.sll d a b) :=
  of_lectern rfl (fun _ => by simp [decodeLectern, fld_wordA])
theorem srl (d a b : BitVec 5) : Statement (.srl d a b) :=
  of_lectern rfl (fun _ => by simp [decodeLectern, fld_wordA])
theorem sra (d a b : BitVec 5) : Statement (.sra d a b) :=
  of_lectern rfl (fun _ => by simp [decodeLectern, fld_wordA])
theorem slt (d a b : BitVec 5) : Statement (.slt d a b) :=
  of_lectern rfl (fun _ => by simp [decodeLectern, fld_wordA])
theorem sltu (d a b : BitVec 5) : Statement (.sltu d a b) :=
  of_lectern rfl (fun _ => by simp [decodeLectern, fld_wordA])
theorem addi (d a : BitVec 5) (imm : BitVec 16) : Statement (.addi d a imm) :=
  of_lectern rfl (fun _ => by simp [decodeLectern, fld_wordI])
theorem andi (d a : BitVec 5) (imm : BitVec 16) : Statement (.andi d a imm) :=
  of_lectern rfl (fun _ => by simp [decodeLectern, fld_wordI])
theorem ori (d a : BitVec 5) (imm : BitVec 16) : Statement (.ori d a imm) :=
  of_lectern rfl (fun _ => by simp [decodeLectern, fld_wordI])
theorem xori (d a : BitVec 5) (imm : BitVec 16) : Statement (.xori d a imm) :=
  of_lectern rfl (fun _ => by simp [decodeLectern, fld_wordI])
theorem slli (d a : BitVec 5) (n : BitVec 6) : Statement (.slli d a n) :=
  of_lectern rfl (fun _ => by simp [decodeLectern, fld_wordI, fld_wordI_shift])
theorem srli (d a : BitVec 5) (n : BitVec 6) : Statement (.srli d a n) :=
  of_lectern rfl (fun _ => by simp [decodeLectern, fld_wordI, fld_wordI_shift])
theorem srai (d a : BitVec 5) (n : BitVec 6) : Statement (.srai d a n) :=
  of_lectern rfl (fun _ => by simp [decodeLectern, fld_wordI, fld_wordI_shift])
theorem slti (d a : BitVec 5) (imm : BitVec 16) : Statement (.slti d a imm) :=
  of_lectern rfl (fun _ => by simp [decodeLectern, fld_wordI])
theorem lui (d : BitVec 5) (imm : BitVec 16) : Statement (.lui d imm) :=
  of_lectern rfl (fun _ => by simp [decodeLectern, fld_wordI])
theorem adr (d : BitVec 5) (imm : BitVec 16) : Statement (.adr d imm) :=
  of_lectern rfl (fun _ => by simp [decodeLectern, fld_wordI])
theorem ldB (d a : BitVec 5) (off : BitVec 16) : Statement (.ldB d a off) :=
  of_lectern rfl (fun _ => by simp [decodeLectern, fld_wordI])
theorem ldH (d a : BitVec 5) (off : BitVec 16) : Statement (.ldH d a off) :=
  of_lectern rfl (fun _ => by simp [decodeLectern, fld_wordI])
theorem ldW (d a : BitVec 5) (off : BitVec 16) : Statement (.ldW d a off) :=
  of_lectern rfl (fun _ => by simp [decodeLectern, fld_wordI])
theorem ldD (d a : BitVec 5) (off : BitVec 16) : Statement (.ldD d a off) :=
  of_lectern rfl (fun _ => by simp [decodeLectern, fld_wordI])
theorem stB (a b : BitVec 5) (off : BitVec 16) : Statement (.stB a b off) :=
  of_lectern rfl (fun _ => by simp [decodeLectern, fld_wordI])
theorem stH (a b : BitVec 5) (off : BitVec 16) : Statement (.stH a b off) :=
  of_lectern rfl (fun _ => by simp [decodeLectern, fld_wordI])
theorem stW (a b : BitVec 5) (off : BitVec 16) : Statement (.stW a b off) :=
  of_lectern rfl (fun _ => by simp [decodeLectern, fld_wordI])
theorem stD (a b : BitVec 5) (off : BitVec 16) : Statement (.stD a b off) :=
  of_lectern rfl (fun _ => by simp [decodeLectern, fld_wordI])
theorem beq (a b : BitVec 5) (off : BitVec 16) : Statement (.beq a b off) :=
  of_lectern rfl (fun _ => by simp [decodeLectern, fld_wordI])
theorem bne (a b : BitVec 5) (off : BitVec 16) : Statement (.bne a b off) :=
  of_lectern rfl (fun _ => by simp [decodeLectern, fld_wordI])
theorem blt (a b : BitVec 5) (off : BitVec 16) : Statement (.blt a b off) :=
  of_lectern rfl (fun _ => by simp [decodeLectern, fld_wordI])
theorem bge (a b : BitVec 5) (off : BitVec 16) : Statement (.bge a b off) :=
  of_lectern rfl (fun _ => by simp [decodeLectern, fld_wordI])
theorem bltu (a b : BitVec 5) (off : BitVec 16) : Statement (.bltu a b off) :=
  of_lectern rfl (fun _ => by simp [decodeLectern, fld_wordI])
theorem bgeu (a b : BitVec 5) (off : BitVec 16) : Statement (.bgeu a b off) :=
  of_lectern rfl (fun _ => by simp [decodeLectern, fld_wordI])
theorem jal (off : BitVec 26) : Statement (.jal off) :=
  of_lectern rfl (fun _ => by
  obtain ⟨h1, h2⟩ := fld_jal off
  simp [decodeLectern, h1, h2])
theorem jalr (d a : BitVec 5) (off : BitVec 16) : Statement (.jalr d a off) :=
  of_lectern rfl (fun _ => by simp [decodeLectern, fld_wordI])
theorem cld (c : BitVec 3) (g : BitVec 5) (n : BitVec 10) : Statement (.cld c g n) :=
  of_lectern rfl (fun _ => by simp [decodeLectern, fld_wordC])
theorem cset (c : BitVec 3) (g : BitVec 5) (part : BitVec 3) : Statement (.cset c g part) :=
  of_lectern rfl (fun h => by
    simp [Instr.wf, Instr.slotOp?, Instr.frameCode?] at h
    simp [decodeLectern, fld_wordC, fld_part, h])
theorem cget (c : BitVec 3) (g : BitVec 5) (part : BitVec 3) : Statement (.cget c g part) :=
  of_lectern rfl (fun h => by
    simp [Instr.wf, Instr.slotOp?, Instr.frameCode?] at h
    simp [decodeLectern, fld_wordC, fld_part, h])
theorem cissue (c : BitVec 3) (port : BitVec 4) : Statement (.cissue c port) :=
  of_lectern rfl (fun _ => by simp [decodeLectern, fld_wordC])
theorem cwait (g : BitVec 5) (port : BitVec 4) (nb : Bool) : Statement (.cwait g port nb) :=
  of_lectern rfl (fun _ => by
    have h := fld_nb nb
    simp only [decodeLectern, fld_wordC, h.1, h.2]
    simp)
theorem kset (k : BitVec 4) (g : BitVec 5) (imm : BitVec 10) : Statement (.kset k g imm) :=
  of_lectern rfl (fun _ => by simp [decodeLectern, fld_wordW])
theorem kadd (k : BitVec 4) (g : BitVec 5) (imm : BitVec 10) : Statement (.kadd k g imm) :=
  of_lectern rfl (fun _ => by simp [decodeLectern, fld_wordW])
theorem krd (k : BitVec 4) (g : BitVec 5) : Statement (.krd k g) :=
  of_lectern rfl (fun _ => by simp [decodeLectern, fld_wordW])
theorem kwait (k : BitVec 4) (cond : BitVec 3) (g : BitVec 5) (imm : BitVec 10) : Statement (.kwait k cond g imm) :=
  of_lectern rfl (fun h => by
    simp [Instr.wf, Instr.slotOp?, Instr.frameCode?] at h
    simp [decodeLectern, fld_wordW, h])
theorem cfgload (b : BitVec 4) : Statement (.cfgload b) :=
  of_lectern rfl (fun _ => by simp [decodeLectern, fld_wordW])
theorem cfggo (b : BitVec 4) : Statement (.cfggo b) :=
  of_lectern rfl (fun _ => by simp [decodeLectern, fld_wordW])
theorem bdset (b : BitVec 4) (g : BitVec 5) (imm : BitVec 10) : Statement (.bdset b g imm) :=
  of_lectern rfl (fun _ => by simp [decodeLectern, fld_wordW])
theorem bdrd (b : BitVec 4) (g : BitVec 5) : Statement (.bdrd b g) :=
  of_lectern rfl (fun _ => by simp [decodeLectern, fld_wordW])
theorem bwarr (g : BitVec 5) : Statement (.bwarr g) :=
  of_lectern rfl (fun _ => by simp [decodeLectern, fld_wordW])
theorem phase (g : BitVec 5) : Statement (.phase g) :=
  of_lectern rfl (fun _ => by simp [decodeLectern, fld_wordW])
theorem fence (scope : BitVec 4) : Statement (.fence scope) :=
  of_lectern rfl (fun h => by
    simp [Instr.wf, Instr.slotOp?, Instr.frameCode?] at h
    simp [decodeLectern, fld_wordW, h])
theorem rdst (r : BitVec 4) (g : BitVec 5) : Statement (.rdst r g) :=
  of_lectern rfl (fun h => by
    simp [Instr.wf, Instr.slotOp?, Instr.frameCode?] at h
    simp [decodeLectern, fld_wordW, h])
theorem wrst (r : BitVec 4) (g : BitVec 5) (imm : BitVec 10) : Statement (.wrst r g imm) :=
  of_lectern rfl (fun h => by
    simp [Instr.wf, Instr.slotOp?, Instr.frameCode?] at h
    simp [decodeLectern, fld_wordW, h])
theorem trap (code : BitVec 10) : Statement (.trap code) :=
  of_lectern rfl (fun _ => by simp [decodeLectern, fld_wordW])
theorem eret : Statement (.eret) :=
  of_lectern rfl (fun _ => by simp [decodeLectern, fld_wordW])
theorem brk : Statement (.brk) :=
  of_lectern rfl (fun _ => by simp [decodeLectern, fld_wordW])
theorem idle : Statement (.idle) :=
  of_lectern rfl (fun _ => by simp [decodeLectern, fld_wordW])
theorem lexit (g : BitVec 5) : Statement (.lexit g) :=
  of_lectern rfl (fun _ => by simp [decodeLectern, fld_wordW])
theorem lkill : Statement (.lkill) :=
  of_lectern rfl (fun _ => by simp [decodeLectern, fld_wordW])
theorem xinv (x : BitVec 4) (g : BitVec 5) : Statement (.xinv x g) :=
  of_lectern rfl (fun h => by
    simp [Instr.wf, Instr.slotOp?, Instr.frameCode?] at h
    simp [decodeLectern, fld_wordW, h])
theorem frz (g : BitVec 5) : Statement (.frz g) :=
  of_lectern rfl (fun _ => by simp [decodeLectern, fld_wordW])
theorem thaw (g : BitVec 5) : Statement (.thaw g) :=
  of_lectern rfl (fun _ => by simp [decodeLectern, fld_wordW])
theorem ftok (g : BitVec 5) : Statement (.ftok g) :=
  of_lectern rfl (fun _ => by simp [decodeLectern, fld_wordW])
theorem sopen (c : Frame) : Statement (.sopen c) :=
  of_frame rfl rfl rfl rfl
theorem spublish (c : Frame) : Statement (.spublish c) :=
  of_frame rfl rfl rfl rfl
theorem srelease (c : Frame) : Statement (.srelease c) :=
  of_frame rfl rfl rfl rfl
theorem srewind (c : Frame) : Statement (.srewind c) :=
  of_frame rfl rfl rfl rfl
theorem sclose (c : Frame) : Statement (.sclose c) :=
  of_frame rfl rfl rfl rfl
theorem sstat (c : Frame) : Statement (.sstat c) :=
  of_frame rfl rfl rfl rfl
theorem sbind (c : Frame) : Statement (.sbind c) :=
  of_frame rfl rfl rfl rfl
theorem tcopy (c : Frame) : Statement (.tcopy c) :=
  of_frame rfl rfl rfl rfl
theorem qcopy (c : Frame) : Statement (.qcopy c) :=
  of_frame rfl rfl rfl rfl
theorem tfill (c : Frame) : Statement (.tfill c) :=
  of_frame rfl rfl rfl rfl
theorem tgather (c : Frame) : Statement (.tgather c) :=
  of_frame rfl rfl rfl rfl
theorem tscatter (c : Frame) : Statement (.tscatter c) :=
  of_frame rfl rfl rfl rfl
theorem karm (c : Frame) : Statement (.karm c) :=
  of_frame rfl rfl rfl rfl
theorem binit (c : Frame) : Statement (.binit c) :=
  of_frame rfl rfl rfl rfl
theorem fprobe (c : Frame) : Statement (.fprobe c) :=
  of_frame rfl rfl rfl rfl
theorem rmark (c : Frame) : Statement (.rmark c) :=
  of_frame rfl rfl rfl rfl
theorem cfgput (c : Frame) : Statement (.cfgput c) :=
  of_frame rfl rfl rfl rfl
theorem ctxsave (c : Frame) : Statement (.ctxsave c) :=
  of_frame rfl rfl rfl rfl
theorem ctxload (c : Frame) : Statement (.ctxload c) :=
  of_frame rfl rfl rfl rfl
theorem pmark (c : Frame) : Statement (.pmark c) :=
  of_frame rfl rfl rfl rfl
theorem ngroup (c : Frame) : Statement (.ngroup c) :=
  of_frame rfl rfl rfl rfl
theorem nsend (c : Frame) : Statement (.nsend c) :=
  of_frame rfl rfl rfl rfl
theorem npause (c : Frame) : Statement (.npause c) :=
  of_frame rfl rfl rfl rfl
theorem nresume (c : Frame) : Statement (.nresume c) :=
  of_frame rfl rfl rfl rfl
theorem dcreate (c : Frame) : Statement (.dcreate c) :=
  of_frame rfl rfl rfl rfl
theorem ddestroy (c : Frame) : Statement (.ddestroy c) :=
  of_frame rfl rfl rfl rfl
theorem ddeposit (c : Frame) : Statement (.ddeposit c) :=
  of_frame rfl rfl rfl rfl
theorem dcopy (c : Frame) : Statement (.dcopy c) :=
  of_frame rfl rfl rfl rfl
theorem dtake (c : Frame) : Statement (.dtake c) :=
  of_frame rfl rfl rfl rfl
theorem chainrun (c : Frame) : Statement (.chainrun c) :=
  of_frame rfl rfl rfl rfl
theorem chainstep (c : Frame) : Statement (.chainstep c) :=
  of_frame rfl rfl rfl rfl
theorem replay (c : Frame) : Statement (.replay c) :=
  of_frame rfl rfl rfl rfl
theorem pmap (c : Frame) : Statement (.pmap c) :=
  of_frame rfl rfl rfl rfl
theorem punmap (c : Frame) : Statement (.punmap c) :=
  of_frame rfl rfl rfl rfl
theorem ownxfer (c : Frame) : Statement (.ownxfer c) :=
  of_frame rfl rfl rfl rfl
theorem ctxCreate (e : HostEntry) : Statement (.ctxCreate e) :=
  of_host rfl rfl rfl rfl rfl
theorem ctxDestroy (e : HostEntry) : Statement (.ctxDestroy e) :=
  of_host rfl rfl rfl rfl rfl
theorem map (e : HostEntry) : Statement (.map e) :=
  of_host rfl rfl rfl rfl rfl
theorem unmap (e : HostEntry) : Statement (.unmap e) :=
  of_host rfl rfl rfl rfl rfl
theorem launch (e : HostEntry) : Statement (.launch e) :=
  of_host rfl rfl rfl rfl rfl
theorem streamBind (e : HostEntry) : Statement (.streamBind e) :=
  of_host rfl rfl rfl rfl rfl
theorem drawerCreate (e : HostEntry) : Statement (.drawerCreate e) :=
  of_host rfl rfl rfl rfl rfl
theorem queueCreate (e : HostEntry) : Statement (.queueCreate e) :=
  of_host rfl rfl rfl rfl rfl
theorem queueDestroy (e : HostEntry) : Statement (.queueDestroy e) :=
  of_host rfl rfl rfl rfl rfl
theorem keyLoad (e : HostEntry) : Statement (.keyLoad e) :=
  of_host rfl rfl rfl rfl rfl
theorem snapshot (e : HostEntry) : Statement (.snapshot e) :=
  of_host rfl rfl rfl rfl rfl
theorem vfReset (e : HostEntry) : Statement (.vfReset e) :=
  of_host rfl rfl rfl rfl rfl
theorem iterNextValue (l : SlotLoc) : Statement (.iterNextValue l) := of_none rfl
theorem markerJoin (l : SlotLoc) : Statement (.markerJoin l) := of_none rfl
theorem statefulRelease (l : SlotLoc) : Statement (.statefulRelease l) := of_none rfl
theorem resultWrite (g : RegionNo) (cell : CellNo) (seq : Nat) : Statement (.resultWrite g cell seq) := of_none rfl
theorem undefinedWord (w : W32) : Statement (.undefinedWord w) := of_none rfl
theorem fetchBeyondSection : Statement (.fetchBeyondSection) := of_none rfl
theorem streamAccessFault (g : RegionNo) (x : CtxNo) : Statement (.streamAccessFault g x) := of_none rfl
theorem microprogramRun (g : RegionNo) : Statement (.microprogramRun g) := of_none rfl
theorem debugAttach (g : RegionNo) (x : CtxNo) (on : Bool) : Statement (.debugAttach g x on) := of_none rfl
theorem debugHalt (g : RegionNo) (x : CtxNo) : Statement (.debugHalt g x) := of_none rfl
theorem debugResume (g : RegionNo) (x : CtxNo) : Statement (.debugResume g x) := of_none rfl
theorem debugRegisterWrite (g : RegionNo) (x : CtxNo) (t : DebugTarget) (v : Line) : Statement (.debugRegisterWrite g x t v) := of_none rfl
theorem streamRead (g : RegionNo) (id : Nat) : Statement (.streamRead g id) := of_none rfl
theorem streamWrite (g : RegionNo) (id : Nat) : Statement (.streamWrite g id) := of_none rfl
theorem hwmWrite (f : BitVec 5) (ap : BitVec 6) (v : W64) : Statement (.hwmWrite f ap v) := of_none rfl
theorem hrelWrite (f : BitVec 5) (ap : BitVec 6) (v : W64) : Statement (.hrelWrite f ap v) := of_none rfl
theorem apertureDataWrite (f : BitVec 5) (ap : BitVec 6) (off : Nat) (bytes : List Byte) : Statement (.apertureDataWrite f ap off bytes) := of_none rfl
theorem edgePortStreamRead (g : RegionNo) (port : BitVec 6) : Statement (.edgePortStreamRead g port) := of_none rfl
theorem edgePortStreamWrite (g : RegionNo) (port : BitVec 6) : Statement (.edgePortStreamWrite g port) := of_none rfl
theorem edgePortMarkerPublish (g : RegionNo) (port : BitVec 6) : Statement (.edgePortMarkerPublish g port) := of_none rfl
theorem barrierCount (g : RegionNo) (id : Nat) : Statement (.barrierCount g id) := of_none rfl
theorem probeReturn (g : RegionNo) (ch : BitVec 7) : Statement (.probeReturn g ch) := of_none rfl
theorem collectiveHop (g : RegionNo) (arrival : Option (BitVec 4 × Packet)) : Statement (.collectiveHop g arrival) := of_none rfl
theorem groupPauseReceive (g : RegionNo) (cid : BitVec 12) (grp : BitVec 16) (p : PauseMsg) : Statement (.groupPauseReceive g cid grp p) := of_none rfl
theorem groupPauseReport (g : RegionNo) (cid : BitVec 12) (grp : BitVec 16) (rank : BitVec 16) : Statement (.groupPauseReport g cid grp rank) := of_none rfl
theorem groupResumeReceive (g : RegionNo) (cid : BitVec 12) (grp : BitVec 16) : Statement (.groupResumeReceive g cid grp) := of_none rfl
theorem memberLoss (cid : BitVec 12) (grp : BitVec 16) (rank : BitVec 16) (reports : LossMsg) : Statement (.memberLoss cid grp rank reports) := of_none rfl
theorem voingTokenReceive (link : BitVec 4) (ch : Byte) (tok : Token) : Statement (.voingTokenReceive link ch tok) := of_none rfl
theorem voingAcknowledgement (link : BitVec 4) : Statement (.voingAcknowledgement link) := of_none rfl
theorem cxlWriteCompletion (line : Nat) : Statement (.cxlWriteCompletion line) := of_none rfl
theorem anchorReserve (slice : BitVec 7) (i : Nat) : Statement (.anchorReserve slice i) := of_none rfl
theorem homeDeposit (slice : BitVec 7) (i : Nat) : Statement (.homeDeposit slice i) := of_none rfl
theorem homeMatch (slice : BitVec 7) (i : Nat) : Statement (.homeMatch slice i) := of_none rfl
theorem anchorReturn (slice : BitVec 7) (i : Nat) : Statement (.anchorReturn slice i) := of_none rfl
theorem drawerResend (g : RegionNo) (i : Nat) : Statement (.drawerResend g i) := of_none rfl
theorem drawerLiveMark (slice : BitVec 7) (i : Nat) : Statement (.drawerLiveMark slice i) := of_none rfl
theorem drawerSweep (slice : BitVec 7) (i : Nat) : Statement (.drawerSweep slice i) := of_none rfl
theorem chainStepStart (g : RegionNo) (id : Nat) : Statement (.chainStepStart g id) := of_none rfl
theorem commandStart (g : RegionNo) (x : CtxNo) (port : BitVec 4) : Statement (.commandStart g x port) := of_none rfl
theorem commandComplete (g : RegionNo) (x : CtxNo) (port : BitVec 4) : Statement (.commandComplete g x port) := of_none rfl
theorem accessPerform (g : RegionNo) (id : Nat) : Statement (.accessPerform g id) := of_none rfl
theorem accessDeliver (g : RegionNo) (id : Nat) : Statement (.accessDeliver g id) := of_none rfl
theorem sourcePortPull (g : RegionNo) (ch : BitVec 7) : Statement (.sourcePortPull g ch) := of_none rfl
theorem flitMove (g : RegionNo) (i : Nat) : Statement (.flitMove g i) := of_none rfl
theorem threadTokenEntry (g : RegionNo) (port : BitVec 6) : Statement (.threadTokenEntry g port) := of_none rfl
theorem threadTokenAdmit (g : RegionNo) (x : CtxNo) : Statement (.threadTokenAdmit g x) := of_none rfl
theorem blockDecision (g : RegionNo) (x : CtxNo) : Statement (.blockDecision g x) := of_none rfl
theorem activate (g : RegionNo) (x : CtxNo) : Statement (.activate g x) := of_none rfl
theorem quantumEnd (g : RegionNo) : Statement (.quantumEnd g) := of_none rfl
theorem imageReady (g : RegionNo) (i : Nat) : Statement (.imageReady g i) := of_none rfl
theorem regionSave (g : RegionNo) : Statement (.regionSave g) := of_none rfl
theorem regionRestore (g : RegionNo) (i : Nat) : Statement (.regionRestore g i) := of_none rfl
theorem powerGate (g : RegionNo) : Statement (.powerGate g) := of_none rfl
theorem clockGate (g : RegionNo) : Statement (.clockGate g) := of_none rfl
theorem clockGateResume (g : RegionNo) : Statement (.clockGateResume g) := of_none rfl
theorem residencyT2 (g : RegionNo) : Statement (.residencyT2 g) := of_none rfl
theorem kernelEnd (k : Nat) : Statement (.kernelEnd k) := of_none rfl
theorem faultRecord (i : Nat) : Statement (.faultRecord i) := of_none rfl
theorem drainLimit (g : RegionNo) : Statement (.drainLimit g) := of_none rfl
theorem hostMemoryAccess (addr : Nat) (wr : Option (List Byte)) : Statement (.hostMemoryAccess addr wr) := of_none rfl
theorem ownershipTransferEnd (granule : Nat) : Statement (.ownershipTransferEnd granule) := of_none rfl
theorem ownershipTimeout (granule : Nat) : Statement (.ownershipTimeout granule) := of_none rfl
theorem commandAccept (f : BitVec 5) (q : BitVec 4) : Statement (.commandAccept f q) := of_none rfl
theorem tailWrite (f : BitVec 5) (q : BitVec 4) (v : W64) : Statement (.tailWrite f q v) := of_none rfl
theorem cheadWrite (f : BitVec 5) (q : BitVec 4) (v : W64) : Statement (.cheadWrite f q v) := of_none rfl
theorem aqsWrite (f : BitVec 5) (v : W64) : Statement (.aqsWrite f v) := of_none rfl
theorem s2rootWrite (f : BitVec 5) (n : BitVec 5) (v : W64) : Statement (.s2rootWrite f n v) := of_none rfl
theorem s2fheadWrite (f : BitVec 5) (v : W64) : Statement (.s2fheadWrite f v) := of_none rfl
theorem s2fqsWrite (f : BitVec 5) (v : W64) : Statement (.s2fqsWrite f v) := of_none rfl
theorem go (f : BitVec 5) (v : W64) : Statement (.go f v) := of_none rfl
theorem qgo (f : BitVec 5) (v : W64) : Statement (.qgo f v) := of_none rfl
theorem registerWrite (f : BitVec 5) (off : BitVec 16) (v : W64) : Statement (.registerWrite f off v) := of_none rfl
theorem bureauPageFetch (page : Nat) : Statement (.bureauPageFetch page) := of_none rfl
theorem correctedError (src : ErrSource) : Statement (.correctedError src) := of_none rfl
theorem linkCrcRetry (link : BitVec 4) : Statement (.linkCrcRetry link) := of_none rfl
theorem linkRetrainDone (link : BitVec 4) : Statement (.linkRetrainDone link) := of_none rfl
theorem uncorrectableError (t : ErrTarget) : Statement (.uncorrectableError t) := of_none rfl
theorem scrubUncorrectable (addr : Nat) : Statement (.scrubUncorrectable addr) := of_none rfl
theorem heartbeat : Statement (.heartbeat) := of_none rfl
theorem heartbeatTimeout : Statement (.heartbeatTimeout) := of_none rfl
theorem lockstepMismatch : Statement (.lockstepMismatch) := of_none rfl
theorem reset : Statement (.reset) := of_none rfl
theorem powerLoss : Statement (.powerLoss) := of_none rfl
theorem functionEnable (f : BitVec 5) (on : Bool) : Statement (.functionEnable f on) := of_none rfl

end Sys2Proof.Laws.RoundTrip
end

