-- ==== Sys2Proof/Tests/Slice0.lean ====
section
/-!
SUPPORT. The model's own tests: ill-formed terms that the checks refuse, words of the manual decoded by hand, and for every statement a
state and operands that meet its hypotheses. Expected results are the manual's worked words and tables, or its rules by hand.
-/

namespace Sys2Proof.Tests
open Machine

set_option Elab.async false

/-- A slot word's fields, M clear. -/
def sw (ty : BitVec 4) (sa sb : BitVec 5) (ix : BitVec 16) (t0 t1 : BitVec 12) : SlotWord := ⟨ty, sa, sb, ix, t0, t1, false⟩

/-- A command's fields. -/
def fr (cf : BitVec 2) (handle : BitVec 16) (w0 w1 w2 : W32) : Frame :=
  { ord := false, ken := false, ksel := 0, cf := cf, handle := handle, w2 := w2, w1 := w1, w0 := w0 }

/-! ## Well-formedness -/

/-- 06 R174 to R194: codes and fields of Lectern words that no word has. -/
theorem test_wf_lectern :
    ((Instr.cset 0 1 6).wf || (Instr.cget 0 1 6).wf || (Instr.kwait 0 4 0 0).wf || (Instr.fence 5).wf || (Instr.rdst 8 0).wf
      || (Instr.wrst 9 0 0).wf || (Instr.wrst 8 0 0x200).wf || (Instr.wrst 1 0 1).wf || (Instr.xinv 3 0).wf) = false
    ∧ ((Instr.cset 0 0 6).wf && (Instr.kwait 0 3 0 0).wf && (Instr.fence 4).wf && (Instr.rdst 7 0).wf && (Instr.wrst 8 0 0x1FF).wf
      && (Instr.xinv 2 0).wf) = true := by decide

/-- 03 R79 to R86: slot words with a type, a source, an immediate, a mode, a destination or a target that load refuses. -/
theorem test_wf_slot :
    ((Instr.iadd (sw 6 0 1 0 4 0xE00)).wf            -- a type it does not take
      || (Instr.iadd (sw 0 0 11 0 4 0xE00)).wf       -- source code 11
      || (Instr.iadd (sw 4 0 9 0x0100 4 0xE00)).wf   -- an immediate beyond INT8
      || (Instr.iadd (sw 0 0 1 0x0100 4 0xE00)).wf   -- FN where none is defined
      || (Instr.iadd (sw 0 0 1 0x0001 4 0xE00)).wf   -- DREG without DK
      || (Instr.iadd (sw 0 0 1 0x0080 4 0xE00)).wf   -- XH without a main register
      || (Instr.iadd (sw 0 0 1 0 0x100 0xE00)).wf    -- slot 64
      || (Instr.iadd (sw 0 0 1 0 4 4)).wf            -- both targets the same position
      || (Instr.iadd (sw 0 0 1 0 0xC04 0xE00)).wf    -- route 6 of an instruction that is no memory operation
      || (Instr.iadd (sw 0 0 1 0 4 0xE01)).wf        -- route 7 with an operand
      || (Instr.ffma (sw 6 0 1 0x0F00 4 0xE00)).wf   -- third source 15
      || (Instr.isect (sw 0 1 1 0 4 0xE00)).wf) = false
    ∧ ((Instr.iadd (sw 0 0 1 0 4 0xE00)).wf && (Instr.iadd (sw 4 0 9 0xFF80 4 0xE00)).wf && (Instr.ld (sw 0 0 10 0 0xC04 0xE00)).wf) = true := by
  decide

/-- 03 R91: commands with a bit that must be zero or a field beyond its range; and the packet of a hop with too few routes. -/
theorem test_wf_frame :
    ((Instr.sclose (fr 0 0 1 0 0)).wf || (Instr.sopen (fr 2 0 0 0 0)).wf || (Instr.qcopy (fr 0 0 5 0 0)).wf || (Instr.karm (fr 3 0 0 0 0)).wf
      || (Instr.ddeposit (fr 0 0 9 0 0)).wf || (Instr.dtake (fr 0 0 0x90000 0 0)).wf || (Instr.cfgput (fr 0 0 17 0 0)).wf
      || (Instr.replay (fr 1 0 0x1D 0 0)).wf || (Instr.ngroup (fr 0 0 1 0 0)).wf
      || (Instr.sclose { fr 0 0 0 0 0 with ksel := 1 }).wf || (Instr.collectiveHop 0 (some (0, default))).wf) = false
    ∧ ((Instr.sclose (fr 0 0 0 0 0)).wf && (Instr.qcopy (fr 0 0 6 0 0)).wf && (Instr.ddeposit (fr 0 0 8 0 0)).wf && (Instr.cfgput (fr 0 0 16 0 0)).wf
      && (Instr.replay (fr 1 0 0x1C 0 0)).wf && (Instr.ngroup (fr 0 0 2 0 0)).wf) = true := by decide

/-! ## Words that the manual writes out, decoded -/

/-- 03 R97, 06, 08, 14, 18: Lectern words. -/
theorem test_decode_lectern :
    decodeTableWord 32 0x00611000 = some (.add 3 1 2) ∧ decodeTableWord 32 0x84CD0800 = some (.kwait 3 2 2 0)
    ∧ decodeTableWord 32 0x80C81C00 = some (.cissue 1 7) ∧ decodeTableWord 32 0x80514005 = some (.cset 2 5 5)
    ∧ decodeTableWord 32 0x81018800 = some (.cwait 6 2 false) ∧ decodeTableWord 32 0x5C860010 = some (.stD 4 6 0x10)
    ∧ decodeTableWord 32 0x8C4C1C00 = some (.wrst 3 7 0) ∧ decodeTableWord 32 0x88840002 = some (.bdset 1 0 2)
    ∧ decodeTableWord 32 0x8C145000 = some (.rdst 5 20) ∧ decodeTableWord 32 0x04201001 = some (.addi 1 0 0x1001)
    ∧ decodeTableWord 32 0x2420C000 = some (.lui 1 0xC000) ∧ decodeTableWord 32 0x54850000 = some (.stH 4 5 0)
    ∧ decodeTableWord 32 0x45440000 = some (.ldH 10 4 0) ∧ decodeTableWord 32 0x6060FFFD = some (.beq 3 0 0xFFFD)
    ∧ decodeTableWord 32 0x8D800000 = some (.lexit 0) := by decide

/-- 03 R94: fields that must be zero, codes and functions that are not listed. -/
theorem test_decode_refuses :
    decodeTableWord 32 0x0000000E = none ∧ decodeTableWord 32 0x1400FFC0 = none ∧ decodeTableWord 32 0x2C000000 = none
    ∧ decodeTableWord 32 0x84CE0800 = none ∧ decodeTableWord 64 0x0000000000000001 = none
    ∧ decodeTableWord 128 0x0F000000000000000000000000000000 = none := by decide

/-- 04, 05, 07, 18: slot words. -/
theorem test_decode_slot :
    decodeTableWord 64 0x0200140000028030 = some (.steer ⟨0, 0, 10, 0, 0x014, 0x018, false⟩)
    ∧ decodeTableWord 64 0x2A00020400017C00 = some (.icmp ⟨0, 0, 1, 0x0200, 0x00B, 0xE00, false⟩)
    ∧ decodeTableWord 64 0x66C8154C01419C00 = some (.cvt ⟨9, 0, 10, 0xA600, 0xA0C, 0xE00, false⟩)
    ∧ decodeTableWord 64 0x0380150000009C00 = some (.iter ⟨0, 0, 10, 0x8000, 0x004, 0xE00, false⟩)
    ∧ decodeTableWord 64 0xA038140200811850 = some (.ld ⟨7, 0, 10, 0x0100, 0x408, 0xC28, false⟩)
    ∧ decodeTableWord 64 0xC138144E00039C00 = some (.mfire ⟨7, 0, 10, 0x2700, 0x01C, 0xE00, false⟩)
    ∧ decodeTableWord 64 0x6030200081421C01 = some (.fadd ⟨6, 0, 16, 0x0040, 0xA10, 0xE00, true⟩)
    ∧ decodeTableWord 64 0xE180140000069C00 = some (.barr ⟨0, 0, 10, 0, 0x034, 0xE00, false⟩)
    ∧ decodeTableWord 64 0xA380140001829C00 = some (.spub ⟨0, 0, 10, 0, 0xC14, 0xE00, false⟩)
    ∧ decodeTableWord 64 0xA10002020002BC00 = some (.ldg ⟨0, 0, 1, 0x0100, 0x015, 0xE00, false⟩)
    ∧ decodeTableWord 64 0x030A540100009C00 = some (.const ⟨1, 9, 10, 0x0080, 0x004, 0xE00, false⟩) := by decide

/-- 07, 10, 11, 14, 16, 17, 18: command frames. -/
theorem test_decode_frame :
    decodeTableWord 128 0x10490005C00000000000000000000081 = some (.sopen ⟨false, true, 2, 1, 5, 0xC0000000, 0, 0x81⟩)
    ∧ decodeTableWord 128 0x204C0000C00000000000010000000000 = some (.tcopy ⟨false, true, 3, 0, 0, 0xC0000000, 0x100, 0⟩)
    ∧ decodeTableWord 128 0x41480000000000400000000000000000 = some (.ctxsave ⟨false, true, 2, 0, 0, 0x40, 0, 0⟩)
    ∧ decodeTableWord 128 0x71440000C00000000000020000000001 = some (.chainstep ⟨false, true, 1, 0, 0, 0xC0000000, 0x200, 1⟩)
    ∧ decodeTableWord 128 0x81480007C00000000000020000000000 = some (.pmap ⟨false, true, 2, 0, 7, 0xC0000000, 0x200, 0⟩)
    ∧ decodeTableWord 128 0x80000011000000004000300000000001 = some (.replay ⟨false, false, 0, 0, 0x11, 0, 0x40003000, 1⟩) := by decide

/-- 16 R301: host entries: the opcode in the lowest byte, O0 at bytes 8 to 15. -/
theorem test_decode_host :
    decodeTableWord 512 (0x06 + 7 * 2 ^ 64 + 0x00AB * 2 ^ 16) = some (.streamBind ⟨0, 0xAB, 0, 7, 0, 0, 0, 0, 0, 0⟩)
    ∧ decodeTableWord 512 0x00 = none := by decide

/-! ## Witnesses: for every statement with hypotheses, a state and operands that meet them -/

/-- A state whose agent is thread 0 of region 0. -/
def atThread (t : Thread) : State := ({ State.reset with cur := .lectern 0 0 } : State).updThread 0 0 (fun _ => t)
/-- A thread with the least 64-bit integer in g1, −1 in g2, an address of class 0xC in g3, one of class 0x4 in g4, 0 elsewhere. -/
def thr : Thread :=
  { live := true, prog := [0], g := [(1, 0x8000000000000000), (2, 0xFFFFFFFFFFFFFFFF), (3, 0xC000000000000000), (4, 0x4000000000000000)],
    quant := 100, ports := [(1, { rq := [7] }), (2, { iq := [1, 2, 3, 4, 5, 6, 7, 8] })], bd := [(1, 256)], k := [(1, 0xFFFFFFFF)] }
def lec : State := atThread thr
/-- The same thread with one lease unit in every cell. -/
def leased (s : State) : State := s.updCore 0 (fun k => { k with grants := [(0, { lease := 1, acc := 1 })] })
/-- A state whose agent is the microprogram thread of region 0. -/
def mic : State :=
  ({ State.reset with cur := .micro 0 } : State).setReg 0 { micro := { running := true, ofService := false, th := thr } }

theorem witness_RegisterWordsWriteTheirValue :
    Claims.Ready lec (.prog 0 0) [0, 1, 2] ∧ Claims.Ready lec (.prog 0 0) [31, 1] ∧ Claims.Ready mic (.micro 0) [3, 1, 2]
    ∧ (fld (0x14000040#32) 26 6 ∈ [0x05#6, 0x06#6, 0x07#6] ∧ fld (0x14000040#32) 6 10 ≠ 0#10) := by
  unfold Claims.Ready; decide

theorem witness_BranchesAndJumpsSetThePc :
    Claims.Ready lec (.prog 0 0) [1, 2] ∧ Claims.Ready lec (.prog 0 0) [31] ∧ Claims.Ready lec (.prog 0 0) [0, 2]
    ∧ (let s : State := { atThread { thr with pc := 4 } with agenda := [.lectern 0 0] }
       s.arm.stopped = false ∧ 4 * (s.thread 0 0).prog.length ≤ (s.thread 0 0).pc.toNat
        ∧ Claims.ReadyProg { s with cur := .lectern 0 0, agenda := [], tick := s.tick + 1 } 0 0 []) := by
  unfold Claims.Ready Claims.ReadyProg; decide

theorem witness_LoadsAndStoresStartOneAccess :
    let s := leased lec
    Claims.ReadyProg s 0 0 [5, 3] ∧ Claims.ReadyProg s 0 0 [39, 3]
    ∧ clsOf 0xC000000000000FF8 = 0xC ∧ bits 0xC000000000000FF8 24 59 = 0 ∧ 0xC000000000000FF8 % 8 = 0
    ∧ bankPlace 0 (s.grant 0 0) (0xC000000000000FF8 % 2 ^ 24) 8 = .ok { bank := true, g := 0, pa := 0xFF8 }
    ∧ clsOf 0x4000000000000000 = 4 ∧ ((s.core 0).accs.filter (fun e => e.port == .thread 0 && e.wr && !e.done)).length < 8
    ∧ (let t := s.updCore 0 (fun k => { k with accs := (List.range 8).map (fun n => { id := n, port := .thread 0, wr := true }) })
       8 ≤ ((t.core 0).accs.filter (fun e => e.port == .thread 0 && e.wr && !e.done)).length ∧ Claims.ReadyProg t 0 0 [3, 5]) := by
  unfold Claims.ReadyProg; decide
/-- A context whose tables map the first GiB of addresses to itself (17 R324), in place of memory. -/
def tables : Memory :=
  Memory.writeN (Memory.writeN (Memory.writeN [] 0x100000 (natToBytes 8 0x101001)) 0x101000 (natToBytes 8 0x102001)) 0x102000 (natToBytes 8 7)
def mapped (s : State) : State := { s with ctxs := [(0, { live := true, root := 0x100000 })], mem := tables }

theorem witness_LoadsOfClassZero :
    let s := mapped (leased lec)
    Claims.ReadyProg s 0 0 [5, 3] ∧ clsOf 0x200 = 0 ∧ bits 0x200 57 59 = 0
    ∧ ((s.joinAcc 0 { port := .thread 0, addr := 0x200, n := 8, size := 8, phase := .walk 0x200 }).translate 0 0 0x200 { narrow := true }).2
        = .ok { pa := 0x200, gpa := 0x200 } ∧ (s.core 0).accs = [] := by
  unfold Claims.ReadyProg; decide +kernel

theorem witness_LecternAccessChecksTrapInOrder :
    let s := leased lec
    Claims.ReadyProg s 0 0 [5, 3] ∧ Claims.ReadyProg s 0 0 [3, 5]
    ∧ ((s.core 0).accs.filter (fun e => e.port == .thread 0 && e.wr && !e.done)).length < 8
    ∧ 0xC000000000000001 % 2 ≠ 0 ∧ (0x8000000000000000 % 8 = 0 ∧ clsOf 0x8000000000000000 = 8)
    ∧ (0x1000000000000000 % 8 = 0 ∧ clsOf 0x1000000000000000 ∉ [0, 4, 8, 0xC])
    ∧ (clsOf 0xC000000000001000 = 0xC ∧ bits 0xC000000000001000 24 59 = 0 ∧ (s.grant 0 0).lease * 32 ≤ bits 0xC000000000001000 7 15) := by
  unfold Claims.ReadyProg; decide +kernel

/-- A region with one access, of a thread or of slot 0 of cell 0. -/
def withAcc (a : Acc) (s : State) : State := s.updCore 0 (fun k => { k with accs := [a] })
/-- The last aligned 8 bytes of a lease of one unit, and of a line of memory. -/
def bankEnd : Place := { bank := true, g := 0, pa := 0xFF8 }
def lineEnd : Place := { pa := 0x278 }

theorem witness_LecternAccessesPerformAndDeliver :
    (let s := withAcc { id := 3, addr := 0xC * 2 ^ 60 + 0xFF8, n := 8, phase := .ready bankEnd } lec
     s.acc 0 3 = some { id := 3, addr := 0xC * 2 ^ 60 + 0xFF8, n := 8, phase := .ready bankEnd }
      ∧ s.holds 0 { id := 3, addr := 0xC * 2 ^ 60 + 0xFF8, n := 8, phase := .ready bankEnd } = false
      ∧ s.ownedOk bankEnd = true ∧ clsOf (0xC * 2 ^ 60 + 0xFF8) ≠ 4 ∧ s.memOk = true
      ∧ s.accSpoiled 0 { id := 3, addr := 0xC * 2 ^ 60 + 0xFF8, n := 8, phase := .ready bankEnd } bankEnd = false)
    ∧ (let a : Acc := { id := 3, addr := 0x278, n := 8, op := .write [1, 2, 3, 4, 5, 6, 7, 8], wr := true, phase := .ready lineEnd }
       let s := withAcc a lec
       s.acc 0 3 = some a ∧ s.holds 0 a = false ∧ s.ownedOk lineEnd = true ∧ clsOf a.addr ≠ 4
        ∧ s.accSpoiled 0 a lineEnd = false ∧ lineEnd.pa % 128 + 8 ≤ 128 ∧ Tab.get s.lineKey (lineEnd.pa / 128) = s.keyOf lineEnd)
    ∧ (let a : Acc := { id := 3, port := .slot 0 0 0, addr := 0xC * 2 ^ 60, n := 4, phase := .ready { bank := true, g := 0 } }
       let s := withAcc a lec
       s.acc 0 3 = some a ∧ s.holds 0 a = false)
    ∧ (let a : Acc := { id := 3, reg := 0, size := 8, phase := .performed (2 ^ 64 - 1) }
       (withAcc a lec).acc 0 3 = some a ∧ a.reg < 32 ∧ a.size ∈ [1, 2, 4, 8] ∧ 2 ^ 64 - 1 < 2 ^ (8 * a.size))
    ∧ (let a : Acc := { id := 3, reg := 39, size := 16, phase := .performed 0 }
       (withAcc a lec).acc 0 3 = some a ∧ 32 ≤ a.reg) := by decide +kernel

theorem witness_CommandRegistersAndCissue :
    Claims.ReadyProg lec 0 0 [39, 31] ∧ Claims.ReadyProg lec 0 0 [31]
    ∧ ((lec.thread 0 0).port 1).rq = [7] ∧ ((lec.thread 0 0).port 0).rq = []
    ∧ ([0x14D40002000000000000000000000000, 0x80000000000000000000000000000000, 0x0F000000000000000000000000000000,
        0x14000000000000000000000000000001].all (fun w : W128 => (atThread { thr with c := [(0, w)] }).regsReady (.prog 0 0) [32])) = true
    ∧ (let w : W128 := 0x14D40002000000000000000000000000
       ((lec.thread 0 0).port 0).iq.length < 8 ∧ (frameOf (fld w 120 8) (frameFields w)).isSome = true
        ∧ FrameRules.needsService (fld w 120 8) = false ∧ FrameRules.offending (fld w 120 8) (frameFields w) = none)
    ∧ FrameRules.needsService (fld (0x80000000000000000000000000000000#128) 120 8) = true ∧ thr.spriv = false
    ∧ (frameOf (fld (0x0F000000000000000000000000000000#128) 120 8) (frameFields 0x0F000000000000000000000000000000)).isNone = true
    ∧ FrameRules.offending (fld (0x14000000000000000000000000000001#128) 120 8) (frameFields 0x14000000000000000000000000000001) = some 0
    ∧ ((lec.thread 0 0).port 0).iq = [] ∧ ((lec.thread 0 0).port 0).order = []
    ∧ 8 ≤ ((lec.thread 0 0).port 2).iq.length := by
  unfold Claims.ReadyProg; decide +kernel

theorem witness_CounterAndBondWords :
    Claims.ReadyProg lec 0 0 [2]
    ∧ thr.counter 1 = fld (thr.rg 2) 0 32 + (0#10).zeroExtend 32 ∧ thr.counter 1 ≠ fld (thr.rg 2) 0 32 + (1#10).zeroExtend 32
    ∧ (fld (thr.rg 2) 0 32 + (1#10).zeroExtend 32).toNat ≤ (thr.counter 0).toNat
    ∧ (thr.counter 0).toNat < (fld (thr.rg 2) 0 32 + (0#10).zeroExtend 32).toNat ∧ thr.latched = false
    ∧ (let n : W32 := fld (thr.rg 2) 0 32 + (0#10).zeroExtend 32
       thr.counter 0 ≠ n ∧ thr.counter 1 = n ∧ (thr.counter 0).toNat < n.toNat ∧ n.toNat ≤ (thr.counter 1).toNat)
    ∧ Claims.ReadyProg (atThread { thr with latched := true }) 0 0 [2]
    ∧ (1 ≤ (thr.rg 0 + (1#10).zeroExtend 64).toNat ∧ (thr.rg 0 + (256#10).zeroExtend 64).toNat ≤ 256)
    ∧ (thr.rg 0 + (0#10).zeroExtend 64).toNat = 0 ∧ 256 < (thr.rg 0 + (257#10).zeroExtend 64).toNat := by
  unfold Claims.ReadyProg; decide +kernel

/-- A bank with a barrier at its first bytes. -/
def barrierAt (b : Barrier) (s : State) : State := { leased s with banks := Memory.writeN [] 0 b.bytes }

theorem witness_ArrivalPhaseAndFence :
    Claims.ReadyProg lec 0 0 [0] ∧ thr.bwarr = none ∧ (1 : Nat) % 16 ≠ 0 ∧ 2 ^ 24 ≤ (2 ^ 24 : Nat)
    ∧ (let s := barrierAt { exp := 1, pend := 1 } lec
       bankPlace 0 (s.grant 0 0) 0 16 = .ok { bank := true, g := 0 } ∧ (s.core 0).threadDone 0 = true
        ∧ s.spoiled { bank := true, g := 0 } 16 false = false
        ∧ (Barrier.of (s.readPlace { bank := true, g := 0 } 16)).exp ≠ 0 ∧ (Barrier.of (s.readPlace { bank := true, g := 0 } 16)).pend = 1)
    ∧ (Barrier.of ((barrierAt {} lec).readPlace { bank := true, g := 0 } 16)).exp = 0
    ∧ 1 < (Barrier.of ((barrierAt { exp := 2 ^ 28 - 1, pend := 2 } lec).readPlace { bank := true, g := 0 } 16)).pend
    ∧ (let s := barrierAt { gen := 0, exp := 1, pend := 1 } (atThread { thr with bwarr := some (0, 15) })
       Claims.ReadyProg s 0 0 [0] ∧ (s.thread 0 0).bwarr = some (0, 15) ∧ s.spoiled { bank := true, g := 0 } 16 false = false ∧ (Barrier.of (s.banks.readN 0 16)).gen ≠ 15)
    ∧ (lec.thread 0 0).allPosted = false ∧ ((atThread { thr with ports := [] }).thread 0 0).allPosted = true
    ∧ (lec.core 0).accs.any (fun a => a.cell?.isSome && a.ctx == 0 && !a.done) = false
    ∧ ((withAcc { id := 3, port := .slot 0 0 0 } lec).core 0).accs.any (fun a => a.cell?.isSome && a.ctx == 0 && !a.done) = true
    ∧ Claims.ReadyProg (withAcc { id := 3, port := .slot 0 0 0 } lec) 0 0 []
    ∧ lec.cxl = [] ∧ lec.links = []
    ∧ ((withAcc {} lec).core 0).threadDone 0 = false := by
  unfold Claims.ReadyProg; decide +kernel
/-- An image of one block, with section entries and what follows them. -/
def image (n : Byte) (rest : List Byte) : List Byte := List.replicate 12 0 ++ [n, 0, 0, 0, 0, 0, 0, 1, 1, 1] ++ List.replicate 42 0 ++ rest
/-- One CELLS section with one record: slot 0 of cell 0 holds a word that is no instruction. -/
def badImage : List Byte := image 1 ([1, 0, 0, 0, 0, 0, 0, 0, 80, 0, 0, 0, 16, 0, 0, 0] ++ [0, 0, 1, 0, 0, 0, 0, 0] ++ [1, 0, 0, 0, 0, 0, 0, 0])
/-- The agent is a thread whose kernel has an image. -/
def imaged (bs : List Byte) (sc : Sched) (t : Thread) : State :=
  { leased (atThread t) with kernels := [(0, { image := bs, regions := [0] })] }.updCore 0 (fun k => { k with sched := [(0, sc)] })

theorem witness_ConfigurationWords :
    (let s := imaged (image 0 []) { active := some 0 } thr
     Claims.ReadyProg s 0 0 [] ∧ hNBLK (s.kernelOf 0 0).image ≤ 1 ∧ ¬ hNBLK (s.kernelOf 0 0).image ≤ 0
      ∧ (s.imageBlock 0 (s.blockCtx 0 0 0) 0).isOk = true ∧ (s.sched 0 (s.blockCtx 0 0 0)).active = some 0)
    ∧ (imaged badImage {} thr).imageBlock 0 0 0 = .error 0
    ∧ (let s := imaged (image 0 []) { staged := [(0, {})] } thr
       Claims.ReadyProg s 0 0 [] ∧ (s.sched 0 (s.blockCtx 0 0 0)).active ≠ some 0 ∧ thr.going ≠ some 0
        ∧ Tab.has (s.sched 0 (s.blockCtx 0 0 0)).staged 0 = true) := by
  unfold Claims.ReadyProg; decide +kernel

theorem witness_StatusRegisterWords :
    Claims.Ready lec (.prog 0 0) [2] ∧ Claims.Ready mic (.micro 0) [0] ∧ (0x0FF#10).getLsbD 8 = false ∧ (3 : BitVec 4) ∉ [0, 1, 2, 4] := by
  unfold Claims.Ready; decide +kernel

theorem witness_TrapsEnterTheHandlerAndReturn :
    Claims.ReadyProg lec 0 0 [] ∧ thr.tr = false ∧ thr.en = false ∧ thr.dbge = false
    ∧ (let t := { thr with en := true, tr := false }; Claims.ReadyProg (atThread t) 0 0 [] ∧ t.tr = false ∧ t.en = true)
    ∧ (let t := { thr with tr := true, dbge := true }; Claims.ReadyProg (atThread t) 0 0 [] ∧ t.tr = true ∧ t.dbge = true)
    ∧ lec.loadsOut 0 0 = false ∧ (withAcc { id := 3, reg := 1 } lec).loadsOut 0 0 = true ∧ Claims.ReadyProg (withAcc { id := 3, reg := 1 } lec) 0 0 []
    ∧ fld (0xFBFFFFFF#32) 26 6 ≠ 0x3F#6 ∧ fld (0xFC000000#32) 26 6 = 0x3F#6 := by
  unfold Claims.ReadyProg; decide +kernel

/-- Region 0 with a firing in flight in context 0. -/
def inFlight (s : State) : State := s.updCell 0 0 (fun c => { c with flights := [{ seq := 5, ctx := 0, slot := 0 }] })

theorem witness_MicroprogramWords :
    mic.cur = .micro 0 ∧ mic.runnable (.micro 0) = true ∧ (2#4).toNat ≤ 2
    ∧ (mic.core 0).quiet 0 = true ∧ ((inFlight mic).core 0).quiet 0 = false ∧ (inFlight mic).runnable (.micro 0) = true
    ∧ (thr.rg 0).toNat % 32 = 0 ∧ mic.spoiled { bank := true, g := 0, pa := (thr.rg 0).toNat % 2 ^ 24 } 32 false = false
    ∧ mic.ftokHeld ((mic.reg 0).micro.cur.of (mic.banks.readN (0 * 2 ^ 24 + (thr.rg 0).toNat % 2 ^ 24) 32)) = false := by decide +kernel

theorem witness_IdleAndTheEndOfAThread :
    Claims.ReadyProg lec 0 0 [2] ∧ thr.wait = none ∧ thr.ending = none ∧ (lec.core 0).threadDone 0 = true
    ∧ (let t := { thr with wait := some { kind := 13 }, woken := true }
       Claims.ReadyProg (atThread t) 0 0 [] ∧ t.wait = some { kind := 13 } ∧ t.woken = true)
    ∧ (let t := { thr with ports := [] }; Claims.ReadyProg (atThread t) 0 0 [] ∧ t.allPosted = true)
    ∧ (Claims.ReadyProg (withAcc { id := 9 } lec) 0 0 [2] ∧ ((withAcc { id := 9 } lec).core 0).threadDone 0 = false) := by
  unfold Claims.ReadyProg; decide +kernel

/-- Whether a meaning answers a next state. -/
def goes (o : Host.Outcome State Fault Refusal) : Bool := match o with
  | .next _ => true
  | _ => false

theorem witness_RegisterWordsFrame :
    Claims.registerWord (.add 0 1 2) = true ∧ lec.who = some (.prog 0 0) ∧ goes (exec (.add 0 1 2) lec) = true
    ∧ mic.who = some (.micro 0) ∧ goes (exec (.beq 1 2 3) mic) = true := by decide +kernel
/-- The slot that fires in the witnesses of cells. -/
def loc : SlotLoc := ⟨0, 0, 0, 0⟩
/-- A scalar data token. -/
def dat (v : Nat) : Token := { kind := .data, form := .scalar, ctx := 0, round := 0, p := true, tag := 0, pay := BitVec.ofNat 1024 v }
/-- The operand that it is. -/
def odat (v : Nat) : Opnd := { pay := v, tok := some (dat v) }
/-- The operand that a vector token with this payload is. -/
def ovec (v : Nat) : Opnd := { pay := v, vec := true, tok := some { dat v with form := .vector } }
/-- A slot whose result register sends a token to a position of slot 0. -/
def feed (p : Nat) (t : Token) : Nat × Slot :=
  (1 + p, { word := encodeSlot 0x001 (sw 0 0 10 0 (BitVec.ofNat 12 p) 0xE00), res := { t0 := some t } })
/-- Cell 0 of region 0 with a slot word, tokens at its positions from 0 on, and a bank of one lease unit. -/
def cellAt (op : BitVec 9) (w : SlotWord) (ts : List Token) : State :=
  (leased { State.reset with cur := .slot loc }).updCell 0 0 (fun c =>
    { c with slots := (0, { word := encodeSlot op w, pend := 1 }) :: (List.zip (List.range ts.length) ts).map (fun e => feed e.1 e.2) })

/-- What `Claims.Fires` says, as a test. -/
def firesB (s : State) (op : BitVec 9) (w : SlotWord) (forms : List TokForm) (vector : Bool) (os : List Opnd) : Bool :=
  s.cur == .slot loc && s.slotFree loc w && s.mayFire loc (SlotRules.positions op w)
    && s.sources loc w.ty.toNat w (Claims.codesOf op w) == some os && os.all (accepts w.ty.toNat forms)
    && (!os.any Claims.isSparse || (!vector && w.ty != 14 && !os.any Opnd.vec))

theorem fires_of {s : State} {op : BitVec 9} {w : SlotWord} {forms : List TokForm} {vector : Bool} {os : List Opnd}
    (h : firesB s op w forms vector os = true) : Claims.Fires s loc op w forms vector os := by
  simp only [firesB, Bool.and_eq_true, Bool.or_eq_true, Bool.not_eq_true', beq_iff_eq, bne_iff_ne] at h
  obtain ⟨⟨⟨⟨⟨h1, h2⟩, h3⟩, h4⟩, h5⟩, h6⟩ := h
  exact ⟨h1, h2, h3, h4, h5, fun k => by rcases h6 with h6 | h6 <;> simp_all⟩

/-- Words of two operands at positions 0 and 1, and of a third at position 2. -/
def two (ty : BitVec 4) : SlotWord := sw ty 0 1 0 0x028 0xE00
def three (ty : BitVec 4) : SlotWord := sw ty 0 1 0x0200 0x028 0xE00
def one (ty : BitVec 4) : SlotWord := sw ty 0 10 0 0x028 0xE00
def std : List TokForm := [.scalar, .vector, .sparse]

/-- The least INT32 and −1; 64-bit elements; a FORM 3 token. -/
theorem witness_CellIntegerAndCountingResults :
    [0x040, 0x041, 0x042, 0x043, 0x045, 0x046, 0x049, 0x04A, 0x04B, 0x04C, 0x04D, 0x04F, 0x050, 0x051, 0x054, 0x056].all (fun op : BitVec 9 =>
      firesB (cellAt op (two 0) [dat 0x80000000, dat 0xFFFFFFFF]) op (two 0) std false [odat 0x80000000, odat 0xFFFFFFFF]) = true
    ∧ [0x047, 0x048, 0x04E, 0x052, 0x053].all (fun op : BitVec 9 =>
      firesB (cellAt op (one 0) [dat 0x80000000]) op (one 0) std false [odat 0x80000000, {}]) = true
    ∧ [0x044, 0x055].all (fun op : BitVec 9 => firesB (cellAt op (three 5) [dat 0, dat 1, dat 255]) op (three 5) std false [odat 0, odat 1, odat 255]) = true
    ∧ firesB (cellAt 0x040 (two 14) [{ dat 1 with form := .vector }, { dat 2 with form := .vector }]) 0x040 (two 14) std false [ovec 1, ovec 2] = true
    ∧ firesB (cellAt 0x04E (one 1) [{ dat 1 with form := .sparse, tag := 9 }]) 0x04E (one 1) std false
        [{ pay := 1, tok := some { dat 1 with form := .sparse, tag := 9 } }, {}] = true
    ∧ ((0 : Nat) ∈ [0, 1, 2, 3, 4, 5, 14] ∧ (14 : Nat) ∈ [0, 1, 2, 3, 4, 5, 14]) := by decide +kernel

theorem witness_LaneInstructionResults :
    firesB (cellAt 0x057 (one 0) [dat 7]) 0x057 (one 0) [.scalar, .vector] true [odat 7, {}] = true
    ∧ firesB (cellAt 0x057 (two 0) [dat 7, dat 31]) 0x057 (two 0) [.scalar, .vector] true [odat 7, odat 31] = true
    ∧ [0x058, 0x059].all (fun op : BitVec 9 => firesB (cellAt op (two 2) [{ dat 1 with form := .vector }, { dat 63 with form := .vector }]) op (two 2)
        [.scalar, .vector] true [ovec 1, ovec 63]) = true
    ∧ firesB (cellAt 0x05A (two 0) [{ dat 1 with form := .vector }, { dat 63 with form := .vector }]) 0x05A (two 0) [.scalar, .vector] true
        [ovec 1, ovec 63] = true
    ∧ firesB (cellAt 0x05B (one 2) [{ dat 1 with form := .vector }]) 0x05B (one 2) [.scalar, .vector] true [ovec 1, {}] = true := by
  decide +kernel

/-- NaN, infinity and the smallest subnormal of FP32 among the operands. -/
theorem witness_CellFloatResultsAreRoundedOnce :
    [0x0C0, 0x0C1, 0x0C2].all (fun op : BitVec 9 =>
      firesB (cellAt op (two 6) [dat 0x7F800000, dat 0x00000001]) op (two 6) std false [odat 0x7F800000, odat 1]) = true
    ∧ firesB (cellAt 0x0C3 (three 6) [dat 0x7FC00000, dat 1, dat 0x80000000]) 0x0C3 (three 6) std false
        [odat 0x7FC00000, odat 1, odat 0x80000000] = true
    ∧ [0x0C8, 0x0C9, 0x0CA, 0x0CB].all (fun op : BitVec 9 => firesB (cellAt op (one 7) [dat 0]) op (one 7) std false [odat 0, {}]) = true
    ∧ firesB (cellAt 0x0CF (two 6) [dat 0x3F800000, dat 0xFF]) 0x0CF (two 6) std false [odat 0x3F800000, odat 0xFF] = true := by
  decide +kernel

theorem witness_CellSelectionsConversionsAndReductions :
    [0x0C4, 0x0C5, 0x0CC].all (fun op : BitVec 9 =>
      firesB (cellAt op (two 6) [dat 0x7FC00000, dat 0x80000000]) op (two 6) std false [odat 0x7FC00000, odat 0x80000000]) = true
    ∧ [0x0C6, 0x0C7].all (fun op : BitVec 9 => firesB (cellAt op (one 8) [dat 0x7C01]) op (one 8) std false [odat 0x7C01, {}]) = true
    ∧ (let w := sw 9 0 10 0x2600 0x028 0xE00
       firesB (cellAt 0x0CD w [dat 0x7F800000]) 0x0CD w std false [odat 0x7F800000, {}] = true
        ∧ Num.cvtDraws w.fn.toNat w.ty.toNat w.rnd.toNat = false)
    ∧ (let w := sw 9 0 10 0xA600 0x028 0xE00
       firesB (cellAt 0x0CD w [dat 0x3F800001]) 0x0CD w std false [odat 0x3F800001, {}] = true ∧ Num.cvtDraws w.fn.toNat w.ty.toNat w.rnd.toNat = true)
    ∧ [0x0D0, 0x0D1].all (fun op : BitVec 9 => firesB (cellAt op (one 7) [dat 0x7E01]) op (one 7) [.scalar, .vector] false [odat 0x7E01, {}]) = true
    ∧ (let w := sw 8 0 1 0x1800 0x028 0xE00
       firesB (cellAt 0x0CE w [{ dat 1 with form := .vector }, { dat 2 with form := .vector }]) 0x0CE w [.scalar, .vector] true [ovec 1, ovec 2] = true
        ∧ firesB (cellAt 0x0CE w [{ dat 1 with form := .vector }, dat 2]) 0x0CE w [.scalar, .vector] true [ovec 1, odat 2] = true
        ∧ w.mode.getLsbD 2 = false ∧ w.sb ≠ 10)
    ∧ (let w := sw 7 0 10 0x9800 0x028 0xE00
       firesB (cellAt 0x0CE w [{ dat 1 with form := .vector }]) 0x0CE w [.scalar, .vector] true [ovec 1, {}] = true
        ∧ firesB (cellAt 0x0CE w [dat 1]) 0x0CE w [.scalar, .vector] true [odat 1, {}] = true ∧ w.mode.getLsbD 2 = true)
    ∧ [0x0D0, 0x0D1].all (fun op : BitVec 9 =>
        firesB (cellAt op (one 6) [{ dat 1 with form := .vector }]) op (one 6) [.scalar, .vector] false [ovec 1, {}]) = true
    ∧ (let w := one 6
       firesB (cellAt 0x0CE w [{ dat 1 with form := .vector }]) 0x0CE w [.scalar, .vector] true [ovec 1, {}] = true
        ∧ w.mode.getLsbD 2 = false ∧ w.sb = 10) := by decide +kernel

theorem witness_MovesGatesAndMerges :
    [0x001, 0x002, 0x003, 0x004].all (fun op : BitVec 9 =>
      let s := cellAt op (one 0) [dat 5, dat 5, dat 5, { dat 0 with kind := .control }]
      s.cur == .slot loc && s.slotFree loc (one 0) && s.source loc 0 (one 0) 0 == some (odat 5) && movable (odat 5)
        && s.mayFire loc (SlotRules.positions op (one 0))
        && (s.headAt loc 3).map Prod.snd == some { dat 0 with kind := .control } && (one 0).fn == 0) = true
    ∧ [0x003, 0x004].all (fun op : BitVec 9 =>
      let w := sw 0 0 10 0x0100 0x028 0xE00
      let s := cellAt op w [{ dat 5 with form := .sparse }, dat 5, dat 5, { dat 0 with kind := .control }]
      let t := cellAt op w [dat 5, dat 5, dat 5, { dat 0 with form := .vector }]
      s.slotFree loc w && (s.source loc 0 w 0).isSome && w.fn == 1 && (t.source loc 0 w 0) == some (odat 5)
        && (movedToken (odat 5) 0 0).form == .scalar && (t.headAt loc 3).map Prod.snd == some { dat 0 with form := .vector }
        && (s.headAt loc 3).map Prod.snd == some { dat 0 with kind := .control }) = true
    ∧ (let s := cellAt 0x005 (two 0) [{ dat 0 with kind := .marker }, dat 6]
       s.slotFree loc (two 0) = true ∧ s.source loc 0 (two 0) 0 = none ∧ s.source loc 0 (two 0) 1 = some (odat 6) ∧ movable (odat 6) = true)
    ∧ firesB (cellAt 0x006 (sw 0 4 10 0 0x028 0xE00) []) 0x006 (sw 0 4 10 0 0x028 0xE00) [] false [{ vec := true, reg := true }, {}] = true
    ∧ (let w := sw 0 9 10 0xFFFF 0x028 0xE00
       firesB (cellAt 0x006 w []) 0x006 w [] false [{ pay := 0xFFFFFFFF }, {}] = true) := by
  decide +kernel

/-- A cell whose slot 0 has further state. -/
def slotIs (f : Slot → Slot) (s : State) : State := s.updSlot loc f

theorem witness_MarkersAndSequences :
    (let w := sw 0 0 1 0x8000 0x028 0xE00
     let s := cellAt 0x007 w [dat 0xFFFFFFFF, dat 0x7FFFFFFF]
     let z := cellAt 0x007 w [dat 0, dat 1]
     s.cur = .slot loc ∧ s.slotFree loc w = true ∧ s.mayFire loc (SlotRules.positions 0x007 w) = true ∧ (s.slotAt loc).iter = none
      ∧ s.sources loc 0 w [0, 1] = some [odat 0xFFFFFFFF, odat 0x7FFFFFFF] ∧ z.sources loc 0 w [0, 1] = some [odat 0, odat 1]
      ∧ [odat 0xFFFFFFFF, odat 0x7FFFFFFF].all (accepts 0 [.scalar]) = true ∧ w.mode.getLsbD 1 = false
      ∧ (let t := slotIs (fun u => { u with iter := some { i := 1, count := some 2 } }) s
         slotFields (t.slotAt loc).word = w ∧ (t.slotAt loc).iter = some { i := 1, count := some 2 } ∧ t.slotFree loc w = true))
    ∧ (let w := sw 0 10 10 0x0300 0x028 0xE00
       let s := slotIs (fun u => { u with tids := [[1, 2, 3, 4]] }) (cellAt 0x008 w [])
       s.cur = .slot loc ∧ s.slotFree loc w = true ∧ (s.slotAt loc).tids = [[1, 2, 3, 4]])
    ∧ (let w := one 0
       let s := cellAt 0x1C0 w [dat 1]
       s.slotFree loc w = true ∧ s.mayFire loc (SlotRules.positions 0x1C0 w) = true ∧ s.source loc 0 w w.sa = some (odat 1) ∧ movable (odat 1) = true)
    ∧ (let m : Token := { dat 0 with kind := .marker, round := 255 }
       let s := cellAt 0x040 (two 0) [m, m]
       let w := slotFields (s.slotAt loc).word
       w.m = false ∧ fld (s.slotAt loc).word 55 9 ≠ 0x186#9 ∧ (s.slotAt loc).iter = none ∧ s.slotFree loc w = true ∧ s.slotPending loc = false
        ∧ s.allMarkers loc (SlotRules.positions 0x040 w) = some m
        ∧ (let v := { two 0 with m := true }
           let r := slotIs (fun u => { u with last := some (dat 9) }) (cellAt 0x040 v [m, m])
           let e := cellAt 0x040 v [m, m]
           r.slotFree loc v = true ∧ r.ctxWritten loc = true ∧ r.allMarkers loc (SlotRules.positions 0x040 v) = some m
            ∧ (((r.pullAll loc (SlotRules.positions 0x040 v)).updCell 0 0 (fun c => c.writeReg (r.grant 0 0) 0 (destOf v) 0)).slotAt loc).last
                = some (dat 9)
            ∧ (((e.pullAll loc (SlotRules.positions 0x040 v)).updCell 0 0 (fun c => c.writeReg (e.grant 0 0) 0 (destOf v) 0)).slotAt loc).last
                = none ∧ markerReg v (dat 9) r.tick ≠ { seq := r.tick })) := by decide +kernel
theorem witness_ResultsAreWritten :
    let f : Flight := { seq := 5, ctx := 0, slot := 0, lr := some 1, dest := some (⟨2, 0⟩, 1), t0 := some (dat 1) }
    let h : Flight := { seq := 5, ctx := 0, slot := 0, dest := some (⟨1, 3⟩, 2) }
    let s := (cellAt 0x040 (two 0) []).updCell 0 0 (fun c => { c with flights := [f] })
    let t := (cellAt 0x040 (two 0) []).updCell 0 0 (fun c => { c with flights := [h], lrSeq := [(0, 6)] })
    (s.cell 0 0).flights.find? (fun e => e.seq == f.seq) = some f ∧ ¬ (Tab.getD (s.cell 0 0).lrSeq 0 > f.seq)
    ∧ (slotFields (s.slotAt loc).word).m = false
    ∧ (t.cell 0 0).flights.find? (fun e => e.seq == h.seq) = some h ∧ Tab.getD (t.cell 0 0).lrSeq 0 > h.seq := by decide +kernel

/-- A FORM 3 token beside a vector, one where a lane instruction takes none, and a FORM 2 token. -/
theorem witness_UnacceptedTokensEndTheFiring :
    let sparse : Token := { dat 1 with form := .sparse }
    let tile : Token := { dat 1 with form := .tile }
    let v : Token := { dat 1 with form := .vector }
    let meets (op : BitVec 9) (w : SlotWord) (forms : List TokForm) (vec : Bool) (ts : List Token) : Bool :=
      let s := cellAt op w ts
      s.cur == .slot loc && s.slotFree loc w && s.mayFire loc (SlotRules.positions op w) && (match s.sources loc w.ty.toNat w (Claims.codesOf op w) with
        | some os => !os.all (accepts w.ty.toNat forms) || (os.any Claims.isSparse && (vec || w.ty == 14 || os.any Opnd.vec))
        | none => false)
    (meets 0x040 (two 0) std false [sparse, v] && meets 0x042 (two 0) std false [sparse, v] && meets 0x040 (two 0) std false [tile, dat 1]
      && meets 0x0C3 (three 6) std false [sparse, v, dat 1] && meets 0x0CD (sw 9 0 10 0x0600 0x028 0xE00) std false [tile]
      && meets 0x058 (two 0) [.scalar, .vector] true [sparse, dat 1] && meets 0x05A (two 0) [.scalar, .vector] true [dat 1, sparse]
      && meets 0x0D0 (one 6) [.scalar, .vector] false [sparse]) = true := by decide +kernel

theorem witness_FiringsChangeNoRegister :
    let s := cellAt 0x040 (two 0) [dat 1, dat 2]
    Claims.standard (.iadd (two 0)) = true ∧ s.cur = .slot loc ∧ goes (exec (.iadd (two 0)) s) = true := by decide +kernel

/-- What `Claims.Reaches` says, as a test. -/
def reachesB (s : State) (op : BitVec 9) (w : SlotWord) (a b : Opnd) : Bool :=
  s.cur == .slot loc && s.slotFree loc w && s.mayFire loc (SlotRules.positions op w) && s.memRoom loc
    && s.source loc w.ty.toNat w w.sa == some a && s.source loc w.ty.toNat w w.sb == some b && memToken a && memToken b

theorem reaches_of {s : State} {op : BitVec 9} {w : SlotWord} {a b : Opnd} (h : reachesB s op w a b = true) :
    Claims.Reaches s loc op w a b := by
  simp only [reachesB, Bool.and_eq_true, beq_iff_eq] at h
  obtain ⟨⟨⟨⟨⟨⟨⟨h1, h2⟩, h3⟩, h4⟩, h5⟩, h6⟩, h7⟩, h8⟩ := h
  exact ⟨h1, h2, h3, h4, h5, h6, h7, h8⟩

/-- The lane 0 and 1 operand of a 64-bit address. -/
def oaddr (v : Nat) : Opnd := ovec v
def taddr (v : Nat) : Token := { dat v with form := .vector }

/-- The last aligned place of a lease of one unit; the last 128 bytes of the offsets of a stream; a ticket. -/
theorem witness_MemoryFiringsStartOneAccess :
    let b := two 0
    let l := sw 0 0 1 0x0100 0x028 0xE00
    let gr := (cellAt 0x140 b []).grant 0 0
    reachesB (cellAt 0x140 b [dat 0x1000, dat 0xFFFFFFFC]) 0x140 b (odat 0x1000) (odat 0xFFFFFFFC) = true
    ∧ (((addrA b (odat 0x1000) : Int) + offB b (odat 0xFFFFFFFC)) % 2 ^ 32).toNat = 0xFFC
    ∧ bankPlace 0 gr 0xFFC 4 = .ok { bank := true, g := 0, pa := 0xFFC }
    ∧ reachesB (cellAt 0x141 l [dat 0xF80, taddr 7]) 0x141 l (odat 0xF80) (ovec 7) = true ∧ (ovec 7).vec = l.fn.getLsbD 0
    ∧ bankPlace 0 gr 0xF80 128 = .ok { bank := true, g := 0, pa := 0xF80 }
    ∧ reachesB (cellAt 0x1C1 b [dat 0, dat 5]) 0x1C1 b (odat 0) (odat 5) = true ∧ b.fn.getLsbD 3 = false
    ∧ reachesB (cellAt 0x1C3 (one 0) [dat 0xFF0]) 0x1C3 (one 0) (odat 0xFF0) {} = true
    ∧ bankPlace 0 gr 0xFF0 16 = .ok { bank := true, g := 0, pa := 0xFF0 }
    ∧ reachesB (cellAt 0x1C4 (one 0) [dat 0xF0000FF0]) 0x1C4 (one 0) (odat 0xF0000FF0) {} = true
    ∧ (0xF0000FF0 % 2 ^ 24 = 0xFF0 ∧ (odat 0xF0000FF0).vec = false ∧ 0xF0000FF0 / 2 ^ 24 % 16 = 0)
    ∧ [0x142, 0x143].all (fun op : BitVec 9 => reachesB (cellAt op b [taddr 0x200, dat 0]) op b (oaddr 0x200) (odat 0)) = true
    ∧ (clsOf 0x200 = 0 ∧ bits 0x200 57 59 = 0 ∧ 0x200 % 4 = 0)
    ∧ [0x144, 0x145].all (fun op : BitVec 9 => reachesB (cellAt op l [taddr 0x40000000FFFFFF80, dat 0]) op l (oaddr 0x40000000FFFFFF80) (odat 0)) = true
    ∧ (clsOf 0x40000000FFFFFF80 = 4 ∧ 0x40000000FFFFFF80 % 2 ^ 48 % 128 = 0)
    ∧ reachesB (cellAt 0x145 l [taddr 0x40000000FFFFFF80, taddr 1]) 0x145 l (oaddr 0x40000000FFFFFF80) (ovec 1) = true
    ∧ [0x146, 0x147].all (fun op : BitVec 9 => reachesB (cellAt op (one 0) [taddr 0x4000000000000001]) op (one 0) (oaddr 0x4000000000000001) {}) = true
    ∧ [0x148, 0x149].all (fun op : BitVec 9 =>
        reachesB (slotIs (fun u => { u with pend := 1 }) (cellAt op (sw 0 31 10 0 0x028 0xE00) [])) op (sw 0 31 10 0 0x028 0xE00)
          { vec := true, reg := true } {}) = true := by decide +kernel

theorem witness_RefusedAddressesAndOwnRanges :
    let b := two 0
    let gr := (cellAt 0x140 b []).grant 0 0
    reachesB (cellAt 0x140 b [dat 0xFFE, dat 0]) 0x140 b (odat 0xFFE) (odat 0) = true ∧ bankPlace 0 gr 0xFFE 4 = .error Cause.misaligned
    ∧ bankPlace 0 gr 0x1000000 4 = .error Cause.addrClass ∧ bankPlace 0 gr 0x1000 4 = .error Cause.pagePermission
    ∧ bankPlace 0 gr 0xFFC 4 = .ok { bank := true, g := 0, pa := 0xFFC }
    ∧ reachesB (cellAt 0x141 b [dat 0x1000, dat 0]) 0x141 b (odat 0x1000) (odat 0) = true ∧ (odat 0).vec = b.fn.getLsbD 0
    ∧ (let w := sw 0 0 9 4096 0x028 0xE00
       let s := cellAt 0x1C2 w [dat 0]
       let t := cellAt 0x1C2 b [dat 0, dat 4100]
       s.cur = .slot loc ∧ s.slotFree loc w = true ∧ s.mayFire loc (SlotRules.positions 0x1C2 w) = true
        ∧ s.source loc 0 w w.sa = some (odat 0) ∧ s.source loc 0 w w.sb = some { pay := 4096 } ∧ memToken (odat 0) = true
        ∧ t.source loc 0 b b.sb = some (odat 4100) ∧ memToken (odat 4100) = true
        ∧ (0 / 65536 % 256 = (0 : Nat) ∧ 4096 % 4 = 0 ∧ 4096 ≤ (4096 : Nat)) ∧ ¬ (4100 ≤ (4096 : Nat))
        ∧ bankPlace 0 gr 0 4 = .ok { bank := true, g := 0 }) := by decide +kernel

theorem witness_CellAccessesPerformAndDeliver :
    let pl : Place := { bank := true, g := 0 }
    let acc (op : AccOp) : Acc := { id := 3, port := .slot 0 0 0, op := op, addr := 0xC * 2 ^ 60, n := 16, phase := .ready pl }
    let at_ (op : AccOp) (b : Barrier) : State := withAcc (acc op) (barrierAt b (cellAt 0x1C3 (one 0) []))
    let meets (op : AccOp) (b : Barrier) : Bool :=
      (at_ op b).acc 0 3 == some (acc op) && !(at_ op b).holds 0 (acc op) && Barrier.of ((at_ op b).readPlace pl 16) == b
    (meets (.update 0 6 0x3F800000) {} && meets (.update 2 0 0x80000000) {} && (at_ (.update 0 0 0) {}).ownerOf 0 0 0 == none
      && meets .arrive { exp := 1, pend := 1, gen := 15 } && meets .arrive { exp := 2, pend := 2 } && meets .arrive { exp := 1, pend := 0, inb := 1 }
      && meets (.await 15) { gen := 0, exp := 1 } && clsOf (0xC * 2 ^ 60) != 4) = true
    ∧ (let a : Acc := { acc .read with phase := .performed 7 }
       let s := withAcc a (cellAt 0x140 (two 0) [])
       s.acc 0 3 = some a ∧ (s.slotAt loc).res.empty = true ∧ (s.slotAt loc).after = none
        ∧ ((s.core 0).accs.takeWhile (fun e => e.id != 3)).all (fun e => e.port != a.port) = true
        ∧ (slotFields (s.slotAt loc).word).t0.extractLsb' 9 3 ≠ 7) := by decide +kernel

theorem witness_IntersectionByTags :
    let sp (n : BitVec 16) : Token := { dat 1 with form := .sparse, tag := n }
    let mk : Token := { dat 0 with kind := .marker }
    let meets (a b : Token) : Bool :=
      let s := cellAt 0x186 (two 0) [a, b]
      s.slotFree loc (two 0) && (s.headAt loc 0).map Prod.snd == some a && (s.headAt loc 1).map Prod.snd == some b
    (meets (sp 0) (sp 0xFFFF) && meets (sp 0xFFFF) (sp 0xFFFE) && meets (sp 4) (sp 4) && meets mk (sp 9) && meets (sp 9) mk && meets mk mk) = true := by
  decide +kernel

theorem witness_MatrixNode :
    let own (op : BitVec 9) (w : SlotWord) (ts : List Token) (f : Cell → Cell) : State := (cellAt op w ts).updCell 0 0 f
    let triggers (op : BitVec 9) (s : State) (w : SlotWord) : Bool :=
      s.cur == .slot loc && s.slotFree loc w && s.mayFire loc (SlotRules.positions op w) && s.source loc 0 w w.sa == some (odat 0)
        && movable (odat 0) && !(s.core 0).chainHolds 0
    let tile : Tile := { fmt := 7, owner := some 0 }
    let z := one 0
    let m := sw 7 0 10 0x2700 0x028 0xE00
    let b : Opnd := {}
    (triggers 0x181 (own 0x181 z [dat 0] (fun c => { c with tl := tile })) z && triggers 0x184 (own 0x184 z [dat 0] id) z
      && !((own 0x181 z [dat 0] id).core 0).nodeBusy 0 AccOp.holdsSwap && !((own 0x184 z [dat 0] id).core 0).nodeBusy 0 (AccOp.into [0])) = true
    ∧ (let gr := (cellAt 0x180 (one 7) []).grant 0 0
       reachesB (cellAt 0x180 (one 7) [dat 0xE00]) 0x180 (one 7) (odat 0xE00) b = true
        ∧ bankAddr (one 7) (odat 0xE00) b false = 0xE00 ∧ bankPlace 0 gr 0xE00 128 = .ok { bank := true, g := 0, pa := 0xE00 }
        ∧ 0xE00 % 65536 + 512 ≤ gr.lease * 4096 ∧ gr.lease ≤ 16 ∧ (one 7).fn.toNat % 2 = 0
        ∧ reachesB (cellAt 0x185 z [dat 0xF80]) 0x185 z (odat 0xF80) b = true
        ∧ reachesB (cellAt 0x180 (sw 7 0 10 0x0100 0x028 0xE00) [dat 0xFE0]) 0x180 (sw 7 0 10 0x0100 0x028 0xE00) (odat 0xFE0) b = true
        ∧ bankPlace 0 gr 0xFE0 32 = .ok { bank := true, g := 0, pa := 0xFE0 } ∧ bankPlace 0 gr 0xF80 128 = .ok { bank := true, g := 0, pa := 0xF80 }
        ∧ [(6, 0xC00), (7, 0xE00), (9, 0xF00), (10, 0xF00), (11, 0xC00), (12, 0xF00)].all (fun e : Nat × Nat =>
            let w := sw (BitVec.ofNat 4 e.1) 0 10 0x0900 0x028 0xE00
            reachesB (cellAt 0x183 w [dat e.2]) 0x183 w (odat e.2) b && bankPlace 0 gr e.2 128 == .ok { bank := true, g := 0, pa := e.2 }
              && w.fn.getLsbD 3 && !w.fn.getLsbD 2) = true
        ∧ 0xC00 % 65536 + 1024 ≤ gr.lease * 4096 ∧ (sw 7 0 10 0x0400 0x028 0xE00).fn.getLsbD 2 = true)
    ∧ (let s := own 0x182 m [dat 0] (fun c => { c with ta := tile })
       s.slotFree loc m = true ∧ s.source loc 0 m m.sa = some (odat 0) ∧ s.source loc 0 m m.sb = some b ∧ memToken (odat 0) = true
        ∧ s.slotPending loc = false ∧ tile.fmt = m.fn.toNat % 16 ∧ ((own 0x182 m [dat 0] id).cell 0 0).ta.owner = none
        ∧ bankPlace 0 (s.grant 0 0) 0 128 = .ok { bank := true, g := 0 })
    ∧ (let pl : Place := { bank := true, g := 0 }
       let a : Acc := { id := 3, port := .slot 0 0 0, op := .moving 3 false 0xFFFF [] [], ty := 7, addr := 0xC * 2 ^ 60, n := 512, line := true,
                        phase := .ready pl, parts := [(0, []), (1, []), (2, [])] }
       let s := withAcc a (own 0x182 m [dat 0] (fun c => { c with ta := tile }))
       let e : Acc := { a with parts := [] }
       let bs := s.readPlace { pl with pa := 384 } (a.lineBytes 3)
       let d : Acc := { a with parts := Tab.set a.parts 3 bs }
       s.acc 0 3 = some a ∧ s.ownedOk pl = true ∧ clsOf a.addr ≠ 4 ∧ a.linesLeft.filter (fun i => !s.heldAt 0 a (128 * i) (a.lineBytes i)) = [3]
        ∧ s.spoiled { pl with pa := 384 } (a.lineBytes 3) false = false ∧ 384 + a.lineBytes 3 ≤ (s.grant 0 0).lease * 4096 ∧ d.linesLeft = []
        ∧ (s.updAcc 0 3 (fun e => { e with parts := Tab.set e.parts 3 bs })).behind 0 d (fun o => match o with | .moving .. => true | _ => false) = false
        ∧ ({ e with parts := [(0, []), (1, [])] } : Acc).linesLeft = [2, 3]) := by decide +kernel

/-- Two columns of every pair in order, for FP16; a lease full of a context's entries. -/
theorem witness_SlotAccessesHaveTheirEffect :
    let pl : Place := { bank := true, g := 0, pa := 0xF80 }
    let acc (op : AccOp) : Acc := { id := 3, port := .slot 0 0 0, op := op, addr := 0xC * 2 ^ 60 + 0xF80, n := 128, line := true, phase := .ready pl }
    let at_ (a : Acc) (f : Cell → Cell) (bs : List Byte) : State :=
      withAcc a { (cellAt 0x148 (one 0) []).updCell 0 0 f with banks := Memory.writeN [] 0xF80 bs }
    let meets (a : Acc) (f : Cell → Cell) (bs : List Byte) : Bool :=
      let s := at_ a f bs
      s.acc 0 3 == some a && !s.holds 0 a && s.ownedOk pl && clsOf a.addr != 4 && !s.accSpoiled 0 a pl
    let e : Spill := { ctx := 0, vreg := 5, kind := true, loc := 4, val := 9 }
    let full (c : Cell) : Cell := { c with spills := (List.range 64).map (fun i => (i, { e with ctx := 1, vreg := i })) }
    let kept (c : Cell) : Cell := { c with spills := [(0, e)] }
    let left (a : Acc) : List Nat := a.linesLeft.filter (fun i => !(at_ a id []).heldAt 0 a (128 * i) (a.lineBytes i))
    (meets (acc (.spill 5 1)) kept [] && meets (acc (.spill 5 1)) id [] && meets (acc (.spill 5 1)) full [] && meets (acc (.fill 5)) kept []
      && meets (acc (.fill 5)) id [] && meets (acc .metadata) (fun c => { c with tl := { fmt := 7 } }) (List.replicate 128 0x44)
      && meets (acc .metadata) id []) = true
    ∧ ((at_ (acc (.spill 5 1)) kept []).cell 0 0).spillOf 0 5 = some (0, e) ∧ ((at_ (acc (.spill 5 1)) id []).cell 0 0).spillOf 0 5 = none
    ∧ Tab.free ((at_ (acc (.spill 5 1)) id []).cell 0 0).spills 64 = some 0
    ∧ ((at_ (acc (.spill 5 1)) id []).core 0).spillPlace ((at_ (acc (.spill 5 1)) id []).cell 0 0) = some (false, 32)
    ∧ Tab.free ((at_ (acc (.spill 5 1)) full []).cell 0 0).spills 64 = none ∧ ((at_ (acc (.spill 5 1)) full []).cell 0 0).spillOf 0 5 = none
    ∧ (∀ j < 16, ∀ k < 8, let bs := (at_ (acc .metadata) id (List.replicate 128 0x44)).readPlace pl 128
        let col (k : Nat) : Nat := bits (leNat ((bs.drop (8 * j)).take 8)) (2 * k) (2 * k + 1)
        col (2 * k) < col (2 * k + 1))
    ∧ ¬ (∀ j < 16, ∀ k < 16, let bs := (at_ (acc .metadata) id []).readPlace pl 128
        let col (k : Nat) : Nat := bits (leNat ((bs.drop (8 * j)).take 8)) (2 * k) (2 * k + 1)
        col (2 * k) < col (2 * k + 1))
    ∧ (let d := acc (.drain (List.replicate 128 7))
       let t : Acc := { acc .tile with ty := 7, n := 512, addr := 0xC * 2 ^ 60 + 0xE00, parts := [(0, []), (1, []), (2, [])] }
       let m := acc (.codebook 1)
       let q : Acc := { acc .tile with ty := 11, n := 864, parts := [(0, [])] }
       (meets d id [] && meets t id [] && meets m id [] && meets q id [] && d.byLine && t.byLine && m.byLine && q.byLine) = true
        ∧ left d = [0] ∧ left t = [3] ∧ left m = [0] ∧ left q = [1] ∧ ({ d with parts := [(0, [])] } : Acc).linesLeft = []
        ∧ ({ t with parts := t.parts ++ [(3, [])] } : Acc).linesLeft = [] ∧ ({ m with parts := [(0, [])] } : Acc).linesLeft = []
        ∧ (at_ d id []).spoiled pl 128 true = false ∧ (at_ t id []).spoiled { pl with pa := 0xF80 + 384 } 128 false = false
        ∧ 0xE00 + 384 + 128 ≤ ((at_ t id []).grant 0 0).lease * 4096 ∧ ((at_ q id []).grant 0 0).lease * 4096 < 0xF80 + 128 + 128
        ∧ (at_ t id []).behind 0 t AccOp.loadsNode = false ∧ (at_ m id []).behind 0 m AccOp.loadsNode = false)
    ∧ (let a (op : AccOp) : Acc := { id := 3, port := .slot 0 0 0, op := op, addr := 0x4001000000000060, wr := true }
       let b : Scb := { state := 1, k := 5, wlog := 2, bk := true, hwm := 64, lease := 1, readers := [(0, ⟨0, 32, 32⟩)], tail := 32 }
       let s (op : AccOp) (b : Scb) : State := withAcc (a op) { cellAt 0x147 (one 0) [] with streams := [(1, b)] }
       let c : Scb := { b with hwm := 128 }
       (s .publish b).acc 0 3 = some (a .publish) ∧ (s .publish b).holds 0 (a .publish) = false ∧ (a .publish).off = 96 ∧ (a .publish).scb = 1
        ∧ (s .publish b).scb 1 = b ∧ b.waiting = [] ∧ b.waits = [] ∧ b.auto = false ∧ after 96 b.hwm = true ∧ after 96 b.limit = false
        ∧ (s (.release 0) c).holds 0 (a (.release 0)) = false ∧ (s (.release 0) c).scb 1 = c ∧ Tab.get c.readers 0 = some ⟨0, 32, 32⟩
        ∧ after 96 32 = true ∧ after 96 c.hwm = false) := by decide +kernel
theorem witness_ControlPointRules :
    let b : Scb := { state := 1, k := 1, wlog := 2, hwm := 4, tail := 2 ^ 48 - 2 }
    [0, 4].all (fun n => !(n != 0 && n != 4)) = true
    ∧ b.win = 8 ∧ b.win < 9 ∧ before (2 ^ 48 - 3) b.tail = true
    ∧ (before 0 b.tail = false ∧ after (offAdd 3 2) b.hwm = true) ∧ (before (2 ^ 48 - 2) b.tail = false ∧ after (offAdd (2 ^ 48 - 2) 6) b.hwm = false)
    ∧ before 3 b.hwm = true ∧ (before 4 b.hwm = false ∧ after (offAdd 6 1) b.limit = true) ∧ (before 4 b.hwm = false ∧ after (offAdd 4 2) b.limit = false)
    ∧ b.auto = false := by decide +kernel

/-- A state with stream 1 of context 0. -/
def streamed (b : Scb) (s : State) : State := { s with streams := [(1, b)] }
/-- A stream of 128 bytes in the bank of region 0, its window published up to 64. -/
def ring : Scb := { state := 1, k := 5, wlog := 2, bk := true, base := 0xC * 2 ^ 60 % 2 ^ 57, hwm := 64, lease := 1, readers := [(0, ⟨0, 32, 32⟩)], tail := 32 }
/-- An access of it at an offset, from thread 0. -/
def sacc (op : AccOp) (off n : Nat) : Acc := { id := 3, op := op, addr := 0x4001000000000000 + off, n := n, wr := op != .read }

theorem witness_StreamAccessesAreAdmitted :
    let s (op : AccOp) (off n : Nat) : State := withAcc (sacc op off n) (streamed ring lec)
    let meets (op : AccOp) (off n : Nat) : Bool := (s op off n).acc 0 3 == some (sacc op off n) && (sacc op off n).scb == 1
    (meets .read 56 8 && meets .read 31 1 && meets .read 64 8 && meets (.write [1]) 64 1 && meets (.write [1]) 63 1
      && ((s .read 56 8).core 0).inOrder (sacc .read 56 8)) = true
    ∧ (let t := (s .read 56 8).updCore 0 (fun k => { k with accs := [{ sacc .read 48 8 with id := 2, phase := .ready {} }, sacc .read 56 8] })
       t.acc 0 3 = some (sacc .read 56 8) ∧ (t.core 0).inOrder (sacc .read 56 8) = false)
    ∧ ring.bk = true ∧ ({ ring with bk := false } : Scb).bk = false
    ∧ ring.read 56 8 = .perform 56 ∧ ring.read 31 1 = .fault Cause.streamBehind ∧ ring.read 64 8 = .wait 1
    ∧ ring.write 64 1 = .perform 64 ∧ ring.overtaken (.acc 0 3) = false ∧ ring.write 63 1 = .fault Cause.streamBehind
    ∧ [true, false].all (fun adm =>
        let w : SWait := { who := .acc 0 3, off := 63, n := 1, wr := true, kind := 2, adm := adm }
        let b : Scb := { ring with waits := [w] }
        let s := withAcc (sacc (.write [1]) 63 1) (streamed b lec)
        s.acc 0 3 == some (sacc (.write [1]) 63 1) && (s.core 0).inOrder (sacc (.write [1]) 63 1) && s.scb (sacc (.write [1]) 63 1).scb == b
          && b.waits.find? (fun w => w.who == .acc 0 3 && w.off == 63 && w.wr) == some w && b.write 63 1 == .fault Cause.streamBehind
          && !b.overtaken (.acc 0 3)) = true := by decide +kernel

/-- Stream 1 with a host at aperture 2 of function 0. -/
def hosted (role : Bool) : State :=
  { streamed { ring with hb := true, hrole := role, hap := 2, prod := if role then 0x80 else 0 } State.reset with
    funcs := [(0, { enabled := true, aps := [(2, { ctxid := 0, six := 1, role := role })] })] }

theorem witness_HostParticipantsReachTheirStream :
    (hosted true).hostScb 0 2 true = some 1 ∧ (hosted true).hostScb 0 2 false = none ∧ (hosted false).hostScb 0 2 false = some 1
    ∧ (hosted false).hostScb 0 2 true = none
    ∧ Tab.get (Tab.getD (hosted true).funcs 0 : Func).aps 2 = some { ctxid := 0, six := 1, role := true }
    ∧ 127 % 128 + 1 ≤ 128 ∧ 127 + 1 ≤ ((hosted true).scb 1).win ∧ ((hosted true).scb 1).state = 1 ∧ (hosted true).memOk = true
    ∧ ((hosted true).apScb { ctxid := 0, six := 1, role := true }).bk = true
    ∧ (let t : State := { hosted true with gens := [(0, 1)] }
       Tab.get (Tab.getD t.funcs 0 : Func).aps 2 = some { ctxid := 0, six := 1, role := true } ∧ (0 : BitVec 16) ≠ t.genOf 0) := by decide +kernel

/-- A channel descriptor: EN, VC, SRC, DST, DSLOT, DOP, CTX 0 (01 R41). -/
def chDesc (vc src dst dslot dop : Nat) : W64 := BitVec.ofNat 64 (2 ^ 63 + vc * 2 ^ 61 + src * 2 ^ 44 + dst * 2 ^ 35 + dslot * 2 ^ 28 + dop * 2 ^ 26)
/-- Channel 3 in an active configuration of context 0, and port 5. -/
def channeled (c : Chan) (e : EdgePort) (s : State) : State :=
  (leased s).updCore 0 (fun k => { k with chans := [(3, c)], ports := [(5, e)], sched := [(0, { active := some 0, loaded := { chans := [(3, c.desc)] } })] })

theorem witness_EdgePortsFollowTheirStream :
    let b : Scb := { ring with k := 7, wlog := 0, hwm := 128, tail := 0, readers := [(0, ⟨0, 0, 0⟩)] }
    let c : Chan := { desc := chDesc 0 (256 + 5) 0 0 0 }
    let e : EdgePort := { kind := 2, arg := 1 }
    (let s := channeled c e (streamed b State.reset)
     s.portScb (Tab.getD (s.core 0).ports 5) = 1 ∧ e.arg.getLsbD 16 = false ∧ (s.core 0).chanFrom 5 = some (3, c) ∧ s.portMoves 0 c.desc = true ∧ c.open_ = true
      ∧ c.sfifo.length ≤ 4 ∧ (s.scb 1).readers.find? (fun r => r.2.agent == regionAgent 0) = some (0, ⟨0, 0, 0⟩)
      ∧ after (offAdd 0 128) (s.scb 1).hwm = false ∧ (s.scb 1).read 0 128 = .perform 0 ∧ e.work = none ∧ c.rmark = [] ∧ c.jout = [])

    ∧ (let d : Chan := { desc := chDesc 0 0 (256 + 5) 0 0, dfifo := [{ tok := dat 9 }] }
       let m : Chan := { d with dfifo := [{ tok := { dat 0 with kind := .marker } }] }
       let w : EdgePort := { kind := 2, arg := 0x10001, woff := 4, wset := true }
       let s := channeled d w (streamed { b with hwm := 0 } State.reset)
       let t := channeled m w (streamed { b with hwm := 0 } State.reset)
       s.writePort 0 5 = some (w, 3, dat 9, 0) ∧ ({ b with hwm := 0 } : Scb).tryWrite (.port 0 5) 4 4 = .perform 4
        ∧ ({ b with hwm := 0 } : Scb).overtaken (.port 0 5) = false ∧ w.work = none
        ∧ t.writePort 0 5 = some (w, 3, { dat 0 with kind := .marker }, 0) ∧ after w.woff 0 = true ∧ after w.woff ({ b with hwm := 0 } : Scb).limit = false
        ∧ after 256 ({ b with hwm := 0 } : Scb).limit = true ∧ w.ask = 0 ∧ w.arg.getLsbD 16 = true ∧ (t.scb 1).waiting = [] ∧ (t.scb 1).waits = []) := by
  decide +kernel

/-- The access in progress of a port, at one line, started and performed. -/
theorem witness_EdgePortsFollowTheirStream_lines :
    let b : Scb := { ring with k := 7, wlog := 0, hwm := 128, tail := 0, readers := [(0, ⟨0, 0, 0⟩)] }
    let work (off n : Nat) (io : List EAcc) : PortAcc := { off := off, n := n, io := io }
    let todo (q : EAcc) (wr : Option (List Byte)) : Bool :=
      let off := q.addr % 2 ^ 48
      let es := ringAccs 1 b.win off q.n wr
      let h : EAcc := { q with pl := b.bankAt off }
      (work off q.n []).todo es == [q] && (work off q.n []).io.find? q.same == none && (work off q.n [h]).todo es == [q]
        && (work off q.n [h]).io.find? q.same == some h && h.pl.bank && !State.reset.spoiled h.pl h.n wr.isSome
        && (work off q.n [{ h with got := some [] }]).todo es == []
    todo { addr := streamAddr 1 0, n := 128 } none = true ∧ todo { addr := streamAddr 1 4, n := 4, wr := some (natToBytes 4 9) } (some (natToBytes 4 9)) = true
    ∧ (let e : EdgePort := { kind := 2, arg := 1, work := some (work 0 128 []) }
       let s := channeled { desc := chDesc 0 (256 + 5) 0 0 0 } e (streamed b State.reset)
       (Tab.getD (s.core 0).ports 5 : EdgePort) = e ∧ s.portMoves 0 (chDesc 0 (256 + 5) 0 0 0) = true ∧ (s.scb 1).opens = 0 ∧ (s.scb 1).state = 1)
    ∧ (let w : EdgePort := { kind := 2, arg := 0x10001, woff := 4, wset := true, work := some (work 4 4 []) }
       let s := channeled { desc := chDesc 0 0 (256 + 5) 0 0, dfifo := [{ tok := dat 9 }] } w (streamed { b with hwm := 0 } State.reset)
       s.writePort 0 5 = some (w, 3, dat 9, 0)) := by
  decide +kernel

/-- Region 0 with a started command, which is the agent. -/
def cmdAt (m : Cmd) (s : State) : State := ({ leased s with cur := .command 0 0 } : State).updCore 0 (fun k => { k with cmds := [(0, m)] })
/-- A started command with a code and fields. -/
def cmd0 (code : BitVec 8) (c : Frame) (p : Prog) : Cmd := { w := FrameRules.pack code c, started := true, prog := p }
/-- What `Claims.Runs` says, as a test. -/
def runsB (s : State) (m : Cmd) : Bool :=
  s.cur == .command 0 0 && s.cmd 0 0 == m && Tab.has (s.core 0).cmds 0 && m.started && !m.done && m.parked == none && (s.reg 0).runs

theorem runs_of {s : State} {m : Cmd} (h : runsB s m = true) : Claims.Runs s 0 0 m := by
  simp only [runsB, Bool.and_eq_true, beq_iff_eq, Bool.not_eq_true'] at h
  obtain ⟨⟨⟨⟨⟨⟨h1, h2⟩, h3⟩, h4⟩, h5⟩, h6⟩, h7⟩ := h
  exact ⟨h1, h2, h3, ⟨h4, h5, h6⟩, h7⟩

theorem witness_StreamCommandsHaveTheirEffect :
    let ok (b : Scb) (code : BitVec 8) (c : Frame) (p : Prog) : Bool := runsB (cmdAt (cmd0 code c p) (streamed b State.reset)) (cmd0 code c p)
    let op : Frame := fr 1 1 0x81 0 0xC0000000
    let gr := (cmdAt {} State.reset).grant 0 0
    ok {} 0x10 op {} = true ∧ openFault {} gr 1 true 1 2 0xC000000000000000 = none
    ∧ openFault {} gr 1 true 0 2 0xC000000000000000 = some Cause.cmdInvalid
    ∧ (ok ring 0x14 (fr 1 1 0 0 0) {} && ok ring 0x14 (fr 0 1 0 0 0) {} && ok { ring with state := 4 } 0x14 (fr 0 1 0 0 0) {}) = true
    ∧ (ok ring 0x11 (fr 0 1 96 0 0) {} && ok ring 0x12 (fr 0 1 64 0 0) {} && ok ring 0x13 (fr 0 1 32 0 0) {} && ok ring 0x15 (fr 0 1 0 0 0) {}
        && ok ring 0x16 (fr 0 1 1 0 0) {} && ok ring 0x16 (fr 0 1 0 0 0) {} && ok ring 0x16 (fr 1 1 0 0 0) {}) = true
    ∧ (ring.auto = false ∧ ring.state = 1 ∧ after 96 ring.hwm = true ∧ after 96 ring.limit = false ∧ ring.waiting = [] ∧ ring.waits = [])
    ∧ (Tab.get ring.readers 0 = some ⟨0, 32, 32⟩ ∧ after 64 32 = true ∧ after 64 ring.hwm = false)
    ∧ (before 32 32 = false ∧ after 32 32 = false) ∧ Tab.has ring.readers 1 = false ∧ Tab.has ring.readers 0 = true
    ∧ ring.bk = true ∧ (cmdAt (cmd0 0x14 (fr 0 1 0 0 0) {}) (streamed ring State.reset)).chunkGoing 1 = false
    ∧ (let wr (a : Nat) (got : Option (List Byte)) : EAcc := { addr := 0x4001000000000000 + a, n := 1, wr := some [1], got := got }
       let m : Cmd := cmd0 0x14 (fr 0 1 0 0 0) {}
       let s := (cmdAt m (streamed ring State.reset)).updCore 0 (fun k =>
         { k with cmds := k.cmds ++ [(1, cmd0 0x20 (fr 0 0 0 0 0) { io := [wr 0 (some []), wr 128 none] })] })
       runsB s m = true ∧ s.chunkGoing 1 = true) := by decide +kernel

theorem witness_CommandsStartAndRespond :
    let c : Cmd := { w := FrameRules.pack 0x30 { fr 0 0 0 0 0 with ken := true, ksel := 2 } }
    let at_ (p : Port) (cs : List (Nat × Cmd)) : State := (lec.updThread 0 0 (fun t => { t with ports := [(0, p)] })).updCore 0 (fun k => { k with cmds := cs })
    (let s := at_ { iq := [7, 9], rq := [1, 2, 3, 4, 5, 6, 7] } [(7, c)]
     let p := (s.thread 0 0).port 0
     p.iq = [7, 9] ∧ (s.reg 0).runs = true ∧ c.done = false ∧ p.order.length + p.rq.length < 8
      ∧ (s.core 0).accs.any (fun a => a.port == .thread 0 && a.wr && !a.done && a.id < c.after) = false ∧ c.ord = false ∧ (s.reg 0).unitFree c = true
      ∧ (0x30 ≤ c.code ∧ c.code ≤ 0x33) ∧ ¬ (0x30 ≤ (cmd0 0x20 default {}).code ∧ (cmd0 0x20 default {}).code ≤ 0x33))
    ∧ 8 ≤ ([] : List Nat).length + [1, 2, 3, 4, 5, 6, 7, 8].length
    ∧ (let d : Cmd := { w := FrameRules.pack 0x30 { fr 0 0 0 0 0 with ord := true } }
       let s := at_ { iq := [7], order := [3] } [(7, d)]
       d.ord = true ∧ ((s.thread 0 0).port 0).order ≠ [])
    ∧ (let d : Cmd := { c with started := true, done := true, cause := 5 }
       let s := at_ { order := [7] } [(7, d)]
       ((s.thread 0 0).port 0).order = [7] ∧ Tab.get (s.core 0).cmds 7 = some d ∧ d.posted = false ∧ (s.thread 0 0).ending = none
        ∧ d.gen = s.genOf d.ctxid ∧ d.w.getLsbD 118 = true ∧ ({ d with gen := 1 } : Cmd).gen ≠ s.genOf d.ctxid) := by decide +kernel
/-- Bytes at the start of the bank of cell 0 of region 0, class 0xC address 0. -/
def banked (bs : List Byte) (s : State) : State := { s with banks := Memory.writeN [] 0 bs }
/-- A command whose operand block is at that address. -/
def atBank (w0 : W32) : Frame := fr 0 0 w0 0 0xC0000000
/-- The issue queue of a command whose reads of those bytes from an address have performed. -/
def readDone (a : Nat) (bs : List Byte) : List EAcc := (List.zip (readLines a bs.length) (writeLines a bs)).map (fun p => { p.1 with got := p.2.wr })
/-- The issue queue of a command whose writes of those bytes to an address have performed. -/
def writeDone (a : Nat) (bs : List Byte) : List EAcc := (writeLines a bs).map (fun e => { e with got := some [] })
/-- Those writes, started. -/
def writeReady (a : Nat) (bs : List Byte) : List EAcc := writeLines a bs
/-- A copy of two elements of 4 bytes. -/
def cdesc (src aux : Nat) (sstr : Nat) : List Byte :=
  natToBytes 8 src ++ natToBytes 8 0xC000000000000200 ++ natToBytes 8 (2 ^ 30) ++ natToBytes 8 aux ++ natToBytes 16 (2 * 2 ^ 96 + sstr * 2 ^ 48 + 4)

theorem witness_CopyCommandsCopy :
    let d := cdesc 0xC000000000000100 0 4
    let f := cdesc 0 0 0
    let m (code : BitVec 8) (w0 : W32) (p : Prog) : Cmd := cmd0 code (atBank w0) p
    let s (code : BitVec 8) (bs : List Byte) (p : Prog) : State := banked bs (cmdAt (m code 0 p) State.reset)
    let ok (code : BitVec 8) (bs : List Byte) (p : Prog) : Bool := runsB (s code bs p) (m code 0 p) && (m code 0 p).code == code.toNat
    (ok 0x20 d {} && ok 0x23 d {} && ok 0x24 d {} && ok 0x21 d {} && ok 0x22 f {}) = true
    ∧ (let p : Prog := { io := readDone 0xC000000000000000 (d.take 32) ++ readDone 0xC000000000000020 (d.drop 32) }
       ok 0x20 d p = true ∧ ((s 0x20 d p).eRead 0 0 (m 0x20 0 p) 0xC000000000000000 32).2.toOption = some (d.take 32)
        ∧ ((s 0x20 d p).eRead 0 0 (m 0x20 0 p) 0xC000000000000020 (16 * copyNdim d)).2.toOption = some (d.drop 32))
    ∧ (CopyDesc.of d).fault 0x20 0 = none ∧ (CopyDesc.of (cdesc 0xC000000000000101 0 4)).fault 0x20 0 = some Cause.misaligned
    ∧ 0xC000000000000001 % 32 ≠ 0 ∧ classFault 0xC000000000000000 = none ∧ (CopyDesc.of d).total = 2
    ∧ (let r (j : Nat) : EAcc := { tag := j, addr := 0xC000000000000100 + 4 * j, n := 4, pl := { bank := true, g := 0, pa := 256 + 4 * j } }
       let w (j : Nat) : EAcc :=
         { tag := j, addr := 0xC000000000000200 + 4 * j, n := 4, wr := some [1, 2, 3, 4], pl := { bank := true, g := 0, pa := 512 + 4 * j } }
       let done (e : EAcc) : EAcc := { e with got := some [1, 2, 3, 4] }
       let p (io : List EAcc) : Prog := { stage := 2, hdr := d, io := io }
       let unread (io : List EAcc) : List EAcc := ((CopyDesc.of d).reads 0x20 [] 0 2).filter (fun e => !(p io).did e)
       let writes (io : List EAcc) : List EAcc :=
         CopyDesc.pieces 0x20 0 (fun _ => 0) ((CopyDesc.of d).writes 0x20 0 [] 0 ((m 0x20 0 (p io)).chunkData (CopyDesc.of d) 0 2 0))
       (ok 0x20 d (p [done (r 0)]) && ok 0x20 d (p [done (r 0), r 1]) && ok 0x20 d (p [done (r 0), done (r 1)])) = true
        ∧ 0 < (CopyDesc.of d).total ∧ (CopyDesc.of d).total ≤ 0 + min ((CopyDesc.of d).per 0x20) ((CopyDesc.of d).total - 0)
        ∧ unread [done (r 0)] = [{ r 1 with pl := {} }] ∧ (p [done (r 0)]).find { r 1 with pl := {} } = none
        ∧ bankRange 0 ((s 0x20 d {}).grant 0 0) ((r 1).addr % 2 ^ 24) 4 = .ok (r 1).pl
        ∧ unread [done (r 0), r 1] = [{ r 1 with pl := {} }] ∧ (p [done (r 0), r 1]).find { r 1 with pl := {} } = some (r 1)
        ∧ unread [done (r 0), done (r 1)] = [] ∧ (writes [done (r 0), done (r 1)]).map (fun e => e.addr) = [0xC000000000000200, 0xC000000000000204]
        ∧ (let io := [done (r 0), done (r 1), done (w 0), w 1]
           (writes io).all (fun e => ((p io).find e).isSome) = true ∧ (writes io).filter (fun e => !(p io).did e) = [{ w 1 with pl := {} }]
            ∧ (p io).find (w 1) = some (w 1) ∧ unread io = [])
        ∧ (let io := [done (r 0), done (r 1), done (w 0), done (w 1)]
           (writes io).all (fun e => (p io).did e) = true ∧ writes io ≠ [] ∧ unread io = []))
    ∧ ok 0x20 d { stage := 3, hdr := d } = true
    ∧ (let e := cdesc 0xC000000000000100 0 4
       let t := (natToBytes 8 0xC000000000000100 ++ natToBytes 8 0x4001000000000000 ++ e.drop 16)
       let r (j : Nat) : EAcc := { tag := j, addr := 0xC000000000000100 + 4 * j, n := 4, pl := { bank := true, g := 0, pa := 256 + 4 * j }, got := some [1, 2, 3, 4] }
       let p : Prog := { stage := 2, hdr := t, io := [r 0, r 1] }
       let s := streamed { ring with state := 4 } (cmdAt (m 0x20 0 p) State.reset)
       let ws := CopyDesc.pieces 0x20 0 (fun _ => 128) ((CopyDesc.of t).writes 0x20 0 [] 0 ((m 0x20 0 p).chunkData (CopyDesc.of t) 0 2 0))
       runsB s (m 0x20 0 p) = true ∧ ((CopyDesc.of t).reads 0x20 [] 0 2).filter (fun e => !p.did e) = [] ∧ clsOf (CopyDesc.of t).dst = 4 ∧ p.adm = false
        ∧ (CopyDesc.of t).total = 2 ∧ ws.all (fun w => !p.did w) = true
        ∧ (s.chunkAsk 0 [] ((CopyDesc.of t).writes 0x20 0 [] 0 ((m 0x20 0 p).chunkData (CopyDesc.of t) 0 2 0))).1 = some Cause.streamClosed)
    ∧ (let r : EAcc := { tag := 1, addr := 0xC000000000000104, n := 4, pl := { bank := true, g := 0, pa := 260 } }
       (s 0x20 d {}).spoiled r.pl r.n false = false ∧ (s 0x20 d {}).spoiled r.pl r.n true = false) := by decide +kernel

theorem witness_BarrierPortAndChannelCommands :
    let s (code : BitVec 8) (c : Frame) (b : Barrier) : State := barrierAt b (cmdAt (cmd0 code c {}) State.reset)
    let ok (code : BitVec 8) (c : Frame) (b : Barrier) : Bool := runsB (s code c b) (cmd0 code c {}) && Barrier.of ((s code c b).readPlace { bank := true, g := 0 } 16) == b
    let ch : Chan := { desc := chDesc 0 0 1 0 0 }
    let on (c : Chan) (code : BitVec 8) (f : Frame) : State := cmdAt (cmd0 code f {}) (channeled c {} State.reset)
    (ok 0x31 (fr 0 0 0 0 0) {} && ok 0x31 (fr 0 0 0 1 1) { exp := 1 } && ok 0x31 (fr 0 0 0 0 0) { exp := 1, pend := 1 } && ok 0x31 (fr 0 0 0 0 0) { exp := 1, gen := 15 }
      && ok 0x30 (fr 0 15 63 0 0) {} && ok 0x30 (fr 1 0 0 0 0) {} && ok 0x30 (fr 2 0 0 0 0) {}) = true
    ∧ bankPlace 0 ((cmdAt {} State.reset).grant 0 0) 0 16 = .ok { bank := true, g := 0 }
    ∧ runsB (on ch 0x32 (fr 0 3 0 0 0)) (cmd0 0x32 (fr 0 3 0 0 0) {}) = true ∧ runsB (on ch 0x33 (fr 0 3 255 0 0)) (cmd0 0x33 (fr 0 3 255 0 0) {}) = true
    ∧ Tab.getD ((on ch 0x32 (fr 0 3 0 0 0)).core 0).chans 3 = ch ∧ dEN ch.desc = true ∧ dCTX ch.desc = 0 ∧ dVC ch.desc ≠ 1
    ∧ dEN (Tab.getD ((on ch 0x32 (fr 0 4 0 0 0)).core 0).chans 4 : Chan).desc = false ∧ dVC (chDesc 1 0 1 0 0) = 1
    ∧ ch.rmark = [] ∧ ch.jout = [] ∧ ch.jElems = [] ∧ ch.open_ = true ∧ ch.sfifo.length < 8
    ∧ (let f : Frame := fr 0 3 0 0 0
       runsB (on { ch with jElems := [1] } 0x33 f) (cmd0 0x33 f {}) = true ∧ Tab.getD ((on { ch with jElems := [1] } 0x33 f).core 0).chans 3 = { ch with jElems := [1] }
        ∧ runsB (on { ch with jout := [{}] } 0x32 f) (cmd0 0x32 f {}) = true)
    ∧ (let c : Chan := { ch with dfifo := [{ probe := some 0 }] }
       let t (owed : Nat) : State := (cmdAt (cmd0 0x32 (fr 1 0 0 0 0) { owed := owed }) (channeled c {} State.reset))
       (Tab.getD ((t 2).core 0).chans 3 : Chan).dfifo = [{ probe := some 0 }] ∧ ((((t 2).stamp 0).updChan 0 3 Chan.pull).cmd 0 0).prog.owed = 2
        ∧ ((((t 1).stamp 0).updChan 0 3 Chan.pull).cmd 0 0).prog.owed ≤ 1)
    ∧ (let m (owed : Nat) : Cmd := cmd0 0x20 (atBank 0) { stage := 3, owed := owed, hdr := cdesc 0xC000000000000100 0 4 }
       let t (owed : Nat) : State := barrierAt { exp := 1, inb := 2, outb := 2 } (cmdAt (m owed) State.reset)
       (t 3).cmd 0 0 = m 3 ∧ (m 3).isCopy = true ∧ ((t 3).reg 0).runs = true
        ∧ bankPlace 0 ((t 3).grant 0 0) (CopyDesc.of (m 3).prog.hdr).barr 16 = .ok { bank := true, g := 0 }
        ∧ 1 < (Barrier.of ((t 1).readPlace { bank := true, g := 0 } 16)).inb ∧ (t 1).spoiled { bank := true, g := 0 } 16 false = false) := by decide +kernel

theorem witness_ContextUnitCommands :
    let at_ (code : BitVec 8) (w0 : W32) (p : Prog) (s : State) : State := cmdAt (cmd0 code (atBank w0) p) s
    let img (s : State) : State := { s with kernels := [(0, { image := image 0 [], regions := [0] })] }
    let io (bs : List Byte) : Prog := { io := readDone 0xC000000000000000 (bs.take 16) ++ readDone 0xC000000000000100 (bs.drop 256) }
    let put (bs : List Byte) : State := banked bs (img (at_ 0x40 1 (io bs) State.reset))
    let sect : List Byte := [3, 0, 0, 0, 0, 0, 0, 0] ++ natToBytes 4 0x100 ++ [16, 0, 0, 0] ++ List.replicate 240 0
    let good := sect ++ List.replicate 16 0
    let bad := sect ++ List.replicate 15 0 ++ [0xF0]
    let reads (bs : List Byte) (yes : Bool) : Bool :=
      let m := cmd0 0x40 (atBank 1) (io bs)
      runsB (put bs) m && (match (put bs).eRead 0 0 m 0xC000000000000000 16 with
        | (s1, .ok b) =>
          let ss := sectsOf b 0 1
          let h : Sect := ss.headD {}
          let y := s1.sibling 0 0 h.ctx
          sectsOk (s1.kernelOf 0 0).image (s1.grant 0 0).kreg ss && (s1.sched 0 y).active != some h.block
            && (match s1.readSects 0 0 m 0xC000000000000000 ss with
              | (s2, .ok cs) => (match (List.zip ss cs).mapM (fun p => Sect.recs { p.1 with off := 0 } p.2) with
                | some rs => distinct (rs.flatten.flatMap Rec.names) && (match checkCfg ((s2.grant 0 y).env 0) h.stage rs.flatten with
                  | .ok _ => yes
                  | .error i => !yes && i == 0xFFFF)
                | none => false)
              | (_, .error _) => false)
        | (_, .error _) => false)
    (reads good true && reads bad false && runsB (at_ 0x40 17 {} State.reset) (cmd0 0x40 (atBank 17) {})) = true
    ∧ structFault 0xC000000000000000 16 = none ∧ structFault 0xC000000000000000 4096 = none := by decide +kernel

/-- A `ctxsave` and a `ctxload` that start. -/
theorem witness_ContextUnitCommands_starts :
    let t (code : BitVec 8) := cmdAt (cmd0 code (atBank 0) {}) State.reset
    runsB (t 0x41) (cmd0 0x41 (atBank 0) {}) = true ∧ runsB (t 0x42) (cmd0 0x42 (atBank 0) {}) = true ∧ (t 0x42).saves = []
    ∧ ((t 0x42).core 0).quietKernel 0 = true := by decide +kernel

/-- A `ctxsave` whose markers are under way at some router inputs. -/
def saving : Cmd := cmd0 0x41 (atBank 0) { stage := 1 }
def savingAt (ins : List Nat) : State := (cmdAt saving State.reset).updCore 0 (fun k => { k with passing := some (0, ins) })
/-- The router inputs from other routers and ports. -/
def everyInput : List Nat := (List.range 256).flatMap (fun c => [8 * c + 1, 8 * c + 2, 8 * c + 3, 8 * c + 4])

theorem mem_everyInput : ∀ c ∈ List.range 256, ∀ i ∈ [1, 2, 3, 4], everyInput.contains (8 * c + i) = true := fun c hc i hi => by
  rw [everyInput, List.contains_iff_mem, List.mem_flatMap]
  exact ⟨c, hc, by simp at hi ⊢; omega⟩

theorem passedAll_of (ins : List Nat) (q : (savingAt ins).still 0 (((savingAt ins).core 0).ofKernel 0) = true)
    (m : ∀ c ∈ List.range 256, ∀ i ∈ [1, 2, 3, 4], ins.contains (8 * c + i) = true) : (savingAt ins).passedAll 0 0 = true := by
  have h : ((savingAt ins).core 0).passing = some (0, ins) := rfl
  simp only [State.passedAll, h, q, Option.any_some, Bool.and_true, Bool.and_eq_true, List.all_eq_true]
  exact ⟨rfl, m⟩

/-- 16 R320: a `ctxsave` whose markers have and have not passed. -/
theorem witness_ContextUnitCommands_passes :
    runsB (savingAt []) saving = true ∧ (savingAt []).passedAll 0 0 = false ∧ runsB (savingAt everyInput) saving = true
    ∧ (savingAt everyInput).passedAll 0 0 = true := by
  exact ⟨by decide +kernel, by decide +kernel, by decide +kernel, passedAll_of everyInput (by decide +kernel) mem_everyInput⟩

/-- 16 R321: a `pmark` where another image waits and where none does. -/
theorem witness_ContextUnitCommands_pmark :
    let m := cmd0 0x43 (atBank 0) {}
    let t := cmdAt m State.reset
    let u := t.setReg 0 { t.reg 0 with images := [{ core := { threads := [(0, { live := true })] } }] }
    runsB t m = true ∧ ((t.progress 0 0 (fun p => { p with stage := 1 })).endQuantum 0).2 = false
    ∧ runsB u m = true ∧ ((u.progress 0 0 (fun p => { p with stage := 1 })).endQuantum 0).2 = true := by
  decide +kernel

/-- A command of that code, with accesses performed, of a kernel with an image. -/
def atImage (code : BitVec 8) (io : List EAcc) : State :=
  { cmdAt (cmd0 code (atBank 0) { io := io }) State.reset with kernels := [(0, { image := image 0 [], regions := [0] })] }

theorem runs_atImage (code : BitVec 8) (io : List EAcc) : Claims.Runs (atImage code io) 0 0 (cmd0 code (atBank 0) { io := io }) :=
  ⟨rfl, rfl, rfl, ⟨rfl, rfl, rfl⟩, rfl⟩

/-- 16 R320: images of the size of a region with the least lease are written by `ctxsave`, and read by `ctxload` whatever they hold;
one that `ctxsave` wrote is an image. -/
theorem witness_ImagesAreReadAndWritten :
    (∀ bs, ∃ io, let m := cmd0 0x41 (atBank 0) { stage := 2, io := io }
      let s : State := { cmdAt m State.reset with saves := [{ bytes := bs }] }
      Claims.Runs s 0 0 m ∧ s.saves[m.prog.a]? = some { bytes := bs } ∧ s.eWrite 0 0 m 0xC000000000000000 bs = (s, .ok ()))
    ∧ (∀ bs, bs.length = imageSize 1 → ∃ io, let s := atImage 0x42 io
      let m := cmd0 0x42 (atBank 0) { io := io }
      Claims.Runs s 0 0 m ∧ (s.core 0).quietKernel 0 = true
        ∧ s.eRead 0 0 m 0xC000000000000000 (imageSize (s.grant 0 0).lease) = (s, .ok bs))
    ∧ (∀ rest, rest.length = imageSize 1 - 256 → (imageWith (image 0 []) 0 rest).length = imageSize 1
      ∧ isImage (image 0 []) 0 (imageWith (image 0 []) 0 rest) = true) := by
  refine ⟨fun bs => ⟨performedLines (writeLines 0xC000000000000000 bs) (fun _ => []), ⟨rfl, rfl, rfl, ⟨rfl, rfl, rfl⟩, rfl⟩, rfl,
    eWrite_performed _ _ _ _ _ _ _ rfl⟩,
    fun bs h => ⟨performedLines (readLines 0xC000000000000000 bs.length) (fun e => (bs.drop (e.addr - 0xC000000000000000)).take e.n),
      runs_atImage _ _, rfl, ?_⟩,
    fun rest h => ⟨?_, isImage_imageWith _ _ _ (by decide)⟩⟩
  · simp only [show ∀ io, ((atImage 0x42 io).grant 0 0).lease = 1 from fun _ => rfl, ← h]
    exact eRead_bytes _ _ _ _ _ _ rfl
  · have : ((image 0 []).drop 32).length = 32 := by decide
    have : (natToBytes 4 0x49544348).length = 4 := rfl
    simp only [imageWith, List.length_append, List.length_map, List.length_cons, List.length_nil, List.length_replicate, List.length_take,
      length_sha256, imageSize, *]
    rfl
/-- A group of two members in region 0, at the key of context 0 and group 7; this region is rank 1. -/
def grouped (gr : Group) (s : State) : State := s.setReg 0 { s.reg 0 with groups := [(7, gr)] }
def pair : Group := { table := [0x4000, 0x8000], own := 1 }
/-- The member table of that group. -/
def ptab (e0 : Nat) : List Byte := natToBytes 8 e0 ++ natToBytes 8 0x8000
/-- A reduction of one chunk of 128 bytes of INT32. -/
def rdesc : List Byte := natToBytes 8 0xC000000000000100 ++ natToBytes 8 0xC000000000000200 ++ natToBytes 8 (2 ^ 32 + 128) ++ natToBytes 8 0

theorem witness_GroupCommands :
    let at_ (code : BitVec 8) (c : Frame) (p : Prog) (bs : List Byte) (s : State) : State := banked bs (cmdAt (cmd0 code c p) s)
    let ok (code : BitVec 8) (c : Frame) (p : Prog) (s : State) : Bool := runsB (at_ code c p [] s) (cmd0 code c p)
    let create : Frame := fr 0 7 0x10002 0 0xC0000000
    let f0 : Frame := fr 0 7 0 0 0xC0000000
    let f1 : Frame := fr 1 7 0 0 0xC0000000
    let wrongs (bs : List Byte) : Option Bool :=
      let p : Prog := { io := readDone 0xC000000000000000 bs }
      match (at_ 0x50 create p bs State.reset).eRead 0 0 (cmd0 0x50 create p) 0xC000000000000000 16 with
      | (_, .ok b) => some ((List.zip [0, 1] ((List.range 2).map (word8 b))).any (fun p => entryWrong 1 p.1 p.2))
      | (_, .error _) => none
    let in_ := grouped pair State.reset
    (ok 0x50 create {} State.reset && ok 0x50 create {} in_ && ok 0x50 f1 {} in_ && ok 0x52 f0 {} in_ && ok 0x53 f0 {} in_ && ok 0x51 f1 {} in_ && ok 0x51 f0 {} in_
      && ok 0x51 f0 {} State.reset && ok 0x52 f0 {} (grouped { pair with paused := some 4 } State.reset) && ok 0x51 f0 {} (grouped { pair with failed := true } State.reset)) = true
    ∧ wrongs (ptab 0x4000) = some false ∧ wrongs (ptab 0xC000) = some true
    ∧ (State.reset.reg 0).group? 7 = none ∧ (in_.reg 0).group? 7 = some pair ∧ (in_.reg 0).sender 7 = none ∧ pair.paused = none
    ∧ pair.asker = none ∧ pair.failed = false ∧ in_.losses = []
    ∧ (let s := at_ 0x52 f0 {} [] in_
       let t := s.updCore 0 (fun k => { k with cmds := k.cmds ++ [(1, cmd0 0x51 f0 {})] })
       runsB s (cmd0 0x52 f0 {}) = true ∧ s.firstUnknown 0 7 = false ∧ runsB t (cmd0 0x52 f0 {}) = true ∧ t.firstUnknown 0 7 = true)
    ∧ (let h := List.replicate 20 0 ++ natToBytes 4 128 ++ List.replicate 168 (0 : Byte)
       let p : Prog := { io := readDone 0xC000000000000000 (h.take 64) ++ readDone 0xC000000000000040 (h.drop 64) }
       let s := at_ 0x51 f1 p h in_
       ok 0x51 f1 p in_ = true ∧ (s.eRead 0 0 (cmd0 0x51 f1 p) 0xC000000000000000 64).2.toOption = some (h.take 64) ∧ leNat ((h.drop 20).take 4) = 128
        ∧ (s.eRead 0 0 (cmd0 0x51 f1 p) 0xC000000000000040 128).2.isOk = true)
    ∧ (let p : Prog := { io := readDone 0xC000000000000000 rdesc }
       let s := at_ 0x51 f0 p rdesc in_
       let q : Prog := { stage := 1, hdr := rdesc, io := writeDone 0xC000000000000200 (List.replicate 128 0) }
       let m := cmd0 0x51 f0 q
       let t := at_ 0x51 f0 q rdesc in_
       ok 0x51 f0 p in_ = true ∧ (s.eRead 0 0 (cmd0 0x51 f0 p) 0xC000000000000000 32).2.toOption = some rdesc ∧ ok 0x51 f0 q in_ = true ∧ m.reduce.fault rdesc = none ∧ (s.reg 0).contribs = []
        ∧ ok 0x51 f0 { stage := 1, hdr := rdesc, chunk := 1 } in_ = true ∧ m.reduce.first + m.reduce.nch ≤ 1 ∧ m.prog.chunk < m.reduce.first + m.reduce.nch
        ∧ (let k : Contrib := { grp := 7, pk := { (default : Packet) with ops := [4], span := 2, chunk := 0, pay := List.replicate 128 0, plan := true } }
           [k].find? (fun q => q.grp == 7 && q.pk.plan && q.pk.chunk.toNat == m.prog.chunk && q.pk.op0 == 4 && q.pk.rank == 0
              && q.pk.span.toNat == pair.table.length) = some k ∧ k.pk.pay = List.replicate 128 0
            ∧ runsB (t.setReg 0 { t.reg 0 with contribs := [k] }) m = true
            ∧ (((t.setReg 0 { t.reg 0 with contribs := [k] }).eCheck 0 0 m 0xC000000000000200 128).2.isOk = true))
        ∧ pair.next < m.reduce.first + m.reduce.nch ∧ pair.next < m.prog.chunk + 4 ∧ pair.table.all (fun e => routeKind e != 0) = true
        ∧ (let q : Prog := { stage := 1, hdr := rdesc, io := readDone 0xC000000000000100 (List.replicate 128 0) }
           let m := cmd0 0x51 f0 q
           runsB (at_ 0x51 f0 q rdesc in_) m = true ∧ ((at_ 0x51 f0 q rdesc in_).eRead 0 0 m 0xC000000000000100 128).2.toOption = some (List.replicate 128 0))
        ∧ ok 0x51 f0 q (grouped { pair with next := 1 } State.reset) = true ∧ m.reduce.first + m.reduce.nch ≤ 1
        ∧ (let u : State := { t with losses := [(7, { gone := [0] })] }
           runsB u m = true ∧ Tab.has u.losses 7 = true ∧ m.prog.stage ≠ 0 ∧ m.cf = 0 ∧ Tab.has (Tab.getD u.losses 7 : Loss).heard 1 = false
            ∧ (u.reg 0).result 7 m.prog.chunk 2 = none ∧ (u.reg 0).arrivals = [])
        ∧ (t.eCheck 0 0 m 0xC000000000000200 128).2.isOk = true ∧ (t.eWrite 0 0 m 0xC000000000000200 (List.replicate 128 0)).2.isOk = true) := by
  decide +kernel

theorem witness_PacketsAndMessagesAtTheUnits :
    let pk (op : BitVec 8) (rank : BitVec 16) : Packet :=
      { daddr := 0xC000000000000000, ops := [op, 0, 0, 0, 0, 0, 0, 0], routes := [0x4001, 0, 0, 0, 0, 0, 0, 0], chunk := 0, span := 1, rank := rank, group := 7,
        fmt := 0, nent := 2, last := true, pay := [1, 0, 0, 0] }
    let s (op : BitVec 8) : State :=
      let g := { leased (grouped pair State.reset) with ctxs := [(0, { live := true })] }
      g.setReg 0 { g.reg 0 with arrivals := [{ pk := pk op 0 }] }
    (s 0).groupCtx 0 7 = some 0 ∧ (s 0).groupCtx 0 8 = none ∧ (Tab.getD (s 0).links 3 : Link).heldPk = none ∧ (s 0).freedPk 0 = none
    ∧ (let t := { s 0 with links := [(3, { heldPk := some (0, pk 0 0, 0) })] }
       (Tab.getD t.links 3 : Link).heldPk = some (0, pk 0 0, 0))
    ∧ ((s 0).reg 0).arrivals = [{ pk := pk 0 0 }] ∧ Tab.get ((s 0).reg 0).groups 7 = some pair ∧ (pk 0 0).nent ≠ 0 ∧ routeKind (pk 0 0).route0 ≠ 3
    ∧ (pk 0 0).plan = false ∧ (pk 1 0).plan = false ∧ (pk 1 0).op0 = 1 ∧ (pk 4 0).op0 = 4 ∧ (s 0).losses = [] ∧ (s 0).routeHeld (pk 0 0).route0 = false
    ∧ ((pk 1 1).adjoins (pk 1 0) = true ∧ redFormat 0 = true ∧ (pk 1 0).rank.toNat < (pk 1 1).rank.toNat)
    ∧ (pk 0 0).rsvd = false ∧ (0 : BitVec 16) = (s 0).genOf 0 ∧ ((s 0).core 0).resident 0 = some 0
    ∧ (let e : EAcc := { addr := 0xC000000000000000, n := 4, wr := some [1, 0, 0, 0] }
       let q : EAcc := { e with pl := { bank := true, g := 0 }, va := e.addr }
       writeLines (pk 4 0).daddr.toNat (pk 4 0).pay = [e] ∧ bankRange 0 ((s 4).grant 0 0) 0 4 = .ok q.pl
        ∧ ([] : List EAcc).find? e.same = none ∧ [q].find? e.same = some q ∧ q.got = none ∧ q.wr = some [1, 0, 0, 0]
        ∧ [{ q with got := some [] }].find? e.same = some { q with got := some [] })
    ∧ (s 4).spoiled { bank := true, g := 0 } 4 true = false
    ∧ ((s 0).reg 0).group? 7 = some pair ∧ (s 0).sender 0 7 = none ∧ (s 0).senderSaved 0 7 = false
    ∧ (allRegions.all (fun q => q == 0 || (Tab.get ((s 0).reg q).groups 7).isNone)) = true
    ∧ ({ pair with switching := true } : Group).asker = none ∧ pair.asker = none ∧ pair.switching = false
    ∧ (Tab.get ((grouped pair (leased State.reset)).reg 0).groups 7 = some pair
        ∧ ((leased State.reset).core 0).grants.any (fun e => e.2.ctxid == 0) = true) := by decide +kernel

theorem witness_PacketsAndMessagesAtTheUnits_plan :
    let p (r : BitVec 16) : Packet :=
      { daddr := 0, ops := [1, 0, 0, 0, 0, 0, 0, 0], routes := [0x4001, 0, 0, 0, 0, 0, 0, 0], chunk := 0, span := 1, rank := r, group := 7,
        fmt := 0, nent := 2, last := true, pay := [1, 0, 0, 0], plan := true }
    let s := grouped pair (leased State.reset)
    let t : State := s.setReg 0 { s.reg 0 with arrivals := [{ pk := p 0 }] }
    let u := t.updCore 0 (fun k => { k with cmds := [(3, cmd0 0x51 (fr 0 7 0 0 0xC0000000) { stage := 1, hdr := natToBytes 16 (2 ^ 127) ++ natToBytes 16 (2 ^ 32 + 256) })] })
    (t.reg 0).arrivals = [{ pk := p 0 }] ∧ Tab.get (t.reg 0).groups 7 = some pair ∧ t.losses = [] ∧ t.freedPk 0 = none ∧ t.routeHeld (p 0).route0 = false
    ∧ (t.reg 0).sending 7 = none ∧ (p 0).op0 ≠ 4 ∧ (p 0).mates (p 1) pair.table.length = true ∧ (p 0).rank.toNat < (p 1).rank.toNat
    ∧ routeKind (p 0).route0 ≠ 3 ∧ (p 0).op0 < 5 ∧ (p 0).nent ≠ 0
    ∧ ((u.reg 0).sending 7).any (fun e => e.2.cf == 0 && !e.2.reduce.agrees (p 0)) = true ∧ (u.reg 0).arrivals = [{ pk := p 0 }] := by decide +kernel

theorem witness_PacketsAndMessagesAtTheUnits_members :
    let s := grouped pair (leased State.reset)
    let m (p : Prog) : Cmd := cmd0 0x51 (fr 0 7 0 0 0xC0000000) p
    let t : State := { s.updCore 0 (fun k => { k with cmds := [(3, m { stage := 1 })] }) with losses := [(7, { gone := [0] })] }
    (s.setReg 0 { s.reg 0 with images := [{ core := { cmds := [(3, m {})] } }] }).senderSaved 0 7 = true ∧ s.senderSaved 0 7 = false
    ∧ State.reset.members 7 = [] ∧ s.members 7 = [(0, pair)] ∧ pair.own ≠ 0 ∧ pair.own < pair.table.length
    ∧ (List.range 2).all (fun i => i == 0 || routeKind (pair.table.getD i 0) != 0) = true ∧ s.sender 0 7 = none ∧ s.losses = []
    ∧ Tab.get t.losses 7 = some { gone := [0] } ∧ t.members 7 = [(0, pair)] ∧ (t.reg 0).sending 7 = some (3, m { stage := 1 })
    ∧ t.stuck 0 (3, m { stage := 1 }) = false ∧ (m {}).cf ≠ 1 ∧ ([5] : List Nat).min? = some 5 ∧ (1 : Nat) ∉ [0] := by decide +kernel

theorem witness_PacketsAndMessagesAtTheUnits_voing :
    let e : EdgePort := { kind := 3, arg := 0x0903 }
    let c : Chan := { desc := chDesc 0 (256 + 5) 1 0 0 }
    let t := channeled c e State.reset
    (t.core 0).chans.find? (fun e => dSRC e.2.desc == 256 + 5 && (t.core 0).chanActive e.1) = some (3, c) ∧ Tab.get (t.core 0).ports 5 = some e
    ∧ t.regions.findSome? (fun r => (r.2.core.ports.find? (fun e : Nat × EdgePort => e.2.kind == 3 && e.2.arg.toNat % 16 == 3
        && e.2.arg.toNat / 256 % 256 == 9)).map (fun e => ((BitVec.ofNat 5 r.1 : RegionNo), e.1))) = some (0, 5)
    ∧ c.takes (dat 1) = true ∧ t.portMoves 0 c.desc = true ∧ e.tokArm = [] ∧ e.markArm = [] ∧ c.rmark = [] ∧ c.jout = [] ∧ (dat 1).kind = .data
    ∧ (t.reg 0).clockGated = false ∧ (t.reg 0).gating = none ∧ ((t.setReg 0 { t.reg 0 with clockGated := true }).reg 0).clockGated = true := by
  decide +kernel

theorem witness_WhatALinkHasSentIsAcknowledged :
    (let l : Link := { unacked := [(some (0, 0), true), (none, false)], outTok := [(3, dat 1)], outPk := [default] }
       let t : State := { State.reset with links := [(3, l)], cxl := [(4, some (0, 0)), (5, none)] }
       (Tab.getD t.links 3 : Link) = l ∧ (Tab.getD t.links 2 : Link).unacked = []
        ∧ t.cxl = [(4, some (0, 0))] ++ (5, none) :: [] ∧ t.cxl = [] ++ (4, some (0, 0)) :: [(5, none)]) := by decide +kernel

theorem witness_DrawerCommandsAskTheirSlices :
    let ok (code : BitVec 8) (c : Frame) (p : Prog) (s : State) : Bool := runsB (cmdAt (cmd0 code c p) s) (cmd0 code c p)
    let cap (n : W32) : Frame := fr 0 5 n 0 0
    let has (d : Drawer) : State := { State.reset with drawers := [(5, d)] }
    let dep : Frame := fr 0 5 8 0 0xC0000000
    let pat (w0 : W32) : Frame := fr 0 5 w0 0 0xC0000000
    (ok 0x60 (cap 1) {} State.reset && ok 0x60 (cap 524288) {} State.reset && ok 0x60 (cap 1) {} (has {}) && ok 0x60 (cap 524288) {} (has { cap := 1 })
      && ok 0x61 (cap 0) {} (has {}) && ok 0x61 (cap 0) {} State.reset && ok 0x62 dep {} State.reset && ok 0x63 (pat 1) {} State.reset
      && ok 0x64 (pat 0x80001) {} State.reset && ok 0x64 (pat 0) {} State.reset && ok 0x64 (pat 1) { stage := 3 } State.reset) = true
    ∧ drawerKey 0 5 = 5 ∧ Tab.has State.reset.drawers 5 = false ∧ 524288 < (((has { cap := 1 }).drawers.map (fun p => p.2.cap)).sum) + 524288
    ∧ (has {}).drawers.length < 4096 ∧ ((has {}).slice (5 * 0x9E37 % 128)).parked = []
    ∧ structFault 0xC000000000000000 32 = none ∧ structFault 0xC000000000000000 64 = none ∧ patternBad 1 = false ∧ patternBad 0 = true
    ∧ (has {}).drawers = [(5, {})] ∧ ({} : Drawer).owed = 0 ∧ ({} : Drawer).dying = false
    ∧ (let p : Prog := { io := readDone 0xC000000000000000 (List.replicate 288 1) }
       let m := cmd0 0x62 dep p
       runsB (cmdAt m State.reset) m = true ∧ ((cmdAt m State.reset).eRead 0 0 m 0xC000000000000000 288).2.isOk = true)
    ∧ (let p : Prog := { io := readDone 0xC000000000000000 (List.replicate 64 1) ++ writeReady 0xC000000000000040 (List.replicate 288 0) }
       let m := cmd0 0x64 (pat 0x80001) p
       let s := cmdAt m State.reset
       runsB s m = true ∧ (s.eRead 0 0 m 0xC000000000000000 64).2.isOk = true ∧ (s.eCheck 0 0 m 0xC000000000000040 288).2.isOk = true)
    ∧ (let p : Prog := { stage := 3, hdr := List.replicate 64 1, io := writeDone 0xC000000000000040 (List.replicate 64 1) }
       let m := cmd0 0x64 (pat 1) p
       let s := cmdAt m State.reset
       runsB s m = true ∧ (s.eCheck 0 0 m 0xC000000000000040 64).2.isOk = true ∧ (s.eWrite 0 0 m 0xC000000000000040 (List.replicate 64 1)).2.isOk = true)
    := by
  decide +kernel

theorem witness_SlicesServeInOrder :
    let q (kind : Nat) : DReq := { kind := kind, did := 5, n := 9, modes := 1, maxp := 8, v := [7], nowait := true }
    let w (kind : Nat) : DReq := { q kind with nowait := false }
    let at_ (l : Slice) (d : Drawer) : State := { State.reset with slices := [(3, l)], drawers := [(5, d)] }
    let l : Slice := { cap := [(5, 10)], count := [(5, 1)], inRes := [q 0, w 0], inRet := [q 3], inDep := [{ q 0 with tuple := { f := [7], plu := 8 } }],
                       inMat := [q 1, w 2], inLive := [5], inSweep := [5], live := [(5, 0)], bags := [(5, [{ f := [7], plu := 8 }])], parked := [w 2] }
    (q 0).key = 5 ∧ (at_ l {}).anchorLive 5 = true ∧ (at_ l { dying := true }).anchorLive 5 = false
    ∧ l.parked.any (fun p => p.kind == 0 && p.key == 5) = false ∧ Tab.getD l.count 5 + (q 0).n ≤ Tab.getD l.cap 5
    ∧ ¬ (Tab.getD l.count 5 + 10 ≤ Tab.getD l.cap 5) ∧ (q 0).nowait = true ∧ (w 0).nowait = false
    ∧ Tab.get l.live 5 = some (q 0).inc ∧ Tab.get l.live 5 ≠ some 1 ∧ Tab.get (at_ l {}).drawers 5 = some {} ∧ ({} : Drawer).inc = (q 3).inc ∧ ({ inc := 1 } : Drawer).inc ≠ (q 3).inc
    ∧ Tab.has l.live 5 = true ∧ Tab.has ({ l with live := [] } : Slice).live 5 = false
    ∧ (w 2).kind = 2 ∧ (w 2).key = 5 ∧ (w 2).matches { f := [7], plu := 8 } = true ∧ (w 2).matches { f := [8], plu := 8 } = false
    ∧ (Tab.getD l.bags 5 : List Tuple).find? (q 1).matches = some { f := [7], plu := 8 }
    ∧ ([] : List Tuple).any (q 1).matches = false
    ∧ l.inLive[0]? = some 5 ∧ l.inSweep[0]? = some 5 ∧ Tab.get (at_ l { owed := 1, cmd := some (0, 0) }).drawers 5 = some { owed := 1, cmd := some (0, 0) }
    ∧ (let s := State.reset.setReg 0 { State.reset.reg 0 with resend := [(3, q 0)] }; (s.reg 0).resend[0]? = some (3, q 0)) := by decide +kernel
/-- A chain of one step on one row, and its step. -/
def chainHead : List Byte :=
  natToBytes 8 0xC000000000000100 ++ natToBytes 8 0xC000000000000200 ++ natToBytes 8 0xC000000000000300 ++ natToBytes 8 (64 * 2 ^ 32 + 1) ++ natToBytes 8 0
    ++ natToBytes 8 (2 ^ 48) ++ natToBytes 16 0
def scaleStep (d : Nat) : List Byte := natToBytes 8 0xC000000000000400 ++ natToBytes 8 (2 * 2 ^ 60 + d * 2 ^ 51)

theorem witness_ChainWalker :
    let at_ (code : BitVec 8) (p : Prog) (bs : List Byte) : State := banked bs (cmdAt (cmd0 code (atBank 0) p) State.reset)
    let bs := chainHead ++ scaleStep 0
    let m0 := cmd0 0x70 (atBank 0) {}
    let p1 : Prog := { stage := 1, hdr := chainHead, a := 1, io := readDone 0xC000000000000040 (scaleStep 0) }
    let out := ({ tab := [0xC000000000000400, 2 * 2 ^ 60, 1, 1] } : Prog).chainStep.compute 1 1 1 [0, 0, 0, 0] [0, 0, 0x80, 0x3F]
    let p2 : Prog := { p1 with stage := 2, tab := [0xC000000000000400, 2 * 2 ^ 60, 1, 1],
                               io := readDone 0xC000000000000100 [0, 0, 0, 0] ++ readDone 0xC000000000000400 [0, 0, 0x80, 0x3F] ++ writeDone 0xC000000000000200 out }
    let p3 : Prog := { p1 with stage := 3, tab := [0, 1], io := writeDone 0xC000000000000030 (List.replicate 16 0) }
    (runsB (at_ 0x70 {} bs) m0 && runsB (at_ 0x71 {} bs) (cmd0 0x71 (atBank 0) {}) && runsB (at_ 0x70 p1 bs) (cmd0 0x70 (atBank 0) p1)
      && runsB (at_ 0x70 p2 bs) (cmd0 0x70 (atBank 0) p2) && runsB (at_ 0x70 p3 bs) (cmd0 0x70 (atBank 0) p3)) = true
    ∧ structFault 0xC000000000000000 64 = none ∧ m0.code = 0x70
    ∧ (let p : Prog := { io := readDone 0xC000000000000000 chainHead }
       runsB (at_ 0x70 p bs) (cmd0 0x70 (atBank 0) p) = true
        ∧ (let s := (at_ 0x70 p bs).updCmd 0 0 (fun c => { c with prog := { c.prog with chunk := 0 } })
           match s.eRead 0 0 (cmd0 0x70 (atBank 0) p) 0xC000000000000000 64 with
            | (s, .ok hb) => (Chain.of hb).ok (s.grant 0 0).acc 0
            | _ => false) = true)
    ∧ (let p : Prog := { stage := 4, hdr := chainHead, a := 1, io := readDone 0xC000000000000040 (scaleStep 0) }
       let s := banked bs (cmdAt (cmd0 0x71 (atBank 1) p) State.reset)
       runsB s (cmd0 0x71 (atBank 1) p) = true ∧ (s.eRead 0 0 (cmd0 0x71 (atBank 1) p) 0xC000000000000040 16).2.toOption = some (scaleStep 0)
        ∧ (ChainStep.of (word8 (scaleStep 0) 0) (word8 (scaleStep 0) 1)).formOk (Chain.of chainHead).cb = true
        ∧ (ChainStep.of (word8 (scaleStep 1) 0) (word8 (scaleStep 1) 1)).formOk (Chain.of chainHead).cb = false
        ∧ (ChainStep.of (word8 (scaleStep 0) 0) (word8 (scaleStep 0) 1)).kind = 2)
    ∧ (Chain.of (List.replicate 64 0)).ok 1 0 = false
    ∧ ((at_ 0x70 p1 bs).eRead 0 0 (cmd0 0x70 (atBank 0) p1) 0xC000000000000040 16).2.isOk = true
    ∧ ((ChainStep.of (word8 (scaleStep 0) 0) (word8 (scaleStep 0) 1)).check (Chain.of chainHead) 0 1 none 1 1 = none)
    ∧ ((ChainStep.of (word8 (scaleStep 1) 0) (word8 (scaleStep 1) 1)).check (Chain.of chainHead) 0 1 none 1 1 = some (Cause.cmdInvalid, 0))
    ∧ (let s := at_ 0x70 p2 bs
       let m := cmd0 0x70 (atBank 0) p2
       p2.chainStep.kind = 2 ∧ ¬ p2.chainStep.kind = 3
        ∧ (s.ioAll 0 0 (fun s e => s.engStart 0 (.command 0 0) m e)
            (readLines ((Chain.of chainHead).source 0) (1 * 1 * 4) ++ readLines p2.chainStep.addr (p2.chainStep.operandBytes 1 1))).2.toOption
              = some ([0, 0, 0, 0] ++ [0, 0, 0x80, 0x3F])
        ∧ (s.eWrite 0 0 m ((Chain.of chainHead).target 0) out).2.isOk = true)
    ∧ ((at_ 0x70 p3 bs).eWrite 0 0 (cmd0 0x70 (atBank 0) p3) 0xC000000000000030 (List.replicate 16 0)).2.isOk = true := by decide +kernel

/-- A map descriptor of one 4 KiB page (17 R344). -/
def mdesc (ia oa w2 : Nat) : List Byte := natToBytes 8 ia ++ natToBytes 8 oa ++ natToBytes 8 (2 ^ 48 + w2) ++ natToBytes 8 0
/-- Tables of a context that map page 1 alone, as a page of 4 KiB, and name a table for the pages beside it. -/
def tables4 : Memory :=
  Memory.writeN (Memory.writeN (Memory.writeN (Memory.writeN [] 0x100000 (natToBytes 8 0x101001)) 0x101000 (natToBytes 8 0x102001)) 0x102000
    (natToBytes 8 0x103001)) 0x103000 (natToBytes 8 0x104001)
def paged (s : State) : State := { s with ctxs := [(0, { live := true, root := 0x100000 })], mem := Memory.writeN tables4 0x104008 (natToBytes 8 0x1007) }

theorem witness_ServiceCommands :
    let at_ (code : BitVec 8) (c : Frame) (p : Prog) (bs : List Byte) : State := banked bs (paged (cmdAt (cmd0 code c p) State.reset))
    let ok (code : BitVec 8) (c : Frame) (p : Prog) : Bool := runsB (at_ code c p []) (cmd0 code c p)
    let r := fr 0 0 0 0 0
    (ok 0x80 r {} && ok 0x80 (fr 0 0 1 0x1000 0) {} && ok 0x80 (fr 1 0 1 0 0) {} && ok 0x80 (fr 0 9 0 0 0) {} && ok 0x81 (atBank 0) {} && ok 0x82 (atBank 0) {}
      && ok 0x82 (atBank 0) { stage := 1 } && ok 0x83 (fr 0 0 0 0x1000 0) {} && ok 0x83 (fr 1 0 0 0x1000 0) {}) = true
    ∧ (at_ 0x80 r {} []).target (cmd0 0x80 r {}) r = some 0 ∧ (at_ 0x80 r {} []).target (cmd0 0x80 r {}) (fr 0 9 0 0 0) = none
    ∧ memFault 0x1000 4096 = none ∧ structFault 0xC000000000000000 32 = none
    ∧ (0xC000000000000000 + 1) % 4096 ≠ 0 ∧ ok 0x80 (fr 0 0 1 1 0) {} = true
    ∧ (let p : Prog := { io := readDone 0xC000000000000000 (mdesc 0x2000 0x5000 8) }
       ok 0x81 (atBank 0) p = true ∧ ok 0x82 (atBank 0) p = true
        ∧ ((at_ 0x81 (atBank 0) p []).eRead 0 0 (cmd0 0x81 (atBank 0) p) 0xC000000000000000 32).2.toOption = some (mdesc 0x2000 0x5000 8))
    ∧ mapOk (mdesc 0x2000 0x5000 8) false false = true ∧ mapOk (mdesc 0x2001 0x5000 8) false false = false
    ∧ mapOk (mdesc 0x1000 0 0) false true = true
    ∧ (let s := at_ 0x83 (fr 0 0 0 0x1000 0) {} []
       memFault 0x1000 1 = none ∧ (s.translate 0 0 0x1000 {}).2.isOk = true ∧ isDevice 0x1000 = true ∧ Tab.has s.xfers 0 = false
        ∧ (Tab.getD s.hostOwned 0 : Bool) = false) := by decide +kernel

/-- What a step of a map answers. -/
def mapKind : MapRes → Nat
  | .go _ => 0
  | .stop (.fail _ (some _)) => 1
  | .stop _ => 2
  | .done => 3

theorem witness_ServiceCommands_maps :
    let at_ (code : BitVec 8) (p : Prog) : State := paged (cmdAt (cmd0 code (atBank 0) p) State.reset)
    let job (u : Bool) (d : List Byte) : MapJob := { unmap := u, f := (at_ 0x81 {}).funcOf 0, ctxid := 0, d := MapDesc.of d }
    let step (u : Bool) (d : List Byte) (p : Prog) : Nat :=
      let code := if u then 0x82 else 0x81
      let p := { p with hdr := d }
      if runsB (at_ code p) (cmd0 code (atBank 0) p) then mapKind ((at_ code p).mapStep (job u d) p).2 else 9
    let new := mdesc 0x2000 0x5000 8
    let old := mdesc 0x1000 0 0
    (at_ 0x81 {}).target (cmd0 0x81 (atBank 0) {}) (atBank 0) = some 0
    ∧ step false new { stage := 1 } = 0 ∧ step false new { stage := 2, tab := [0x104010, 0] } = 0 ∧ step true old { stage := 1 } = 0
    ∧ step true old { stage := 2, tab := [0x104008, 0x1007] } = 0 ∧ step false (mdesc (2 ^ 40) 0x5000 8) { stage := 1 } = 1
    ∧ step true (mdesc (2 ^ 40) 0 0) { stage := 1 } = 1
    ∧ (let e : EAcc := { addr := 0x104010, n := 8, wr := some (natToBytes 8 0x500F), got := some [] }
       step false new { stage := 2, tab := [0x104010, 0], io := [e] } = 3 ∧ step true old { stage := 2, tab := [0x104008, 0x1007], io := [e] } = 3)
    ∧ (let p : Prog := { stage := 3, hdr := old, tab := [0x104008, 0x1007] }
       runsB (at_ 0x82 p) (cmd0 0x82 (atBank 0) p) = true ∧ (job true old).removed p.tab = [0] ∧ (at_ 0x82 p).mapAwaits (job true old) [0] p.waits = false)
    ∧ (let p : Prog := { stage := 3, hdr := old, tab := [0x104008, 0x1007], waits := [0] }
       (withAcc { id := 0, va := 0x1000, phase := .ready {} } (at_ 0x82 p)).mapAwaits (job true old) [0] p.waits = true
        ∧ runsB (withAcc { id := 0, va := 0x1000, phase := .ready {} } (at_ 0x82 p)) (cmd0 0x82 (atBank 0) p) = true)
    ∧ ((job true old).d.sz = 0 ∧ (job false new).unmap = false ∧ (job true old).unmap = true ∧ (job true old).sound 0x1007 = true
        ∧ (0x1007 : Nat).testBit 4 = false ∧ (job true old).sound 0 = false) := by decide +kernel

theorem witness_RecordsAndTransfers_records :
    let r : Report := { cause := Cause.pageNotPresent, rep := 0, addr := 0x1000, accId := some 3, park := some 0 }
    let park : Acc := { id := 3, port := .slot 0 0 0, phase := .parked { cause := Cause.pageNotPresent } 0x1000, addr := 0x1000 }
    let one : State := { State.reset with records := [r] }
    let s : State := { withAcc park one with streams := [(4095, { state := 1 })] }
    r.ofParked = true ∧ s.stillParked { r with count := 1 } = true ∧ one.stillParked { r with count := 1 } = false
    ∧ s.faultOpen 0 = true ∧ s.openf.any (fun o : OpenFault => o.sameKey r.key) = false
    ∧ [r.key].any (fun o : OpenFault => o.sameKey r.key) = true := by decide +kernel

theorem witness_RecordsAndTransfers_fatal :
    let f : Report := { cause := Cause.illegal, rep := 0, fatal := true }
    let s : State := { State.reset with records := [f], kernels := [(0, { regions := [0] })] }
    s.faultOpen 0 = false ∧ f.rep ≠ 0xFFFF ∧ s.ringWait = [] ∧ s.arm.rebuild = 0
    ∧ (Tab.get s.kernels f.kernel).map Kernel.stop = some none ∧ (s.reg f.g).groups = []
    ∧ f.gen = s.genOf f.ctxid ∧ (Tab.get s.kernels f.kernel).map Kernel.ctxid = some f.ctxid
    ∧ (let t : State := { s with streams := [(4095, { state := 1 })] }
       t.faultOpen 0 = true ∧ f.s2 = false ∧ f.ofParked = false) := by decide +kernel

/-- A transfer of the granule of address 0 to the host, for the command `ownxfer` of the agent. -/
def moving : State :=
  { cmdAt (cmd0 0x83 (fr 0 0 0 0x1000 0) { stage := 1 }) State.reset with xfers := [(0, { began := 0, toHost := true, cmds := [(0, 0)] })], now := 100 }
def hostHas : State := { State.reset with hostOwned := [(0, true)] }

theorem witness_RecordsAndTransfers_owners :
    (isDevice (2 ^ 48) = false ∧ isHost (2 ^ 48) = true ∧ isDevice 0 = true ∧ isDevice (768 * 2 ^ 30) = false)
    ∧ (Tab.getD hostHas.hostOwned (granule 0x1FFFFF) : Bool) = true ∧ Tab.has State.reset.xfers 0 = false
    ∧ (Tab.getD State.reset.hostOwned 0 : Bool) = false
    ∧ (Tab.get moving.xfers 0).map (fun x => x.cmds) = some [(0, 0)] ∧ (Tab.get moving.xfers 0).map (fun x => x.hosts.length) = some 0
    ∧ (Tab.get moving.xfers 0).map (fun x => x.toHost) = some true ∧ moving.now ≤ 0 + 100 ∧ 0 + 100 ≤ moving.now
    ∧ Tab.has (moving.core 0).cmds 0 = true ∧ (Tab.get moving.xfers 0).map (fun x => x.waits.length) = some 0
    ∧ (let a : Acc := { id := 3, port := .slot 0 0 0, phase := .ready {} }
       let x : Xfer := { began := 0, waits := [(.event (.accessPerform 0 3), 0x1000, 0x1000, true)] }
       let s : State := withAcc a { State.reset with xfers := [(0, x)], now := 100 }
       Tab.get s.xfers 0 = some x ∧ x.began + 100 ≤ s.now ∧ x.cmds = [] ∧ x.hosts = [] ∧ s.acc 0 3 = some a) := by decide +kernel

theorem witness_TokensCrossTheMesh :
    let ch : Chan := { desc := chDesc 0 0 1 0 0 }
    let f : Flit := { ch := 3, tok := dat 1 }
    let s (c : Chan) (fs : List Flit) : State := (channeled c {} State.reset).updCore 0 (fun k => { k with flits := fs })
    let sendWord := encodeSlot 0x001 (sw 0 0 10 0 0xA0C 0xE00)
    (let t := (s ch []).updCell 0 0 (fun c => { c with slots := [(0, { word := sendWord, res := { t0 := some (dat 1), seq := 4 } })] })
     (t.core 0).chanActive 3 = true ∧ t.moves 0 ch.desc = true ∧ ch.jout = [] ∧ ch.rmark = [] ∧ (t.reg 0).cellRuns 0 0 = true ∧ dSRC ch.desc < 256 ∧ earliest (slotsToward (t.cell 0 0) (dCTX ch.desc) 3) = some (4, 0, false, dat 1)
      ∧ ch.takes (dat 1) = true ∧ ({ ch with sfifo := List.replicate 8 f } : Chan).takes (dat 1) = false)
    ∧ (let k := (s { ch with sfifo := [f] } []).core 0
       (Tab.getD k.chans 3 : Chan).sfifo = [f] ∧ k.buffered 0 0 0 < 4 ∧ k.lockFree (lockKey 0 8 0) f.tid = true ∧ k.inTurn 3 ch.desc f = true)
    ∧ 4 ≤ ((s ch (List.replicate 4 f)).core 0).buffered 0 0 0
    ∧ ({ (s ch []).core 0 with locks := [(lockKey 0 8 0, 7)] } : Core).lockFree (lockKey 0 8 0) f.tid = false
    ∧ (let k := (s ch [f]).core 0
       k.flits[0]? = some f ∧ k.firstFlit 0 f = true ∧ k.lockFree (lockKey 0 (outputTo 0 1) 0) f.tid = true ∧ f.loc ≠ codeRouter 1
        ∧ k.buffered (hop 0 (outputTo 0 1)).1 (hop 0 (outputTo 0 1)).2 0 ≤ 1
        ∧ (let h := hop 0 (outputTo 0 1); 4 ≤ ({ k with flits := f :: List.replicate 4 { f with loc := h.1, inp := h.2 } } : Core).buffered h.1 h.2 0))
    ∧ (let a : Flit := { f with kind := .ack, loc := 0 }; a.loc = codeRouter (a.toward ch.desc) ∧ a.of ≤ a.idx + 1)
    ∧ (let t : Flit := { f with loc := 1, idx := 3, of := 4 }; t.loc = codeRouter (t.toward ch.desc) ∧ t.of ≤ t.idx + 1 ∧ dVC ch.desc ≠ 1 ∧ fKIND ch.entry = 0)
    ∧ (let d : Chan := { desc := chDesc 0 0 (256 + 48) 0 0, dfifo := [{ tok := { dat 1 with kind := .control, form := .tile } }] }
       let t : State := { (channeled d {} State.reset).updPort 0 48 (fun e => { e with kind := 0 }) with kernels := [(0, { image := image 0 [] })] }
       t.portMoves 0 d.desc = true ∧ (Tab.getD (t.core 0).ports 48 : EdgePort).tokArm = [] ∧ (Tab.getD (t.core 0).ports 48 : EdgePort).markArm = []
        ∧ (t.core 0).headToward 48 = some (3, { dat 1 with kind := .control, form := .tile }) ∧ Tab.has (t.core 0).ports 48 = true
        ∧ (Tab.getD (t.core 0).ports 48 : EdgePort).kind = 0
        ∧ 48 % 16 < hNBLK (Tab.getD t.kernels (t.grant 0 0).kernel : Kernel).image) := by decide +kernel

theorem witness_BlocksAreScheduled :
    let s (sc : Sched) : State := (leased State.reset).updCore 0 (fun k => { k with sched := [(0, sc)] })
    let may (sc : Sched) : Bool :=
      Tab.has ((s sc).core 0).grants 0 && (s sc).schedulersRun && (s sc).ctxRuns 0 0 && ((s sc).sched 0 0).chosen == none
    let tok : List (BitVec 16) := [1, 2, 3, 4]
    (may { forced := some 2 } && may { active := some 0, batch := [tok] } && may { queues := [(2, [tok, tok]), (15, [tok])], w := [(15, 47)] }
      && may { queues := [(2, [tok, tok]), (15, [tok])], w := [(15, 48)] }) = true
    ∧ (s { active := some 0, batch := [tok] }).quiescent 0 0 = false ∧ (s { active := some 0 }).quiescent 0 0 = true
    ∧ (let sc : Sched := { queues := [(2, [tok, tok]), (15, [tok])], w := [(15, 47)] }
       sc.queue 2 ≠ [] ∧ (List.range 16).all (fun j => sc.passed j < 48 && (j == 2 || (sc.queue j).length < (sc.queue 2).length)) = true)
    ∧ (let sc : Sched := { queues := [(2, [tok, tok]), (15, [tok])], w := [(15, 48)] }
       sc.queue 15 ≠ [] ∧ 48 ≤ sc.passed 15 ∧ (List.range 16).all (fun j => j == 15 || sc.passed j < 48) = true)
    ∧ (let sc : Sched := { chosen := some 2, staged := [(2, {})] }
       (s sc).ctxRuns 0 0 = true ∧ ((s sc).core 0).cellsOut 0 = false ∧ ((s sc).core 0).quiet 0 = true ∧ ((s sc).core 0).chanClash 0 {} = false
        ∧ sc.force = false ∧ Tab.get sc.staged 2 = some {})
    ∧ (let sc : Sched := { active := some 0, batch := [tok] }
       let t := (s sc).updSlot loc (fun u => { u with word := encodeSlot 0x008 (sw 0 10 10 0 0x028 0xE00), res := { t0 := some (dat 1) } })
       sc.batch = [tok] ∧ (((s sc).core 0).ctxSlots 0).all (fun e => e.2.res.empty) = true
        ∧ (((t.core 0).ctxSlots 0).filter (fun e => fld e.2.word 55 9 == 0x008#9)).all (fun e => e.2.res.empty) = false) := by decide +kernel
/-- Region 0 with a resident context, and with a saved image of one live thread of PRIO 1. -/
def liveThread : Thread := { live := true, prio := 1, kernel := 9 }
def saved1 : Image := { core := { threads := [(0, liveThread)], grants := [(0, { lease := 1, acc := 1 })] } }
def resident (f : Region → Region) : State := let s := leased State.reset; s.setReg 0 (f (s.reg 0))

theorem witness_RegionsSwitchImages_switch :
    let s := resident (fun r => { r with quantum := 2000, images := [saved1] })
    let alone := resident (fun r => { r with quantum := 2000 })
    let goes := resident (fun r => { r with leaving := true })
    let swept (l : List Nat) : State := goes.updCore 0 (fun k => { k with swept := l })
    (s.maySwitch 0 = true ∧ (s.reg 0).core.quant ≤ (s.reg 0).quantum ∧ (s.reg 0).core.sends = [] ∧ (s.reg 0).held = [])
    ∧ ((s.reg 0).best.any (fun b => b.1 == 0 && (s.reg 0).core.prio ≤ b.2.core.prio)) = true
    ∧ (alone.maySwitch 0 = true ∧ (alone.reg 0).core.quant ≤ (alone.reg 0).quantum ∧ (alone.reg 0).best.isNone = true)
    ∧ ((goes.reg 0).leaving = true ∧ (goes.reg 0).core.swept = [] ∧ (List.range 256).all (goes.reg 0).core.passed = false
        ∧ (goes.reg 0).core.chans = [] ∧ (goes.reg 0).core.flits = [])
    ∧ ((feeders 3 2).all (fun i => ((swept [28, 25]).reg 0).core.swept.contains (8 * 3 + i)) = true
        ∧ ((swept [28, 25]).reg 0).core.swept.contains (8 * (hop 3 2).1 + (hop 3 2).2) = false ∧ 4 ∈ feeders 3 2 ∧ 28 ∉ (goes.reg 0).core.swept)
    ∧ 4095 / 2 ^ 24 = 0 ∧ (goes.reg 0).core.grants.any (fun e => e.2.base * 4096 ≤ 4095 % 65536 && decide (4095 % 65536 < (e.2.base + e.2.lease) * 4096)) = true := by
  decide +kernel

theorem witness_RegionsSwitchImages_markers :
    let f : Flit := { ch := 3, tok := dat 1, loc := 3 }
    let c : Chan := { desc := chDesc 0 (256 + 5) 3 0 0, sfifo := [f] }
    let d : Chan := { desc := chDesc 0 1 7 0 0 }
    let s (c : Chan) (fs : List Flit) : State :=
      let t := (channeled c {} State.reset).updCore 0 (fun k => { k with flits := fs })
      t.setReg 0 { t.reg 0 with leaving := true }
    (s c []).still 0 (fun _ => true) = false ∧ ((s c []).reg 0).leaving = true ∧ ((s c []).reg 0).core.chans = [(3, c)] ∧ dSRC c.desc = 256 + 5
    ∧ (s d [f]).still 0 (fun _ => true) = false ∧ ((s d [f]).reg 0).leaving = true ∧ ((s d [f]).reg 0).core.flits = [f]
    ∧ outputTo 3 (f.toward d.desc) = 2 := by decide +kernel

/-- A region that leaves, every one of whose cells the pre-empt markers have passed. -/
def passed : State :=
  (resident (fun r => { r with leaving := true })).updCore 0 (fun k =>
    { k with swept := (List.range 256).flatMap (fun c => [8 * c + 1, 8 * c + 2, 8 * c + 3, 8 * c + 4]) })

theorem witness_RegionsSwitchImages_save :
    (passed.reg 0).leaving = true ∧ (passed.reg 0).settled = true ∧ (List.range 256).all (passed.reg 0).core.passed = true
    ∧ passed.schedulersRun = true ∧ passed.scbsOf (passed.reg 0).core = [] ∧ passed.still 0 (fun _ => true) = true ∧ (passed.reg 0).gating = none
    ∧ ((passed.setReg 0 { passed.reg 0 with gating := some {} }).reg 0).gating = some {} := by
  refine ⟨by decide +kernel, by decide +kernel, List.all_eq_true.2 fun c hc => ?_, by decide +kernel, by decide +kernel, by decide +kernel, rfl, rfl⟩
  have h : (passed.reg 0).core.swept = (List.range 256).flatMap (fun c => [8 * c + 1, 8 * c + 2, 8 * c + 3, 8 * c + 4]) := rfl
  have m : ∀ i ∈ [1, 2, 3, 4], ((passed.reg 0).core.swept.contains (8 * c + i)) = true := fun i hi => by
    rw [h, List.contains_iff_mem, List.mem_flatMap]
    exact ⟨c, hc, by simp at hi ⊢; omega⟩
  exact List.all_eq_true.2 m

theorem witness_RegionsSwitchImages_ready :
    let s (im : Image) : State := State.reset.setReg 0 { images := [im] }
    ((s saved1).reg 0).core.grants = [] ∧ ((s saved1).reg 0).best.any (fun b => b.1 == 0) = true ∧ (s saved1).schedulersRun = true
    ∧ (let im : Image := { saved1 with gated := true, watch := { core := saved1.core } }
       (s im).woken 0 im.watch im.core false = false ∧ (s im).woken 0 {} im.core false = true ∧ im.drained = false ∧ ((s im).reg 0).images = [im])
    ∧ ({ saved1 with drained := true } : Image).gated = false
    ∧ saved1.core.anyParked = false ∧ ((s saved1).reg 0).hopParked 0 = false
    ∧ (let low : Image := { core := { threads := [(0, { liveThread with prio := 0 })] } }
       low.core.prio ≤ ((s low).reg 0).core.prio) := by decide +kernel

/-- A thread that waits for a stream, in region 0; an access parked there since the start. -/
def waitsOn : State := (leased State.reset).updThread 0 0 (fun _ => { liveThread with wait := some { kind := 1, obj := 2 ^ 48 } })
def parks : State := withAcc { id := 3, phase := .parked { cause := Cause.pageNotPresent } 0x1000, addr := 0x1000 } (leased State.reset)

theorem witness_RegionsSwitchImages_gates :
    let w (n : Nat) : State := waitsOn.setReg 0 { waitsOn.reg 0 with residency := n }
    let idle : State := { State.reset with now := 50 }
    ((idle.reg 0).core.grants = [] ∧ (idle.reg 0).powerGated = false ∧ (idle.reg 0).idle + 50 ≤ idle.now)
    ∧ ((w 10).residencyWait 0).isSome = true ∧ (Tab.getD (w 10).ctxs 0 : Ctx).t1 ≤ 10 ∧ 9 < (Tab.getD (w 9).ctxs 0 : Ctx).t1
    ∧ ((w 1000).residencyWait 0).isSome = true ∧ (Tab.getD (w 1000).ctxs 0 : Ctx).t2 ≤ ((w 1000).reg 0).residency
    ∧ ((w 1000).reg 0).settled = true ∧ ((w 1000).reg 0).switching = false ∧ ((w 10).reg 0).clockGated = false
    ∧ (((w 1000).scbsOf ((w 1000).reg 0).core).findSome? (fun e => (w 1000).heldFunc e.1 e.2.1 128)).isNone = true
    ∧ (let seen (c : Core) : State := (w 10).setReg 0 { (w 10).reg 0 with clockGated := true, seen := { core := c } }
       ((seen {}).reg 0).clockGated = true ∧ (seen {}).woken 0 ((seen {}).reg 0).seen ((seen {}).reg 0).core true = true
        ∧ (seen ((w 10).core 0)).woken 0 ((seen ((w 10).core 0)).reg 0).seen ((seen ((w 10).core 0)).reg 0).core false = false)
    ∧ (((w 10).setReg 0 { (w 10).reg 0 with switching := true }).residencyWait 0).isSome = true
    ∧ (let m : Cmd := { cmd0 0x20 (fr 0 0 0 0 0) {} with parked := some (0x1000, { cause := Cause.pageNotPresent }) }
       (Tab.get ((leased State.reset).updCore 0 (fun k => { k with cmds := [(0, m)] })).regions 0).map (fun r => r.core.cmds) = some [(0, m)] ∧ m.running = true)
    ∧ (let t : State := { parks with now := 200 }
       (t.reg 0).parkedSince = [0] ∧ 0 + t.boot.drain ≤ t.now ∧ (t.reg 0).draining = false ∧ (t.reg 0).leaving = false
        ∧ t.schedulersRun = true ∧ (t.reg 0).core.cmds = []) := by decide +kernel

theorem witness_KernelsEnd :
    let s (k : Kernel) : State := { State.reset with kernels := [(5, k)], hcmds := [(3, { step := 2 })] }
    let k : Kernel := { regions := [0], running := true, host := some 3 }
    Tab.get (s k).kernels 5 = some k ∧ ((s k).reg 0).images = [] ∧ k.stop = none ∧ k.aborted = false
    ∧ ((s k).core 0).doneKernel 5 = true ∧ ((s k).core 0).threads = [] ∧ (Tab.getD (s k).ctxs k.ctxid : Ctx).doomed = false
    ∧ ((k.regions.foldl (fun s g => s.updCore g (fun c => c.stop 5 true)) (s k)).heldEnd k).isNone = true
    ∧ (Tab.get (s k).hcmds 3).map HCmd.step = some 2 := by decide +kernel

/-- A host command of function 0 as the agent, while the Bureau serves. -/
def entry (flags : Byte) (o0 o1 o2 o3 : W64) : HostEntry := ⟨flags, 7, 0, o0, o1, o2, o3, 0, 0, 0⟩
def hostSt (h : HCmd) (s : State) : State := { s with cur := .hostCmd 4, hcmds := [(4, h)], boot := { s.boot with bstate := 2, regions := 3 } }
def hc (opc : Byte) (step stage : Nat) (e : HostEntry) : HCmd := { opc := opc, e := e, step := step, stage := stage, seq := 9 }

theorem serves_hostSt (h : HCmd) : Claims.Serves (hostSt h State.reset) 4 h := ⟨rfl, rfl, rfl⟩

theorem witness_HostCommandsRunInOrder :
    let e := entry 0 2 0 0 0
    let h := hc 0x02 1 0 e
    let late : HCmd := { h with e := { e with flags := 1 } }
    let two : State := { hostSt late State.reset with hcmds := [(4, late), (5, { seq := 1 })] }
    let qc := hc 0x08 1 0 (entry 0 0 0 0x401 0)
    let free (h : HCmd) (s : State) : Bool := (s.hostHeld h).isNone
    (free h (hostSt h State.reset) && free late two && free (hc 0x02 3 0 e) (hostSt (hc 0x02 3 0 e) State.reset) && free qc (hostSt qc State.reset)) = true
    ∧ h.journalled = false ∧ late.journalled = false
    ∧ (let j : HCmd := { hc 0x0C 1 0 (entry 0 1 0 0 0) with journalled := true }
       let v : HCmd := { j with e := entry 4 1 0 0 0 }
       free j (hostSt j State.reset) = true ∧ j.step = 1 ∧ (hostSt j State.reset).hostRefusal j = none ∧ ((hostSt v State.reset).hostRefusal v).isSome = true
        ∧ free v (hostSt v State.reset) = true ∧ j.jctx = none)
    ∧ (let s : State := { hostSt (hc 0x02 3 0 e) State.reset with hostOwned := [(0, true)] }
       (s.hostHeld (hc 0x02 3 0 e)).isSome = true ∧ s.bureau = true)
    ∧ (hostSt h State.reset).bureau = true ∧ ({ hostSt h State.reset with arm := { rebuild := 2 } } : State).bureau = false
    ∧ (two.bureau = true ∧ late.step = 1 ∧ late.e.flags.getLsbD 0 = true ∧ two.firstOf late = false ∧ Tab.get two.hcmds 4 = some late)
    ∧ ((Instr.ctxDestroy e).hostOpc?.map Prod.fst = some h.opc ∧ h.names = some 2 ∧ h.e.o0.toNat = 2 ∧ (hostSt h State.reset).ctxs = [])
    ∧ (qc.e.flags = 0 ∧ qc.e.rsvd = 0 ∧ qc.queueOk (hostSt qc State.reset) = true ∧ qc.step = 1
        ∧ Tab.free (hostSt qc State.reset).journal 64 = some 0 ∧ (hostSt qc State.reset).hcmds.all (fun j => qc.seq ≤ j.2.seq) = true)
    ∧ (let v : HCmd := { hc 0x0A 1 0 e with f := 1 }
       free v (hostSt v State.reset) = true ∧ v.f ≠ 0 ∧ v.step = 1 ∧ v.e.flags.getLsbD 0 = false)
    ∧ (let d := hc 0x02 3 0 e
       3 ≤ d.step ∧ d.journalled = false ∧ d.jctx = none) := by decide +kernel

theorem witness_HostCommands_contexts :
    let h := hc 0x01 2 0 (entry 0 0 0x100000 0 0x200000)
    let s := hostSt h State.reset
    let gone := hc 0x02 2 1 (entry 0 2 0 0 0)
    let t : State := { hostSt gone State.reset with ctxs := [(2, { live := true })] }
    let ks : State := { hostSt gone State.reset with kernels := [(0, { ctxid := 2 })] }
    ((s.hostHeld h).isNone = true ∧ (t.hostHeld gone).isNone = true ∧ (s.heldPages 0 0x100000 (512 * 1024)).isNone = true ∧ (s.heldPages 0 0x200000 512).isNone = true)
    ∧ (let h0 := hc 0x02 2 0 (entry 0 2 0 0 0)
       let t0 : State := { hostSt h0 State.reset with ctxs := [(2, { live := true })] }
       (t0.hostHeld h0).isNone = true ∧ h0.stage = 0)
    ∧ (s.ctxFrames h).2.isOk = true ∧ Tab.free s.ctxs 4096 = some 0
    ∧ (let t : State := { s with s2 := { root := [(0, 0x1000)] } }
       (t.hostHeld h).isNone = true ∧ (t.ctxFrames h).2.isOk = false
        ∧ (t.heldPages 0 0x100000 (512 * 1024)).isNone = true ∧ (t.heldPages 0 0x200000 512).isNone = true)
    ∧ (Tab.get t.ctxs 2).any (fun c => c.live && !c.ending) = true
    ∧ t.hasKernels 2 = false ∧ t.hcmds.all (fun j => j.1 == 4) = true ∧ ks.hasKernels 2 = true := by decide +kernel

theorem full_has (α : Type) (v : α) (l : List Nat) (n : Nat) (h : n ∈ l) : Tab.has (l.map (fun k => (k, v))) n = true := by
  induction l with
  | nil => exact absurd h (by simp)
  | cons a r ih =>
    by_cases e : a = n
    · simp [Tab.has, Tab.get, e]
    · have : n ∈ r := by simpa [Ne.symm e] using h
      simpa [Tab.has, Tab.get, e] using ih this

theorem witness_HostCommands_full : Tab.free ((List.range 4096).map (fun k => (k, ({ live := true } : Ctx)))) 4096 = none := by
  unfold Tab.free
  rw [List.find?_eq_none]
  intro n hn
  simp [full_has Ctx _ _ n hn]

/-- A context 0 with the tables of `paged`, for the MAP and UNMAP of 32 bytes at host address 0. -/
def mapH (code : Byte) (p : Prog) : HCmd := { hc code 2 0 (entry 0 0 (2 ^ 48) 0 0) with prog := p }
def mapSt (code : Byte) (p : Prog) (d : List Byte) : State :=
  let s := hostSt (mapH code p) (paged State.reset)
  { s with mem := Memory.writeN s.mem (2 ^ 48) d }

theorem witness_HostCommands_map :
    let good := mdesc 0x2000 0x5000 8
    let old := mdesc 0x1000 0 0
    let job (u : Bool) (d : List Byte) : MapJob := { unmap := u, f := (mapSt 3 {} []).funcOf 0, ctxid := 0, d := MapDesc.of d }
    let step (u : Bool) (d : List Byte) (p : Prog) : Nat :=
      let code := if u then 4 else 3
      let p := { p with hdr := d }
      if ((mapSt code p d).hostHeld (mapH code p)).isNone then mapKind ((mapSt code p d).mapStep (job u d) p).2 else 9
    (mapSt 3 {} good).mem.readN (2 ^ 48) 32 = good ∧ mapOk good false false = true ∧ mapOk (mdesc 0x2001 0x5000 8) false false = false
    ∧ mapOk old false true = true ∧ step false good { stage := 1 } = 0 ∧ step true old { stage := 2, tab := [0x104008, 0x1007] } = 0
    ∧ step false (mdesc (2 ^ 40) 0x5000 8) { stage := 1 } = 1 ∧ step true (mdesc (2 ^ 40) 0 0) { stage := 1 } = 1
    ∧ (let e : EAcc := { addr := 0x104010, n := 8, wr := some (natToBytes 8 0x500F), got := some [] }
       step false good { stage := 2, tab := [0x104010, 0], io := [e] } = 3 ∧ step true old { stage := 2, tab := [0x104008, 0x1007], io := [e] } = 3)
    ∧ (let p : Prog := { stage := 3, hdr := old, tab := [0x104008, 0x1007] }
       (job true old).removed p.tab = [0] ∧ ((mapSt 4 p []).hostHeld (mapH 4 p)).isNone = true ∧ (mapSt 4 p []).mapAwaits (job true old) [0] p.waits = false
        ∧ (withAcc { id := 0, va := 0x1000, phase := .ready {} } (mapSt 4 p [])).mapAwaits (job true old) [0] [0] = true
        ∧ (job true old).d.free = false) := by
  decide +kernel

/-- An image of one section of one Lectern word, with its magic. -/
def imageBody : List Byte :=
  natToBytes 2 5 ++ List.replicate 6 0 ++ natToBytes 4 80 ++ natToBytes 4 4 ++ natToBytes 4 0x00611000 ++ List.replicate 12 0
def smallImage (magic : Nat) : List Byte :=
  natToBytes 4 magic ++ natToBytes 2 1 ++ [0, 0] ++ natToBytes 4 96 ++ natToBytes 2 1 ++ [0, 0, 0, 0, 0, 1, 1, 1] ++ List.replicate 10 0
    ++ Sha.sha256 imageBody ++ imageBody
def launchSt (magic : Nat) : State :=
  { hostSt (hc 5 2 0 (entry 0 0 (2 ^ 48) 0 0)) State.reset with mem := Memory.writeN [] (2 ^ 48) (smallImage magic) }

theorem witness_HostCommands_launch :
    ((launchSt 0x4C534854).heldFunc 0 (2 ^ 48) 64).isNone = true ∧ ((launchSt 0x4C534854).heldFunc 0 (2 ^ 48) 96).isNone = true
    ∧ (let r := (launchSt 0x4C534854).readFunc 0 (2 ^ 48) 64
       r.2.toOption = some ((smallImage 0x4C534854).take 64) ∧ max 64 (le ((smallImage 0x4C534854).take 64) 8 4) = 96
        ∧ (r.1.heldFunc 0 (2 ^ 48) 96).isNone = true ∧ (r.1.readFunc 0 (2 ^ 48) 96).2.toOption = some (smallImage 0x4C534854)
        ∧ (r.1.readFunc 0 (2 ^ 48) 96).1.place? (smallImage 0x4C534854) = some [0])
    ∧ imageOk (smallImage 0x4C534854) = true ∧ imageOk (smallImage 0) = false
    ∧ (let t : State := { launchSt 0x4C534854 with s2 := { root := [(0, 0x1000)] } }
       (t.readFunc 0 (2 ^ 48) 64).2.isOk = false ∧ (t.heldFunc 0 (2 ^ 48) 64).isNone = true) := by decide +kernel

/-- An image whose one section holds 4 bytes of DATA for class 0xC address 0. -/
def dataImage : List Byte :=
  natToBytes 4 0x4C534854 ++ natToBytes 2 1 ++ [0, 0] ++ natToBytes 4 100 ++ natToBytes 2 1 ++ [0, 0, 0, 0, 0, 1, 1, 1] ++ List.replicate 42 0
    ++ (natToBytes 2 6 ++ List.replicate 6 0 ++ natToBytes 4 80 ++ natToBytes 4 20) ++ natToBytes 8 0xC000000000000000 ++ List.replicate 8 0 ++ [1, 2, 3, 4]

theorem witness_HostCommands_data :
    let h (stage : Nat) : HCmd := { hc 5 2 stage (entry 0 0 (2 ^ 48) 0 0) with kernel := some 0 }
    let s (stage : Nat) (img : List Byte) : State :=
      { hostSt (h stage) (leased State.reset) with kernels := [(0, { image := img, regions := [0], host := some 4 })] }
    let e : EAcc := { addr := 0xC000000000000000, n := 4, wr := some [1, 2, 3, 4] }
    ((s 1 dataImage).hostHeld (h 1)).isNone = true ∧ 1 < dataDone
    ∧ ((imageData dataImage).flatMap (fun d => writeLines d.1 d.2)).drop (1 - 1) = [e] ∧ ((s 1 dataImage).dataLine 4 0 0 e).2.isOk = true
    ∧ ((imageData dataImage).flatMap (fun d => writeLines d.1 d.2)).drop (2 - 1) = [] ∧ ((s dataDone dataImage).hostHeld (h dataDone)).isNone = true := by
  decide +kernel

theorem witness_HostCommands_queues :
    let bind := hc 6 2 0 (entry 0 0 0x01020001 0 0)
    let made := hc 7 2 0 (entry 0 0 3 100 0)
    let qc := hc 8 2 0 (entry 0 0 0 0x401 0)
    let qd := hc 9 2 1 (entry 0 1 0 0 0)
    let d : State := { hostSt qd State.reset with funcs := [(0, { enabled := true, queues := [(1, { created := true, qs := 4 })] })] }
    (bits bind.e.o1.toNat 16 21 = 2 ∧ bind.e.o1.getLsbD 24 = true ∧ Tab.has (Tab.getD (hostSt bind State.reset).funcs 0 : Func).aps 2 = false)
    ∧ (Tab.has (hostSt made State.reset).drawers (drawerKey 0 3) = false ∧ (hostSt made State.reset).createFault (drawerKey 0 3) 100 = none
        ∧ (hostSt made State.reset).drawerBusy (drawerKey 0 3) = false)
    ∧ qc.queueOk (hostSt qc State.reset) = true
    ∧ ((d.queue 0 1).created = true ∧ d.hcmds.all (fun j => j.1 == 4) = true) := by decide +kernel

theorem witness_HostCommands_keys :
    let key : List Byte := List.replicate 63 0 ++ [1]
    let k (stage : Nat) (o0 : W64) : HCmd := { hc 0x0A 2 stage (entry 0 o0 0 0 0) with buf := key }
    let snap := hc 0x0B 2 1 (entry 0 0 (2 ^ 48) 0 0)
    let reset_ := hc 0x0C 2 2 (entry 0 1 0 0 0)
    ((k 0 3).stage = 0 ∧ (k 0 3).e.o0.getLsbD 8 = false ∧ key.take 32 ≠ key.drop 32 ∧ (k 0 0x103).e.o0.getLsbD 8 = true)
    ∧ (let bs := (hostSt (k 0 3) State.reset).mem.readN 0 64
       bs.take 32 = bs.drop 32)
    ∧ ((k 1 3).stage = 1 ∧ (k 1 3).wait.any (hostSt (k 1 3) State.reset).awaits = false)
    ∧ (allRegions.all (fun g => !((hostSt snap State.reset).core g).holdsCtx 0) = true
        ∧ (let s := hostSt snap State.reset
           let n := (s.snapSizes 0).sum
           (s.reachFault 0 (2 ^ 48) n).isNone = true ∧ (s.heldPages 0 (2 ^ 48) n).isNone = true))
    ∧ (((hostSt snap State.reset).hostHeld snap).isNone = true ∧ ((hostSt reset_ State.reset).hostHeld reset_).isNone = true
        ∧ ((hostSt (k 0 3) State.reset).hostHeld (k 0 3)).isNone = true ∧ ((hostSt (k 1 3) State.reset).hostHeld (k 1 3)).isNone = true)
    ∧ (((hostSt reset_ State.reset).ctxsOf 1).any (hostSt reset_ State.reset).hasKernels = false
        ∧ (hostSt reset_ State.reset).hcmds.all (fun j => j.1 == 4) = true)
    ∧ (let e : EAcc := { addr := 0x1000, n := 8, wr := some [], pl := { pa := 0x1000, pt := false, key := 3 } }
       let w : HCmd := { k 1 3 with held := [e] }
       let s := (cmdAt (cmd0 0x20 (fr 0 0 0 0 0) { io := [e] }) State.reset)
       w.stage = 1 ∧ (hostSt w State.reset).lineAccs = [] ∧ w.held.any (hostSt w s).lineAccs.contains = true ∧ ((hostSt w s).hostHeld w).isNone = true)
    ∧ (let snap0 := hc 0x0B 2 0 (entry 0 0 (2 ^ 48) 0 0)
       let s := hostSt snap0 (leased State.reset)
       snap0.stage = 0 ∧ allRegions.filter (fun g => (s.core g).holdsCtx 0) = [0] ∧ (s.hostHeld snap0).isNone = true)
    ∧ (hostSt snap State.reset).scbsOf (ctxCore 0) = []
    ∧ (let v := hc 0x0C 2 0 (entry 0 1 0 0 0)
       let s : State := { hostSt v State.reset with hcmds := [(4, v), (5, { f := 1, step := 3 })] }
       Tab.get s.hcmds 5 = some { f := 1, step := 3 } ∧ (s.hostHeld v).isNone = true ∧ Tab.get s.hcmds 4 = some v) := by decide +kernel

/-- Queue 0 of function 0 with 16 entries, one of which the host has published. -/
def withQueue (tail n : Nat) : State :=
  { State.reset with funcs := [(0, { enabled := true, aqs := 4, queues := [(0, { created := true, tail := tail, unread := n })] }), (1, { enabled := true })],
                     boot := { bstate := 2 } }

theorem witness_HostRegisters_queues :
    let s := withQueue 1 15
    (s.bureau = true ∧ s.queueOn 0 0 = true ∧ (s.queue 0 0).head ≠ (s.queue 0 0).tail ∧ s.queueCount 0 0 < 2 ^ s.queueSize 0 0
        ∧ (s.heldFunc 0 (s.queueRing 0 0 + 64 * (s.queue 0 0).head) 64).isNone = true
        ∧ (s.readFunc 0 (s.queueRing 0 0 + 64 * (s.queue 0 0).head) 64).2.isOk = true)
    ∧ (2 ^ (withQueue 1 16).queueSize 0 0 ≤ (withQueue 1 16).queueCount 0 0 ∧ (State.reset.queue 0 0).head = (State.reset.queue 0 0).tail
        ∧ State.reset.bureau = false)
    ∧ ((15#64).toNat % 4096 < 2 ^ s.queueSize 0 0 ∧ 2 ^ s.queueSize 0 0 ≤ (16#64).toNat % 4096 ∧ State.reset.queueOn 0 0 = false)
    ∧ (s.func 0).enabled = true ∧ (s.func 1).enabled = true ∧ (State.reset.func 1).enabled = false
    ∧ (63#64).toNat % 65536 < 2 ^ (({ s with s2 := { fqs := 2 } } : State).s2.fqs.toNat + 4) ∧ (16#5).toNat ≤ 16
    ∧ (0x2000#16).toNat = 0x2000 ∧ (0x4000#16).toNat = 0x4000 := by decide +kernel

theorem witness_HostRegisters_boot :
    let rom : State := { State.reset with boot := { bstate := 1 } }
    (rom.boot.bstate = 1 ∧ rom.arm.holds = false ∧ rom.applyRepairs.verify.2 = false ∧ rom.boot.bstate ∈ [1#3, 2#3, 3#3] ∧ (State.reset.func 0).enabled = true)
    ∧ (1#64).getLsbD 0 = true ∧ State.reset.boot.bstate = 0 ∧ State.reset.applyRepairs.verify.1.flash.boots ≠ BitVec.allOnes 64
    ∧ State.reset.boot.qstate ≠ 1 ∧ State.reset.flash.q < 1024
    ∧ (let s (q : Option (Nat × List Byte)) : State := { State.reset with boot := { qstate := 1, quote := q } }
       (s none).boot.qstate = 1 ∧ (s none).boot.quote = none ∧ (s (some (0, []))).boot.quote = some (0, []))
    ∧ ({ State.reset with flash := { q := 1024 } } : State).flash.q ≥ 1024 := by decide +kernel

/-- The Bureau serves with an image of one page, whose hash in the table is given. -/
def paged1 (h : List Byte) : State := { State.reset with boot := { bstate := 2, hashes := [h] } }
def pageHash : List Byte := Sha.sha256 (State.reset.imageBytes 0 4096)

theorem paged1_bytes (h : List Byte) (off n : Nat) : (paged1 h).imageBytes off n = State.reset.imageBytes off n := by
  have key (m : Nat) : ∀ a k, (paged1 h).readKeyed none m a k = State.reset.readKeyed none m a k := by
    induction m with
    | zero => intro a k; rfl
    | succ m ih => intro a k; unfold State.readKeyed; simp only [ih]; rfl
  exact key _ _ _

theorem witness_HostRegisters_pages :
    ((paged1 pageHash).bureau = true ∧ (paged1 pageHash).boot.hashes[0]? = some pageHash ∧ Sha.sha256 ((paged1 pageHash).imageBytes 0 4096) = pageHash)
    ∧ (paged1 (0 :: pageHash)).boot.hashes[0]? = some (0 :: pageHash) ∧ Sha.sha256 ((paged1 (0 :: pageHash)).imageBytes 0 4096) ≠ 0 :: pageHash := by
  refine ⟨⟨rfl, rfl, ?_⟩, rfl, fun h => ?_⟩
  · rw [paged1_bytes]; exact (rfl : pageHash = pageHash)
  · rw [paged1_bytes] at h
    exact List.cons_ne_self 0 pageHash h.symm

theorem witness_Errors :
    let src := ErrSource.bankLine 0 5 7
    let row := ErrSource.hbmRow 1 2 3
    let two : State := { State.reset with errs := [(src, 0), (src, 1)], now := 24 * usHour - 1 }
    let one : State := { State.reset with errs := [(row, 0)], now := usHour - 1 }
    let seen (s : State) (e : ErrSource) (t : Nat) : Nat := (s.errs.filter (fun x => x.1 == e && decide (s.now < x.2 + t))).length
    (seen State.reset src (24 * usHour) < 2 ∧ seen two src (24 * usHour) = 2 ∧ Tab.getD (two.reg 0).spares 5 < 8)
    ∧ (1 ≤ seen one row usHour ∧ one.flash.rows = [])
    ∧ (let pl : Place := { bank := true }
       let a : Acc := { id := 3, port := .slot 0 0 0, n := 8, size := 8, addr := 0xC000000000000000, phase := .ready pl }
       let s : State := { withAcc a State.reset with bad := [(true, 0)] }
       s.acc 0 3 = some a ∧ openUnits (s.touched 0 a pl) = [(true, 0)] ∧ s.ringGone a = false ∧ s.holds 0 a = false ∧ s.pendingFull a = false
        ∧ s.ownedOk pl = true ∧ s.accSpoiled 0 a pl = true
        ∧ pl.covers 8 (true, 0) = true ∧ pl.covers 4 (true, 0) = false ∧ (true, 0) ∈ s.bad)
    ∧ (let a : Acc := { id := 3, port := .slot 0 0 0, op := .write (List.replicate 8 1), wr := true, addr := 0xC000000000000008, n := 8, phase := .ready { bank := true } }
       (withAcc a State.reset).acc 0 3 = some a ∧ ({ bank := true } : Place).base % unitBytes true = 0 ∧ (List.replicate 8 (1 : Byte)).length % unitBytes true = 0)
    ∧ (let p : Prog := { io := [{ addr := 0xC000000000000000, n := 8, pl := { bank := true } }] }
       let m (code : BitVec 8) : Cmd := cmd0 code (atBank 0) p
       (m 0x70).running = true ∧ (m 0x70).parked = none ∧ (m 0x70).code = 0x70 ∧ (m 0x20).code < 0x60 ∧ 0x80 ≤ (m 0x81).code ∧ (m 0x20).running = true
        ∧ ioUnits p.io = [(true, 0)] ∧ (cmdAt (m 0x70) State.reset).cmd 0 0 = m 0x70
        ∧ (let e : EdgePort := { work := some { io := p.io } }
           (Tab.getD ((channeled {} e State.reset).core 0).ports 5 : EdgePort) = e))
    ∧ State.reset.arm.rebuild = 0 ∧ [0, 1, 2, 3, 4, 5, 6].all (fun n => ({ State.reset with arm := { rebuild := n, holds := n == 2 } } : State).arm.rebuild == n) = true
    ∧ (clsOf 0xC000000000000000 = 0xC ∧ clsOf 0x1000 ≠ 0xC ∧ isDevice 0x1000 = true ∧ isDevice (2 ^ 48) = false)
    ∧ (let t : State := { State.reset with boot := { bstate := 2 }, now := 1000 }
       t.bureau = true ∧ t.arm.heart + 1000 ≤ t.now)
    ∧ State.reset.now < State.reset.arm.heart + 1000
    ∧ (let t : State := { State.reset with arm := { stopped := true }, agenda := [.event .heartbeat] }
       t.arm.stopped = true ∧ (match t.schedule.fetch with
         | some .heartbeat => true
         | _ => false) = true) := by decide +kernel

theorem witness_Errors_links :
    let up (n m w : Nat) : Link := { width := w, retries := List.replicate n 0, trains := List.replicate m 0 }
    ({ width := 0, up := false } : Link).up = false ∧ (up 62 0 800).up = true ∧ (recent 0 usSecond (up 62 0 800).retries).length = 62
    ∧ (recent 0 usSecond (up 63 2 800).retries).length = 63 ∧ (recent 0 usHour (up 63 2 800).trains).length = 2
    ∧ (recent 0 usHour (up 63 3 400).trains).length = 3 ∧ 200 < (up 63 3 400).width ∧ (up 63 3 200).width ≤ 200 := by decide +kernel

/-- A microprogram report whose cell has nothing unsettled; the same running in the region's own program. -/
def rep1 : Report := { cause := Cause.illegal, rep := 0x0100, addr := 8 }
def micSt (m : Micro) : State := State.reset.setReg 0 { micro := m }

theorem witness_Microprograms :
    (let m : Micro := { queue := [rep1], ofService := false }
     ((micSt m).reg 0).micro.stopped = false ∧ m.running = false ∧ m.ofService = false ∧ (micSt m).reportDue 0 rep1 = true)
    ∧ (let m : Micro := { running := true, ofService := true, cur := { rep1 with cause := 0 } }
       ((micSt m).reg 0).micro.cur.cause = 0 ∧ m.stopped = false ∧ m.running = true ∧ m.ofService = true)
    ∧ (let m : Micro := { running := true, ofService := true, cur := rep1 }
       ((micSt m).reg 0).micro.cur.cause ≠ 0 ∧ ((micSt m).core 0).quiet 0 = true ∧ (micSt m).ftokHeld m.cur = false)
    ∧ (State.reset.debugImage 0 0 = none
        ∧ (State.reset.setReg 0 { images := [{ core := { threads := [(0, { live := true })], grants := [(0, {})] } }] }).debugImage 0 0 = some 0)
    ∧ (let t := (State.reset.updThread 0 0 (fun t => { t with dbge := true, wait := some { kind := 13 } })).thread 0 0
       t.dbge = true ∧ t.wait.map Wait.kind = some 13)
    ∧ (State.reset.thread 0 0).dbge = false
    ∧ (let th : Thread := { live := true, dbge := true, hold := some (5, true) }
       let s := State.reset.setReg 0 { images := [{ core := { threads := [(0, th)], grants := [(0, {})], accs := [{ id := 5 }] } }] }
       s.debugImage 0 0 = some 0 ∧ s.debugThread 0 0 = th)
    ∧ (let a : Acc := { id := 3, port := .thread 0, addr := 2 ^ 62, phase := .faulted Cause.streamPeerGone }
       let b (n : Nat) : Acc := { id := n, port := .thread 0, addr := 2 ^ 62, op := .read }
       let s (as : List Acc) (e : Option Ending) : State :=
         (lec.updCore 0 (fun k => { k with accs := as })).updThread 0 0 (fun t => { t with ending := e })
       let found (as : List Acc) : Bool :=
         as.find? (fun a => a.port == .thread 0 && (match a.phase with | .faulted _ => true | _ => false)) == some a
       found [a] = true ∧ found [a, b 4] = true ∧ found [b 2, a] = true
        ∧ ((s [a, b 4] none).core 0).accs.any (fun e => e.port == .thread 0 && e.op == .read && decide (e.id < a.id)) = false
        ∧ ((s [b 2, a] none).core 0).accs.any (fun e => e.port == .thread 0 && e.op == .read && decide (e.id < a.id)) = true
        ∧ ((s [a] none).thread 0 0).ending = none ∧ ((s [a] (some { kill := true })).thread 0 0).ending = some { kill := true }
        ∧ ((s [a] (some {})).thread 0 0).ending = some {})
    ∧ (lec.core 0).accs = [] := by decide +kernel

/-- A machine with one agent in its agenda. -/
def turn (a : Agent) (s : State) : State := { s with agenda := [a] }
def wordAt (w : W32) : State := State.reset.updThread 0 0 (fun _ => { live := true, prog := [w] })

theorem witness_StepRuns_words :
    let s (w : W32) := turn (.lectern 0 0) (wordAt w)
    let m : State := turn (.micro 0) (State.reset.setReg 0 { micro := { th := { prog := [0x00611000] } } })
    ((s 0).agenda = [.lectern 0 0] ∧ (s 0).arm.stopped = false)
    ∧ (((s 0).thread 0 0).pc.toNat < 4 * ((s 0).thread 0 0).prog.length ∧ ((s 0x00611000).thread 0 0).prog[((s 0x00611000).thread 0 0).pc.toNat / 4]? = some 0x00611000)
    ∧ (decodeLectern 0x00611000).isOk = true ∧ (decodeLectern 0x1484C000).isOk = false
    ∧ 4 * ((turn (.lectern 0 0) State.reset).thread 0 0).prog.length ≤ ((turn (.lectern 0 0) State.reset).thread 0 0).pc.toNat
    ∧ ((m.reg 0).micro.th.pc.toNat < 4 * (m.reg 0).micro.th.prog.length ∧ (m.reg 0).micro.th.prog[(m.reg 0).micro.th.pc.toNat / 4]? = some 0x00611000) := by
  decide +kernel

theorem witness_StepRuns_units :
    let slot : State := turn (.slot loc) (State.reset.updSlot loc (fun t => { t with word := 0x61B0022400020802 }))
    let h := hc 5 1 0 (entry 0 0 0 0 0)
    ((decodeSlot (slot.slotAt loc).word).isOk = true ∧ slot.agenda = [.slot loc])
    ∧ ((turn (.slot loc) State.reset).slotAt loc).word = 0
    ∧ (decodeFrame ((cmdAt (cmd0 0x70 (atBank 0) {}) State.reset).cmd 0 0).w).isOk = true
    ∧ (Tab.get (hostSt h State.reset).hcmds 4 = some h ∧ (hostOf h.opc h.e).isSome = true ∧ (hostOf 0x0D h.e).isNone = true)
    ∧ ((turn .rom State.reset).agenda = [.rom] ∧ (turn .rom State.reset).arm.stopped = false)
    ∧ (turn (.event .heartbeat) State.reset).agenda = [.event .heartbeat] ∧ (turn (.pass 7) State.reset).agenda = [.pass 7] := by decide +kernel

theorem witness_EncodeDecodeAgree : (Instr.add 3 1 2).wf = true ∧ encode (Instr.add 3 1 2) = some [0x00, 0x10, 0x61, 0x00] := by decide +kernel

theorem witness_DecodedWordsEncodeBack :
    (decodeLectern 0x00611000).isOk = true ∧ (decodeSlot 0x61B0022400020802).isOk = true ∧ (decodeFrame 0x14D40002000000000000000000000000).isOk = true := by
  decide +kernel

theorem witness_StepsKeepMemoryCanonical : (wordAt 0x00611000).mem.wf = true ∧ (wordAt 0x00611000).banks.wf = true
    ∧ goes (step (turn (.lectern 0 0) (wordAt 0x00611000))) = true := by decide +kernel

theorem witness_NoInstructionStops :
    (Instr.add 3 1 2).fits (.lectern 0 0) = true ∧ (Instr.heartbeat).fits (.event .heartbeat) = true
    ∧ (Instr.launch (entry 0 0 0 0 0)).fits (.hostCmd 4) = true := by decide +kernel

/-! ## The manual's worked values -/

/-- 02 R63: INT16 −300 to INT8 gives −128 with the saturate flag and 0xD4 without it. -/
theorem test_cvt_int16 : Num.cvt 2 4 0xFED4 0 true 0 = 0x80 ∧ Num.cvt 2 4 0xFED4 0 false 0 = 0xD4 := by decide +kernel

/-- 04 R129: `cvt` of FP32 1.0, 500 and NaN to E4M3 with the saturate flag, whatever the generator. -/
theorem test_cvt_e4m3 :
    Num.cvt 6 9 0x3F800000 2 true 0xFFFF = 0x38 ∧ Num.cvt 6 9 0x43FA0000 2 true 7 = 0x7E ∧ Num.cvt 6 9 0x7FC00000 2 true 7 = 0x7F := by
  decide +kernel

/-- 04 R130: `scale.e4m3` of 0x38 by n = −10 rounds to +0 with RNE. -/
theorem test_scale_e4m3 : Num.roundFmt 9 (Num.mulV (Num.value 9 0x38) (.fin false 1 (-10) false)) 0 false 0 = 0 := by decide +kernel

/-- 02 R75, 04 R132: 2^24, 1, 1 and −2^24 in FP32 give 1.0 by the canonical tree, of four ranks and of the 32 lanes of a vector. -/
theorem test_ctree :
    Num.ctree (Num.redOp 6 0) 0 [0x4B800000, 0x3F800000, 0x3F800000, 0xCB800000] = 0x3F800000
    ∧ Num.ctree (Num.redOp 6 0) 0 ([0x4B800000, 0x3F800000, 0x3F800000, 0xCB800000] ++ List.replicate 28 0) = 0x3F800000 := by decide +kernel

end Sys2Proof.Tests
end

/-! ## Host registers: the ROM's step beside a rebuild (19 R357, R358, R369) -/

namespace Sys2Proof.Machine

/-- The ROM takes no step while a rebuild goes on that does not hold (19 R358): verification is over, and BSTATE stays 1 until its step 7. -/
theorem State.romStep_of_rebuild {s : State} (hr : s.arm.rebuild ≠ 0) (hh : s.arm.holds = false) : s.romStep = s := by
  simp [State.romStep, hr, hh]

/-- An image whose first 64 bytes are no header fails step 2 with BFAIL 1 (19 R356, R357). -/
theorem State.verify_of_no_header {s : State} (hd : imageHeader (s.imageBytes 0 64) = none) : s.verify = (s.bootFail 1, false) := by
  simp [State.verify, hd]

/-- A rebuild after its step 2 whose ROM has verified the image again, so that it holds no more (19 R358, R369), while the host has since moved
BADDR to memory in which no image lies. -/
def rebuildReverified : State := { State.reset with boot := { bstate := 1 }, arm := { rebuild := 2 } }

theorem rebuildReverified_applyRepairs : rebuildReverified.applyRepairs = rebuildReverified := rfl

theorem rebuildReverified_no_header : imageHeader (rebuildReverified.imageBytes 0 64) = none := by decide +kernel

/-- Refutes O50: the clause on the ROM's step asks for BSTATE 1 and no held rebuild, but not that there is no rebuild. In `rebuildReverified`
verification would fail, and so set BSTATE to 3, yet the ROM, which has verified this rebuild's image, leaves the state as it is. -/
theorem not_hostRegisters : ¬ Obligations.HostRegisters := by
  unfold Obligations.HostRegisters
  intro h
  obtain ⟨-, -, -, -, -, -, -, -, -, -, -, -, -, hrom, -⟩ := h rebuildReverified 0 0 0
  have hfail : rebuildReverified.applyRepairs.verify = (rebuildReverified.bootFail 1, false) := by
    rw [rebuildReverified_applyRepairs, State.verify_of_no_header rebuildReverified_no_header]
  have hstay : rebuildReverified.romStep = rebuildReverified := State.romStep_of_rebuild (by decide) rfl
  have heq : rebuildReverified = rebuildReverified.bootFail 1 := by
    have hclaim := (hrom rfl rfl).1 (by rw [hfail])
    rwa [hstay, hfail] at hclaim
  exact absurd (congrArg (fun s => s.boot.bstate) heq) (by decide)

end Sys2Proof.Machine

/-! ## Firings that form one value (03 R104): their frame (01 R25, R36) -/

namespace Sys2Proof.Machine

/-- An effect of a firing that changes nothing, or only the generator of its own cell, from which it has drawn (02 R57). -/
def DrawsOnly (effect : FireIn → State → Option (FireOut × State)) : Prop :=
  ∀ f s o s1, effect f s = some (o, s1) → s1 = s ∨ ∃ v, s1 = s.setGen f.l.g f.l.cell v

theorem DrawsOnly.value (h : FireIn → State → FireOut) : DrawsOnly (fun f s => some (h f s, s)) := by
  rintro f s o s1 ⟨⟩
  exact .inl rfl

/-- Rounding draws in mode 2 and in no other (02 R57). -/
theorem DrawsOnly.rounded (vs : FireIn → List Num.Val) : DrawsOnly (fun f s => some (f.rounded s f.ty (vs f))) := by
  rintro f s o s1 ⟨⟩
  by_cases hm : (f.w.rnd.toNat == 2) = true
  · exact .inr ⟨_, if_pos hm⟩
  · exact .inl (if_neg hm)

theorem State.Tokens.setGen (s : State) (g : RegionNo) (c : CellNo) (v : BitVec 16) : State.Tokens g s (s.setGen g c v) :=
  .setReg s g _ rfl

/-- What such an effect leaves differs in its own region, and there in no register. -/
theorem DrawsOnly.tokens {effect : FireIn → State → Option (FireOut × State)} (he : DrawsOnly effect) {f : FireIn} {s s1 : State} {o : FireOut}
    (h : effect f s = some (o, s1)) : State.Tokens f.l.g s s1 := by
  rcases he f s o s1 h with rfl | ⟨v, rfl⟩
  · exact .refl _ _
  · exact .setGen _ _ _ v

/-- An instruction whose meaning is one standard firing whose effect at most draws. -/
def FiresOneValue (i : Instr) : Prop :=
  ∃ op w forms vector effect, DrawsOnly effect ∧ ∀ s, exec i s = s.fire op w forms vector effect

theorem FiresOneValue.value {i : Instr} {op : BitVec 9} {w : SlotWord} {forms : List TokForm} {vector : Bool} {h : FireIn → State → FireOut}
    (hi : ∀ s, exec i s = s.fire op w forms vector (fun f s => some (h f s, s))) : FiresOneValue i :=
  ⟨op, w, forms, vector, _, .value h, hi⟩

theorem FiresOneValue.rounded {i : Instr} {op : BitVec 9} {w : SlotWord} {forms : List TokForm} {vector : Bool} {vs : FireIn → List Num.Val}
    (hi : ∀ s, exec i s = s.fire op w forms vector (fun f s => some (f.rounded s f.ty (vs f)))) : FiresOneValue i :=
  ⟨op, w, forms, vector, _, .rounded vs, hi⟩

/-- `cvt` draws where it rounds in mode 2 (04 R129). -/
theorem FiresOneValue.cvt (w : SlotWord) : FiresOneValue (.cvt w) := by
  refine ⟨0x0CD, w, elementForms, false, _, ?_, (exec_cvt · w)⟩
  rintro f s o s1 ⟨⟩
  by_cases hd : Num.cvtDraws f.w.fn.toNat f.ty f.w.rnd.toNat = true
  · exact .inr ⟨_, if_pos hd⟩
  · exact .inl (if_neg hd)

/-- `quant` draws nothing, and fails where a source that it reads as a vector is none (04 R131). -/
theorem FiresOneValue.quant (w : SlotWord) : FiresOneValue (.quant w) := by
  refine ⟨0x0CE, w, laneForms, true, _, ?_, (exec_quant · w)⟩
  intro f s o s1 h
  dsimp only at h
  left
  split at h
  · split at h
    · cases h
    · cases h; rfl
  · split at h
    · cases h
    · cases h; rfl

/-- Every instruction of 03 R104 is one such firing. -/
theorem firesOneValue_of_standard {i : Instr} (h : Claims.standard i = true) : FiresOneValue i := by
  cases i with
  | const w => exact .value (exec_const · w)
  | iadd w => exact .value (exec_iadd · w)
  | isub w => exact .value (exec_isub · w)
  | imul w => exact .value (exec_imul · w)
  | imulh w => exact .value (exec_imulh · w)
  | imad w => exact .value (exec_imad · w)
  | idiv w => exact .value (exec_idiv · w)
  | irem w => exact .value (exec_irem · w)
  | ineg w => exact .value (exec_ineg · w)
  | iabs w => exact .value (exec_iabs · w)
  | imin w => exact .value (exec_imin · w)
  | imax w => exact .value (exec_imax · w)
  | cellAnd w => exact .value (exec_cellAnd · w)
  | cellOr w => exact .value (exec_cellOr · w)
  | cellXor w => exact .value (exec_cellXor · w)
  | cellNot w => exact .value (exec_cellNot · w)
  | shl w => exact .value (exec_shl · w)
  | shr w => exact .value (exec_shr · w)
  | sar w => exact .value (exec_sar · w)
  | popc w => exact .value (exec_popc · w)
  | clz w => exact .value (exec_clz · w)
  | icmp w => exact .value (exec_icmp · w)
  | sel w => exact .value (exec_sel · w)
  | agen w => exact .value (exec_agen · w)
  | bcast w => exact .value (exec_bcast · w)
  | shuf w => exact .value (exec_shuf · w)
  | rot w => exact .value (exec_rot · w)
  | pack w => exact .value (exec_pack · w)
  | unpack w => exact .value (exec_unpack · w)
  | fmin w => exact .value (exec_fmin · w)
  | fmax w => exact .value (exec_fmax · w)
  | fabs w => exact .value (exec_fabs · w)
  | fneg w => exact .value (exec_fneg · w)
  | fcmp w => exact .value (exec_fcmp · w)
  | vsum w => exact .value (exec_vsum · w)
  | vmax w => exact .value (exec_vmax · w)
  | fadd w => exact .rounded (exec_fadd · w)
  | fsub w => exact .rounded (exec_fsub · w)
  | fmul w => exact .rounded (exec_fmul · w)
  | ffma w => exact .rounded (exec_ffma · w)
  | frcp w => exact .rounded (exec_frcp · w)
  | frsq w => exact .rounded (exec_frsq · w)
  | fexp2 w => exact .rounded (exec_fexp2 · w)
  | flog2 w => exact .rounded (exec_flog2 · w)
  | scale w => exact .rounded (exec_scale · w)
  | cvt w => exact .cvt w
  | quant w => exact .quant w
  | _ => cases h

/-- Such an instruction moves tokens only. -/
theorem FiresOneValue.tokens {i : Instr} (hi : FiresOneValue i) {s t : State} {l : SlotLoc} (hl : s.cur = .slot l)
    (h : exec i s = .next t) : State.Tokens l.g s t := by
  obtain ⟨op, w, forms, vector, effect, hd, he⟩ := hi
  rw [he] at h
  refine .fire hl (fun f o s1 hf h1 => ?_) h
  rw [← hf]
  exact hd.tokens h1

/-- Settles O23: an instruction of 03 R104 is a firing whose effect at most draws from its cell's generator, and such a firing moves tokens
only. -/
theorem firingsChangeNoRegister : Obligations.FiringsChangeNoRegister := by
  unfold Obligations.FiringsChangeNoRegister
  intro i s s' l hi hl h
  have ht : State.Tokens l.g s s' := (firesOneValue_of_standard hi).tokens hl h
  exact ⟨ht.mem, ht.banks, ht.streams, ht.ctxs, ht.records, ht.others, ht.threads, ht.cmds, ht.accs, ht.regs⟩

end Sys2Proof.Machine

/-! ## The writing of a result (01 R25, R35; 04 R109, R110) -/

namespace Sys2Proof.Machine

/-! ### A destination register written -/

@[simp] theorem Cell.writeReg_slots (c : Cell) (gr : Grant) (x : CtxNo) (d : DestReg) (v : Line) :
    (c.writeReg gr x d v).slots = c.slots := by
  unfold Cell.writeReg; split_ifs <;> rfl

@[simp] theorem Cell.writeReg_flights (c : Cell) (gr : Grant) (x : CtxNo) (d : DestReg) (v : Line) :
    (c.writeReg gr x d v).flights = c.flights := by
  unfold Cell.writeReg; split_ifs <;> rfl

@[simp] theorem Cell.writeReg_lr (c : Cell) (gr : Grant) (x : CtxNo) (d : DestReg) (v : Line) : (c.writeReg gr x d v).lr = c.lr := by
  unfold Cell.writeReg; split_ifs <;> rfl

@[simp] theorem Cell.writeReg_main (c : Cell) (gr : Grant) (x : CtxNo) (n : Nat) (v : Line) :
    (c.writeReg gr x ⟨2, n⟩ v).v = Tab.set c.v (gr.phys n) v := rfl

@[simp] theorem Cell.writeReg_operand (c : Cell) (gr : Grant) (x : CtxNo) (n : Nat) (v : Line) :
    (c.writeReg gr x ⟨1, n⟩ v).o = Tab.set c.o (4 * x.toNat + n) v := rfl

/-! ### The cell of a firing that writes -/

/-- `lr` of the firing's context takes its value, unless a firing started later has written it (04 R110). -/
def Cell.takeLr (c : Cell) (f : Flight) (later : Bool) : Cell :=
  match f.lr with
  | some v => if later then c else { c with lr := Tab.set c.lr f.ctx.toNat v, lrSeq := Tab.set c.lrSeq f.ctx.toNat f.seq }
  | none => c

/-- The destination register of the firing, if it has one, takes its value (01 R25). -/
def Cell.takeDest (c : Cell) (gr : Grant) (f : Flight) : Cell :=
  match f.dest with
  | some (d, v) => c.writeReg gr f.ctx d v
  | none => c

/-- The result register of the firing's slot takes its tokens; a stateful slot sends nothing (01 R35, 05 R163). -/
def Slot.takeTokens (t : Slot) (f : Flight) (tick : Nat) : Slot :=
  if (slotFields t.word).m then t else Slot.follow { t with res := ⟨f.t0, f.t1, tick⟩ } tick

/-- The cell once the firing has written and is in flight no more. -/
def Cell.written (c : Cell) (gr : Grant) (f : Flight) (later : Bool) : Cell :=
  ({ c with flights := c.flights.filter (fun h => h.seq != f.seq) }.takeLr f later).takeDest gr f

section
variable (c : Cell) (gr : Grant) (f : Flight) (later : Bool)

@[simp] theorem Cell.takeLr_slots : (c.takeLr f later).slots = c.slots := by unfold Cell.takeLr; cases f.lr <;> cases later <;> rfl
@[simp] theorem Cell.takeLr_flights : (c.takeLr f later).flights = c.flights := by unfold Cell.takeLr; cases f.lr <;> cases later <;> rfl
@[simp] theorem Cell.takeLr_v : (c.takeLr f later).v = c.v := by unfold Cell.takeLr; cases f.lr <;> cases later <;> rfl
@[simp] theorem Cell.takeLr_o : (c.takeLr f later).o = c.o := by unfold Cell.takeLr; cases f.lr <;> cases later <;> rfl

@[simp] theorem Cell.takeDest_slots : (c.takeDest gr f).slots = c.slots := by unfold Cell.takeDest; split <;> simp
@[simp] theorem Cell.takeDest_flights : (c.takeDest gr f).flights = c.flights := by unfold Cell.takeDest; split <;> simp
@[simp] theorem Cell.takeDest_lr : (c.takeDest gr f).lr = c.lr := by unfold Cell.takeDest; split <;> simp

@[simp] theorem Cell.written_slots : (c.written gr f later).slots = c.slots := by simp [Cell.written]
@[simp] theorem Cell.written_flights : (c.written gr f later).flights = c.flights.filter (fun h => h.seq != f.seq) := by
  simp [Cell.written]

theorem Cell.written_lr {v : Line} (hv : f.lr = some v) : (c.written gr f false).lr = Tab.set c.lr f.ctx.toNat v := by
  simp [Cell.written, Cell.takeLr, hv]

theorem Cell.written_lr_kept (h : later = true ∨ f.lr = none) : (c.written gr f later).lr = c.lr := by
  rcases h with rfl | h
  · cases hv : f.lr <;> simp [Cell.written, Cell.takeLr, hv]
  · simp [Cell.written, Cell.takeLr, h]

theorem Cell.written_main {n : Nat} {v : Line} (h : f.dest = some (⟨2, n⟩, v)) :
    (c.written gr f later).v = Tab.set c.v (gr.phys n) v := by
  simp [Cell.written, Cell.takeDest, h]

theorem Cell.written_operand {n : Nat} {v : Line} (h : f.dest = some (⟨1, n⟩, v)) :
    (c.written gr f later).o = Tab.set c.o (4 * f.ctx.toNat + n) v := by
  simp [Cell.written, Cell.takeDest, h]

theorem Cell.written_no_dest (h : f.dest = none) : (c.written gr f later).v = c.v ∧ (c.written gr f later).o = c.o := by
  simp [Cell.written, Cell.takeDest, h]

end

/-- A token that stands in the result register keeps behind it the marker that waits (05 R163, 04 R117). -/
theorem Slot.follow_of_full {t : Slot} (seq : Nat) (h : t.res.empty = false) : t.follow seq = t := by
  unfold Slot.follow
  split <;> simp [h]

theorem Slot.takeTokens_res {t : Slot} {f : Flight} (tick : Nat) (hm : (slotFields t.word).m = false) (ht : f.t0 ≠ none ∨ f.t1 ≠ none) :
    (t.takeTokens f tick).res = ⟨f.t0, f.t1, tick⟩ := by
  have hfull : ResultReg.empty ⟨f.t0, f.t1, tick⟩ = false := by
    simpa [ResultReg.empty, Option.isNone_eq_false_iff, Option.isSome_iff_ne_none, imp_iff_not_or] using ht
  rw [Slot.takeTokens, hm, if_neg Bool.false_ne_true, Slot.follow_of_full tick hfull]

/-! ### The step -/

/-- The machine after a firing in flight has written. -/
def State.written (s : State) (g : RegionNo) (c : CellNo) (f : Flight) : State :=
  ((s.stamp g).updCell g c (fun d => d.written (s.grant g f.ctx) f (Tab.getD (s.cell g c).lrSeq f.ctx.toNat > f.seq))).updSlot
    ⟨g, c, f.ctx, f.slot⟩ (fun t => t.takeTokens f s.tick)

theorem execResultWrite_of_flight {s : State} {g : RegionNo} {c : CellNo} {f : Flight}
    (h : (s.cell g c).flights.find? (fun e => e.seq == f.seq) = some f) : execResultWrite g c f.seq s = .next (s.written g c f) := by
  simp only [execResultWrite, h]
  rfl

/-- The cell afterwards, but for its slots. -/
theorem State.cell_written (s : State) (g : RegionNo) (c : CellNo) (f : Flight) :
    { (s.written g c f).cell g c with slots := [] }
      = { (s.cell g c).written (s.grant g f.ctx) f (Tab.getD (s.cell g c).lrSeq f.ctx.toNat > f.seq) with slots := [] } := by
  simp [State.written, State.cell_updSlot]

/-- The slot afterwards. -/
theorem State.slotAt_written (s : State) (g : RegionNo) (c : CellNo) (f : Flight) :
    (s.written g c f).slotAt ⟨g, c, f.ctx, f.slot⟩ = (s.slotAt ⟨g, c, f.ctx, f.slot⟩).takeTokens f s.tick := by
  rw [State.written, State.slotAt_updSlot_self]
  simp [State.slotAt]

/-- Settles O21: the write puts the value of the firing in `lr` and the destination register of its cell, and its tokens in the result
register of its slot. -/
theorem resultsAreWritten : Obligations.ResultsAreWritten := by
  unfold Obligations.ResultsAreWritten
  intro s g c f hf
  have hflights := (congrArg Cell.flights (s.cell_written g c f) :)
  have hlr := (congrArg Cell.lr (s.cell_written g c f) :)
  have hv := (congrArg Cell.v (s.cell_written g c f) :)
  have ho := (congrArg Cell.o (s.cell_written g c f) :)
  dsimp only at hflights hlr hv ho
  refine ⟨s.written g c f, execResultWrite_of_flight hf, rfl, rfl, ?_, ?_, ?_, ?_, ?_, ?_, ?_⟩
  · rw [hflights, Cell.written_flights]
  · intro v hl hlater
    rw [hlr, decide_eq_false hlater, Cell.written_lr _ _ _ hl, Tab.getD_set_self]
  · intro h
    rw [hlr, Cell.written_lr_kept _ _ _ _ (h.imp_left decide_eq_true)]
  · intro n v hd
    rw [hv, Cell.written_main _ _ _ _ hd, Tab.getD_set_self]
  · intro n v hd
    rw [ho, Cell.written_operand _ _ _ _ hd, Tab.getD_set_self]
  · intro hd
    rw [hv, ho]
    exact Cell.written_no_dest _ _ _ _ hd
  · intro hm ht
    rw [State.slotAt_written, Slot.takeTokens_res _ hm ht]

end Sys2Proof.Machine

/-! ## Tokens in the mesh (01 R38, R42 to R46; 16 R308) -/

namespace Sys2Proof.Machine

@[simp] theorem State.core_updChan (s : State) (g : RegionNo) (n : Nat) (f : Chan → Chan) :
    (s.updChan g n f).core g = { s.core g with chans := Tab.upd (s.core g).chans n f } := by
  simp [State.updChan]

@[simp] theorem Core.pass_chans (k : Core) (key : Nat) (f : Flit) : (k.pass key f).chans = k.chans := rfl

/-! ### Source ports (01 R38) -/

/-- A port of a cell that has room pulls the token written earliest. -/
theorem execSourcePortPull_pulls {s : State} {g : RegionNo} {ch : BitVec 7} {seq : Nat} {slot : SlotNo} {second : Bool} {t : Token} {c : Chan}
    (hc : Tab.getD (s.core g).chans ch.toNat = c) (hactive : (s.core g).chanActive ch.toNat = true) (hmoves : s.moves g c.desc = true)
    (hjout : c.jout = []) (hrmark : c.rmark = []) (hcell : dSRC c.desc < 256)
    (hearliest : earliest (slotsToward (s.cell g (BitVec.ofNat 8 (dSRC c.desc))) (dCTX c.desc) ch.toNat) = some (seq, slot, second, t)) :
    execSourcePortPull g ch s = .next (if c.takes t && (s.reg g).cellRuns (BitVec.ofNat 8 (dSRC c.desc)) (dCTX c.desc) then
      (s.pull g (dCTX c.desc) (.res (BitVec.ofNat 8 (dSRC c.desc)) slot second)).updChan g ch.toNat (fun c => c.place ch.toNat s.tick t)
      else s) := by
  subst hc
  simp only [execSourcePortPull, hactive, hmoves, hjout, hrmark, hcell, hearliest, List.isEmpty_nil, Bool.not_true, Bool.or_false,
    Bool.false_eq_true, if_false, if_true]
  split <;> rfl

/-! ### Flits -/

@[simp] theorem execFlitMove_enter (g : RegionNo) (n : Nat) (s : State) : execFlitMove g (5 * n) s = .next (s.flitEnter g n) := by
  have hkind : 5 * n % 5 = 0 := by omega
  have hnumber : 5 * n / 5 = n := by omega
  simp only [execFlitMove, hkind, hnumber]

@[simp] theorem execFlitMove_hop (g : RegionNo) (i : Nat) (s : State) : execFlitMove g (5 * i + 1) s = .next (s.flitHop g i) := by
  have hkind : (5 * i + 1) % 5 = 1 := by omega
  have hnumber : (5 * i + 1) / 5 = i := by omega
  simp only [execFlitMove, hkind, hnumber]

/-- The lock of the router input that a channel's source FIFO feeds (01 R44). -/
def Chan.entryLock (c : Chan) (vc : Nat) : Nat := lockKey (codeRouter (dSRC c.desc)) (8 + codeSide (dSRC c.desc)) vc

/-- The router, and its input, that a flit reaches next on its way (01 R42). -/
def Flit.next (f : Flit) (d : W64) : Nat × Nat := hop f.loc (outputTo f.loc (f.toward d))

/-- The head of a source FIFO enters its router when its buffer and lock are free and it is its turn. -/
theorem State.flitEnter_enters {s : State} {g : RegionNo} {n : Nat} {c : Chan} {f : Flit} {rest : List Flit}
    (hc : Tab.getD (s.core g).chans n = c) (hfifo : c.sfifo = f :: rest) (hmoves : s.moves g c.desc = true)
    (hroom : (s.core g).buffered (codeRouter (dSRC c.desc)) (codeSide (dSRC c.desc)) f.vc < 4)
    (hlock : (s.core g).lockFree (c.entryLock f.vc) f.tid = true)
    (hturn : (s.core g).inTurn n c.desc f = true) :
    s.flitEnter g n = ((s.stamp g).updChan g n (fun c => { c with sfifo := rest })).updCore g (fun k =>
      { k.pass (c.entryLock f.vc) f with
        flits := k.flits ++ [{ f with ch := n, loc := codeRouter (dSRC c.desc), inp := codeSide (dSRC c.desc) }] }) := by
  subst hc
  unfold Chan.entryLock at hlock
  simp [State.flitEnter, Chan.entryLock, hfifo, hmoves, hlock, hturn, Nat.not_le.mpr hroom]

/-- It waits while the buffer is full or another token's flits are entering there. -/
theorem State.flitEnter_waits {s : State} {g : RegionNo} {n : Nat} {c : Chan} {f : Flit} {rest : List Flit}
    (hc : Tab.getD (s.core g).chans n = c) (hfifo : c.sfifo = f :: rest)
    (h : 4 ≤ (s.core g).buffered (codeRouter (dSRC c.desc)) (codeSide (dSRC c.desc)) f.vc
      ∨ (s.core g).lockFree (c.entryLock f.vc) f.tid = false) :
    s.flitEnter g n = s := by
  subst hc
  unfold Chan.entryLock at h
  rcases h with h | h <;> simp [State.flitEnter, hfifo, h]

/-- Ready is high, and its drop forgotten, while three places of the buffer are free (01 R43). -/
theorem State.ready_of_free {s : State} {g : RegionNo} {loc inp vc : Nat} (h : (s.core g).buffered loc inp vc ≤ 1) :
    s.ready g loc inp vc = (s.updCore g (fun k => { k with low := k.low.erase ((8 * loc + inp) * 4 + vc) }), true) := by
  simp [State.ready, h]

/-- A full buffer takes nothing. -/
theorem State.ready_of_full {s : State} {g : RegionNo} {loc inp vc : Nat} (h : 4 ≤ (s.core g).buffered loc inp vc) :
    s.ready g loc inp vc = (s, false) := by
  have h1 : ¬ (s.core g).buffered loc inp vc ≤ 1 := by omega
  simp [State.ready, h, h1]

/-- A flit of a router that may leave its buffer: first of its buffer, its channel moving, the output free of other tokens. -/
structure State.MayHop (s : State) (g : RegionNo) (i : Nat) (f : Flit) (c : Chan) : Prop where
  chan  : Tab.getD (s.core g).chans f.ch = c
  flit  : (s.core g).flits[i]? = some f
  moves : s.moves g c.desc = true
  first : (s.core g).firstFlit i f = true
  lock  : (s.core g).lockFree (lockKey f.loc (outputTo f.loc (f.toward c.desc)) f.vc) f.tid = true

section
variable {s : State} {g : RegionNo} {i : Nat} {f : Flit} {c : Chan} (h : s.MayHop g i f c)
include h

/-- Away from its destination's router it goes on in dimension order, when the next buffer has three places (01 R42, R43). -/
theorem State.flitHop_hops (haway : f.loc ≠ codeRouter (f.toward c.desc))
    (hroom : (s.core g).buffered (f.next c.desc).1 (f.next c.desc).2 f.vc ≤ 1) :
    ((s.flitHop g i).core g).flits = (s.core g).flits.eraseIdx i
        ++ [{ f with loc := (f.next c.desc).1, inp := (f.next c.desc).2 }]
      ∧ ((s.flitHop g i).core g).chans = (s.core g).chans := by
  obtain ⟨rfl, hflit, hmoves, hfirst, hlock⟩ := h
  unfold Flit.next at hroom
  simp [State.flitHop, hflit, hmoves, hfirst, hlock, haway, Flit.next, State.ready_of_free hroom]

/-- It waits before a full buffer. -/
theorem State.flitHop_waits (haway : f.loc ≠ codeRouter (f.toward c.desc))
    (hfull : 4 ≤ (s.core g).buffered (f.next c.desc).1 (f.next c.desc).2 f.vc) :
    s.flitHop g i = s := by
  obtain ⟨rfl, hflit, hmoves, hfirst, hlock⟩ := h
  unfold Flit.next at hfull
  simp [State.flitHop, hflit, hmoves, hfirst, hlock, haway, State.ready_of_full hfull]

/-- An acknowledgement at the source port reopens its channel (01 R45). -/
theorem State.flitHop_ack (hat : f.loc = codeRouter (f.toward c.desc)) (hack : f.kind = .ack) :
    ((s.flitHop g i).core g).flits = (s.core g).flits.eraseIdx i
      ∧ Tab.getD ((s.flitHop g i).core g).chans f.ch = { c with unacked := false } := by
  obtain ⟨rfl, hflit, hmoves, hfirst, hlock⟩ := h
  rw [hat] at hlock
  simp [State.flitHop, hflit, hmoves, hfirst, hlock, hat, hack]

/-- The last flit of a token whose first is in the port completes it there: off VC1 it is staged at once, and unchanged where the channel has no
filter (01 R46, 10 R253). -/
theorem State.flitHop_token (hat : f.loc = codeRouter (f.toward c.desc)) (htoken : f.kind = .token) (hlast : f.of ≤ f.idx + 1)
    (hbegun : f.idx ≠ 0) (hvc : dVC c.desc ≠ 1) (hfilter : fKIND c.entry = 0) :
    ((s.flitHop g i).core g).flits = (s.core g).flits.eraseIdx i
      ∧ Tab.getD ((s.flitHop g i).core g).chans f.ch = c.stage 1 f.tok [f.tok] := by
  obtain ⟨rfl, hflit, hmoves, hfirst, hlock⟩ := h
  rw [hat] at hlock
  simp [State.flitHop, hflit, hmoves, hfirst, hlock, hat, htoken, hlast, hbegun, State.arrive, State.deliver, hvc, hfilter]

end

/-! ### Block entry (16 R308) -/

/-- A port without armings counts nothing. -/
theorem State.countPort_of_unarmed {s : State} {g : RegionNo} {p : Nat} (htok : (Tab.getD (s.core g).ports p : EdgePort).tokArm = [])
    (hmark : (Tab.getD (s.core g).ports p : EdgePort).markArm = []) (t : TokKind) : s.countPort g p t = s.stamp g := by
  cases t <;> simp [State.countPort, htok, hmark]

/-- A token stands at an unarmed port of KIND 0 that takes it. -/
structure State.AtBlockEntry (s : State) (g : RegionNo) (p ch : Nat) (t : Token) (d : W64) (e : EdgePort) : Prop where
  desc     : (Tab.getD (s.core g).chans ch : Chan).desc = d
  port     : Tab.getD (s.core g).ports p = e
  head     : (s.core g).headToward p = some (ch, t)
  has      : Tab.has (s.core g).ports p = true
  kind     : e.kind = 0
  tokArm   : e.tokArm = []
  markArm  : e.markArm = []
  moves    : s.portMoves g d = true

section
variable {s : State} {g : RegionNo} {port : BitVec 6} {ch : Nat} {t : Token} {d : W64} {e : EdgePort}
  (h : s.AtBlockEntry g port.toNat ch t d e)
include h

/-- The port has pulled the token, and counts it nowhere. -/
theorem State.AtBlockEntry.pulled (k : TokKind) :
    (s.updChan g ch Chan.pull).countPort g port.toNat k = (s.updChan g ch Chan.pull).stamp g := by
  obtain ⟨-, rfl, -, -, -, htok, hmark, -⟩ := h
  exact State.countPort_of_unarmed (by simpa using htok) (by simpa using hmark) k

theorem execThreadTokenEntry_marker (ht : t.kind = .marker) :
    execThreadTokenEntry g port s = .next ((s.updChan g ch Chan.pull).stamp g) := by
  have hp := h.pulled
  obtain ⟨rfl, rfl, hhead, hhas, hkind, -, -, hmoves⟩ := h
  simp [execThreadTokenEntry, hhead, hhas, hkind, hmoves, ht, hp]

theorem execThreadTokenEntry_control (ht : t.kind = .control) (hform : t.form = .tile)
    (hblock : port.toNat % 16 < hNBLK (Tab.getD s.kernels (s.grant g (dCTX d)).kernel : Kernel).image)
    (hroom : (Tab.getD (Tab.getD (s.core g).sched (dCTX d).toNat : Sched).queues (port.toNat % 16)).length < 4096) :
    execThreadTokenEntry g port s = .next (((s.updChan g ch Chan.pull).stamp g).updSched g (dCTX d) (fun c =>
      { c with queues := Tab.set c.queues (port.toNat % 16) (Tab.getD (Tab.getD (s.core g).sched (dCTX d).toNat : Sched).queues
          (port.toNat % 16) ++ [(List.range 4).map (fun i => BitVec.ofNat 16 (t.pay.toNat >>> (16 * i)))]) })) := by
  have hp := h.pulled
  obtain ⟨rfl, rfl, hhead, hhas, hkind, -, -, hmoves⟩ := h
  simp [execThreadTokenEntry, hhead, hhas, hkind, hmoves, ht, hform, hp, Nat.not_le.mpr hblock, Nat.not_le.mpr hroom]

theorem execThreadTokenEntry_other (hmark : t.kind ≠ .marker) (hcontrol : t.kind ≠ .control) :
    execThreadTokenEntry g port s
      = .next (((s.updChan g ch Chan.pull).stamp g).portFault g port.toNat (dCTX d) Cause.illegal 0) := by
  have hp := h.pulled
  obtain ⟨rfl, rfl, hhead, hhas, hkind, -, -, hmoves⟩ := h
  simp [execThreadTokenEntry, hhead, hhas, hkind, hmoves, hmark, hcontrol, hp]

end

/-! ### The statement -/

/-- Settles O45: the steps of a source port, of a flit at each place of its way, and of a block-entry port, each by its lemma. -/
theorem tokensCrossTheMesh : Obligations.TokensCrossTheMesh := by
  unfold Obligations.TokensCrossTheMesh
  intro s g
  refine ⟨?ports, ?enters, ?moves, ?entry⟩
  case ports =>
    intro ch seq slot second t c d cell hactive hmoves hjout hrmark hcell hearliest
    have h := execSourcePortPull_pulls (c := c) rfl hactive hmoves hjout hrmark hcell hearliest
    exact ⟨fun htakes hruns => h.trans (congrArg _ (if_pos (by rw [htakes, hruns]; rfl))),
      fun htakes => h.trans (congrArg _ (if_neg (by rw [htakes]; exact Bool.false_ne_true)))⟩
  case enters =>
    intro n f rest c loc inp key hfifo hmoves
    exact ⟨fun hroom hlock hturn =>
        (execFlitMove_enter g n s).trans (congrArg _ (State.flitEnter_enters (c := c) rfl hfifo hmoves hroom hlock hturn)),
      fun hwaits => (execFlitMove_enter g n s).trans (congrArg _ (State.flitEnter_waits (c := c) rfl hfifo hwaits))⟩
  case moves =>
    intro i f c d out to_ hflit hmoves hfirst hlock
    have h : s.MayHop g i f c := ⟨rfl, hflit, hmoves, hfirst, hlock⟩
    simp only [exec_flitMove, execFlitMove_hop]
    refine ⟨fun haway hroom => ⟨_, rfl, State.flitHop_hops h haway hroom⟩, fun haway hfull => congrArg _ (State.flitHop_waits h haway hfull),
      fun hat hack _ => ⟨_, rfl, State.flitHop_ack h hat hack⟩,
      fun hat htoken hlast hbegun hvc hfilter => ⟨_, rfl, State.flitHop_token h hat htoken hlast hbegun hvc hfilter⟩⟩
  case entry =>
    intro port ch t d x block e q hhead hhas hkind htok hmark hmoves
    have h : s.AtBlockEntry g port.toNat ch t d e := ⟨rfl, rfl, hhead, hhas, hkind, htok, hmark, hmoves⟩
    exact ⟨execThreadTokenEntry_marker h, execThreadTokenEntry_control h, execThreadTokenEntry_other h⟩

end Sys2Proof.Machine

/-! ## Reset and loss of power (02 R58; 06 R165, R168; 16 R300; 19 R356 to R363) -/

namespace Sys2Proof.Machine

/-! ### What a memory reads as -/

theorem Memory.read_nil (a : Nat) : Memory.read [] a = 0 := rfl

/-- Of a memory whose addresses have been sifted, those kept read as before and the others as bytes never written (log 2). -/
theorem Memory.read_filter (m : Memory) (keep : Nat → Bool) (a : Nat) :
    Memory.read (m.filter (fun p => keep p.1)) a = if keep a then m.read a else 0 := by
  induction m with
  | nil => exact (ite_self _).symm
  | cons p r ih =>
    obtain ⟨b, v⟩ := p
    by_cases hb : b = a
    · subst hb
      cases hk : keep b with
      | true => simp [hk, Memory.read, Tab.get]
      | false => simpa [hk] using ih
    · have skip (t : Memory) : Memory.read ((b, v) :: t) a = t.read a := by simp [Memory.read, Tab.get, hb]
      cases hk : keep b <;> simp [hk, skip, ih]

/-! ### Registers right after reset -/

@[simp] theorem State.reg_reset (g : RegionNo) : State.reset.reg g = {} := rfl

@[simp] theorem State.core_reset (g : RegionNo) : State.reset.core g = {} := rfl

@[simp] theorem State.thread_reset (g : RegionNo) (x : CtxNo) : State.reset.thread g x = {} := rfl

@[simp] theorem State.scb_reset (key : Nat) : State.reset.scb key = {} := rfl

@[simp] theorem State.queue_reset (q : Nat) : State.reset.queue 0 q = { created := q == 0 } := by
  cases q <;> rfl

theorem State.link_reset (n : Nat) : (Tab.getD State.reset.links n : Link) = {} := rfl

/-- Register 0 of a thread reads 0, and so does every other that has not been written. -/
theorem Thread.rg_unwritten (n : BitVec 5) : ({} : Thread).rg n = 0 := ite_self _

/-- Each generator holds its seed 0xACE1, combined with its cell's identifier and never 0 (02 R58). -/
theorem State.gen_reset (g : RegionNo) (c : CellNo) :
    State.reset.gen g c = if (0xACE1#16) ^^^ cellIdent g c = 0 then 1 else 0xACE1#16 ^^^ cellIdent g c := by
  simp [State.gen]

/-! ### The two restarts (19 R357, R362; log 50) -/

theorem execReset_restart (s : State) : execReset s = .next s.restart := rfl

theorem execPowerLoss_restart (s : State) :
    execPowerLoss s = .next { s.restart with mem := s.mem.filter (fun p => isHost p.1), lineKey := [], bad := [] } := rfl

/-! ### The statement -/

/-- What is so right after reset. The fields that stand in no table are read off `State.reset`. -/
theorem resetState : Claims.ResetState := by
  unfold Claims.ResetState
  refine ⟨State.gen_reset, ?threads, ?streams, rfl, rfl, rfl, rfl, rfl, rfl, ?regions, rfl, rfl, rfl, rfl, rfl, rfl, rfl, rfl, rfl, rfl,
    ?queues, rfl, rfl, rfl, rfl, rfl, ?links, rfl, Memory.read_nil, Memory.read_nil⟩
  case threads =>
    intro g x
    rw [State.thread_reset]
    exact ⟨rfl, rfl, Thread.rg_unwritten, fun _ => rfl, fun _ => rfl, rfl, rfl, rfl⟩
  case streams =>
    intro key
    rw [State.scb_reset]
  case regions =>
    intro g
    rw [State.reg_reset, State.core_reset]
    exact ⟨rfl, rfl, rfl, rfl⟩
  case queues =>
    intro q
    rw [State.queue_reset]
    exact ⟨rfl, rfl, rfl, rfl⟩
  case links =>
    intro n
    rw [State.link_reset]

/-- What a later reset and a loss of power leave. Both restart the machine; a loss of power also keeps only the host's part of memory. -/
theorem resetsLeaveMemoryAndFlash : Claims.ResetsLeaveMemoryAndFlash := by
  unfold Claims.ResetsLeaveMemoryAndFlash
  intro s
  refine ⟨⟨s.restart, execReset_restart s, ?reset⟩, ⟨_, execPowerLoss_restart s, ?host, ?device, ?rest⟩⟩
  case reset => exact ⟨rfl, rfl, rfl, rfl, rfl, rfl, rfl, rfl, rfl, rfl, rfl, rfl, rfl, rfl, rfl, rfl, rfl, rfl⟩
  case host =>
    intro a ha
    exact (Memory.read_filter s.mem isHost a).trans (if_pos ha)
  case device =>
    intro a ha
    exact (Memory.read_filter s.mem isHost a).trans (if_neg (ne_true_of_eq_false ha))
  case rest => exact ⟨rfl, rfl, rfl, rfl, rfl, rfl⟩

/-- Settles O57: the state right after reset, then what each of the two restarts keeps of the state before it. -/
theorem resetLeavesTheStatedValues : Obligations.ResetLeavesTheStatedValues := by
  unfold Obligations.ResetLeavesTheStatedValues
  exact ⟨resetState, resetsLeaveMemoryAndFlash⟩

end Sys2Proof.Machine

/-! ## Words and instructions (03 R78, R87, R90, R92 to R94; 16 R301) -/

namespace Sys2Proof

/-! ### The maps of opcodes, both ways (03 R86, R90; 16 R303) -/

/-- A cell instruction stands in the map of opcodes at its own OP, which is not the 0 of an empty slot (03 R79, R86). -/
theorem slotOf_of_slotOp? {i : Instr} {op : BitVec 9} {w : SlotWord} (h : i.slotOp? = some (op, w)) :
    op ≠ 0 ∧ slotOf op w = some i := by
  unfold Instr.slotOp? at h
  split at h <;> cases h <;> exact ⟨by decide, rfl⟩

theorem frameOf_of_frameCode? {i : Instr} {code : BitVec 8} {c : Frame} (h : i.frameCode? = some (code, c)) :
    frameOf code c = some i := by
  unfold Instr.frameCode? at h
  split at h <;> cases h <;> rfl

theorem hostOf_of_hostOpc? {i : Instr} {opc : BitVec 8} {e : HostEntry} (h : i.hostOpc? = some (opc, e)) :
    hostOf opc e = some i := by
  unfold Instr.hostOpc? at h
  split at h <;> cases h <;> rfl

theorem slotOp?_of_slotOf {op : BitVec 9} {w : SlotWord} {i : Instr} (h : slotOf op w = some i) : i.slotOp? = some (op, w) := by
  unfold slotOf at h
  split at h <;> rename_i hn <;> cases h <;>
    exact congrArg some (Prod.ext (BitVec.eq_of_toNat_eq hn.symm) rfl)

theorem frameCode?_of_frameOf {code : BitVec 8} {c : Frame} {i : Instr} (h : frameOf code c = some i) :
    i.frameCode? = some (code, c) := by
  unfold frameOf at h
  split at h <;> rename_i hn <;> cases h <;>
    exact congrArg some (Prod.ext (BitVec.eq_of_toNat_eq hn.symm) rfl)

/-! ### An instruction from its word -/

/-- The bytes of a well-formed Lectern word decode to it. -/
theorem Laws.RoundTrip.statement_of_lectern {i : Instr} {w : W32} (h : encodeLectern i = some w) : Statement i := by
  cases i with
  | add d a b => exact add d a b
  | sub d a b => exact sub d a b
  | mul d a b => exact mul d a b
  | mulh d a b => exact mulh d a b
  | div d a b => exact div d a b
  | rem d a b => exact rem d a b
  | lecternAnd d a b => exact lecternAnd d a b
  | lecternOr d a b => exact lecternOr d a b
  | lecternXor d a b => exact lecternXor d a b
  | sll d a b => exact sll d a b
  | srl d a b => exact srl d a b
  | sra d a b => exact sra d a b
  | slt d a b => exact slt d a b
  | sltu d a b => exact sltu d a b
  | addi d a imm => exact addi d a imm
  | andi d a imm => exact andi d a imm
  | ori d a imm => exact ori d a imm
  | xori d a imm => exact xori d a imm
  | slli d a n => exact slli d a n
  | srli d a n => exact srli d a n
  | srai d a n => exact srai d a n
  | slti d a imm => exact slti d a imm
  | lui d imm => exact lui d imm
  | adr d imm => exact adr d imm
  | ldB a b off => exact ldB a b off
  | ldH a b off => exact ldH a b off
  | ldW a b off => exact ldW a b off
  | ldD a b off => exact ldD a b off
  | stB a b off => exact stB a b off
  | stH a b off => exact stH a b off
  | stW a b off => exact stW a b off
  | stD a b off => exact stD a b off
  | beq a b off => exact beq a b off
  | bne a b off => exact bne a b off
  | blt a b off => exact blt a b off
  | bge a b off => exact bge a b off
  | bltu a b off => exact bltu a b off
  | bgeu a b off => exact bgeu a b off
  | jal off => exact jal off
  | jalr d a off => exact jalr d a off
  | cld c g n => exact cld c g n
  | cset c g p => exact cset c g p
  | cget c g p => exact cget c g p
  | cissue c p => exact cissue c p
  | cwait g p nb => exact cwait g p nb
  | kset x g i => exact kset x g i
  | kadd x g i => exact kadd x g i
  | krd x g => exact krd x g
  | kwait x cond g i => exact kwait x cond g i
  | cfgload b => exact cfgload b
  | cfggo b => exact cfggo b
  | bdset b g i => exact bdset b g i
  | bdrd b g => exact bdrd b g
  | bwarr g => exact bwarr g
  | phase g => exact phase g
  | fence sc => exact fence sc
  | rdst r g => exact rdst r g
  | wrst r g i => exact wrst r g i
  | trap i => exact trap i
  | eret => exact eret
  | brk => exact brk
  | idle => exact idle
  | lexit g => exact lexit g
  | lkill => exact lkill
  | xinv x g => exact xinv x g
  | frz g => exact frz g
  | thaw g => exact thaw g
  | ftok g => exact ftok g
  | _ => cases h

/-- The bytes of every well-formed instruction that has a word decode to it: a Lectern word, a slot word, a frame or a host entry, each by its map of opcodes. -/
theorem Laws.RoundTrip.statement (i : Instr) : Statement i := by
  cases hl : encodeLectern i with
  | some w => exact statement_of_lectern hl
  | none =>
  cases hs : i.slotOp? with
  | some p =>
    obtain ⟨hop, hi⟩ := slotOf_of_slotOp? hs
    exact of_slot hl hs hop hi
  | none =>
  cases hf : i.frameCode? with
  | some p => exact of_frame hl hs hf (frameOf_of_frameCode? hf)
  | none =>
  cases hh : i.hostOpc? with
  | some p => exact of_host hl hs hf hh (hostOf_of_hostOpc? hh)
  | none => exact of_none (by simp [encode, hl, hs, hf, hh])

/-- Settles O54: one layer after another, the word of an instruction has the opcode by which the decoder finds it and the fields that are its operands. -/
theorem encodeDecodeAgree : Obligations.EncodeDecodeAgree := by
  unfold Obligations.EncodeDecodeAgree
  intro i bs hw he
  exact Laws.RoundTrip.statement i hw bs he

/-! ### A word from its fields (03 R78, R87, R92) -/

theorem ofBool_getLsbD {m : Nat} (w : BitVec m) (i : Nat) : BitVec.ofBool (w.getLsbD i) = fld w i 1 := by
  apply BitVec.eq_of_getLsbD_eq
  intro j hj
  obtain rfl : j = 0 := by omega
  simp

/-- Two fields that adjoin are one. -/
theorem fld_append_fld {m : Nat} (w : BitVec m) {hi lo k n : Nat} (h : hi = lo + n) : fld w hi k ++ fld w lo n = fld w lo (k + n) :=
  BitVec.extractLsb'_append_extractLsb'_eq_extractLsb' h

theorem ofNat_of_toNat {n k : Nat} {x : BitVec n} (h : x.toNat = k) : BitVec.ofNat n k = x := by
  rw [← h, BitVec.ofNat_toNat, BitVec.setWidth_eq]

theorem encodeSlot_slotFields (w : W64) : encodeSlot (fld w 55 9) (slotFields w) = w := by
  simp only [encodeSlot, slotFields, ofBool_getLsbD]
  simp (disch := rfl) only [fld_append_fld]
  exact fld_whole w

theorem pack_frameFields (w : W128) : FrameRules.pack (fld w 120 8) (frameFields w) = w := by
  simp only [FrameRules.pack, frameFields, ofBool_getLsbD]
  simp (disch := rfl) only [fld_append_fld]
  exact fld_whole w

section
variable {w : W32} {op : Nat}

theorem wordI_fields (ho : (fld w 26 6).toNat = op) : wordI op (fld w 21 5) (fld w 16 5) (fld w 0 16) = w := by
  rw [wordI, ofNat_of_toNat ho]
  simp (disch := rfl) only [fld_append_fld]
  exact fld_whole w

theorem jal_fields (ho : (fld w 26 6).toNat = 0x1E) : 0x1E#6 ++ fld w 0 26 = w := by
  rw [show 0x1E#6 = fld w 26 6 from ofNat_of_toNat ho]
  simp (disch := rfl) only [fld_append_fld]
  exact fld_whole w

theorem exists_wordA (ho : (fld w 26 6).toNat = 0) : ∃ fn < 2 ^ 11, ∃ d a b, w = wordA fn d a b := by
  refine ⟨(fld w 0 11).toNat, (fld w 0 11).isLt, fld w 21 5, fld w 16 5, fld w 11 5, ?_⟩
  rw [wordA, ofNat_of_toNat rfl, show 0#6 = fld w 26 6 from ofNat_of_toNat ho]
  simp (disch := rfl) only [fld_append_fld]
  exact (fld_whole w).symm

theorem exists_wordC (ho : (fld w 26 6).toNat = 0x20) : ∃ fn < 2 ^ 4, ∃ c g port sel, w = wordC fn c g port sel := by
  refine ⟨(fld w 22 4).toNat, (fld w 22 4).isLt, fld w 19 3, fld w 14 5, fld w 10 4, fld w 0 10, ?_⟩
  rw [wordC, ofNat_of_toNat rfl, show 0x20#6 = fld w 26 6 from ofNat_of_toNat ho]
  simp (disch := rfl) only [fld_append_fld]
  exact (fld_whole w).symm

theorem exists_wordW (ho : (fld w 26 6).toNat = op) : ∃ fn < 2 ^ 4, ∃ x cond g imm, w = wordW op fn x cond g imm := by
  refine ⟨(fld w 22 4).toNat, (fld w 22 4).isLt, fld w 18 4, fld w 15 3, fld w 10 5, fld w 0 10, ?_⟩
  rw [wordW, ofNat_of_toNat rfl, ofNat_of_toNat ho]
  simp (disch := rfl) only [fld_append_fld]
  exact (fld_whole w).symm

end

/-- A field whose high part is zero, from its low part. -/
theorem zero_append_fld {m n k : Nat} {x : BitVec m} (h : fld x n k = 0#k) (hm : k + n = m) : (0#k) ++ fld x 0 n = x.cast hm.symm := by
  subst hm
  rw [← h, fld_append_fld x (Nat.zero_add n).symm]
  exact fld_whole x

/-- A Lectern word is that of a well-formed instruction. -/
def Instr.HasWord (i : Instr) (w : W32) : Prop := i.wf = true ∧ encodeLectern i = some w

theorem need_ok {ok : Bool} {i j : Instr} (h : (if ok then Except.ok i else .error DecodeError.undefinedField) = .ok j) : ok = true ∧ i = j := by
  cases ok with
  | true => exact ⟨rfl, Except.ok.inj h⟩
  | false => cases h

section
variable {w : W32} {i : Instr}

theorem hasWord_of_integer (ho : (fld w 26 6).toNat = 0) (h : decodeLectern w = .ok i) : i.HasWord w := by
  obtain ⟨fn, hfn, d, a, b, rfl⟩ := exists_wordA ho
  simp only [decodeLectern, fld_wordA, BitVec.toNat_ofNat, Nat.mod_eq_of_lt hfn, Nat.zero_mod] at h
  split at h <;> cases h <;> exact ⟨rfl, rfl⟩

theorem hasWord_of_command (ho : (fld w 26 6).toNat = 0x20) (h : decodeLectern w = .ok i) : i.HasWord w := by
  obtain ⟨fn, hfn, c, g, port, sel, rfl⟩ := exists_wordC ho
  simp only [decodeLectern, fld_wordC, BitVec.toNat_ofNat, Nat.mod_eq_of_lt hfn] at h
  split at h
  case h_6 => cases h
  all_goals
    obtain ⟨hz, rfl⟩ := need_ok h
    simp only [Bool.and_eq_true, beq_iff_eq] at hz
  case h_1 =>
    subst hz
    exact ⟨rfl, rfl⟩
  case h_2 =>
    obtain ⟨⟨rfl, hsel⟩, hpart⟩ := hz
    exact ⟨hpart, congrArg (some <| wordC 1 c g 0 ·) (zero_append_fld hsel rfl)⟩
  case h_3 =>
    obtain ⟨⟨rfl, hsel⟩, hpart⟩ := hz
    exact ⟨hpart, congrArg (some <| wordC 2 c g 0 ·) (zero_append_fld hsel rfl)⟩
  case h_4 =>
    obtain ⟨rfl, rfl⟩ := hz
    exact ⟨rfl, rfl⟩
  case h_5 =>
    obtain ⟨rfl, hsel⟩ := hz
    refine ⟨rfl, congrArg (some <| wordC 4 0 g port ·) ?_⟩
    rw [ofBool_getLsbD]
    exact zero_append_fld hsel rfl

theorem hasWord_of_counter (ho : (fld w 26 6).toNat = 0x21) (h : decodeLectern w = .ok i) : i.HasWord w := by
  obtain ⟨fn, hfn, x, cond, g, imm, rfl⟩ := exists_wordW ho
  simp only [decodeLectern, fld_wordW, BitVec.toNat_ofNat, Nat.mod_eq_of_lt hfn] at h
  split at h
  case h_5 => cases h
  all_goals obtain ⟨hz, rfl⟩ := need_ok h
  case h_4 => exact ⟨hz, rfl⟩
  all_goals
    simp only [Bool.and_eq_true, beq_iff_eq] at hz
    simp only [hz]
    exact ⟨rfl, rfl⟩

theorem hasWord_of_block (ho : (fld w 26 6).toNat = 0x22) (h : decodeLectern w = .ok i) : i.HasWord w := by
  obtain ⟨fn, hfn, x, cond, g, imm, rfl⟩ := exists_wordW ho
  simp only [decodeLectern, fld_wordW, BitVec.toNat_ofNat, Nat.mod_eq_of_lt hfn] at h
  split at h
  case h_8 => cases h
  all_goals
    obtain ⟨hz, rfl⟩ := need_ok h
    simp only [Bool.and_eq_true, beq_iff_eq] at hz
  case h_7 =>
    obtain ⟨⟨⟨rfl, rfl⟩, rfl⟩, hscope⟩ := hz
    exact ⟨hscope, rfl⟩
  all_goals
    simp only [hz]
    exact ⟨rfl, rfl⟩

theorem hasWord_of_status (ho : (fld w 26 6).toNat = 0x23) (h : decodeLectern w = .ok i) : i.HasWord w := by
  obtain ⟨fn, hfn, x, cond, g, imm, rfl⟩ := exists_wordW ho
  simp only [decodeLectern, fld_wordW, BitVec.toNat_ofNat, Nat.mod_eq_of_lt hfn] at h
  split at h
  case h_9 => cases h
  all_goals
    obtain ⟨hz, rfl⟩ := need_ok h
    simp only [Bool.and_eq_true, beq_iff_eq] at hz
  case h_1 =>
    obtain ⟨⟨rfl, rfl⟩, hreg⟩ := hz
    exact ⟨hreg, rfl⟩
  case h_2 =>
    obtain ⟨⟨rfl, hreg⟩, himm⟩ := hz
    exact ⟨Bool.and_eq_true_iff.2 ⟨hreg, by simpa only [beq_iff_eq] using himm⟩, rfl⟩
  all_goals
    simp only [hz]
    exact ⟨rfl, rfl⟩

theorem hasWord_of_service (ho : (fld w 26 6).toNat = 0x3F) (h : decodeLectern w = .ok i) : i.HasWord w := by
  obtain ⟨fn, hfn, x, cond, g, imm, rfl⟩ := exists_wordW ho
  simp only [decodeLectern, fld_wordW, BitVec.toNat_ofNat, Nat.mod_eq_of_lt hfn] at h
  split at h
  case h_5 => cases h
  all_goals
    obtain ⟨hz, rfl⟩ := need_ok h
    simp only [Bool.and_eq_true, beq_iff_eq] at hz
  case h_1 =>
    obtain ⟨⟨rfl, rfl⟩, hx⟩ := hz
    exact ⟨hx, rfl⟩
  all_goals
    simp only [hz]
    exact ⟨rfl, rfl⟩

/-- A Lectern word that decodes is the word of what it decodes to, which is well formed. -/
theorem hasWord_of_decodeLectern (h : decodeLectern w = .ok i) : i.HasWord w := by
  have hd := h
  unfold decodeLectern at hd
  extract_lets d a b imm need at hd
  split at hd <;> rename_i ho
  case h_1 => exact hasWord_of_integer ho h
  case h_6 | h_7 | h_8 =>
    obtain ⟨hz, rfl⟩ := need_ok hd
    have hcount : 0#10 ++ fld w 0 6 = imm := by
      rw [← eq_of_beq hz]
      exact fld_append_fld w rfl
    exact ⟨rfl, .trans (congrArg (some <| wordI _ d a ·) hcount) (congrArg some (wordI_fields ho))⟩
  case h_10 | h_11 =>
    obtain ⟨hz, rfl⟩ := need_ok hd
    exact ⟨rfl, .trans (congrArg (some <| wordI _ d · imm) (eq_of_beq hz).symm) (congrArg some (wordI_fields ho))⟩
  case h_26 =>
    cases hd
    exact ⟨rfl, congrArg some (jal_fields ho)⟩
  case h_28 => exact hasWord_of_command ho h
  case h_29 => exact hasWord_of_counter ho h
  case h_30 => exact hasWord_of_block ho h
  case h_31 => exact hasWord_of_status ho h
  case h_32 => exact hasWord_of_service ho h
  case h_33 => cases hd
  all_goals
    cases hd
    exact ⟨rfl, congrArg some (wordI_fields ho)⟩

end

theorem slotOf_of_decodeSlot {w : W64} {i : Instr} (h : decodeSlot w = .ok i) : slotOf (fld w 55 9) (slotFields w) = some i := by
  unfold decodeSlot at h
  split_ifs at h
  split at h
  next hi => cases h; exact hi
  next => cases h

theorem frameOf_of_decodeFrame {w : W128} {i : Instr} (h : decodeFrame w = .ok i) : frameOf (fld w 120 8) (frameFields w) = some i := by
  unfold decodeFrame at h
  split at h
  next hi => cases h; exact hi
  next => cases h

/-- Settles O55: a word is made of its fields, and an arm of the decoder that answers an instruction has found the opcode of that instruction in
its place, its operands in theirs, and zero in every other field. -/
theorem decodedWordsEncodeBack : Obligations.DecodedWordsEncodeBack := by
  unfold Obligations.DecodedWordsEncodeBack
  refine ⟨fun w i h => hasWord_of_decodeLectern h, fun w i h => ⟨?_, encodeSlot_slotFields w⟩, fun w i h => ⟨?_, pack_frameFields w⟩⟩
  · exact slotOp?_of_slotOf (slotOf_of_decodeSlot h)
  · exact frameCode?_of_frameOf (frameOf_of_decodeFrame h)

/-- Settles O53: ten words, each decoded. -/
theorem wordsDecodeAsWritten : Obligations.WordsDecodeAsWritten := by
  unfold Obligations.WordsDecodeAsWritten
  decide

end Sys2Proof

/-! ## The step of the agent that moves (03 R94; 06 R166; 09 R229) -/

namespace Sys2Proof

theorem Tab.get_mapVal {α β : Type} (t : Tab α) (f : Nat → α → β) (n : Nat) : Tab.get (Tab.mapVal t f) n = (Tab.get t n).map (f n) := by
  induction t with
  | nil => rfl
  | cons p r ih =>
    obtain ⟨k, v⟩ := p
    change Tab.get ((k, f k v) :: Tab.mapVal r f) n = _
    by_cases hk : k = n
    · subst hk
      simp [Tab.get]
    · simp [Tab.get, hk, ih]

/-- A change of every entry that makes nothing of an absent one is seen at each number. -/
theorem Tab.getD_mapVal {α β : Type} [Inhabited α] [Inhabited β] (t : Tab α) {f : Nat → α → β} (n : Nat) (h : f n default = default) :
    Tab.getD (Tab.mapVal t f) n = f n (Tab.getD t n) := by
  rw [Tab.getD, Tab.get_mapVal, Tab.getD]
  cases Tab.get t n with
  | none => exact h.symm
  | some v => rfl

end Sys2Proof

namespace Sys2Proof.Machine

/-! ### What the noting of ready slots leaves (01 R27; log 80) -/

/-- A cell with its ready slots noted. -/
def State.noteCell (s : State) (g : Nat) (c : Nat) (cell : Cell) : Cell :=
  { cell with ready := s.readyIn (BitVec.ofNat 5 g) (BitVec.ofNat 8 c) cell }

/-- A region with the ready slots of its cells noted. -/
def State.noteRegion (s : State) (g : Nat) (r : Region) : Region :=
  { r with core := { r.core with cells := Tab.mapVal r.core.cells (s.noteCell g) } }

section
variable (s : State) (g : RegionNo)

theorem State.reg_noteReady : s.noteReady.reg g = s.noteRegion g.toNat (s.reg g) :=
  Tab.getD_mapVal s.regions (f := s.noteRegion) g.toNat rfl

theorem State.thread_noteReady (x : CtxNo) : s.noteReady.thread g x = s.thread g x := by
  simp only [State.thread, State.core, State.reg_noteReady]
  rfl

theorem State.micro_noteReady : (s.noteReady.reg g).micro = (s.reg g).micro := by
  rw [State.reg_noteReady]
  rfl

theorem State.cmd_noteReady (id : Nat) : s.noteReady.cmd g id = s.cmd g id := by
  simp only [State.cmd, State.reg_noteReady]
  rfl

theorem State.slotAt_noteReady (l : SlotLoc) : s.noteReady.slotAt l = s.slotAt l := by
  have hc : s.noteReady.cell l.g l.cell = s.noteCell l.g.toNat l.cell.toNat (s.cell l.g l.cell) := by
    simp only [State.cell, State.core, State.reg_noteReady]
    exact Tab.getD_mapVal _ (f := s.noteCell l.g.toNat) l.cell.toNat rfl
  simp only [State.slotAt, hc]
  rfl

end

/-! ### The step of the agent at the head of the agenda (09 R229) -/

/-- The state in which the head of the agenda acts. -/
def State.taken (s : State) (a : Agent) (rest : List Agent) : State :=
  { s.noteReady with cur := a, agenda := rest, tick := s.tick + 1 }

section
variable {s : State} {a : Agent} {rest : List Agent}

theorem State.schedule_of_agenda (h : s.agenda = a :: rest) : s.schedule = s.taken a rest := by
  have hn : s.noteReady.agenda = a :: rest := h
  simp only [State.schedule, hn]
  rfl

theorem step_of_fetch (h : s.agenda = a :: rest) (hs : s.arm.stopped = false) {i : Instr} (hi : (s.taken a rest).fetch = some i) :
    step s = exec i (s.taken a rest) := by
  simp [step, State.schedule_of_agenda h, hi, hs]

theorem step_of_no_fetch (h : s.agenda = a :: rest) (hs : s.arm.stopped = false) (hi : (s.taken a rest).fetch = none) :
    step s = .next (s.taken a rest).pass := by
  simp [step, State.schedule_of_agenda h, hi, hs]

end

/-! ### The word at a PC (06 R166, 03 R94) -/

section
variable {t : Thread} {w : W32} (hpc : t.pc.toNat < 4 * t.prog.length) (hw : t.prog[t.pc.toNat / 4]? = some w)
include hpc hw

theorem fetchWord_defined {i : Instr} (hi : decodeLectern w = .ok i) : fetchWord t = i := by
  rw [fetchWord, if_neg (Nat.not_le.2 hpc), List.getD_eq_getElem?_getD, hw]
  simp only [Option.getD_some, hi]

theorem fetchWord_undefined {e : DecodeError} (he : decodeLectern w = .error e) : fetchWord t = .undefinedWord w := by
  rw [fetchWord, if_neg (Nat.not_le.2 hpc), List.getD_eq_getElem?_getD, hw]
  simp only [Option.getD_some, he]

end

theorem fetchWord_beyond {t : Thread} (hpc : 4 * t.prog.length ≤ t.pc.toNat) : fetchWord t = .fetchBeyondSection := if_pos hpc

/-! ### What the agent taken fetches -/

section
variable (s : State) (rest : List Agent)

theorem State.fetch_lectern (g : RegionNo) (x : CtxNo) : (s.taken (.lectern g x) rest).fetch = some (fetchWord (s.thread g x)) := by
  rw [← s.thread_noteReady]
  rfl

theorem State.fetch_micro (g : RegionNo) : (s.taken (.micro g) rest).fetch = some (fetchWord (s.reg g).micro.th) := by
  rw [← s.micro_noteReady]
  rfl

theorem State.fetch_slot (l : SlotLoc) : (s.taken (.slot l) rest).fetch = (decodeSlot (s.slotAt l).word).toOption := by
  rw [← s.slotAt_noteReady]
  rfl

theorem State.fetch_command (g : RegionNo) (id : Nat) : (s.taken (.command g id) rest).fetch = (decodeFrame (s.cmd g id).w).toOption := by
  rw [← s.cmd_noteReady]
  rfl

theorem State.fetch_hostCmd {k : Nat} {h : HCmd} (hk : Tab.get s.hcmds k = some h) :
    (s.taken (.hostCmd k) rest).fetch = hostOf h.opc h.e := by
  have hn : Tab.get (s.taken (.hostCmd k) rest).hcmds k = some h := hk
  have hc : (s.taken (.hostCmd k) rest).cur = .hostCmd k := rfl
  simp only [State.fetch, hc, hn]

end

/-- Settles O56: the noting of ready slots leaves what each kind of agent fetches as it was, so the head of the agenda executes it. -/
theorem stepRunsTheDecodedInstruction : Obligations.StepRunsTheDecodedInstruction := by
  unfold Obligations.StepRunsTheDecodedInstruction
  intro s a rest ha hs
  have runs {i : Instr} (hi : (s.taken a rest).fetch = some i) : step s = exec i (s.taken a rest) := step_of_fetch ha hs hi
  have passes (hi : (s.taken a rest).fetch = none) : step s = .next (s.taken a rest).pass := step_of_no_fetch ha hs hi
  refine ⟨?word, ?beyond, ?micro, ?slot, ?empty, ?command, ?host, ?undefined, ?rom, ?event, ?time⟩
  case word =>
    rintro g x w i rfl hpc hw
    exact ⟨fun hi => runs (by rw [State.fetch_lectern, fetchWord_defined hpc hw hi]),
      fun e he => runs (by rw [State.fetch_lectern, fetchWord_undefined hpc hw he])⟩
  case beyond =>
    rintro g x rfl hpc
    exact runs (by rw [State.fetch_lectern, fetchWord_beyond hpc])
  case micro =>
    rintro g w i rfl hpc hw hi
    exact runs (by rw [State.fetch_micro, fetchWord_defined hpc hw hi])
  case slot =>
    rintro l i rfl hi
    exact runs (by rw [State.fetch_slot, hi]; rfl)
  case empty =>
    rintro l rfl hw
    exact passes (by rw [State.fetch_slot, hw]; rfl)
  case command =>
    rintro g id i rfl hi
    exact runs (by rw [State.fetch_command, hi]; rfl)
  case host =>
    rintro k h i rfl hk hi
    exact runs ((s.fetch_hostCmd rest hk).trans hi)
  case undefined =>
    rintro k h rfl hk hi
    exact passes ((s.fetch_hostCmd rest hk).trans hi)
  case rom =>
    rintro rfl
    exact passes rfl
  case event =>
    rintro i rfl
    exact runs rfl
  case time =>
    rintro us rfl
    exact passes rfl

end Sys2Proof.Machine


/-! ## A firing that a token ends (03 R83; 04 R107, R108; 05 R141) -/

namespace Sys2Proof.Machine

/-! ### The queue of reports while tokens are pulled (06 R192) -/

section
variable (s : State) (g h : RegionNo)

@[simp] theorem State.micro_updCore (f : Core → Core) : ((s.updCore g f).reg h).micro = (s.reg h).micro := by
  by_cases e : h = g
  · subst e
    simp
  · simp [e]

@[simp] theorem State.micro_stamp : ((s.stamp g).reg h).micro = (s.reg h).micro := by
  by_cases e : h = g
  · subst e
    simp [State.stamp]
  · simp [State.stamp, e]

@[simp] theorem State.micro_pull (x : CtxNo) (p : Src) : ((s.pull g x p).reg h).micro = (s.reg h).micro := by
  cases p <;> simp [State.pull, State.updSlot, State.updCell, State.updChan]

@[simp] theorem State.micro_pullAll (l : SlotLoc) (ps : List (BitVec 2)) : ((s.pullAll l ps).reg h).micro = (s.reg h).micro := by
  have hi : ((s.issued l).reg h).micro = (s.reg h).micro := State.micro_updCore ..
  rw [State.pullAll, ← hi]
  generalize s.issued l = s
  induction ps generalizing s with
  | nil => rfl
  | cons p r ih =>
    rw [List.foldl_cons, ih]
    split
    · exact State.micro_pull ..
    · rfl

end

/-! ### The fault -/

section
variable (s : State) (l : SlotLoc) (ps : List (BitVec 2)) (cause : Byte) (addr : Nat) (wr : Bool)

theorem State.slotAt_report (g : RegionNo) (r : Report) : (s.report g r).slotAt l = s.slotAt l := by
  have hc : (s.report g r).core l.g = s.core l.g := by
    by_cases e : l.g = g
    · subst e
      simp [State.report, State.core]
    · simp [State.report, State.core, e]
  simp only [State.slotAt, State.cell, hc]

theorem State.fireFault_blocked : ((s.fireFault l ps cause addr wr).slotAt l).blocked = true := by
  rw [State.fireFault, State.cellFault, State.slotAt_report, State.slotAt_updSlot_self]

theorem State.fireFault_reports : ∃ r, ((s.fireFault l ps cause addr wr).reg l.g).micro.queue = (s.reg l.g).micro.queue ++ [r]
    ∧ r.cause = cause ∧ r.fatal = true ∧ r.rep = cellIdent l.g l.cell := by
  rw [State.fireFault, State.cellFault, State.report, State.reg_setReg_self, State.updSlot, State.updCell, State.micro_updCore,
    State.micro_pullAll]
  exact ⟨_, rfl, rfl, rfl, rfl⟩

end

/-- A token that a firing does not take, or one of FORM 3 beside a vector, ends it (03 R83, 04 R107, R108). -/
theorem State.fire_unaccepted {s : State} {l : SlotLoc} {op : BitVec 9} {w : SlotWord} {forms : List TokForm} {vector : Bool}
    {effect : FireIn → State → Option (FireOut × State)} {os : List Opnd} (hl : s.cur = .slot l) (hfree : s.slotFree l w = true)
    (hmay : s.mayFire l (SlotRules.positions op w) = true) (hos : s.sources l w.ty.toNat w (Claims.codesOf op w) = some os)
    (h : os.all (accepts w.ty.toNat forms) = false
      ∨ (os.any Claims.isSparse = true ∧ (vector = true ∨ w.ty = 14 ∨ os.any Opnd.vec = true))) :
    s.fire op w forms vector effect = .next (s.fireFault l (SlotRules.positions op w) Cause.illegal 0 false) := by
  refine State.fire_faults hl hfree hmay hos (h.imp_right fun ⟨hsparse, hvec⟩ => ⟨hsparse, ?_⟩)
  rcases hvec with rfl | hty | hany
  · rfl
  · simp [vecFiring, hty]
  · simp only [vecFiring, Bool.or_eq_true]
    exact .inr hany

/-- Settles O22: each of the instructions is one firing, whose fault blocks its slot, reports, and changes neither memory nor the banks. -/
theorem unacceptedTokensEndTheFiring : Obligations.UnacceptedTokensEndTheFiring := by
  unfold Obligations.UnacceptedTokensEndTheFiring
  intro s l w os
  have ends (ps : List (BitVec 2)) : let s' := s.fireFault l ps Cause.illegal 0 false
      (s'.slotAt l).blocked = true ∧ s'.mem = s.mem ∧ s'.banks = s.banks
        ∧ ∃ r, (s'.reg l.g).micro.queue = (s.reg l.g).micro.queue ++ [r] ∧ r.cause = Cause.illegal ∧ r.fatal = true
            ∧ r.rep = cellIdent l.g l.cell :=
    have ht := State.Tokens.fireFault s l ps Cause.illegal 0 false
    ⟨State.fireFault_blocked .., ht.mem, ht.banks, State.fireFault_reports ..⟩
  refine ⟨?iadd, ?imul, ?ffma, ?cvt, ?shuf, ?pack, ?vsum⟩
  all_goals intro hl hfree hmay hos h
  case iadd => exact ⟨_, (exec_iadd s w).trans (State.fire_unaccepted hl hfree hmay hos h), rfl, ends _⟩
  case imul => exact ⟨_, (exec_imul s w).trans (State.fire_unaccepted hl hfree hmay hos h), rfl, ends _⟩
  case ffma => exact ⟨_, (exec_ffma s w).trans (State.fire_unaccepted hl hfree hmay hos h), rfl, ends _⟩
  case cvt => exact ⟨_, (exec_cvt s w).trans (State.fire_unaccepted hl hfree hmay hos h), rfl, ends _⟩
  case shuf => exact ⟨_, (exec_shuf s w).trans (State.fire_unaccepted hl hfree hmay hos h), rfl, ends _⟩
  case pack => exact ⟨_, (exec_pack s w).trans (State.fire_unaccepted hl hfree hmay hos h), rfl, ends _⟩
  case vsum => exact ⟨_, (exec_vsum s w).trans (State.fire_unaccepted hl hfree hmay hos h), rfl, ends _⟩

end Sys2Proof.Machine

/-! ## Commands start and respond (03 R88, R89; 06 R175, R178; 09 R234; 19 R371) -/

namespace Sys2Proof

/-- The entries whose keys pass a test. -/
theorem Tab.get_filter_key {α : Type} (t : Tab α) (f : Nat → Bool) (n : Nat) :
    Tab.get (List.filter (fun e => f e.1) t) n = if f n then Tab.get t n else none := by
  induction t with
  | nil => simp
  | cons p r ih =>
    obtain ⟨k, v⟩ := p
    by_cases hk : k = n
    · subst hk
      cases hf : f k with
      | true => simp [hf, Tab.get]
      | false => simpa [hf] using ih
    · cases hf : f k with
      | true => simpa [hf, Tab.get, hk] using ih
      | false => simpa [hf, Tab.get, hk] using ih

theorem Tab.has_filter_key {α : Type} (t : Tab α) {f : Nat → Bool} {n : Nat} (h : f n = false) :
    Tab.has (List.filter (fun e => f e.1) t) n = false := by
  simp [Tab.has, Tab.get_filter_key, h]

theorem Tab.has_erase {α : Type} (t : Tab α) (n : Nat) : Tab.has (Tab.erase t n) n = false :=
  Tab.has_filter_key t (f := (· != n)) (by simp)

end Sys2Proof

namespace Sys2Proof.Machine

/-! ### Start (03 R88, 06 R175) -/

/-- The command at the head of a port's issue queue moved behind those that have started. -/
def State.takeCmd (s : State) (g : RegionNo) (x : CtxNo) (port : BitVec 4) (id : Nat) (rest : List Nat) : State :=
  s.updThread g x (fun t => t.updPort port (fun p => { p with iq := rest, order := p.order ++ [id] }))

/-- A store of the thread issued before the command has not performed. -/
def State.storesBefore (s : State) (g : RegionNo) (x : CtxNo) (c : Cmd) : Bool :=
  (s.core g).accs.any (fun a => a.port == .thread x && a.wr && !a.done && a.id < c.after)

section
variable {s : State} {g : RegionNo} {x : CtxNo} {port : BitVec 4} {id : Nat} {rest : List Nat}
  (hiq : ((s.thread g x).port port).iq = id :: rest) (hr : (s.reg g).runs = true) (hd : (s.cmd g id).done = false)
include hiq

theorem execCommandStart_no_place (h : 8 ≤ ((s.thread g x).port port).order.length + ((s.thread g x).port port).rq.length) :
    execCommandStart g x port s = .next s := by
  simp [execCommandStart, hiq, Nat.not_lt.2 h]

include hr hd

theorem execCommandStart_held (hp : ((s.thread g x).port port).order.length + ((s.thread g x).port port).rq.length < 8)
    (h : s.storesBefore g x (s.cmd g id) = true ∨ ((s.cmd g id).ord = true ∧ ((s.thread g x).port port).order ≠ [])) :
    execCommandStart g x port s = .next s := by
  have hw : (s.storesBefore g x (s.cmd g id) || ((s.cmd g id).ord && !((s.thread g x).port port).order.isEmpty)) = true := by
    simpa using h
  simp only [State.storesBefore] at hw
  simp only [execCommandStart, hiq, hr, hd, hp, hw]
  rfl

theorem execCommandStart_starts (hp : ((s.thread g x).port port).order.length + ((s.thread g x).port port).rq.length < 8)
    (hst : s.storesBefore g x (s.cmd g id) = false) (hord : (s.cmd g id).ord = true → ((s.thread g x).port port).order = [])
    (hu : (s.reg g).unitFree (s.cmd g id) = true) :
    execCommandStart g x port s = .next (((s.takeCmd g x port id rest).updCmd g id (fun c =>
      { c with started := true, wait := none })).carryOut g id (s.cmd g id).code) := by
  have hw : (s.storesBefore g x (s.cmd g id) || ((s.cmd g id).ord && !((s.thread g x).port port).order.isEmpty)) = false := by
    simpa [hst] using hord
  simp only [State.storesBefore] at hw
  simp only [execCommandStart, hiq, hr, hd, hp, hw, hu]
  rfl

end

/-- A command of the counting unit is the next to act (10 R248). -/
theorem State.carryOut_counting (s : State) (g : RegionNo) (id : Nat) {code : Nat} (h : 0x30 ≤ code) (h' : code ≤ 0x33) :
    s.carryOut g id code = { s with agenda := .command g id :: s.agenda } := by
  simp [State.carryOut, h, h']

theorem State.carryOut_other (s : State) (g : RegionNo) (id : Nat) {code : Nat} (h : ¬ (0x30 ≤ code ∧ code ≤ 0x33)) :
    s.carryOut g id code = s := by
  simp [State.carryOut, h]

theorem commandsStartInOrder : Claims.CommandsStartInOrder := by
  unfold Claims.CommandsStartInOrder
  intro s g x port id rest p c stores hiq hr hd
  refine ⟨fun hp hst hord hu => ?_, fun hp => execCommandStart_no_place hiq hp, fun hp h => execCommandStart_held hiq hr hd hp h⟩
  have hstart := execCommandStart_starts hiq hr hd hp hst hord hu
  refine ⟨fun hc => ?_, fun hlo hhi => ?_⟩
  · rw [State.carryOut_other _ _ _ hc] at hstart
    exact hstart
  · rw [State.carryOut_counting _ _ _ hlo hhi] at hstart
    exact hstart
/-! ### Completion (03 R89, 09 R234, 06 R178; 19 R371) -/

@[simp] theorem Thread.port_updPort (t : Thread) (p : BitVec 4) (f : Port → Port) : (t.updPort p f).port p = f (t.port p) := by
  simp [Thread.port, Thread.updPort]

theorem State.thread_updCore {s : State} {g : RegionNo} (x : CtxNo) {f : Core → Core} (h : (f (s.core g)).threads = (s.core g).threads) :
    (s.updCore g f).thread g x = s.thread g x := by
  simp only [State.thread, State.core_updCore_self, h]

@[simp] theorem Thread.putCounter_ports (t : Thread) (k : BitVec 4) (v : W32) : (t.putCounter k v).ports = t.ports := by
  unfold Thread.putCounter
  dsimp only
  split
  · split <;> rfl
  · rfl

@[simp] theorem Thread.putCounter_ending (t : Thread) (k : BitVec 4) (v : W32) : (t.putCounter k v).ending = t.ending := by
  unfold Thread.putCounter
  dsimp only
  split
  · split <;> rfl
  · rfl

@[simp] theorem Thread.putCounter_k (t : Thread) (k : BitVec 4) (v : W32) : (t.putCounter k v).k = Tab.set t.k k.toNat v := by
  unfold Thread.putCounter
  dsimp only
  split
  · split <;> rfl
  · rfl

@[simp] theorem Thread.putCounter_counter (t : Thread) (k : BitVec 4) (v : W32) : (t.putCounter k v).counter k = v := by
  simp [Thread.counter]

theorem State.updCmd_of_get {s : State} {g : RegionNo} {id : Nat} {c : Cmd} (h : Tab.get (s.core g).cmds id = some c) (f : Cmd → Cmd) :
    s.updCmd g id f = s.updCore g (fun k => { k with cmds := Tab.upd k.cmds id f }) := by
  have hh : Tab.has (s.reg g).core.cmds id = true := by
    rw [Tab.has, show Tab.get (s.reg g).core.cmds id = some c from h]
    rfl
  rw [State.updCmd, if_pos hh]

/-- A command whose response is ready to be taken in its turn. -/
def State.markPosted (s : State) (g : RegionNo) (id : Nat) : State := s.updCmd g id (fun c => { c with posted := true })

/-- The increment that KEN asks for (06 R178). -/
def State.ken (s : State) (g : RegionNo) (x : CtxNo) (c : Cmd) : State :=
  if c.started && c.w.getLsbD 118 then s.bump g x (fld c.w 114 4) else s

/-- The response of a command, once it is ready (03 R89). -/
def responseIn (cmds : Tab Cmd) (id : Nat) : Option W64 :=
  if (Tab.getD cmds id).posted then some (respElem (Tab.getD cmds id).w (Tab.getD cmds id).cause (Tab.getD cmds id).value) else none

/-- A thread whose port has taken its responses, n at most; those of a thread that is ending are discarded (06 R190). -/
def Thread.takeResponses (t : Thread) (port : BitVec 4) (rs : Nat → Option W64) (n : Nat) (woken : Bool) : Thread :=
  let t := { t.updPort port (Port.post rs n) with woken := t.woken || woken }
  if t.ending.isSome then t.discard else t

/-- The machine after the oldest commands of a port have given their responses and are forgotten. -/
def State.answered (s : State) (g : RegionNo) (x : CtxNo) (port : BitVec 4) (order : List Nat) : State :=
  let rs := responseIn (s.core g).cmds
  let gone := order.takeWhile (fun i => (rs i).isSome)
  (s.updThread g x (fun t => t.takeResponses port rs order.length (!gone.isEmpty))).updCore g (fun k =>
    { k with cmds := k.cmds.filter (fun e => !gone.contains e.1) })

section
variable {s : State} {g : RegionNo} {x : CtxNo} {port : BitVec 4} {id : Nat} {c : Cmd}
  (hord : ((s.thread g x).port port).order = [id]) (hc : Tab.get (s.core g).cmds id = some c) (hd : c.done = true) (hp : c.posted = false)
include hord hc hd hp

theorem find_completed : ((s.thread g x).port port).order.find? (fun i => (Tab.getD (s.core g).cmds i).done
    && !(Tab.getD (s.core g).cmds i).posted) = some id := by
  simp [hord, Tab.getD, hc, hd, hp]

theorem execCommandComplete_stale (hgen : c.gen ≠ s.genOf c.ctxid) :
    execCommandComplete g x port s = .next ((s.dropStale.updCore g (fun k => { k with cmds := Tab.erase k.cmds id })).updThread g x (fun t =>
        t.updPort port (fun p => { p with order := p.order.filter (· != id) }))) := by
  have hget : Tab.getD (s.core g).cmds id = c := by simp [Tab.getD, hc]
  simp only [execCommandComplete, find_completed hord hc hd hp, hget, bne_iff_ne.2 hgen, if_true]

theorem execCommandComplete_posts (hgen : c.gen = s.genOf c.ctxid) :
    execCommandComplete g x port s = .next (((s.markPosted g id).ken g x c).answered g x port [id]) := by
  have hget : Tab.getD (s.core g).cmds id = c := by simp [Tab.getD, hc]
  have hg : (c.gen != s.genOf c.ctxid) = false := by simp [hgen]
  simp only [execCommandComplete, find_completed hord hc hd hp, hget, hg, hord]
  rfl

end

section
variable (s : State) (g : RegionNo) (x : CtxNo) (c : Cmd)

@[simp] theorem State.cmds_ken : ((s.ken g x c).core g).cmds = (s.core g).cmds := by
  unfold State.ken
  split
  · simp [State.bump, State.core_updThread]
  · rfl

@[simp] theorem State.ports_ken : ((s.ken g x c).thread g x).ports = (s.thread g x).ports := by
  unfold State.ken
  split
  · simp [State.bump]
  · rfl

@[simp] theorem State.ending_ken : ((s.ken g x c).thread g x).ending = (s.thread g x).ending := by
  unfold State.ken
  split
  · simp [State.bump]
  · rfl

theorem State.counter_ken (hs : c.started = true) (hk : c.w.getLsbD 118 = true) :
    ((s.ken g x c).thread g x).counter (fld c.w 114 4) = (s.thread g x).counter (fld c.w 114 4) + 1 := by
  simp only [State.ken, hs, hk, Bool.and_self, if_true, State.bump, State.thread_updThread_self, Thread.putCounter_counter]

theorem State.k_ken (hk : c.w.getLsbD 118 = false) : ((s.ken g x c).thread g x).k = (s.thread g x).k := by
  simp only [State.ken, hk, Bool.and_false, Bool.false_eq_true, if_false]

end

theorem Port.post_one {rs : Nat → Option W64} {p : Port} {id : Nat} {e : W64} (hord : p.order = [id]) (hrs : rs id = some e) :
    Port.post rs 1 p = { p with order := [], rq := p.rq ++ [e] } := by
  simp [Port.post, hord, hrs]

theorem Thread.port_takeResponses {t : Thread} (port : BitVec 4) (rs : Nat → Option W64) (n : Nat) (woken : Bool) (hend : t.ending = none) :
    (t.takeResponses port rs n woken).port port = Port.post rs n (t.port port) := by
  have h : ¬ (t.updPort port (Port.post rs n)).ending.isSome = true := by simp [Thread.updPort, hend]
  rw [Thread.takeResponses, if_neg h]
  exact Thread.port_updPort ..

theorem Thread.k_takeResponses (t : Thread) (port : BitVec 4) (rs : Nat → Option W64) (n : Nat) (woken : Bool) :
    (t.takeResponses port rs n woken).k = t.k := by
  unfold Thread.takeResponses
  dsimp only
  split <;> rfl

theorem State.k_answered (s : State) (g : RegionNo) (x : CtxNo) (port : BitVec 4) (order : List Nat) :
    ((s.answered g x port order).thread g x).k = (s.thread g x).k := by
  rw [State.answered, State.thread_updCore x rfl, State.thread_updThread_self, Thread.k_takeResponses]

section
variable {s : State} {g : RegionNo} {x : CtxNo} {port : BitVec 4} {id : Nat} {e : W64} (hrs : responseIn (s.core g).cmds id = some e)
include hrs

theorem takeWhile_answered : [id].takeWhile (fun i => (responseIn (s.core g).cmds i).isSome) = [id] := by
  simp [hrs]

/-- The port whose oldest command alone has started takes its response. -/
theorem State.port_answered (hord : ((s.thread g x).port port).order = [id]) (hend : (s.thread g x).ending = none) :
    ((s.answered g x port [id]).thread g x).port port
      = { (s.thread g x).port port with order := [], rq := ((s.thread g x).port port).rq ++ [e] } := by
  rw [State.answered, takeWhile_answered hrs, State.thread_updCore x rfl, State.thread_updThread_self,
    Thread.port_takeResponses _ _ _ _ hend]
  exact Port.post_one hord hrs

theorem State.has_answered : Tab.has ((s.answered g x port [id]).core g).cmds id = false := by
  rw [State.answered, takeWhile_answered hrs, State.core_updCore_self]
  exact Tab.has_filter_key _ (f := fun k => !List.contains [id] k) (by simp)

end

section
variable {s : State} {g : RegionNo} {x : CtxNo} {id : Nat} {c : Cmd} (hc : Tab.get (s.core g).cmds id = some c)
include hc

theorem State.thread_markPosted : (s.markPosted g id).thread g x = s.thread g x := by
  rw [State.markPosted, State.updCmd_of_get hc, State.thread_updCore x rfl]

/-- The response of the command so marked. -/
theorem responseIn_markPosted : responseIn (((s.markPosted g id).ken g x c).core g).cmds id = some (respElem c.w c.cause c.value) := by
  have hget : Tab.getD (s.core g).cmds id = c := by simp [Tab.getD, hc]
  simp [responseIn, State.markPosted, State.updCmd_of_get hc, hget]

theorem port_markPosted_ken (port : BitVec 4) :
    (((s.markPosted g id).ken g x c).thread g x).port port = (s.thread g x).port port := by
  simp only [Thread.port, State.ports_ken, State.thread_markPosted hc]

end

theorem commandsPostTheirResponse : Claims.CommandsPostTheirResponse := by
  unfold Claims.CommandsPostTheirResponse
  intro s g x port id c p hord hc hd hp hend
  refine ⟨fun hgen => ⟨_, execCommandComplete_posts hord hc hd hp hgen, ?posts⟩,
    fun hgen => ⟨_, execCommandComplete_stale hord hc hd hp hgen, ?stale⟩⟩
  case posts =>
    have hrs := responseIn_markPosted (x := x) hc
    have hport := port_markPosted_ken (x := x) hc port
    have hend' : (((s.markPosted g id).ken g x c).thread g x).ending = none := by rw [State.ending_ken, State.thread_markPosted hc, hend]
    have hanswered := State.port_answered hrs ((congrArg Port.order hport).trans hord) hend'
    rw [hport] at hanswered
    refine ⟨by rw [hanswered]; rfl, by rw [hanswered], State.has_answered hrs, fun hs hk => ?_, fun hk => ?_⟩
    · rw [Thread.counter, State.k_answered]
      exact (State.counter_ken _ _ _ _ hs hk).trans (by rw [State.thread_markPosted hc])
    · rw [State.k_answered, State.k_ken _ _ _ _ hk, State.thread_markPosted hc]
  case stale =>
    have hthread : (s.dropStale.updCore g (fun k => { k with cmds := Tab.erase k.cmds id })).thread g x = s.thread g x :=
      State.thread_updCore x rfl
    refine ⟨?_, ?_, ?_, ?_⟩
    · rw [State.thread_updThread_self, Thread.port_updPort, hthread]
    · rw [State.core_updThread, State.core_updCore_self]
      exact Tab.has_erase _ _
    · rw [State.thread_updThread_self]
      exact (congrArg Thread.k hthread :)
    · simp [State.dropStale]

/-- Settles O34: each way out of a start, and the answer of the oldest command of a port. -/
theorem commandsStartAndRespond : Obligations.CommandsStartAndRespond := by
  unfold Obligations.CommandsStartAndRespond
  exact ⟨commandsStartInOrder, commandsPostTheirResponse⟩
end Sys2Proof.Machine

/-! ## Command registers and `cissue` (03 R89, R91; 06 R174 to R176) -/

namespace Sys2Proof.Machine

/-! ### Parts of a command register (06 R174) -/

theorem getLsbD_mask {lo n i : Nat} (hi : i < 128) : (BitVec.ofNat 128 ((2 ^ n - 1) <<< lo)).getLsbD i = decide (lo ≤ i ∧ i < lo + n) := by
  rw [BitVec.getLsbD_ofNat, Nat.testBit_shiftLeft, Nat.testBit_two_pow_sub_one]
  simp only [hi, decide_true, Bool.true_and, ge_iff_le]
  rw [← Bool.decide_and]
  exact decide_eq_decide.2 (by omega)

theorem getLsbD_placed {v : W64} {lo n i : Nat} (hi : i < 128) :
    (BitVec.ofNat 128 ((v.toNat % 2 ^ n) <<< lo)).getLsbD i = (decide (lo ≤ i ∧ i < lo + n) && v.getLsbD (i - lo)) := by
  rw [BitVec.getLsbD_ofNat, Nat.testBit_shiftLeft, Nat.testBit_mod_two_pow, BitVec.testBit_toNat]
  by_cases h : lo ≤ i
  · have e : (i - lo < n) = (i < lo + n) := propext (by omega)
    simp [hi, h, e]
  · simp [h]

/-- The bits of a part are those of the value, and every other bit is as it was. -/
theorem getLsbD_setPart {w : W128} {part : BitVec 3} {v : W64} {lo n i : Nat} (hb : partBits part = (lo, n)) (hclr : part ≠ 6) (hi : i < 128) :
    (setPart w part v).getLsbD i = if lo ≤ i ∧ i < lo + n then v.getLsbD (i - lo) else w.getLsbD i := by
  simp only [setPart, hb, beq_false_of_ne hclr, Bool.false_eq_true, if_false]
  rw [BitVec.getLsbD_or, BitVec.getLsbD_and, BitVec.getLsbD_not, getLsbD_mask hi, getLsbD_placed hi]
  by_cases h : lo ≤ i ∧ i < lo + n <;> simp [h, hi]

theorem setPart_clr (w : W128) (v : W64) : setPart w 6 v = 0 := by
  simp [setPart, partBits]

/-- A part of n bits from bit lo, with m bits above it. -/
theorem setPart_eq (w : W128) {part : BitVec 3} (v : W64) {lo n m : Nat} (hb : partBits part = (lo, n)) (hclr : part ≠ 6) (hm : m + n + lo = 128) :
    setPart w part v = (fld w (lo + n) m ++ fld v 0 n ++ fld w 0 lo).cast hm := by
  apply BitVec.eq_of_getLsbD_eq
  intro i hi
  rw [getLsbD_setPart hb hclr hi]
  simp only [BitVec.getLsbD_cast, BitVec.getLsbD_append, BitVec.getLsbD_extractLsb', Nat.zero_add]
  by_cases h1 : i < lo
  · simp [h1, Nat.not_le.2 h1]
  · by_cases h2 : i < lo + n
    · have h3 : i - lo < n := by omega
      simp [h1, h2, h3, Nat.not_lt.1 h1]
    · have h3 : ¬ i - lo < n := by omega
      have h4 : i - lo - n < m := by omega
      have h5 : lo + n + (i - lo - n) = i := by omega
      simp [h1, h2, h3, h4, h5]

/-- The number in a part. -/
def getPart (w : W128) (part : BitVec 3) : W64 := BitVec.ofNat 64 ((w.toNat >>> (partBits part).1) % 2 ^ (partBits part).2)

theorem getPart_eq (w : W128) {part : BitVec 3} {lo n : Nat} (hb : partBits part = (lo, n)) : getPart w part = (fld w lo n).zeroExtend 64 := by
  apply BitVec.eq_of_toNat_eq
  rw [getPart, hb, BitVec.toNat_ofNat, BitVec.zeroExtend, BitVec.toNat_setWidth, BitVec.extractLsb'_toNat]

section
variable {s : State} {g : RegionNo} {x : CtxNo} {c : BitVec 3} {r : BitVec 5} {p : BitVec 4} {nb : Bool}

theorem execCset_ready (h : Claims.ReadyProg s g x [32 + c.toNat, r.toNat]) (part : BitVec 3) :
    execCset c r part s = .next (s.updThread g x (fun t =>
      { t.step with c := Tab.set t.c c.toNat (setPart ((s.thread g x).creg c) part ((s.thread g x).rg r)) })) :=
  have ⟨hcur, hrun, hregs⟩ := h
  State.issueProg_ready _ hcur hrun hregs

theorem execCget_ready (h : Claims.ReadyProg s g x [32 + c.toNat, r.toNat]) (part : BitVec 3) :
    execCget c r part s = .next (s.updThread g x (fun t => (t.wg r (getPart ((s.thread g x).creg c) part)).step)) :=
  have ⟨hcur, hrun, hregs⟩ := h
  State.issueProg_ready _ hcur hrun hregs

/-- The oldest response is taken (06 R176). -/
theorem execCwait_response (h : Claims.ReadyProg s g x [r.toNat]) {e : W64} {rest : List W64} (hq : ((s.thread g x).port p).rq = e :: rest) :
    execCwait r p nb s = .next (s.updThread g x (fun t => ((t.updPort p (fun q => { q with rq := rest })).wg r e).step)) := by
  obtain ⟨hcur, hrun, hregs⟩ := h
  rw [execCwait, State.issueProg_ready _ hcur hrun hregs, hq]

theorem execCwait_none (h : Claims.ReadyProg s g x [r.toNat]) (hq : ((s.thread g x).port p).rq = []) :
    execCwait r p true s = .next (s.updThread g x (fun t => (t.wg r 0).step)) := by
  obtain ⟨hcur, hrun, hregs⟩ := h
  rw [execCwait, State.issueProg_ready _ hcur hrun hregs, hq]
  rfl

end

theorem commandRegisterWords : Claims.CommandRegisterWords := by
  unfold Claims.CommandRegisterWords
  intro s g x c r p nb t w put got v
  refine ⟨fun h => ?_, fun e rest h hq => execCwait_response h hq, fun h hq => execCwait_none h hq⟩
  have hput {part : BitVec 3} {u : W128} (hu : setPart w part v = u) : put part u := by
    rw [← hu]
    exact execCset_ready h part
  have hget {part : BitVec 3} {u : W64} (hu : getPart w part = u) : got part u := by
    rw [← hu]
    exact execCget_ready h part
  refine ⟨hput ?_, hput (setPart_eq w v rfl (by decide) rfl), hput (setPart_eq w v rfl (by decide) rfl), hput ?_,
    hput (setPart_eq w v rfl (by decide) rfl), hput ?_, hput (setPart_clr w v), hput ?_, hget (getPart_eq w rfl),
    hget (getPart_eq w rfl), hget (getPart_eq w rfl), hget ?_, hget (getPart_eq w rfl), hget (getPart_eq w rfl), hget ?_⟩
  · rw [setPart_eq w v (m := 96) (n := 32) (lo := 0) rfl (by decide) rfl]
    simp
  · rw [setPart_eq w v (m := 64) (n := 64) (lo := 0) rfl (by decide) rfl]
    simp
  · rw [setPart_eq w v (m := 0) (n := 16) (lo := 112) rfl (by decide) rfl]
    exact congrArg (· ++ fld w 0 112) (BitVec.zero_width_append _ _)
  · rw [setPart_eq w v (m := 32) (n := 64) (lo := 32) rfl (by decide) rfl]
    simp
  · exact (getPart_eq w rfl).trans (BitVec.setWidth_eq _)
  · exact (getPart_eq w rfl).trans (BitVec.setWidth_eq _)

/-! ### Why a command is refused (03 R89, R91) -/

section
variable {spriv : Bool} {w : W128}

theorem refusal_privileged (hs : FrameRules.needsService (fld w 120 8) = true) (hp : spriv = false) :
    refusal spriv w = some (Cause.privileged, 0xFE) := by
  simp [refusal, hs, hp]

theorem refusal_permitted (hs : FrameRules.needsService (fld w 120 8) = true → spriv = true) :
    refusal spriv w = if (frameOf (fld w 120 8) (frameFields w)).isNone then some (Cause.cmdInvalid, 0xFF)
      else (FrameRules.offending (fld w 120 8) (frameFields w)).map (fun n => (Cause.cmdInvalid, BitVec.ofNat 32 n)) := by
  have h : ¬ (FrameRules.needsService (fld w 120 8) && !spriv) = true := by simpa using hs
  rw [refusal, if_neg h]

theorem refusal_undefined (hs : FrameRules.needsService (fld w 120 8) = true → spriv = true)
    (hf : frameOf (fld w 120 8) (frameFields w) = none) : refusal spriv w = some (Cause.cmdInvalid, 0xFF) := by
  simp [refusal_permitted hs, hf]

theorem refusal_defined (hs : FrameRules.needsService (fld w 120 8) = true → spriv = true)
    (hf : (frameOf (fld w 120 8) (frameFields w)).isSome = true) :
    refusal spriv w = (FrameRules.offending (fld w 120 8) (frameFields w)).map (fun n => (Cause.cmdInvalid, BitVec.ofNat 32 n)) := by
  rw [refusal_permitted hs, if_neg (by simpa using Option.isSome_iff_ne_none.1 hf)]

end

/-! ### `cissue` (06 R175) -/

/-- A command joins its thread and the issue queue of its port. -/
def State.joinCmd (s : State) (g : RegionNo) (x : CtxNo) (p : BitVec 4) (id : Nat) (cmd : Cmd) : State :=
  (s.updCore g (fun k => { k with cmds := Tab.set k.cmds id cmd })).updThread g x (fun t =>
    t.updPort p (fun q => { q with iq := q.iq ++ [id] }))

/-- The command that a thread hands to a port. -/
def State.issuedCmd (s : State) (g : RegionNo) (x : CtxNo) (c : BitVec 3) (p : BitVec 4) : Cmd :=
  { x := x, port := p, w := (s.thread g x).creg c, ctxid := (s.thread g x).ctxid, gen := (s.thread g x).gen, kernel := (s.thread g x).kernel,
    g := g, after := s.tick, seq := s.tick }

section
variable {s : State} {g : RegionNo} {x : CtxNo} {c : BitVec 3} {p : BitVec 4} (h : Claims.ReadyProg s g x [32 + c.toNat])
include h

theorem execCissue_full (hq : 8 ≤ ((s.thread g x).port p).iq.length) :
    execCissue c p s = .next (s.waitTh g x 7 (16 + p.toNat) 0xFF) := by
  obtain ⟨hcur, hrun, hregs⟩ := h
  rw [execCissue, State.issueProg_ready _ hcur hrun hregs]
  exact congrArg Host.Outcome.next (if_pos hq)

theorem execCissue_accepts (hq : ((s.thread g x).port p).iq.length < 8) (hr : refusal (s.thread g x).spriv ((s.thread g x).creg c) = none) :
    execCissue c p s = .next ((s.joinCmd g x p s.tick (s.issuedCmd g x c p)).updThread g x Thread.step) := by
  obtain ⟨hcur, hrun, hregs⟩ := h
  rw [execCissue, State.issueProg_ready _ hcur hrun hregs]
  simp only [hr, ge_iff_le, if_neg (Nat.not_le.2 hq)]
  rfl

theorem execCissue_refuses {cause : Byte} {value : W32} (hl : s.loadsOut g x = false) (hiq : ((s.thread g x).port p).iq = [])
    (hord : ((s.thread g x).port p).order = []) (hrq : ((s.thread g x).port p).rq.length < 8)
    (hr : refusal (s.thread g x).spriv ((s.thread g x).creg c) = some (cause, value)) :
    execCissue c p s = .next ((s.updThread g x (fun t => { t.updPort p (fun q =>
      { q with rq := q.rq ++ [respElem ((s.thread g x).creg c) cause value] }) with woken := true })).trapEntry
        g x cause (respElem ((s.thread g x).creg c) cause value) (s.thread g x).pc) := by
  obtain ⟨hcur, hrun, hregs⟩ := h
  rw [execCissue, State.issueProg_ready _ hcur hrun hregs]
  simp [hr, hl, hiq, hord, hrq]

end

theorem cissueQueuesOrTraps : Claims.CissueQueuesOrTraps := by
  unfold Claims.CissueQueuesOrTraps
  intro s g x c p h t w code cmd refused
  refine ⟨fun hq hf hs ho => execCissue_accepts h hq ?_, fun hl hiq hord hrq => ?_, fun hq => ⟨_, execCissue_full h hq, ?_, ?_⟩⟩
  · rw [refusal_defined hs hf, ho]
    rfl
  · have hrefused {cause : Byte} {value : W32} (hr : refusal t.spriv w = some (cause, value)) : refused cause value :=
      execCissue_refuses h hl hiq hord hrq hr
    exact ⟨fun hs hp => hrefused (refusal_privileged hs hp), fun hs hf => hrefused (refusal_undefined hs hf),
      fun hs hf n hn => hrefused (by rw [refusal_defined hs hf, hn]; rfl)⟩
  · rw [State.waitTh, State.thread_updThread_self]
  · rw [State.waitTh, State.core_updThread]

/-- Settles O6: each word of a command register, of the queue of responses and of `cissue`, in a thread that may issue it. -/
theorem commandRegistersAndCissue : Obligations.CommandRegistersAndCissue := by
  unfold Obligations.CommandRegistersAndCissue
  exact ⟨commandRegisterWords, cissueQueuesOrTraps⟩

end Sys2Proof.Machine

/-! ## O59: every instruction answers a next state (03 R94; 06 R186, R193)

The one outcome that is not a next state is that of an operation whose agent is of another kind: a word without a thread, a firing
without a slot, a command or a host command that none is. With an agent of its kind, each shared operation answers a next state.
-/

namespace Sys2Proof.Machine

/-! ### Words of threads -/

section
variable {s : State} {w : Who} (h : s.who = some w)
include h

theorem State.setWord_next (d : BitVec 5) (regs : List (BitVec 5)) (f : Thread → W64) : ∃ t, s.setWord d regs f = .next t :=
  State.issue_next _ _ h

theorem State.alu_next (d a b : BitVec 5) (f : W64 → W64 → W64) : ∃ t, s.alu d a b f = .next t := State.setWord_next h _ _ _

theorem State.aluImm_next (d a : BitVec 5) (f : W64 → W64) : ∃ t, s.aluImm d a f = .next t := State.setWord_next h _ _ _

theorem State.loadWord_next (d a : BitVec 5) (off : BitVec 16) (n : Nat) : ∃ t, s.loadWord d a off n = .next t :=
  State.issue_next _ _ h

theorem State.storeWord_next (a b : BitVec 5) (off : BitVec 16) (n : Nat) : ∃ t, s.storeWord a b off n = .next t :=
  State.issue_next _ _ h

theorem State.branch_next (a b : BitVec 5) (off : BitVec 16) (cond : W64 → W64 → Bool) : ∃ t, s.branch a b off cond = .next t :=
  State.issue_next _ _ h

theorem State.statusWord_next (r : BitVec 4) (g : BitVec 5) (f : Who → Thread → State) : ∃ t, s.statusWord r g f = .next t :=
  State.issue_next _ _ h

theorem State.privileged_next (i : Instr) (f : RegionNo → Thread → State) : ∃ t, s.privileged i f = .next t :=
  State.issue_next _ _ h

/-- A Lectern word never stops the machine. -/
theorem exec_lectern_next {i : Instr} (hi : (encodeLectern i).isSome = true) : ∃ t, exec i s = .next t := by
  cases i with
  | add d a b | sub d a b | mul d a b | mulh d a b | div d a b | rem d a b | lecternAnd d a b | lecternOr d a b
    | lecternXor d a b | sll d a b | srl d a b | sra d a b | slt d a b | sltu d a b =>
    dsimp only [exec]
    exact State.alu_next h _ _ _ _
  | addi d a imm | andi d a imm | ori d a imm | xori d a imm | slli d a n | srli d a n | srai d a n | slti d a imm =>
    dsimp only [exec]
    exact State.aluImm_next h _ _ _
  | lui d imm | adr d imm =>
    dsimp only [exec]
    exact State.setWord_next h _ _ _
  | ldB d a off | ldH d a off | ldW d a off | ldD d a off =>
    dsimp only [exec]
    exact State.loadWord_next h _ _ _ _
  | stB a b off | stH a b off | stW a b off | stD a b off =>
    dsimp only [exec]
    exact State.storeWord_next h _ _ _ _
  | beq a b off | bne a b off | blt a b off | bge a b off | bltu a b off | bgeu a b off =>
    dsimp only [exec]
    exact State.branch_next h _ _ _ _
  | cld c g n | cset c g part | cget c g part | cissue c port | cwait g port nb | kset k g imm | kadd k g imm | krd k g
    | kwait k cond g imm | cfgload b | cfggo b | bdset b g imm | bdrd b g | bwarr g | phase g | fence scope | idle =>
    dsimp only [exec]
    exact State.issueProg_next _ _ h
  | jal off | jalr d a off | trap code | eret | brk =>
    dsimp only [exec]
    exact State.issue_next _ _ h
  | rdst r g | wrst r g imm =>
    dsimp only [exec]
    exact State.statusWord_next h _ _ _
  | lexit g | lkill =>
    dsimp only [exec, execLexit, execLkill]
    split
    · exact ⟨_, rfl⟩
    · exact State.issueProg_next _ _ h
  | xinv x g | frz g | thaw g | ftok g =>
    dsimp only [exec]
    exact State.privileged_next h _ _
  | _ => cases hi

theorem exec_undefinedWord_next (word : W32) : ∃ t, exec (.undefinedWord word) s = .next t := by
  rw [exec_undefinedWord]
  exact State.issue_next _ _ h

theorem exec_fetchBeyondSection_next : ∃ t, exec .fetchBeyondSection s = .next t := by
  rw [exec_fetchBeyondSection]
  exact State.issue_next _ _ h

end

/-! ### Firings of slots -/

section
variable {s : State} {l : SlotLoc} (h : s.cur = .slot l)
include h

theorem State.fireCopy_next (op : BitVec 9) (w : SlotWord) : ∃ t, s.fireCopy op w = .next t := by
  unfold State.fireCopy
  rw [State.slotAgent_slot h]
  dsimp only
  repeat' split
  all_goals exact ⟨_, rfl⟩

theorem State.fireChoice_next (op : BitVec 9) (w : SlotWord) (send : Bool → Bool × Bool) : ∃ t, s.fireChoice op w send = .next t := by
  unfold State.fireChoice
  rw [State.slotAgent_slot h]
  dsimp only
  repeat' split
  all_goals exact ⟨_, rfl⟩

theorem State.fireTrigger_next (op : BitVec 9) (w : SlotWord) (held : SlotLoc → Bool)
    (effect : SlotLoc → Option (Nat × (Cell → Cell))) : ∃ t, s.fireTrigger op w held effect = .next t := by
  unfold State.fireTrigger
  rw [State.slotAgent_slot h]
  dsimp only
  repeat' split
  all_goals exact ⟨_, rfl⟩

theorem State.fireNode_next (op : BitVec 9) (w : SlotWord) (wr : Bool) (room : SlotLoc → Bool)
    (build : SlotLoc → Grant → Opnd → Opnd → Except MemErr Acc) : ∃ t, s.fireNode op w wr room build = .next t := by
  unfold State.fireNode
  rw [State.slotAgent_slot h]
  dsimp only
  split
  · split <;> exact ⟨_, rfl⟩
  · exact State.fireAcc_next h op w wr room build

/-- `mdrain` fires as a node does, and changes the state that it answers. -/
theorem exec_mdrain_next (w : SlotWord) : ∃ t, exec (.mdrain w) s = .next t := by
  rw [exec_mdrain]
  unfold execMdrain
  rw [State.slotAgent_slot h]
  dsimp only
  obtain ⟨t, ht⟩ := State.fireNode_next h 0x183 w true _ _
  rw [ht]
  dsimp only
  split <;> exact ⟨_, rfl⟩

/-- A firing of one value never stops the machine (`Claims.standard`). -/
theorem exec_standard_next {i : Instr} (hi : Claims.standard i = true) : ∃ t, exec i s = .next t := by
  obtain ⟨op, w, forms, vector, effect, -, he⟩ := firesOneValue_of_standard hi
  rw [he]
  exact State.fire_next h op w forms vector _

/-- A firing of a slot never stops the machine. -/
theorem exec_slot_next {i : Instr} (hi : i.slotOp?.isSome = true) : ∃ t, exec i s = .next t := by
  cases i with
  | const w | iadd w | isub w | imul w | imulh w | imad w | idiv w | irem w | ineg w | iabs w | imin w | imax w | cellAnd w
    | cellOr w | cellXor w | cellNot w | shl w | shr w | sar w | popc w | clz w | icmp w | sel w | agen w | bcast w | shuf w
    | rot w | pack w | unpack w | fadd w | fsub w | fmul w | ffma w | fmin w | fmax w | fabs w | fneg w | frcp w | frsq w
    | fexp2 w | flog2 w | fcmp w | cvt w | quant w | scale w | vsum w | vmax w =>
    exact exec_standard_next h rfl
  | cpy w | sink w =>
    dsimp only [exec]
    exact State.fireCopy_next h _ _
  | gate w | steer w =>
    dsimp only [exec]
    exact State.fireChoice_next h _ _ _
  | mswap w | mzero w =>
    dsimp only [exec]
    exact State.fireTrigger_next h _ _ _ _
  | mload w | mfire w | msmeta w =>
    dsimp only [exec]
    exact State.fireNode_next h _ _ _ _ _
  | ld w | st w | ldg w | stg w | sld w | sst w | srel w | spub w | spill w | fill w | aupd w | barr w | bwait w =>
    dsimp only [exec]
    exact State.fireMem_next h _ _ _ _
  | mdrain w => exact exec_mdrain_next h w
  | merge w | iter w | tid w | isect w | mark w | own w =>
    dsimp only [exec, execMerge, execIter, execTid, execIsect, execMark, execOwn]
    rw [State.slotAgent_slot h]
    dsimp only
    repeat' split
    all_goals exact ⟨_, rfl⟩
  | _ => cases hi

end

/-! ### Commands -/

/-- A command of a port never stops the machine. -/
theorem State.runCmd_next {s : State} {g : RegionNo} {id : Nat} (h : s.cur = .command g id) (f : RegionNo → Nat → Cmd → State) :
    ∃ t, s.runCmd f = .next t := by
  unfold State.runCmd
  rw [h]
  dsimp only
  split <;> exact ⟨_, rfl⟩

section
variable {s : State} {g : RegionNo} {id : Nat} (h : s.cur = .command g id)
include h

theorem State.copyStep_next (c : Frame) : ∃ t, s.copyStep c = .next t := State.runCmd_next h _

theorem State.drawerAsk_next (c : Frame) (kind : Nat) : ∃ t, s.drawerAsk c kind = .next t := State.runCmd_next h _

theorem State.mapCmd_next (c : Frame) (unmap : Bool) : ∃ t, s.mapCmd c unmap = .next t := State.runCmd_next h _

theorem State.chainRun_next (c : Frame) (j0 : Nat) : ∃ t, s.chainRun c j0 = .next t := State.runCmd_next h _

end

/-- A command of the host's queues never stops the machine. -/
theorem State.hostStep_next {s : State} {k : Nat} (h : s.cur = .hostCmd k) (e : HostEntry) (pre : HCmd → State → Option Byte)
    (f : Nat → HCmd → State → State) : ∃ t, s.hostStep e pre f = .next t := by
  unfold State.hostStep State.hostOwn
  rw [h]
  dsimp only
  repeat' split
  all_goals exact ⟨_, rfl⟩

theorem State.mapHost_next {s : State} {k : Nat} (h : s.cur = .hostCmd k) (e : HostEntry) (unmap : Bool) :
    ∃ t, s.mapHost e unmap = .next t := State.hostStep_next h _ _ _

theorem exec_frame_next {s : State} {g : RegionNo} {id : Nat} (h : s.cur = .command g id) {i : Instr}
    (hi : i.frameCode?.isSome = true) : ∃ t, exec i s = .next t := by
  cases i with
  | sopen c | spublish c | srelease c | srewind c | sclose c | sstat c | sbind c | karm c | binit c | fprobe c | rmark c
    | cfgput c | ctxsave c | ctxload c | pmark c | ngroup c | nsend c | npause c | nresume c | dcreate c | ddestroy c
    | ddeposit c | replay c | ownxfer c =>
    dsimp only [exec]
    exact State.runCmd_next h _
  | tcopy c | qcopy c | tfill c | tgather c | tscatter c =>
    dsimp only [exec]
    exact State.copyStep_next h _
  | dcopy c | dtake c =>
    dsimp only [exec]
    exact State.drawerAsk_next h _ _
  | chainrun c | chainstep c =>
    dsimp only [exec]
    exact State.chainRun_next h _ _
  | pmap c | punmap c =>
    dsimp only [exec]
    exact State.mapCmd_next h _ _
  | _ => cases hi

theorem exec_host_next {s : State} {k : Nat} (h : s.cur = .hostCmd k) {i : Instr} (hi : i.hostOpc?.isSome = true) :
    ∃ t, exec i s = .next t := by
  cases i with
  | ctxCreate e | ctxDestroy e | launch e | streamBind e | drawerCreate e | queueCreate e | queueDestroy e | keyLoad e
    | snapshot e | vfReset e =>
    dsimp only [exec]
    exact State.hostStep_next h _ _ _
  | map e | unmap e =>
    dsimp only [exec]
    exact State.mapHost_next h _ _
  | _ => cases hi

/-! ### Steps of units -/

theorem exec_sourcePortPull_next (s : State) (g : RegionNo) (ch : BitVec 7) : ∃ t, exec (.sourcePortPull g ch) s = .next t := by
  rw [exec_sourcePortPull]
  unfold execSourcePortPull
  extract_lets
  split
  · exact ⟨_, rfl⟩
  split
  · exact ⟨_, rfl⟩
  split
  · exact ⟨_, rfl⟩
  split
  · split
    · split <;> exact ⟨_, rfl⟩
    · exact ⟨_, rfl⟩
  split
  · exact ⟨_, rfl⟩
  split
  · exact ⟨_, rfl⟩
  split
  · exact ⟨_, rfl⟩
  extract_lets
  split
  · exact ⟨_, rfl⟩
  split <;> exact ⟨_, rfl⟩

theorem exec_edgePortStreamRead_next (s : State) (g : RegionNo) (port : BitVec 6) :
    ∃ t, exec (.edgePortStreamRead g port) s = .next t := by
  rw [exec_edgePortStreamRead]
  unfold execEdgePortStreamRead
  extract_lets
  split
  · exact ⟨_, rfl⟩
  split
  · exact ⟨_, rfl⟩
  extract_lets
  split
  · exact ⟨_, rfl⟩
  · exact ⟨_, rfl⟩
  · extract_lets
    repeat' split
    all_goals exact ⟨_, rfl⟩
  · extract_lets
    repeat' split
    all_goals exact ⟨_, rfl⟩

theorem exec_edgePortStreamWrite_next (s : State) (g : RegionNo) (port : BitVec 6) :
    ∃ t, exec (.edgePortStreamWrite g port) s = .next t := by
  rw [exec_edgePortStreamWrite]
  unfold execEdgePortStreamWrite
  extract_lets
  split
  · exact ⟨_, rfl⟩
  split
  · exact ⟨_, rfl⟩
  split
  · exact ⟨_, rfl⟩
  extract_lets
  split
  · extract_lets
    repeat' split
    all_goals exact ⟨_, rfl⟩
  · repeat' split
    all_goals exact ⟨_, rfl⟩

theorem exec_commandStart_next (s : State) (g : RegionNo) (x : CtxNo) (port : BitVec 4) :
    ∃ t, exec (.commandStart g x port) s = .next t := by
  rw [exec_commandStart]
  unfold execCommandStart
  extract_lets
  split
  · exact ⟨_, rfl⟩
  extract_lets
  repeat' split
  all_goals exact ⟨_, rfl⟩

theorem exec_commandComplete_next (s : State) (g : RegionNo) (x : CtxNo) (port : BitVec 4) :
    ∃ t, exec (.commandComplete g x port) s = .next t := by
  rw [exec_commandComplete]
  unfold execCommandComplete
  extract_lets
  split
  · exact ⟨_, rfl⟩
  extract_lets
  split <;> exact ⟨_, rfl⟩

theorem exec_kernelEnd_next (s : State) (k : Nat) : ∃ t, exec (.kernelEnd k) s = .next t := by
  rw [exec_kernelEnd]
  unfold execKernelEnd
  split
  · exact ⟨_, rfl⟩
  extract_lets
  split
  · exact ⟨_, rfl⟩
  split <;> exact ⟨_, rfl⟩

/-- An instruction without a word is a step of a unit. -/
theorem exec_unit_next (s : State) {i : Instr}
    (hi : ((encodeLectern i).isSome || i.slotOp?.isSome || i.frameCode?.isSome || i.hostOpc?.isSome) = false)
    (hu : ∀ word, i ≠ .undefinedWord word) (hf : i ≠ .fetchBeyondSection) : ∃ t, exec i s = .next t := by
  cases i with
  | undefinedWord word => exact (hu word rfl).elim
  | fetchBeyondSection => exact (hf rfl).elim
  | debugAttach g x on | debugResume g x | hwmWrite f ap v | hrelWrite f ap v | apertureDataWrite f ap off bytes
    | groupPauseReport g cid grp rank | voingAcknowledgement link | cxlWriteCompletion line | flitMove g n | quantumEnd g
    | regionSave g | regionRestore g n | powerGate g | clockGate g | clockGateResume g | residencyT2 g | faultRecord n
    | drainLimit g | hostMemoryAccess addr wr | ownershipTransferEnd granule | ownershipTimeout granule | commandAccept f q
    | tailWrite f q v | cheadWrite f q v | aqsWrite f v | s2rootWrite f n v | s2fheadWrite f v | s2fqsWrite f v | go f v
    | qgo f v | registerWrite f off v | bureauPageFetch page | correctedError src | linkCrcRetry link | linkRetrainDone link
    | scrubUncorrectable addr | heartbeat | heartbeatTimeout | lockstepMismatch | reset | powerLoss | functionEnable f on =>
    exact ⟨_, rfl⟩
  | sourcePortPull g ch => exact exec_sourcePortPull_next s g ch
  | edgePortStreamRead g port => exact exec_edgePortStreamRead_next s g port
  | edgePortStreamWrite g port => exact exec_edgePortStreamWrite_next s g port
  | commandStart g x port => exact exec_commandStart_next s g x port
  | commandComplete g x port => exact exec_commandComplete_next s g x port
  | kernelEnd k => exact exec_kernelEnd_next s k
  | iterNextValue l | markerJoin l | statefulRelease l | resultWrite g cell seq | streamAccessFault g x | microprogramRun g
    | debugHalt g x | debugRegisterWrite g x tg v | streamRead g id | streamWrite g id | edgePortMarkerPublish g port
    | barrierCount g id | probeReturn g ch | collectiveHop g arrival | groupPauseReceive g cid grp p
    | groupResumeReceive g cid grp | memberLoss cid grp rank reports | voingTokenReceive link ch tok | anchorReserve slice n
    | homeDeposit slice n | homeMatch slice n | anchorReturn slice n | drawerResend g n | drawerLiveMark slice n
    | drawerSweep slice n | chainStepStart g id | accessPerform g id | accessDeliver g id | threadTokenEntry g port
    | threadTokenAdmit g x | blockDecision g x | activate g x | imageReady g n | uncorrectableError tg =>
    dsimp only [exec, execIterNextValue, execMarkerJoin, execStatefulRelease, execResultWrite, execStreamAccessFault,
      execMicroprogramRun, execDebugHalt, execDebugRegisterWrite, execStreamRead, execStreamWrite, execEdgePortMarkerPublish,
      execBarrierCount, execProbeReturn, execCollectiveHop, execGroupPauseReceive, execGroupResumeReceive, execMemberLoss,
      execVoingTokenReceive, execAnchorReserve, execHomeDeposit, execHomeMatch, execAnchorReturn, execDrawerResend,
      execDrawerLiveMark, execDrawerSweep, execChainStepStart, execAccessPerform, execAccessDeliver, execThreadTokenEntry,
      execThreadTokenAdmit, execBlockDecision, execActivate, execImageReady, execUncorrectableError]
    repeat' split
    all_goals exact ⟨_, rfl⟩
  | _ => cases hi

/-! ### The agent of an instruction -/

def Agent.isThread : Agent → Bool
  | .lectern .. | .micro _ => true
  | _ => false

def Agent.isSlot : Agent → Bool
  | .slot _ => true
  | _ => false

def Agent.isCommand : Agent → Bool
  | .command .. => true
  | _ => false

def Agent.isHostCmd : Agent → Bool
  | .hostCmd _ => true
  | _ => false

theorem State.who_of_isThread {s : State} (h : s.cur.isThread = true) : ∃ w, s.who = some w := by
  unfold State.who
  cases hc : s.cur with
  | lectern g x => exact ⟨_, rfl⟩
  | micro g => exact ⟨_, rfl⟩
  | _ => rw [hc] at h; cases h

theorem Agent.eq_slot {a : Agent} (h : a.isSlot = true) : ∃ l, a = .slot l := by
  cases a with
  | slot l => exact ⟨l, rfl⟩
  | _ => cases h

theorem Agent.eq_command {a : Agent} (h : a.isCommand = true) : ∃ g id, a = .command g id := by
  cases a with
  | command g id => exact ⟨g, id, rfl⟩
  | _ => cases h

theorem Agent.eq_hostCmd {a : Agent} (h : a.isHostCmd = true) : ∃ k, a = .hostCmd k := by
  cases a with
  | hostCmd k => exact ⟨k, rfl⟩
  | _ => cases h

/-- The kind of agent by the class of the instruction's word. -/
theorem Instr.fits_eq {i : Instr} (a : Agent) (hu : ∀ word, i ≠ .undefinedWord word) (hf : i ≠ .fetchBeyondSection) :
    i.fits a = if (encodeLectern i).isSome then a.isThread else if i.slotOp?.isSome then a.isSlot
      else if i.frameCode?.isSome then a.isCommand else if i.hostOpc?.isSome then a.isHostCmd else true := by
  cases i with
  | undefinedWord word => exact (hu word rfl).elim
  | fetchBeyondSection => exact (hf rfl).elim
  | _ => rfl

/-- Settles O59: the agent gives the instruction its thread, its slot or its command, and the shared operations answer. -/
theorem noInstructionStops : Obligations.NoInstructionStops := by
  unfold Obligations.NoInstructionStops
  intro i s hfit
  by_cases hu : ∃ word, i = .undefinedWord word
  · obtain ⟨word, rfl⟩ := hu
    obtain ⟨w, hw⟩ := State.who_of_isThread hfit
    exact exec_undefinedWord_next hw word
  by_cases hf : i = .fetchBeyondSection
  · subst hf
    obtain ⟨w, hw⟩ := State.who_of_isThread hfit
    exact exec_fetchBeyondSection_next hw
  have hu' : ∀ word, i ≠ .undefinedWord word := fun word h => hu ⟨word, h⟩
  rw [Instr.fits_eq s.cur hu' hf] at hfit
  split at hfit
  · next hl =>
    obtain ⟨w, hw⟩ := State.who_of_isThread hfit
    exact exec_lectern_next hw hl
  split at hfit
  · next hs =>
    obtain ⟨l, hc⟩ := Agent.eq_slot hfit
    exact exec_slot_next hc hs
  split at hfit
  · next hr =>
    obtain ⟨g, id, hc⟩ := Agent.eq_command hfit
    exact exec_frame_next hc hr
  split at hfit
  · next hh =>
    obtain ⟨k, hc⟩ := Agent.eq_hostCmd hfit
    exact exec_host_next hc hh
  next hl hs hr hh => exact exec_unit_next s (by simp [hl, hs, hr, hh]) hu' hf

end Sys2Proof.Machine

/-! ## Firings that form a value, in the words of the statements (01 R36, 03 R104) -/

namespace Sys2Proof.Claims
open Machine

variable {s s1 : State} {l : SlotLoc} {op : BitVec 9} {w : SlotWord} {forms : List TokForm} {vector : Bool} {os : List Opnd}
  {effect : FireIn → State → Option (FireOut × State)}

/-- Of a firing with a token of FORM 3, none is one of a vector. -/
theorem Fires.scalar_of_sparse (h : Fires s l op w forms vector os) (hsp : os.any Opnd.sparse = true) : vecFiring vector w os = false := by
  obtain ⟨hv, hty, hvec⟩ := h.whole hsp
  have hty' : w.ty.toNat ≠ 14 := fun e => hty (BitVec.eq_of_toNat_eq e)
  have hvec' : os.any (fun o => o.vec) = false := hvec
  simp [vecFiring, hv, hty', hvec']

/-- A firing sends the value that its effect forms. -/
theorem Fires.next {o : FireOut} (h : Fires s l op w forms vector os) (he : effect (firing l w vector os) s = some (o, s1)) :
    s.fire op w forms vector effect = .next (fired s s1 l op w os o) :=
  State.fire_fires h.agent h.free h.may h.value h.kinds h.scalar_of_sparse he

/-- Such a firing whose effect changes nothing else. -/
theorem Fires.sends {o : FireOut} {v : FireIn → State → FireOut} (h : Fires s l op w forms vector os) (hv : v (firing l w vector os) s = o) :
    s.fire op w forms vector (fun f s => some (v f s, s)) = .next (fired s s l op w os o) :=
  h.next (congrArg (fun o => some (o, s)) hv)

/-- A firing whose effect forms no value ends with ILLEGAL_INSTRUCTION. -/
theorem Fires.fails (h : Fires s l op w forms vector os) (he : effect (firing l w vector os) s = none) :
    s.fire op w forms vector effect = .next (s.fireFault l (SlotRules.positions op w) Cause.illegal 0 false) := by
  have hwhole : (os.any Opnd.sparse && vecFiring vector w os) = false := by
    cases hsp : os.any Opnd.sparse with
    | false => rfl
    | true => simp [h.scalar_of_sparse hsp]
  have hkinds := h.kinds
  have hcodes : s.sources l w.ty.toNat w ([w.sa, w.sb] ++ (if SlotRules.third op then [w.fn] else [])) = some os := h.value
  unfold State.fire
  simp only [State.slotAgent_slot h.agent, h.free, h.may, hcodes, hkinds]
  change (if (!true || (os.any Opnd.sparse && vecFiring vector w os)) = true then _ else
    match effect (firing l w vector os) s with
    | none => _
    | some (o, s1) => _) = _
  rw [hwhole, he]
  rfl

end Sys2Proof.Claims

/-! ## Lane instructions (04 R123, R124) -/

namespace Sys2Proof.Machine

/-- Settles O16: a lane instruction is one firing of a vector, whose value is the one its effect forms. -/
theorem laneInstructionResults : Obligations.LaneInstructionResults := by
  unfold Obligations.LaneInstructionResults
  intro s l w a b
  refine ⟨?bcast, ?shuf, ?rot, ?pack, ?unpack⟩ <;> intro h
  case bcast =>
    refine (exec_bcast s w).trans (h.next ?_)
    have hlane : (if w.sb == 10 then 0 else lane0 b % (1024 / Num.width w.ty.toNat))
        = if w.sb = 10 then 0 else lane0 b % (1024 / Num.width w.ty.toNat) := if_congr beq_iff_eq rfl rfl
    rw [← hlane]
    rfl
  case shuf => exact (exec_shuf s w).trans (h.sends rfl)
  case rot => exact (exec_rot s w).trans (h.sends rfl)
  case pack => exact (exec_pack s w).trans (h.sends rfl)
  case unpack => exact (exec_unpack s w).trans (h.sends rfl)

end Sys2Proof.Machine

/-! ## Floating-point instructions (04 R125 to R132) -/

namespace Sys2Proof.Num

/-- Without a draw every element is computed with the generator as it stands (02 R59). -/
theorem drawMap_false {α β : Type} (f : Nat → α → β) (x : BitVec 16) (as : List α) :
    drawMap false f x as = (x, as.map (f x.toNat)) := by
  induction as with
  | nil => rfl
  | cons a as ih => simp [drawMap, ih]

end Sys2Proof.Num

namespace Sys2Proof.Machine

/-- Settles O17: each is one firing, whose values are rounded in the mode of the slot. -/
theorem cellFloatResultsAreRoundedOnce : Obligations.CellFloatResultsAreRoundedOnce := by
  unfold Obligations.CellFloatResultsAreRoundedOnce
  intro s l w os
  refine ⟨?fadd, ?fsub, ?fmul, ?ffma, ?frcp, ?frsq, ?fexp2, ?flog2, ?scale⟩ <;> intro h
  case fadd => exact (exec_fadd s w).trans (h.next rfl)
  case fsub => exact (exec_fsub s w).trans (h.next rfl)
  case fmul => exact (exec_fmul s w).trans (h.next rfl)
  case ffma => exact (exec_ffma s w).trans (h.next rfl)
  case frcp => exact (exec_frcp s w).trans (h.next rfl)
  case frsq =>
    refine (exec_frsq s w).trans (h.next (congrArg (fun g => some ((Claims.firing l w false os).round1 s g)) (funext fun v => ?_)))
    split <;> rfl
  case fexp2 => exact (exec_fexp2 s w).trans (h.next rfl)
  case flog2 => exact (exec_flog2 s w).trans (h.next rfl)
  case scale =>
    refine (exec_scale s w).trans (h.next (congrArg (fun g => some ((Claims.firing l w false os).round1 s g)) (funext fun a => ?_)))
    split
    · next hnan => exact (if_pos hnan).symm
    · next hnan => exact (if_neg hnan).symm

section
variable {a b : Opnd} {f : FireIn}

/-- The reduction of a vector (04 R132). -/
theorem FireIn.reduce_vector (hops : f.ops = [a, b]) (hvec : a.vec = true) (op : Nat) :
    f.reduce op = { pay := scalarPay f.ty (Num.ctree (Num.redOp f.ty op) 0 (Num.elems (Num.width f.ty) 1024 a.pay)) } := by
  simp [FireIn.reduce, FireIn.op, hops, hvec]

/-- The reduction of a scalar is its value (04 R132). -/
theorem FireIn.reduce_scalar (hops : f.ops = [a, b]) (hvec : a.vec = false) (op : Nat) :
    f.reduce op = { pay := scalarPay f.ty (if Num.isFloat f.ty && Num.isNan (Num.value f.ty (a.pay % 2 ^ Num.width f.ty))
      then Num.canonNan f.ty else a.pay % 2 ^ Num.width f.ty) } := by
  simp [FireIn.reduce, FireIn.op, hops, hvec]

end

/-- Settles O18: each is one firing, whose value is the one its effect forms; `quant` forms none without a vector to form into or to expand. -/
theorem cellSelectionsConversionsAndReductions : Obligations.CellSelectionsConversionsAndReductions := by
  unfold Obligations.CellSelectionsConversionsAndReductions
  intro s l w os
  refine ⟨?fmin, ?fmax, ?fabs, ?fneg, ?fcmp, ?cvt, ?cvtExact, ?vsum, ?vmax, ?scalar, ?quant⟩
  case fmin => exact fun h => (exec_fmin s w).trans (h.sends rfl)
  case fmax => exact fun h => (exec_fmax s w).trans (h.sends rfl)
  case fabs => exact fun h => (exec_fabs s w).trans (h.sends rfl)
  case fneg => exact fun h => (exec_fneg s w).trans (h.sends rfl)
  case fcmp => exact fun h => (exec_fcmp s w).trans (h.sends rfl)
  case cvt => exact fun h => (exec_cvt s w).trans (h.next rfl)
  case cvtExact =>
    intro hdraw h
    refine (exec_cvt s w).trans (h.next ?_)
    dsimp only [Claims.firing]
    rw [hdraw, Num.drawMap_false]
    rfl
  case vsum =>
    rintro a b rfl h hvec
    exact (exec_vsum s w).trans (h.sends (FireIn.reduce_vector rfl hvec 0))
  case vmax =>
    rintro a b rfl h hvec
    exact (exec_vmax s w).trans (h.sends (FireIn.reduce_vector rfl hvec 1))
  case scalar =>
    rintro a b rfl hvec
    exact ⟨fun h => (exec_vsum s w).trans (h.sends (FireIn.reduce_scalar rfl hvec 0)),
      fun h => (exec_vmax s w).trans (h.sends (FireIn.reduce_scalar rfl hvec 1))⟩
  case quant =>
    rintro a b rfl h
    refine ⟨?alone, ?into, ?noVector, ?expands, ?noBlocks⟩
    case alone =>
      intro hmode hb
      refine (exec_quant s w).trans (h.next ?_)
      simp only [Claims.firing, hmode, hb, beq_iff_eq, bne_self_eq_false, Bool.false_and, Bool.false_eq_true, ↓reduceIte]
    case into =>
      intro hmode hb hvec
      refine (exec_quant s w).trans (h.next ?_)
      simp only [Claims.firing, FireIn.op, List.getD_cons_zero, List.getD_cons_succ, hmode, hb, hvec, beq_iff_eq, Bool.not_true, Bool.and_false,
        Bool.false_eq_true, ↓reduceIte]
    case noVector =>
      intro hmode hb hvec
      refine (exec_quant s w).trans (h.fails ?_)
      simp only [Claims.firing, FireIn.op, List.getD_cons_zero, List.getD_cons_succ, hmode, bne_iff_ne.mpr hb, hvec, Bool.not_false, Bool.and_self,
        Bool.false_eq_true, ↓reduceIte]
    case expands =>
      intro hmode hvec
      refine (exec_quant s w).trans (h.next ?_)
      simp only [Claims.firing, FireIn.op, List.getD_cons_zero, hmode, hvec, beq_iff_eq, Bool.not_true, Bool.false_eq_true, ↓reduceIte]
    case noBlocks =>
      intro hmode hvec
      refine (exec_quant s w).trans (h.fails ?_)
      simp only [Claims.firing, FireIn.op, List.getD_cons_zero, hmode, hvec, Bool.not_false, ↓reduceIte]

end Sys2Proof.Machine

/-! ## Elements of integer types as machine words (02 R50 to R52) -/

namespace Sys2Proof.Num

theorem width_pos (ty : Nat) : 0 < width ty := by
  unfold width
  split <;> decide

/-- Every type is narrower than the number of values it has. -/
theorem width_lt_two_pow (ty : Nat) : width ty < 2 ^ width ty := Nat.lt_two_pow_self

theorem iwrap_eq_ofInt (n : Nat) (v : Int) : iwrap n v = (BitVec.ofInt n v).toNat := by
  simp [iwrap, BitVec.toNat_ofInt]

section
variable {ty : Nat} (a b : BitVec (width ty))

/-- The two's-complement reading of an element's bits. -/
theorem toSigned_toNat {n : Nat} (hn : 0 < n) (x : BitVec n) : toSigned n x.toNat = x.toInt := by
  obtain ⟨m, rfl⟩ : ∃ m, n = m + 1 := ⟨n - 1, by omega⟩
  have hx := x.isLt
  rw [toSigned, BitVec.toInt_eq_toNat_cond, Nat.add_sub_cancel]
  rw [Nat.pow_succ] at hx ⊢
  split <;> split <;> push_cast <;> omega

theorem intOf_signed (h : isSigned ty = true) : intOf ty a.toNat = a.toInt := by
  simp [intOf, h, Nat.mod_eq_of_lt a.isLt, toSigned_toNat (width_pos ty)]

theorem intOf_unsigned (h : isSigned ty = false) : intOf ty a.toNat = a.toNat := by
  simp [intOf, h, Nat.mod_eq_of_lt a.isLt]

/-- An element read as an integer and taken modulo 2^w is the element. -/
theorem ofInt_intOf : BitVec.ofInt (width ty) (intOf ty a.toNat) = a := by
  cases h : isSigned ty with
  | true => rw [intOf_signed a h, BitVec.ofInt_toInt]
  | false => rw [intOf_unsigned a h, BitVec.ofInt_natCast, BitVec.ofNat_toNat, BitVec.setWidth_eq]

theorem intOf_inj : intOf ty a.toNat = intOf ty b.toNat ↔ a = b :=
  ⟨fun h => by rw [← ofInt_intOf a, h, ofInt_intOf], fun h => by rw [h]⟩

/-- The order of a type is that of the integers its elements are read as. -/
theorem less_iff : Claims.less ty a b = true ↔ intOf ty a.toNat < intOf ty b.toNat := by
  cases h : isSigned ty with
  | true => simp [Claims.less, h, intOf_signed _ h, BitVec.slt_iff_toInt_lt]
  | false => simp [Claims.less, h, intOf_unsigned _ h, BitVec.ult_eq_decide]

end

/-- The high half of 2n bits of an integer. -/
theorem extractLsb'_ofInt (n : Nat) (v : Int) : (BitVec.ofInt (2 * n) v).extractLsb' n n = BitVec.ofInt n (v / 2 ^ n) := by
  have hpos : (0 : Int) < 2 ^ n := by positivity
  have hhigh : v % (2 ^ n * 2 ^ n) / 2 ^ n % 2 ^ n = v / 2 ^ n % 2 ^ n := by
    rw [Int.emod_def v, Int.mul_assoc, Int.sub_ediv_of_dvd _ (Dvd.intro _ rfl), Int.mul_ediv_cancel_left _ hpos.ne', Int.sub_mul_emod_self_left]
  apply BitVec.eq_of_toNat_eq
  apply Int.ofNat.inj
  simp only [Int.ofNat_eq_natCast, BitVec.extractLsb'_toNat, BitVec.toNat_ofInt, Nat.shiftRight_eq_div_pow]
  push_cast
  rw [Int.toNat_of_nonneg (Int.emod_nonneg _ (by positivity)), Int.toNat_of_nonneg (Int.emod_nonneg _ (by positivity)), two_mul, pow_add, hhigh]

/-- All ones (02 R52, 04 R121). -/
theorem toNat_neg_one (n : Nat) : (-1 : BitVec n).toNat = 2 ^ n - 1 :=
  (congrArg BitVec.toNat BitVec.neg_one_eq_allOnes).trans BitVec.toNat_allOnes

/-- A divisor of 0, as the model tests for it (02 R52). -/
theorem toNat_mod_beq_zero {n : Nat} (x : BitVec n) : (x.toNat % 2 ^ n == 0) = decide (x = 0) := by
  rw [Nat.mod_eq_of_lt x.isLt, Bool.eq_iff_iff]
  simp [← BitVec.toNat_inj]

/-- The first one of a word from the top, by the logarithm of its value. -/
theorem find_getMsbD {n : Nat} (x : BitVec n) :
    ((List.range n).find? (fun i => x.getMsbD i)).getD n = if x.toNat = 0 then n else n - 1 - Nat.log2 x.toNat := by
  split
  · next hx =>
    have hnone : (List.range n).find? (fun i => x.getMsbD i) = none :=
      List.find?_eq_none.mpr fun i _ => by simp [BitVec.getMsbD, BitVec.getLsbD, hx]
    rw [hnone]
    rfl
  · next hx =>
    have hlog : Nat.log2 x.toNat < n := (Nat.log2_lt hx).mpr x.isLt
    suffices (List.range n).find? (fun i => x.getMsbD i) = some (n - 1 - Nat.log2 x.toNat) by rw [this]; rfl
    rw [List.find?_range_eq_some]
    refine ⟨?one, List.mem_range.mpr (by omega), fun j hj => ?zeros⟩
    case one =>
      have hpos : n - 1 - (n - 1 - Nat.log2 x.toNat) = Nat.log2 x.toNat := by omega
      have hbit := Nat.testBit_log2 hx
      simp only [BitVec.getMsbD, BitVec.getLsbD, hpos, hbit, Bool.and_true, decide_eq_true_eq]
      omega
    case zeros =>
      have habove : x.toNat < 2 ^ (n - 1 - j) := Nat.lt_log2_self.trans_le (Nat.pow_le_pow_right (by decide) (by omega))
      simp [BitVec.getMsbD, BitVec.getLsbD, Nat.testBit_lt_two_pow habove]

/-- `sel` tests the bits of its condition (04 R120). -/
theorem toNat_sel {n : Nat} (a b c : BitVec n) : (if a.toNat != 0 then b.toNat else c.toNat) = (if a = 0 then c else b).toNat := by
  by_cases ha : a = 0
  · simp [ha]
  · have ha' : a.toNat ≠ 0 := fun e => ha (BitVec.eq_of_toNat_eq (by simpa using e))
    rw [if_pos (bne_iff_ne.mpr ha'), if_neg ha]

end Sys2Proof.Num

namespace Sys2Proof.Machine
open Sys2Proof.Num

/-! ## Integer instructions of cells, element by element (04 R119 to R122) -/

section
variable {ty : Nat} (a b c : BitVec (width ty))

theorem iwrap_iv_add : iwrap (width ty) (iv ty a.toNat + iv ty b.toNat) = (a + b).toNat := by
  rw [iwrap_eq_ofInt, BitVec.ofInt_add, iv, iv, ofInt_intOf, ofInt_intOf]

theorem iwrap_iv_sub : iwrap (width ty) (iv ty a.toNat - iv ty b.toNat) = (a - b).toNat := by
  rw [iwrap_eq_ofInt, Int.sub_eq_add_neg, BitVec.ofInt_add, BitVec.ofInt_neg, iv, iv, ofInt_intOf, ofInt_intOf, BitVec.sub_eq_add_neg]

theorem iwrap_iv_mul : iwrap (width ty) (iv ty a.toNat * iv ty b.toNat) = (a * b).toNat := by
  rw [iwrap_eq_ofInt, BitVec.ofInt_mul, iv, iv, ofInt_intOf, ofInt_intOf]

theorem iwrap_iv_mul_add : iwrap (width ty) (iv ty a.toNat * iv ty b.toNat + iv ty c.toNat) = (a * b + c).toNat := by
  rw [iwrap_eq_ofInt, BitVec.ofInt_add, BitVec.ofInt_mul, iv, iv, iv, ofInt_intOf, ofInt_intOf, ofInt_intOf]

theorem iwrap_neg : iwrap (width ty) (-(a.toNat : Int)) = (-a).toNat := by
  rw [iwrap_eq_ofInt, BitVec.ofInt_neg, BitVec.ofInt_natCast, BitVec.ofNat_toNat, BitVec.setWidth_eq]

theorem opImulh_eq : opImulh ty a.toNat b.toNat = (Claims.high ty a b).toNat := by
  rw [opImulh, iwrap_eq_ofInt, ← extractLsb'_ofInt, BitVec.ofInt_mul, Claims.high]
  cases h : isSigned ty with
  | true => simp only [iv, intOf_signed _ h]; rfl
  | false => simp only [iv, intOf_unsigned _ h, BitVec.ofInt_natCast, BitVec.ofNat_toNat]; rfl

theorem opIdiv_eq : opIdiv ty a.toNat b.toNat = (if b = 0 then -1 else if isSigned ty then a.sdiv b else a / b).toNat := by
  rw [opIdiv, toNat_mod_beq_zero]
  by_cases hb : b = 0
  · rw [if_pos (decide_eq_true hb), if_pos hb, toNat_neg_one]
  rw [decide_eq_false hb, if_neg Bool.false_ne_true, if_neg hb, iwrap_eq_ofInt, iv, iv]
  cases h : isSigned ty with
  | true =>
    have hdiv : BitVec.ofInt (width ty) (a.toInt.tdiv b.toInt) = a.sdiv b :=
      BitVec.eq_of_toInt_eq (by rw [BitVec.toInt_ofInt, BitVec.toInt_sdiv])
    rw [intOf_signed _ h, intOf_signed _ h, hdiv]
    rfl
  | false =>
    have hdiv : BitVec.ofInt (width ty) ((a.toNat : Int).tdiv b.toNat) = a / b := by
      rw [← Int.ofNat_tdiv, BitVec.ofInt_natCast, ← BitVec.toNat_udiv, BitVec.ofNat_toNat, BitVec.setWidth_eq]
    rw [intOf_unsigned _ h, intOf_unsigned _ h, hdiv]
    rfl

theorem opIrem_eq : opIrem ty a.toNat b.toNat = (if b = 0 then a else if isSigned ty then a.srem b else a % b).toNat := by
  rw [opIrem, toNat_mod_beq_zero, Nat.mod_eq_of_lt a.isLt]
  by_cases hb : b = 0
  · rw [if_pos (decide_eq_true hb), if_pos hb]
  rw [decide_eq_false hb, if_neg Bool.false_ne_true, if_neg hb, iwrap_eq_ofInt, iv, iv]
  cases h : isSigned ty with
  | true =>
    rw [intOf_signed _ h, intOf_signed _ h, ← BitVec.toInt_srem, BitVec.ofInt_toInt]
    rfl
  | false =>
    have hmod : BitVec.ofInt (width ty) ((a.toNat : Int).tmod b.toNat) = a % b := by
      rw [← Int.ofNat_tmod, BitVec.ofInt_natCast, ← BitVec.toNat_umod, BitVec.ofNat_toNat, BitVec.setWidth_eq]
    rw [intOf_unsigned _ h, intOf_unsigned _ h, hmod]
    rfl

theorem opIabs_eq : opIabs ty a.toNat = (if isSigned ty && a.slt 0 then -a else a).toNat := by
  rw [opIabs, iwrap_eq_ofInt, apply_ite (BitVec.ofInt _), BitVec.ofInt_neg, iv, ofInt_intOf]
  cases h : isSigned ty with
  | true => simp [intOf_signed _ h, BitVec.slt_iff_toInt_lt]
  | false =>
    rw [intOf_unsigned _ h, if_neg (by omega)]
    rfl

theorem iv_min : (if iv ty b.toNat < iv ty a.toNat then b.toNat else a.toNat) = (if Claims.less ty b a then b else a).toNat := by
  rw [apply_ite BitVec.toNat]
  exact if_congr (less_iff b a).symm rfl rfl

theorem iv_max : (if iv ty a.toNat < iv ty b.toNat then b.toNat else a.toNat) = (if Claims.less ty a b then b else a).toNat := by
  rw [apply_ite BitVec.toNat]
  exact if_congr (less_iff a b).symm rfl rfl

theorem opSar_eq : opSar ty a.toNat b.toNat = (a.sshiftRight (b.toNat % width ty)).toNat := by
  have hshift : BitVec.ofInt (width ty) (a.toInt / 2 ^ (b.toNat % width ty)) = a.sshiftRight (b.toNat % width ty) := by
    rw [← BitVec.ofInt_toInt (x := a.sshiftRight _), BitVec.toInt_sshiftRight, Int.shiftRight_eq_div_pow]
    push_cast
    rfl
  rw [opSar, iwrap_eq_ofInt, Nat.mod_eq_of_lt a.isLt, toSigned_toNat (width_pos ty), hshift]

theorem opPopc_eq : opPopc ty a.toNat = (BitVec.ofNat (width ty) ((List.range (width ty)).countP (fun i => a.getLsbD i))).toNat := by
  have hle := List.countP_le_length (p := fun i => a.getLsbD i) (l := List.range (width ty))
  rw [List.length_range] at hle
  rw [BitVec.toNat_ofNat, Nat.mod_eq_of_lt (hle.trans_lt (width_lt_two_pow ty))]
  rfl

theorem opClz_eq : opClz ty a.toNat
    = (BitVec.ofNat (width ty) ((List.range (width ty)).find? (fun i => a.getMsbD i) |>.getD (width ty))).toNat := by
  have hle : (if a.toNat = 0 then width ty else width ty - 1 - Nat.log2 a.toNat) ≤ width ty := by split <;> omega
  rw [find_getMsbD, BitVec.toNat_ofNat, Nat.mod_eq_of_lt (hle.trans_lt (width_lt_two_pow ty)), opClz, Nat.mod_eq_of_lt a.isLt]
  simp only [beq_iff_eq]

/-- The conditions of `icmp` on two elements of a type: eq, ne, lt, le, gt, ge (04 R121). -/
def elemCond (n : Nat) : Bool := match n with
  | 0 => a == b
  | 1 => a != b
  | 2 => Claims.less ty a b
  | 3 => !Claims.less ty b a
  | 4 => Claims.less ty b a
  | _ => !Claims.less ty a b

theorem intCond_eq (n : Nat) : intCond n (iv ty a.toNat) (iv ty b.toNat) = elemCond a b n := by
  have hless (x y : BitVec (width ty)) : Claims.less ty x y = decide (iv ty x.toNat < iv ty y.toNat) := by
    rw [Bool.eq_iff_iff, decide_eq_true_iff]; exact less_iff x y
  have hbeq : (a == b) = (iv ty a.toNat == iv ty b.toNat) := by
    rw [Bool.eq_iff_iff, beq_iff_eq, beq_iff_eq]; exact (intOf_inj a b).symm
  unfold intCond elemCond
  split
  case h_1 => exact hbeq.symm
  case h_2 => exact congrArg not hbeq.symm
  all_goals simp only [hless, ← decide_not, Int.not_lt, gt_iff_lt, ge_iff_le]

theorem condMask_eq (p : Bool) : condMask (width ty) p = (if p then -1 else 0 : BitVec (width ty)).toNat := by
  cases p with
  | true => exact (toNat_neg_one _).symm
  | false => rfl

/-- `agen` adds b × 2^k, whichever of its two readings b has (04 R122). -/
theorem opAgen_eq (fn : BitVec 5) : opAgen ty fn.toNat a.toNat b.toNat = (if fn.getLsbD 3
    then BitVec.ofNat (width ty) ((a + b <<< (fn.toNat % 8)).toNat % 2 ^ 24) else a + b <<< (fn.toNat % 8)).toNat := by
  have hb : BitVec.ofInt (width ty) (if ty == 1 then (b.toNat : Int) else iv ty b.toNat) = b := by
    rw [apply_ite (BitVec.ofInt _), BitVec.ofInt_natCast, BitVec.ofNat_toNat, BitVec.setWidth_eq, iv, ofInt_intOf, ite_self]
  have hpow : BitVec.ofInt (width ty) (2 ^ (fn.toNat % 8)) = BitVec.twoPow (width ty) (fn.toNat % 8) :=
    BitVec.eq_of_toNat_eq (by
      rw [BitVec.toNat_ofInt, BitVec.toNat_twoPow]
      norm_cast)
  have hsum : iwrap (width ty) (iv ty a.toNat + (if ty == 1 then (b.toNat : Int) else iv ty b.toNat) * 2 ^ (fn.toNat % 8))
      = (a + b <<< (fn.toNat % 8)).toNat := by
    rw [iwrap_eq_ofInt, BitVec.ofInt_add, BitVec.ofInt_mul, hb, hpow, ← BitVec.shiftLeft_eq_mul_twoPow, iv, ofInt_intOf]
  rw [opAgen, hsum, apply_ite BitVec.toNat, BitVec.toNat_ofNat,
    Nat.mod_eq_of_lt ((Nat.mod_le _ _).trans_lt (a + b <<< (fn.toNat % 8)).isLt)]
  rfl

end

/-! ## Firings element by element (04 R108) -/

section
variable (f : FireIn)

theorem Opnd.elems_lt (o : Opnd) (w n : Nat) : ∀ e ∈ o.elems w n, e < 2 ^ w := by
  intro e he
  unfold Opnd.elems at he
  split at he
  · obtain ⟨k, -, rfl⟩ := List.mem_map.mp (List.mem_of_mem_take he)
    exact Nat.mod_lt _ (Nat.two_pow_pos w)
  · rw [List.eq_of_mem_replicate he]
    exact Nat.mod_lt _ (Nat.two_pow_pos w)

/-- The elements of operand i as words of the type's width. -/
def FireIn.words (i : Nat) : List (BitVec (width f.ty)) := (f.es i).map (BitVec.ofNat _)

theorem FireIn.es_eq_words (i : Nat) : f.es i = (f.words i).map BitVec.toNat := by
  rw [FireIn.words, List.map_map]
  refine (List.map_id _).symm.trans (List.map_congr_left fun e he => ?_)
  exact (Nat.mod_eq_of_lt (Opnd.elems_lt _ _ _ e he)).symm.trans (BitVec.toNat_ofNat e _).symm

theorem FireIn.map1_eq_elem1 {g : Nat → Nat} {h : BitVec (width f.ty) → BitVec (width f.ty)} (hg : ∀ a, g a.toNat = (h a).toNat) :
    f.map1 g = Claims.elem1 f h := by
  simp only [Claims.elem1, FireIn.map1, FireIn.es_eq_words, List.map_map]
  congr 2
  funext a
  simp [hg]

theorem FireIn.map2_eq_elem2 {g : Nat → Nat → Nat} {h : BitVec (width f.ty) → BitVec (width f.ty) → BitVec (width f.ty)}
    (hg : ∀ a b, g a.toNat b.toNat = (h a b).toNat) : f.map2 g = Claims.elem2 f h := by
  simp only [Claims.elem2, FireIn.map2, FireIn.es_eq_words, List.zipWith_map, hg, BitVec.ofNat_toNat, BitVec.setWidth_eq]

theorem FireIn.map3_eq_elem3 {g : Nat → Nat → Nat → Nat}
    {h : BitVec (width f.ty) → BitVec (width f.ty) → BitVec (width f.ty) → BitVec (width f.ty)}
    (hg : ∀ a b c, g a.toNat b.toNat c.toNat = (h a b c).toNat) : f.map3 g = Claims.elem3 f h := by
  simp only [Claims.elem3, FireIn.map3, FireIn.es_eq_words, List.zip_map, List.zipWith_map, hg, Prod.map, BitVec.ofNat_toNat, BitVec.setWidth_eq]

end

/-! ## The integer instructions (04 R119 to R122) -/

/-- 04 R119: the arithmetic, logic and shift instructions. -/
theorem cellIntegerResults : Claims.CellIntegerResults := by
  unfold Claims.CellIntegerResults
  intro s l w os _
  refine ⟨?iadd, ?isub, ?imul, ?imulh, ?idiv, ?irem, ?ineg, ?iabs, ?imin, ?imax, ?and, ?or, ?xor, ?not, ?shl, ?shr, ?sar⟩ <;> intro h
  case iadd => exact (exec_iadd s w).trans (h.sends (FireIn.map2_eq_elem2 _ iwrap_iv_add))
  case isub => exact (exec_isub s w).trans (h.sends (FireIn.map2_eq_elem2 _ iwrap_iv_sub))
  case imul => exact (exec_imul s w).trans (h.sends (FireIn.map2_eq_elem2 _ iwrap_iv_mul))
  case imulh => exact (exec_imulh s w).trans (h.sends (FireIn.map2_eq_elem2 _ opImulh_eq))
  case idiv => exact (exec_idiv s w).trans (h.sends (FireIn.map2_eq_elem2 _ opIdiv_eq))
  case irem => exact (exec_irem s w).trans (h.sends (FireIn.map2_eq_elem2 _ opIrem_eq))
  case ineg => exact (exec_ineg s w).trans (h.sends (FireIn.map1_eq_elem1 _ iwrap_neg))
  case iabs => exact (exec_iabs s w).trans (h.sends (FireIn.map1_eq_elem1 _ opIabs_eq))
  case imin => exact (exec_imin s w).trans (h.sends (FireIn.map2_eq_elem2 _ iv_min))
  case imax => exact (exec_imax s w).trans (h.sends (FireIn.map2_eq_elem2 _ iv_max))
  case and => exact (exec_cellAnd s w).trans (h.sends (FireIn.map2_eq_elem2 _ fun a b => (BitVec.toNat_and a b).symm))
  case or => exact (exec_cellOr s w).trans (h.sends (FireIn.map2_eq_elem2 _ fun a b => (BitVec.toNat_or a b).symm))
  case xor => exact (exec_cellXor s w).trans (h.sends (FireIn.map2_eq_elem2 _ fun a b => (BitVec.toNat_xor a b).symm))
  case not => exact (exec_cellNot s w).trans (h.sends (FireIn.map1_eq_elem1 _ fun a => BitVec.toNat_not.symm))
  case shl => exact (exec_shl s w).trans (h.sends (FireIn.map2_eq_elem2 _ fun a b => BitVec.toNat_shiftLeft.symm))
  case shr => exact (exec_shr s w).trans (h.sends (FireIn.map2_eq_elem2 _ fun a b => (BitVec.toNat_ushiftRight a _).symm))
  case sar => exact (exec_sar s w).trans (h.sends (FireIn.map2_eq_elem2 _ opSar_eq))

/-- 04 R119 to R122: counts, `imad`, compares, selections and address sums. -/
theorem cellCountsComparesAndAddresses : Claims.CellCountsComparesAndAddresses := by
  unfold Claims.CellCountsComparesAndAddresses
  intro s l w os _
  refine ⟨?popc, ?clz, ?imad, ?icmp, ?sel, ?agen⟩ <;> intro h
  case popc => exact (exec_popc s w).trans (h.sends (FireIn.map1_eq_elem1 _ opPopc_eq))
  case clz => exact (exec_clz s w).trans (h.sends (FireIn.map1_eq_elem1 _ opClz_eq))
  case imad => exact (exec_imad s w).trans (h.sends (FireIn.map3_eq_elem3 _ iwrap_iv_mul_add))
  case icmp =>
    refine (exec_icmp s w).trans (h.sends (FireIn.map2_eq_elem2 _ fun a b => ?_))
    rw [intCond_eq, condMask_eq]
    rfl
  case sel => exact (exec_sel s w).trans (h.sends (FireIn.map3_eq_elem3 _ toNat_sel))
  case agen => exact (exec_agen s w).trans (h.sends (FireIn.map2_eq_elem2 _ fun a b => opAgen_eq a b w.fn))

/-- Settles O15: each is one firing, and on every element the model's integer arithmetic is that of words of the type's width. -/
theorem cellIntegerAndCountingResults : Obligations.CellIntegerAndCountingResults :=
  ⟨cellIntegerResults, cellCountsComparesAndAddresses⟩

end Sys2Proof.Machine

/-! ## Moves, gates and merges (04 R112 to R116; 05 R162) -/

namespace Sys2Proof.Machine

/-- A moved token keeps its form, whatever its ROUND (04 R112). -/
theorem movedToken_form (o : Opnd) (x : CtxNo) (r r' : Byte) : (movedToken o x r).form = (movedToken o x r').form := by
  unfold movedToken
  split <;> rfl

/-- The conditions that `gate` and `steer` take (04 R107). -/
theorem condOk_iff (k : Token) : condOk k = true ↔ k.kind ∈ [TokKind.data, .control] ∧ k.form = .scalar := by
  simp [condOk]

theorem condOk_not_marker {k : Token} (h : condOk k = true) : k.kind ≠ .marker := by
  rintro e
  simp [condOk, e] at h

section
variable {s : State} {l : SlotLoc} {op : BitVec 9} {w : SlotWord} {o : Opnd} (hl : s.cur = .slot l) (hfree : s.slotFree l w = true)
include hl hfree

/-- `cpy` and `sink` hand a movable source on (04 R112, R113). -/
theorem State.fireCopy_moves (hmay : s.mayFire l (SlotRules.positions op w) = true) (ho : s.source l 0 w w.sa = some o)
    (hmov : movable o = true) :
    s.fireCopy op w = .next ((s.pullAll l (SlotRules.positions op w)).moveFlight l w
      (movedToken o l.ctx (s.roundOf l (SlotRules.positions op w))) true true) := by
  simp [State.fireCopy, State.slotAgent_slot hl, hfree, hmay, ho, hmov]

section
variable {src : Src} {k : Token} {send : Bool → Bool × Bool} (ho : s.source l 0 w w.sa = some o) (hk : s.headAt l 3 = some (src, k))
include ho hk

/-- The data goes where the condition sends it (04 R114). -/
theorem State.fireChoice_moves (hmov : movable o = true) (hcond : condOk k = true) (hkout : w.fn.getLsbD 0 = false) :
    s.fireChoice op w send = .next ((s.pullAll l (SlotRules.positions op w)).moveFlight l w
      (movedToken o l.ctx (s.roundOf l (SlotRules.positions op w))) (send (fld k.pay 0 32 != 0)).1 (send (fld k.pay 0 32 != 0)).2) := by
  unfold State.fireChoice
  simp only [State.slotAgent_slot hl, hfree, ho, hk, hmov, hcond, hkout, beq_eq_false_iff_ne.mpr (condOk_not_marker hcond)]
  rfl

/-- With KOUT a scalar goes there as a control token (04 R114). -/
theorem State.fireChoice_kout (hmov : movable o = true) (hcond : condOk k = true) (hkout : w.fn.getLsbD 0 = true)
    (hscalar : (movedToken o l.ctx (s.roundOf l (SlotRules.positions op w))).form = .scalar) :
    s.fireChoice op w send = .next ((s.pullAll l (SlotRules.positions op w)).moveFlight l w
      { movedToken o l.ctx (s.roundOf l (SlotRules.positions op w)) with kind := .control } (send (fld k.pay 0 32 != 0)).1
      (send (fld k.pay 0 32 != 0)).2) := by
  unfold State.fireChoice
  simp only [State.slotAgent_slot hl, hfree, ho, hk, hmov, hcond, hkout, hscalar, beq_eq_false_iff_ne.mpr (condOk_not_marker hcond)]
  rfl

/-- A condition that is no scalar data or control token, or with KOUT data that is no scalar, ends the firing (04 R107, R114). -/
theorem State.fireChoice_fails (hkind : k.kind ≠ .marker)
    (hbad : condOk k = false ∨ (w.fn.getLsbD 0 = true ∧ (movedToken o l.ctx (s.roundOf l (SlotRules.positions op w))).form ≠ .scalar)) :
    s.fireChoice op w send = .next (s.fireFault l (SlotRules.positions op w) Cause.illegal 0 false) := by
  unfold State.fireChoice
  simp only [State.slotAgent_slot hl, hfree, ho, hk, beq_eq_false_iff_ne.mpr hkind, Bool.not_true, Bool.false_eq_true, ↓reduceIte]
  refine if_pos ?_
  rcases hbad with hcond | ⟨hfn, hform⟩
  · simp only [hcond, Bool.not_false, Bool.or_true, Bool.true_or]
  · simp only [hfn, bne_iff_ne.mpr hform, Bool.and_self, Bool.or_true]

end

/-- `merge` takes the token at A, or the one at B where none stands at A (04 R115). -/
theorem execMerge_takes {c : BitVec 5} (hc : s.source l 0 w w.sa = some o ∧ c = w.sa ∨ s.source l 0 w w.sa = none ∧ s.source l 0 w w.sb = some o ∧ c = w.sb)
    (hmov : movable o = true) : execMerge w s
      = .next ((s.pullAll l [fld c 0 2]).moveFlight l w (movedToken o l.ctx (s.roundOf l [fld c 0 2])) true true) := by
  unfold execMerge
  rcases hc with ⟨ha, rfl⟩ | ⟨ha, hb, rfl⟩
  · simp only [State.slotAgent_slot hl, hfree, ha, hmov]
    rfl
  · simp only [State.slotAgent_slot hl, hfree, ha, hb, hmov]
    rfl

end

/-- Settles O19: the moves by the data that stands at A and the condition at position 3, `merge` by the token it takes, `const` by its firing. -/
theorem movesGatesAndMerges : Obligations.MovesGatesAndMerges := by
  unfold Obligations.MovesGatesAndMerges
  intro s l w hl hfree
  refine ⟨fun o ho hmov => ⟨?cpy, ?sink, ?choice, ?kout, ?badCondition, ?mergeA⟩, ?mergeB, ?constVector, ?constScalar⟩
  case cpy => exact fun hmay => (exec_cpy s w).trans (State.fireCopy_moves hl hfree hmay ho hmov)
  case sink => exact fun hmay => (exec_sink s w).trans (State.fireCopy_moves hl hfree hmay ho hmov)
  case choice =>
    intro src k hk hkind hform hfn
    have hcond := (condOk_iff k).mpr ⟨hkind, hform⟩
    have hkout : w.fn.getLsbD 0 = false := by rw [hfn]; rfl
    exact ⟨(exec_gate s w).trans (State.fireChoice_moves hl hfree ho hk hmov hcond hkout),
      (exec_steer s w).trans (State.fireChoice_moves hl hfree ho hk hmov hcond hkout)⟩
  case kout =>
    intro src k hk hkind hform hfn
    have hcond := (condOk_iff k).mpr ⟨hkind, hform⟩
    have hkout : w.fn.getLsbD 0 = true := by rw [hfn]; rfl
    refine ⟨fun hscalar => ?_, fun hscalar => ?_⟩
    · have hform (r : Byte) : (movedToken o l.ctx r).form = .scalar := (movedToken_form o l.ctx r 0).trans (beq_iff_eq.mp hscalar)
      exact ⟨(exec_gate s w).trans (State.fireChoice_kout hl hfree ho hk hmov hcond hkout (hform _)),
        (exec_steer s w).trans (State.fireChoice_kout hl hfree ho hk hmov hcond hkout (hform _))⟩
    · have hform (r : Byte) : (movedToken o l.ctx r).form ≠ .scalar := by
        rw [movedToken_form o l.ctx r 0]
        exact beq_eq_false_iff_ne.mp hscalar
      exact ⟨(exec_gate s w).trans (State.fireChoice_fails hl hfree ho hk (condOk_not_marker hcond) (.inr ⟨hkout, hform _⟩)),
        (exec_steer s w).trans (State.fireChoice_fails hl hfree ho hk (condOk_not_marker hcond) (.inr ⟨hkout, hform _⟩))⟩
  case badCondition =>
    intro src k hk hkind hbad
    have hcond : condOk k = false := by
      rw [Bool.eq_false_iff, ne_eq, condOk_iff]
      tauto
    exact ⟨(exec_gate s w).trans (State.fireChoice_fails hl hfree ho hk hkind (.inl hcond)),
      (exec_steer s w).trans (State.fireChoice_fails hl hfree ho hk hkind (.inl hcond))⟩
  case mergeA => exact (exec_merge s w).trans (execMerge_takes hl hfree (.inl ⟨ho, rfl⟩) hmov)
  case mergeB => exact fun o ha hb hmov => (exec_merge s w).trans (execMerge_takes hl hfree (.inr ⟨ha, hb, rfl⟩) hmov)
  case constVector => exact fun a b h hvec => (exec_const s w).trans (h.sends (if_pos hvec))
  case constScalar =>
    intro a b h hvec
    have hscalar : ((Claims.firing l w false [a, b]).op 0).vec ≠ true := Bool.eq_false_iff.mp hvec
    refine (exec_const s w).trans (h.sends ((if_neg hscalar).trans ?_))
    rw [FireIn.map1, List.map_id]
    rfl

end Sys2Proof.Machine

/-! ## The block scheduler (04 R111, R118; 06 R180; 09 R232; 16 R309, R310) -/

namespace Sys2Proof.Machine

/-! ### The order of decisions (16 R309) -/

theorem firstBlock_mem {lt : Nat → Nat → Bool} {bs : List Nat} {c : Nat} (h : firstBlock lt bs = some c) : c ∈ bs := by
  induction bs generalizing c with
  | nil => cases h
  | cons a r ih =>
    rw [firstBlock] at h
    split at h
    · next d hd =>
      split at h <;> cases h
      · exact .tail _ (ih hd)
      · exact .head _
    · cases h
      exact .head _

/-- A block that goes before every other of a list is the first of it. -/
theorem firstBlock_eq {lt : Nat → Nat → Bool} {b : Nat} {bs : List Nat} (hb : b ∈ bs) (hfirst : ∀ c ∈ bs, c ≠ b → lt b c = true ∧ lt c b = false) :
    firstBlock lt bs = some b := by
  induction bs with
  | nil => cases hb
  | cons a r ih =>
    rw [firstBlock]
    by_cases hab : a = b
    · subst hab
      split
      · next c hc =>
        by_cases hca : c = a
        · rw [hca, ite_self]
        · rw [(hfirst c (.tail _ (firstBlock_mem hc)) hca).2]
          rfl
      · rfl
    · rw [ih ((List.mem_cons.mp hb).resolve_left (Ne.symm hab)) fun c hc => hfirst c (.tail _ hc)]
      exact if_pos (hfirst a (.head _) hab).1

theorem ahead_of_lt {value stage : Nat → Nat} {a b : Nat} (h : value a < value b) :
    ahead value stage b a = true ∧ ahead value stage a b = false := by
  have hne : value a ≠ value b := Nat.ne_of_lt h
  exact ⟨by simp [ahead, h], by simp [ahead, hne, Nat.le_of_lt h]⟩

namespace Sched
variable {c : Sched} {stage : Nat → Nat} {b : Nat}

theorem mem_waiting {j : Nat} : j ∈ (List.range 16).filter (fun b => !(c.queue b).isEmpty) ↔ j < 16 ∧ c.queue j ≠ [] := by
  simp

/-- No block goes first for its counter while none has been passed over 48 times. -/
theorem overdue_none (hpassed : ∀ j < 16, c.passed j < 48) :
    ((List.range 16).filter (fun b => !(c.queue b).isEmpty)).filter (fun b => c.passed b ≥ 48) = [] := by
  refine List.filter_eq_nil_iff.mpr fun j hj => ?_
  have := hpassed j (mem_waiting.mp hj).1
  simpa using this

/-- The block with the most waiting tokens is chosen while none has been passed over 48 times. -/
theorem choice_longest (hb : b < 16) (hq : c.queue b ≠ []) (hpassed : ∀ j < 16, c.passed j < 48)
    (hlongest : ∀ j < 16, j ≠ b → (c.queue j).length < (c.queue b).length) : c.choice stage = some b := by
  have hfirst := firstBlock_eq (lt := ahead (fun b => (c.queue b).length) stage) (mem_waiting.mpr ⟨hb, hq⟩)
    fun j hj hjb => ahead_of_lt (hlongest j (mem_waiting.mp hj).1 hjb)
  simp only [choice, overdue_none hpassed, firstBlock, Option.none_or, hfirst]

/-- A block passed over 48 times goes first. -/
theorem choice_overdue (hb : b < 16) (hq : c.queue b ≠ []) (hover : 48 ≤ c.passed b) (hpassed : ∀ j < 16, j ≠ b → c.passed j < 48) :
    c.choice stage = some b := by
  have hfirst := firstBlock_eq (lt := ahead c.passed stage) (bs := ((List.range 16).filter (fun b => !(c.queue b).isEmpty)).filter
      (fun b => c.passed b ≥ 48)) (List.mem_filter.mpr ⟨mem_waiting.mpr ⟨hb, hq⟩, by simpa using hover⟩)
    fun j hj hjb => ahead_of_lt ((hpassed j (mem_waiting.mp (List.mem_filter.mp hj).1).1 hjb).trans_le hover)
  simp only [choice, hfirst, Option.some_or]

/-- The counter of a block after a decision for b: that of b returns to 0, that of a block with waiting tokens rises. -/
def counted (c : Sched) (b j : Nat) : Nat := if j = b then 0 else if c.queue j = [] then c.passed j else c.passed j + 1

theorem getD_counts (n j : Nat) :
    Tab.getD ((List.range n).foldl (fun w i =>
      if i == b then Tab.set w i 0 else if (c.queue i).isEmpty then w else Tab.set w i (c.passed i + 1)) c.w) j
      = if j < n then c.counted b j else c.passed j := by
  induction n with
  | zero => rfl
  | succ n ih =>
    rw [List.range_succ, List.foldl_append, List.foldl_cons, List.foldl_nil]
    by_cases hj : j = n
    · subst hj
      rw [if_pos (Nat.lt_succ_self j), counted]
      by_cases hb : j = b
      · simp [hb]
      · by_cases hq : c.queue j = []
        · simpa [hb, hq] using ih
        · simp [hb, hq]
    · have hset (w : Tab Nat) (v : Nat) : Tab.getD (Tab.set w n v) j = Tab.getD w j := Tab.getD_set_ne w n j v hj
      rw [apply_ite (Tab.getD · j), apply_ite (Tab.getD · j), hset, hset, ite_self, ite_self, ih]
      exact if_congr (by omega) rfl rfl

theorem passed_decide (force : Bool) {j : Nat} (hj : j < 16) : (c.decide b force).passed j = c.counted b j :=
  (getD_counts 16 j).trans (if_pos hj)

end Sched

@[simp] theorem State.sched_updSched_self (s : State) (g : RegionNo) (x : CtxNo) (f : Sched → Sched) :
    (s.updSched g x f).sched g x = f (s.sched g x) := by
  simp [State.sched, State.updSched]

/-! ### Decisions, activation and admission -/

section
variable {s : State} {g : RegionNo} {x : CtxNo}

/-- Where a decision may be taken. -/
structure State.MayDecide (s : State) (g : RegionNo) (x : CtxNo) : Prop where
  granted : Tab.has (s.core g).grants x.toNat = true
  running : s.schedulersRun = true
  ctxRuns : s.ctxRuns g x = true
  unchosen : (s.sched g x).chosen = none

theorem execBlockDecision_forced (h : s.MayDecide g x) {b : Nat} (hf : (s.sched g x).forced = some b) :
    execBlockDecision g x s = .next (s.updSched g x (fun c => c.decide b true)) := by
  simp [execBlockDecision, h.granted, h.running, h.ctxRuns, h.unchosen, hf]

theorem execBlockDecision_busy (h : s.MayDecide g x) (hf : (s.sched g x).forced = none) (hactive : (s.sched g x).active ≠ none)
    (hbusy : s.quiescent g x = false) : execBlockDecision g x s = .next s := by
  simp [execBlockDecision, h.granted, h.running, h.ctxRuns, h.unchosen, hf, Option.isSome_iff_ne_none.mpr hactive, hbusy]

/-- The scheduler's own choice, once no block is active or the active one is quiescent. -/
theorem execBlockDecision_chooses (h : s.MayDecide g x) (hf : (s.sched g x).forced = none)
    (hidle : (s.sched g x).active = none ∨ s.quiescent g x = true) {b : Nat} (hb : (s.sched g x).choice (s.stageOf g x) = some b) :
    execBlockDecision g x s = .next (s.updSched g x (fun c => c.decide b false)) := by
  have hquiet : ((s.sched g x).active.isSome && !s.quiescent g x) = false := by
    rcases hidle with hnone | hquiet
    · rw [hnone]
      rfl
    · rw [hquiet, Bool.not_true, Bool.and_false]
  simp [execBlockDecision, h.granted, h.running, h.ctxRuns, h.unchosen, hf, hquiet, hb]

/-- The chosen configuration is activated once the accesses of the previous one have performed (09 R232). -/
theorem execActivate_activates {b : Nat} {c : Cfg} (hchosen : (s.sched g x).chosen = some b) (hstaged : Tab.get (s.sched g x).staged b = some c)
    (hruns : s.ctxRuns g x = true) (hcells : (s.core g).cellsOut x = false) (hquiet : (s.core g).quiet x = true)
    (hforce : (s.sched g x).force = false) (hclash : (s.core g).chanClash x c = false) :
    execActivate g x s = .next (((s.stamp g).updCore g (fun k => k.activate x b c)).goneTo g x b) := by
  simp [execActivate, hchosen, hstaged, hruns, hcells, hquiet, hforce, hclash]

theorem State.sched_updThread (y : CtxNo) (f : Thread → Thread) : (s.updThread g y f).sched g x = s.sched g x := by
  simp [State.sched, State.updThread]

theorem State.sched_goneTo (b : Nat) : (s.goneTo g x b).sched g x = s.sched g x := by
  unfold State.goneTo
  split
  · exact State.sched_updThread ..
  · dsimp only
    split
    · exact State.sched_updThread ..
    · rfl

/-- The queue of a block when the active configuration ends: the tokens not admitted return to the queue of their own (log 29). -/
theorem Core.queue_deactivate {k : Core} {b : Nat}
    (h : (Tab.getD k.sched x.toNat : Sched).active = some b → (Tab.getD k.sched x.toNat : Sched).batch = []) :
    (Tab.getD (k.deactivate x).sched x.toNat : Sched).queue b = (Tab.getD k.sched x.toNat : Sched).queue b := by
  simp only [Core.deactivate, Tab.getD_set_self]
  split
  · next a ha =>
    by_cases hab : b = a
    · subst hab
      simp [Sched.queue, h ha]
    · simp [Sched.queue, hab]
  · rfl

/-- The scheduler after an activation: the chosen block is active, with its entry queue as the batch (16 R309). -/
theorem Core.sched_activate {k : Core} {b : Nat} {c : Cfg}
    (h : (Tab.getD k.sched x.toNat : Sched).active = some b → (Tab.getD k.sched x.toNat : Sched).batch = []) :
    let sc' : Sched := Tab.getD (k.activate x b c).sched x.toNat
    sc'.active = some b ∧ sc'.loaded = c ∧ sc'.chosen = none
      ∧ sc'.batch = (if c.hasTid then (Tab.getD k.sched x.toNat : Sched).queue b else []) ∧ sc'.queue b = [] := by
  have hqueue := Core.queue_deactivate h
  refine ⟨?_, ?_, ?_, ?_, ?_⟩ <;> simp only [Core.activate, Tab.getD_set_self]
  · rw [← hqueue]
    rfl
  · exact Tab.getD_set_self ..

/-- The `tid` slots of a context (04 R118). -/
def State.tidSlots (s : State) (g : RegionNo) (x : CtxNo) : List (Nat × Slot) :=
  ((s.core g).ctxSlots x).filter (fun e => fld e.2.word 55 9 == 0x008#9)

/-- A thread token of the batch is admitted to every `tid` slot once none holds a result (04 R111, R118). -/
theorem execThreadTokenAdmit_admits {coords : List (BitVec 16)} {rest : List (List (BitVec 16))}
    (hbatch : (s.sched g x).batch = coords :: rest) (hruns : s.ctxRuns g x = true) (hactive : (s.sched g x).active ≠ none)
    (hempty : (s.tidSlots g x).all (fun e => e.2.res.empty) = true) :
    execThreadTokenAdmit g x s = .next ((s.updCore g (fun k => k.putSlots x ((s.tidSlots g x).map
      (fun e => (e.1, { e.2 with tids := e.2.tids ++ [coords] }))))).updSched g x (fun c => { c with batch := rest })) := by
  have hnone : (s.sched g x).active.isNone = false := Option.isNone_eq_false_iff.mpr (Option.isSome_iff_ne_none.mpr hactive)
  rw [List.all_eq_not_any_not, Bool.not_eq_true', State.tidSlots] at hempty
  simp only [execThreadTokenAdmit, hbatch, hruns, hnone, hempty, Bool.not_true, Bool.or_self, Bool.false_eq_true, ↓reduceIte]
  rfl

/-- It waits until then. -/
theorem execThreadTokenAdmit_waits {coords : List (BitVec 16)} {rest : List (List (BitVec 16))}
    (hbatch : (s.sched g x).batch = coords :: rest)
    (hfull : (s.tidSlots g x).all (fun e => e.2.res.empty) = false) :
    execThreadTokenAdmit g x s = .next s := by
  rw [List.all_eq_not_any_not, Bool.not_eq_false', State.tidSlots] at hfull
  simp only [execThreadTokenAdmit, hbatch, hfull, Bool.or_true, ↓reduceIte]

end

/-- Settles O46: the order of decisions, the counters after one, and the scheduler after an activation. -/
theorem blocksAreScheduled : Obligations.BlocksAreScheduled := by
  unfold Obligations.BlocksAreScheduled
  intro s g x k sc may
  have mayDecide (h : may) : s.MayDecide g x := ⟨h.1, h.2.1, h.2.2.1, h.2.2.2⟩
  refine ⟨?forced, ?busy, ?longest, ?overdue, ?activates, ?activated, ?admits⟩
  case forced => exact fun b h hf => (exec_blockDecision s g x).trans (execBlockDecision_forced (mayDecide h) hf)
  case busy => exact fun h hf hactive hbusy => (exec_blockDecision s g x).trans (execBlockDecision_busy (mayDecide h) hf hactive hbusy)
  case longest =>
    intro b h hf hidle hq hb hpassed hlongest
    refine ⟨_, (exec_blockDecision s g x).trans
      (execBlockDecision_chooses (mayDecide h) hf hidle (Sched.choice_longest hb hq hpassed hlongest)), ?_, ?_, fun j hj hjb => ?_⟩
    · rw [State.sched_updSched_self]
      rfl
    · rw [State.sched_updSched_self, Sched.passed_decide false hb]
      exact if_pos rfl
    · rw [State.sched_updSched_self, Sched.passed_decide false hj]
      exact if_neg hjb
  case overdue =>
    intro b h hf hidle hq hb hover hpassed
    refine ⟨_, (exec_blockDecision s g x).trans
      (execBlockDecision_chooses (mayDecide h) hf hidle (Sched.choice_overdue hb hq hover hpassed)), ?_, ?_⟩
    · rw [State.sched_updSched_self]
      rfl
    · rw [State.sched_updSched_self, Sched.passed_decide false hb]
      exact if_pos rfl
  case activates =>
    exact fun b c hchosen hstaged hruns hcells hquiet hforce hclash =>
      (exec_activate s g x).trans (execActivate_activates hchosen hstaged hruns hcells hquiet hforce hclash)
  case activated =>
    intro b c hchosen hstaged hruns hcells hquiet hforce hclash _ hbatch
    refine ⟨_, (exec_activate s g x).trans (execActivate_activates hchosen hstaged hruns hcells hquiet hforce hclash), ?_⟩
    rw [State.sched_goneTo, State.sched, State.core_updCore_self, State.core_stamp]
    exact Core.sched_activate hbatch
  case admits =>
    intro coords rest hbatch hruns hactive
    exact ⟨fun hempty => (exec_threadTokenAdmit s g x).trans (execThreadTokenAdmit_admits hbatch hruns hactive hempty),
      fun hfull => (exec_threadTokenAdmit s g x).trans (execThreadTokenAdmit_waits hbatch hfull)⟩

end Sys2Proof.Machine

/-! ## Sequences and coordinates: the issue cycle of a firing (01 R27; 04 R117, R118; log 80) -/

namespace Sys2Proof.Machine

/-- A `tid` firing takes the issue cycle of its slot (01 R27, 04 R118). -/
theorem execTid_fires {s : State} {l : SlotLoc} {w : SlotWord} {c : List (BitVec 16)} {rest : List (List (BitVec 16))} (hl : s.cur = .slot l)
    (hfree : s.slotFree l w = true) (htids : (s.slotAt l).tids = c :: rest) :
    let o : FireOut := { pay := (c.getD (w.fn.toNat % 4) 0).toNat }
    execTid w s = .next (((s.issued l).launchFlight l w o (o.token l.ctx (s.slotAt l).rc true)).updSlot l (fun u => { u with tids := rest })) := by
  simp [execTid, State.slotAgent_slot hl, hfree, htids]

section
variable (s : State) (l : SlotLoc)

theorem State.ready_updSlot (f : Slot → Slot) : ((s.updSlot l f).cell l.g l.cell).ready = (s.cell l.g l.cell).ready := by
  rw [State.updSlot, State.cell_updCell_self]

theorem State.ready_launchFlight (w : SlotWord) (o : FireOut) (tok : Token) :
    ((s.launchFlight l w o tok).cell l.g l.cell).ready = (s.cell l.g l.cell).ready := by
  rw [State.launchFlight, State.ready_updSlot, State.cell_updCell_self, State.cell_stamp]

theorem State.ready_issued : ((s.issued l).cell l.g l.cell).ready = Tab.erase (s.cell l.g l.cell).ready (slotKey l.ctx l.slot) := by
  rw [State.issued, State.cell_updCell_self]

end

/-- A `tid` slot: its place and its word, which sends coordinate 0 to position 0 of slot 10 of its own cell (04 R118). -/
def tidLoc : SlotLoc := ⟨0, 0, 0, 0⟩
def tidWord : SlotWord := ⟨0, 10, 10, 0, 0x028, 0xE00, false⟩
/-- A machine whose next agent is that slot, with one admitted thread token. -/
def tidTurn : State :=
  ({ State.reset with agenda := [.slot tidLoc] }).updSlot tidLoc (fun _ => { word := encodeSlot 0x008 tidWord, tids := [[7, 0, 0, 0]] })

/-- The step that takes the slot has noted it as ready, and it may fire (01 R27, R36). -/
theorem tidTurn_ready : (tidTurn.schedule.cell 0 0).ready = [(0, 0)] := by decide +kernel
theorem tidTurn_free : tidTurn.schedule.slotFree tidLoc tidWord = true := by decide +kernel
theorem tidTurn_tids : (tidTurn.schedule.slotAt tidLoc).tids = [[7, 0, 0, 0]] := by decide +kernel

/-- Refutes O20: the clause on `tid` (and that on the further values of `iter`) gives the state of the firing without the issue cycle that it
takes. In the state in which `step` executes the `tid` slot of `tidTurn` the cell lists the slot as ready; the firing, which makes it
become ready anew (`State.issued`), takes it off that list, while the state of the clause still holds it. -/
theorem not_markersAndSequences : ¬ Obligations.MarkersAndSequences := by
  unfold Obligations.MarkersAndSequences Claims.SequencesAndCoordinates
  rintro ⟨-, hseq⟩
  obtain ⟨-, -, htid⟩ := hseq tidTurn.schedule tidLoc tidWord
  have hclaim := htid [7, 0, 0, 0] [] rfl tidTurn_free tidTurn_tids
  have hfires := (exec_tid tidTurn.schedule tidWord).trans (execTid_fires rfl tidTurn_free tidTurn_tids)
  have hstate := Host.Outcome.next.inj (hfires.symm.trans hclaim)
  have hready := congrArg (fun t => (t.cell tidLoc.g tidLoc.cell).ready) hstate
  simp only [State.ready_updSlot, State.ready_launchFlight, State.ready_issued] at hready
  have hlisted : (tidTurn.schedule.cell tidLoc.g tidLoc.cell).ready = [(0, 0)] := tidTurn_ready
  rw [hlisted] at hready
  exact absurd hready (by decide)

end Sys2Proof.Machine

/-! ## Memory firings of cells (05 R134 to R145, R155 to R159) -/

namespace Sys2Proof.Claims
open Machine

section
variable {s : State} {l : SlotLoc} {i : Instr} {op : BitVec 9} {w : SlotWord} {a b : Opnd} {wr : Bool}
  {build : SlotLoc → Grant → Opnd → Opnd → Except MemErr Acc} (h : Reaches s l op w a b) (hi : exec i s = s.fireMem op w wr build)
include h hi

/-- A firing that reaches its access starts the one that its meaning builds. -/
theorem Reaches.starts {acc : Acc} (hwr : acc.wr = wr) (hb : build l (s.grant l.g l.ctx) a b = .ok { acc with wr := false }) :
    Next (exec i s) (started s l op w a b acc) := by
  subst hwr
  exact hi.trans (State.fireAcc_starts h.agent h.free h.may h.room h.srcA h.srcB h.kinds.1 h.kinds.2 (acc := { acc with wr := false }) hb)

/-- One whose address or data is refused ends with the cause (05 R141). -/
theorem Reaches.refused {c : Byte} {va : Nat} (hb : build l (s.grant l.g l.ctx) a b = .error (c, va)) :
    Next (exec i s) (s.fireFault l (SlotRules.positions op w) c va wr) :=
  hi.trans (State.fireAcc_fails h.agent h.free h.may h.room h.srcA h.srcB h.kinds.1 h.kinds.2 hb)

end

end Sys2Proof.Claims

namespace Sys2Proof.Machine

/-! ### Addresses and data (05 R138, R139, R142) -/

theorem bits_eq_div_mod (v lo hi : Nat) : bits v lo hi = v / 2 ^ lo % 2 ^ (hi + 1 - lo) := by rw [bits, Nat.shiftRight_eq_div_pow]

section
variable (w : SlotWord) (a b : Opnd)

theorem bankAddr_plain : bankAddr w a b false = addrA w a % 2 ^ 32 := by
  simp only [bankAddr, Num.iwrap, Bool.false_eq_true, if_false]
  omega

/-- A wide address that has a place: that of a vector (05 R139). -/
theorem wideAddr_vector (h : a.vec = true) (off : Bool) :
    wideAddr w a b off = some (((((a.pay % 2 ^ 64 : Nat) : Int) + if off then offB w b else 0) % 2 ^ 64).toNat) := by
  rw [wideAddr, if_pos h, Num.iwrap]

theorem wideAddr_plain (h : a.vec = true) : wideAddr w a b false = some (a.pay % 2 ^ 64) := by
  rw [wideAddr_vector w a b h]
  simp only [Bool.false_eq_true, if_false, Option.some.injEq]
  omega

end

theorem storeData_of_form {line : Bool} {n : Nat} {o : Opnd} (h : o.vec = line) :
    storeData line n o = some (natToBytes n (o.pay % 2 ^ (8 * n))) := by
  rw [storeData, if_pos (by simpa using h)]

section
variable {g : RegionNo} {gr : Grant} {a : Acc} {off va n : Nat} {pl : Place}

theorem bankAcc_ok (h : bankPlace g gr off n = .ok pl) :
    bankAcc g gr a off n = .ok { a with addr := Claims.bankAddress off, n := n, phase := .ready pl } := by
  rw [bankAcc, h]; rfl

theorem bankAcc_error {c : Byte} (h : bankPlace g gr off n = .error c) : bankAcc g gr a off n = .error (c, Claims.bankAddress off) := by
  rw [bankAcc, h]; rfl

/-- An ordinary address of class 0x0 that is aligned (05 R139). -/
theorem wideAcc_ordinary (hc : clsOf va = 0) (hb : bits va 57 59 = 0) (hn : va % n = 0) :
    wideAcc g gr a va n = .ok { a with addr := va, n := n } := by
  simp [wideAcc, classFault, hc, hb, hn]

theorem streamAcc_ok (hc : clsOf va = 4) (hn : va % 2 ^ 48 % n = 0) :
    streamAcc a va n = .ok { a with addr := va, n := n, phase := .entering } := by
  have hcls : streamCls va = none := by simp [streamCls, hc]
  rw [streamAcc, hcls, if_neg (by simpa using hn)]

theorem controlAcc_ok {op : AccOp} (hc : clsOf va = 4) : controlAcc op va = .ok { op := op, addr := va, phase := .entering } := by
  simp [controlAcc, streamCls, hc]

/-- Why a bank address is refused, the lowest-numbered cause first (05 R138, 00 R16). -/
theorem bankPlace_cases (g : RegionNo) (gr : Grant) (off n : Nat) :
    (off % n ≠ 0 ∧ bankPlace g gr off n = .error Cause.misaligned)
    ∨ (off % n = 0 ∧ 2 ^ 24 ≤ off ∧ bankPlace g gr off n = .error Cause.addrClass)
    ∨ (off % n = 0 ∧ off < 2 ^ 24 ∧ gr.lease * 4096 < off % 65536 + n ∧ bankPlace g gr off n = .error Cause.pagePermission)
    ∨ (off % n = 0 ∧ off < 2 ^ 24 ∧ off % 65536 + n ≤ gr.lease * 4096
        ∧ bankPlace g gr off n = .ok { bank := true, g := g, pa := off + gr.base * 4096 }) := by
  by_cases hn : off % n = 0
  · by_cases ho : off < 2 ^ 24
    · by_cases hl : off % 65536 + n ≤ gr.lease * 4096
      · exact .inr (.inr (.inr ⟨hn, ho, hl, by simp [bankPlace, inLease, hn, hl]; omega⟩))
      · exact .inr (.inr (.inl ⟨hn, ho, by omega, by simp [bankPlace, inLease, hn, hl]; omega⟩))
    · exact .inr (.inl ⟨hn, by omega, by simp [bankPlace, hn]; omega⟩)
  · exact .inl ⟨hn, by simp [bankPlace, hn]⟩

theorem bankPlace_ok (h : bankPlace g gr off n = .ok pl) :
    off % n = 0 ∧ off < 2 ^ 24 ∧ off % 65536 + n ≤ gr.lease * 4096 ∧ pl = { bank := true, g := g, pa := off + gr.base * 4096 } := by
  obtain ⟨-, e⟩ | ⟨-, -, e⟩ | ⟨-, -, -, e⟩ | ⟨hn, ho, hl, e⟩ := bankPlace_cases g gr off n
  all_goals
    rw [e] at h
    cases h
  exact ⟨hn, ho, hl, rfl⟩

end

/-- Settles O24: each meaning builds the access of its rule from the operands, and the firing starts it. -/
theorem memoryFiringsStartOneAccess : Obligations.MemoryFiringsStartOneAccess := by
  unfold Obligations.MemoryFiringsStartOneAccess
  intro s l w a b gr line n sum base starts
  have hsum : bankAddr w a b true = sum := rfl
  have hbase : bankAddr w a b false = base := bankAddr_plain w a b
  have hdata (hf : b.vec = line) : storeData (lineOf? w) (accBytes w) b = some (natToBytes n (b.pay % 2 ^ (8 * n))) := storeData_of_form hf
  refine ⟨fun pl hpl h => ?_, fun pl hpl hf h => ?_, fun pl hpl hg h => ?_, fun pl hpl h => ?_, fun pl hpl hvec hrsv h => ?_,
    fun hvec => ?_, ?_⟩
  · exact h.starts (exec_ld s w) rfl (by rw [hsum]; exact bankAcc_ok hpl)
  · exact h.starts (exec_st s w) rfl (by rw [hdata hf, hbase]; exact bankAcc_ok hpl)
  · exact h.starts (exec_aupd s w) rfl (by rw [if_neg (by rw [hg]; exact Bool.false_ne_true), hbase]; exact bankAcc_ok hpl)
  · exact h.starts (exec_barr s w) rfl (by rw [hbase]; exact bankAcc_ok hpl)
  · have hat : lane0 a % 2 ^ 24 = a.pay % 2 ^ 24 := by unfold lane0; omega
    have hticket : bits (lane0 a) 24 27 = 0 ∧ bits (lane0 a) 28 31 = a.pay / 2 ^ 28 % 16 := by
      simp only [bits_eq_div_mod, lane0]; omega
    refine h.starts (exec_bwait s w) rfl ?_
    rw [if_neg (by simp [hvec, hticket.1]), hat, hticket.2]
    exact bankAcc_ok hpl
  · intro va at_
    have hva : wideAddr w a b true = some va := wideAddr_vector w a b hvec true
    have hat : wideAddr w a b false = some at_ := wideAddr_plain w a b hvec
    refine ⟨fun hc hb hn h => ?_, fun hc hb hn hf h => ?_, fun hc hn h => ?_, fun hc hn hf h => ?_, fun hc h => ?_, fun hc h => ?_⟩
    · exact h.starts (exec_ldg s w) rfl (by rw [hva]; exact wideAcc_ordinary hc hb hn)
    · exact h.starts (exec_stg s w) rfl (by rw [hat, hdata hf]; exact wideAcc_ordinary hc hb hn)
    · exact h.starts (exec_sld s w) rfl (by rw [hva]; exact streamAcc_ok hc hn)
    · exact h.starts (exec_sst s w) rfl (by rw [hat, hdata hf]; exact streamAcc_ok hc hn)
    · exact h.starts (exec_srel s w) rfl (by rw [hat]; exact controlAcc_ok hc)
    · exact h.starts (exec_spub s w) rfl (by rw [hat]; exact controlAcc_ok hc)
  · exact ⟨fun h => h.starts (exec_spill s w) rfl rfl, fun h => h.starts (exec_fill s w) rfl rfl⟩

/-- 05 R141: the causes of a refused address end the firing. -/
theorem refusedAddressesEndTheFiring : Claims.RefusedAddressesEndTheFiring := by
  unfold Claims.RefusedAddressesEndTheFiring
  intro s l w a b c gr n sum base
  have hbase : bankAddr w a b false = base := bankAddr_plain w a b
  refine ⟨fun hc h => h.refused (exec_ld s w) (bankAcc_error hc), fun hc hf h => h.refused (exec_st s w) ?_, fun off k e => ?_, fun off k e => ?_,
    fun off k pl e => ?_⟩
  · rw [storeData_of_form (show b.vec = lineOf? w from hf), hbase]
    exact bankAcc_error hc
  · obtain ⟨hn, -⟩ | ⟨-, -, e'⟩ | ⟨-, -, -, e'⟩ | ⟨-, -, -, e'⟩ := bankPlace_cases l.g gr off k
    · exact hn
    · exact absurd (e'.symm.trans e) (by decide)
    · exact absurd (e'.symm.trans e) (by decide)
    · exact nomatch e'.symm.trans e
  · obtain ⟨-, e'⟩ | ⟨hn, ho, -⟩ | ⟨-, -, -, e'⟩ | ⟨-, -, -, e'⟩ := bankPlace_cases l.g gr off k
    · exact absurd (e'.symm.trans e) (by decide)
    · exact ⟨hn, ho⟩
    · exact absurd (e'.symm.trans e) (by decide)
    · exact nomatch e'.symm.trans e
  · obtain ⟨hn, ho, hl, rfl⟩ := bankPlace_ok e
    exact ⟨hn, ho, hl, rfl⟩

/-! ### Own ranges (05 R156) -/

theorem ownRanges : Claims.OwnRanges := by
  unfold Claims.OwnRanges
  intro s l w a b hcur hfree hmay ha hb hka hkb ps off len fits
  have hlen : (if w.sb == 9 then w.ix.toNat else lane0 b) = len := by simp [len, lane0]
  have hrefused : (bits off 16 23 != l.cell.toNat || len % 4 != 0 || decide (len < 4) || decide (len > 4096)) = true ↔ ¬ fits := by
    simp only [fits, bits_eq_div_mod, Bool.or_eq_true, bne_iff_ne, decide_eq_true_eq]
    omega
  simp only [exec_own, execOwn, State.slotAgent_slot hcur, hfree, hmay, ha, hb, hka, hkb, hlen, Bool.not_true, Bool.or_self, Bool.false_eq_true, if_false]
  refine ⟨fun hf hoff pl hpl => ?_, fun hf => ?_⟩
  · rw [if_neg (mt hrefused.1 (not_not_intro hf)), if_neg (by simpa using hoff), hpl]
  · rw [if_pos (hrefused.2 hf)]
    rfl

/-- Settles O26: the refused addresses by the four cases of a bank place, the own ranges by the checks of `own` in their order. -/
theorem refusedAddressesAndOwnRanges : Obligations.RefusedAddressesAndOwnRanges := ⟨refusedAddressesEndTheFiring, ownRanges⟩

end Sys2Proof.Machine

/-! ## The sparse intersection (05 R154) -/

namespace Sys2Proof.Machine

theorem ofNat_toNat_eq_fld {n m : Nat} (x : BitVec n) : BitVec.ofNat m x.toNat = fld x 0 m := by
  apply BitVec.eq_of_toNat_eq
  simp

/-- What `isect` asks of a token, of one of FORM 3 and of a marker. -/
theorem sparseOk_sparse {t : Token} (h : t.kind = .data ∧ t.form = .sparse) : sparseOk t = true ∧ (t.kind == .marker) = false := by
  simp [sparseOk, h.1, h.2]

theorem sparseOk_marker {t : Token} (h : t.kind = .marker) : sparseOk t = true ∧ (t.kind == .marker) = true := by simp [sparseOk, h]

/-- Settles O27: by the kinds of the two tokens, then by their TAGs. -/
theorem intersectionByTags : Obligations.IntersectionByTags := by
  unfold Obligations.IntersectionByTags
  intro s l w p q a b pa pb hcur hfree ha hb sparse
  simp only [exec_isect, execIsect, State.slotAgent_slot hcur, hfree, ofNat_toNat_eq_fld]
  rw [ha, hb]
  have oks {t : Token} (h : sparse t) := sparseOk_sparse h
  refine ⟨fun ka kb hlt => ?_, fun ka kb hlt => ?_, fun ka kb heq => ?_, fun ka kb => ?_, fun ka kb => ?_, fun ka kb => ?_⟩
  · have hge : ¬ b.tag < a.tag := by rw [BitVec.lt_def]; omega
    simp [oks ka, oks kb, hge, BitVec.lt_def.2 hlt]
    rfl
  · simp [oks ka, oks kb, BitVec.lt_def.2 hlt]
    rfl
  · simp [oks ka, oks kb, heq]
    rfl
  · simp [sparseOk_marker ka, oks kb]
    rfl
  · simp [oks ka, sparseOk_marker kb]
    rfl
  · simp [sparseOk_marker ka, sparseOk_marker kb]
    rfl

end Sys2Proof.Machine

/-! ## Accesses that perform at their place (05 R135, R142; 09 R230) -/

namespace Sys2Proof.Machine

/-! ### An access in its queue -/

theorem State.acc_id {s : State} {g : RegionNo} {id : Nat} {a : Acc} (h : s.acc g id = some a) : a.id = id := by
  simpa using List.find?_some h

section
variable {s : State} {g : RegionNo} {id : Nat} {a : Acc} {pl : Place}

/-- An access that stands at a place of the package, no hold and no bad bits before it, and is no stream access: it performs. -/
structure State.MayPerform (s : State) (g : RegionNo) (id : Nat) (a : Acc) (pl : Place) : Prop where
  here  : s.acc g id = some a
  ready : a.phase = .ready pl
  free  : s.holds g a = false
  owned : s.ownedOk pl = true
  clean : s.accSpoiled g a pl = false
  plain : clsOf a.addr ≠ 4

theorem State.MayPerform.acts (h : s.MayPerform g id a pl) :
    s.ringGone a = false ∧ s.pendingFull a = false := by
  simp [State.ringGone, State.pendingFull, h.plain]

theorem State.MayPerform.slot (h : s.MayPerform g id a pl) {c : CellNo} {x : CtxNo} {n : SlotNo} (hp : a.port = .slot c x n) :
    Claims.Next (exec (.accessPerform g id) s) (s.effect g a pl) := by
  obtain ⟨hring, hpend⟩ := h.acts
  simp [exec_accessPerform, execAccessPerform, h.here, h.ready, h.free, h.owned, h.clean, hring, hpend, hp]

theorem State.MayPerform.thread (h : s.MayPerform g id a pl) {x : CtxNo} (hp : a.port = .thread x) :
    Claims.Next (exec (.accessPerform g id) s) ((s.effect g a pl).ownCxl s.cxl.length (g, (s.grant g x).kernel)) := by
  obtain ⟨hring, hpend⟩ := h.acts
  simp [exec_accessPerform, execAccessPerform, h.here, h.ready, h.free, h.owned, h.clean, hring, hpend, hp]

/-! ### Reads and writes -/

theorem State.effect_read_thread {x : CtxNo} (hop : a.op = .read) (hp : a.port = .thread x) :
    s.effect g a pl = s.performed g a (leNat (s.readPlace pl a.n)) := by
  simp only [State.effect, hop, hp]

theorem State.effect_read_slot {c : CellNo} {x : CtxNo} {n : SlotNo} (hop : a.op = .read) (hp : a.port = .slot c x n) :
    s.effect g a pl = (s.writeResult g a (if a.line then BitVec.ofNat 1024 (a.loadValue (s.readPlace pl a.n))
      else BitVec.ofNat 1024 (a.loadValue (s.readPlace pl a.n) % 2 ^ 32))).performed g a (a.loadValue (s.readPlace pl a.n)) := by
  simp only [State.effect, hop, hp]

theorem State.effect_write {d : List Byte} (hop : a.op = .write d) (hc : clsOf a.addr ≠ 4) :
    s.effect g a pl = (s.writePlace pl d).performed g a 0 := by
  have hc' : (clsOf a.addr == 4) = false := by simpa using hc
  simp only [State.effect, hop, hc', Bool.false_and, Bool.false_eq_true, if_false]

end

/-! ### The bytes of a place -/

section
variable (s : State) (g : RegionNo) (a : Acc) (v : Nat)

@[simp] theorem State.performed_mem : (s.performed g a v).mem = s.mem := by unfold State.performed; cases a.port <;> rfl
@[simp] theorem State.performed_banks : (s.performed g a v).banks = s.banks := by unfold State.performed; cases a.port <;> rfl

end

section
variable (s : State) {pl : Place} (d : List Byte)

theorem State.mem_writePlace_bank (h : pl.bank = true) : (s.writePlace pl d).mem = s.mem := by simp [State.writePlace, h]

theorem State.banks_writePlace_bank (h : pl.bank = true) :
    (s.writePlace pl d).banks = s.banks.writeN (pl.g.toNat * 2 ^ 24 + pl.pa) d := by simp [State.writePlace, h]

/-- Bytes written within one line of memory that is under the key already. -/
theorem State.writeKeyed_line {key : Option (BitVec 512)} {pa : Nat} (hfit : pa % 128 + d.length ≤ 128) (hkey : Tab.get s.lineKey (pa / 128) = key) :
    s.writeKeyed key (d.length + 1) pa d = { s with mem := s.mem.writeN pa d } := by
  have hk : min d.length (128 - pa % 128) = d.length := by omega
  cases d with
  | nil => rfl
  | cons b bs =>
    rw [State.writeKeyed, hk, List.take_length, List.drop_length, if_neg (by simp)]
    simp [State.writeLine, hkey, State.writeKeyed]

/-- A write within one line of memory, under the key that the line is under. -/
theorem State.writePlace_line (h : pl.bank = false) (hfit : pl.pa % 128 + d.length ≤ 128) (hkey : Tab.get s.lineKey (pl.pa / 128) = s.keyOf pl) :
    (s.writePlace pl d).mem = s.mem.writeN pl.pa d ∧ (s.writePlace pl d).banks = s.banks := by
  unfold State.writePlace
  simp only [h, Bool.false_eq_true, if_false]
  split
  · rw [State.writeKeyed_line _ d hfit (by exact hkey)]
    exact ⟨rfl, rfl⟩
  · rw [State.writeKeyed_line _ d hfit (by exact hkey)]
    exact ⟨rfl, rfl⟩

end

/-- 09 R230: a read takes the bytes at its place, a write puts its bytes there and no others. -/
theorem accessesPerformAtTheirPlace : Claims.AccessesPerformAtTheirPlace := by
  unfold Claims.AccessesPerformAtTheirPlace
  intro s g id a pl hacc hready hfree howned hclean hplain who
  have h : s.MayPerform g id a pl := ⟨hacc, hready, hfree, howned, hclean, hplain⟩
  refine ⟨fun x hp hop => ?_, fun c x n hp hop => ?_, fun d hop hok => ⟨?_, fun hbank => ?_, fun hbank hfit hkey => ?_⟩⟩
  · have := h.thread hp
    rw [State.effect_read_thread hop hp] at this
    simpa only [who, hp] using this
  · have := h.slot hp
    rwa [State.effect_read_slot hop hp] at this
  · cases hp : a.port with
    | thread x =>
      have := h.thread hp
      rw [State.effect_write hop hplain] at this
      simpa only [who, hp] using this
    | slot c x n =>
      have := h.slot hp
      rw [State.effect_write hop hplain] at this
      simpa only [who, hp] using this
  · have hwf : s.banks.wf = true := by simp only [State.memOk, Bool.and_eq_true] at hok; exact hok.1.1.2
    intro p t
    refine ⟨?_, ?_, fun q hq => ?_⟩
    · rw [State.performed_mem, State.mem_writePlace_bank s d hbank]
    · rw [State.performed_banks, State.banks_writePlace_bank s d hbank]
      exact Memory.readN_writeN hwf p d
    · rw [State.performed_banks, State.banks_writePlace_bank s d hbank]
      exact Memory.read_writeN_outside s.banks p q d hq
  · have hwf : s.mem.wf = true := by simp only [State.memOk, Bool.and_eq_true] at hok; exact hok.1.1.1
    obtain ⟨hmem, hbanks⟩ := State.writePlace_line s d hbank hfit hkey
    intro t
    refine ⟨?_, ?_, fun q hq => ?_⟩
    · rw [State.performed_banks, hbanks]
    · rw [State.performed_mem, hmem]
      exact Memory.readN_writeN hwf pl.pa d
    · rw [State.performed_mem, hmem]
      exact Memory.read_writeN_outside s.mem pl.pa q d hq

/-! ### Loads of threads deliver (06 R170, R174) -/

/-- A load of up to 8 bytes, sign-extended to the register. -/
theorem signExtend_ofNat {n val : Nat} (hn : 0 < n) (hval : val < 2 ^ n) :
    BitVec.ofNat 64 (Num.iwrap 64 (Num.toSigned n val)) = (BitVec.ofNat n val).signExtend 64 := by
  have hs : Num.toSigned n val = (BitVec.ofNat n val).toInt := by
    have := Num.toSigned_toNat hn (BitVec.ofNat n val)
    rwa [BitVec.toNat_ofNat, Nat.mod_eq_of_lt hval] at this
  rw [hs, Num.iwrap_eq_ofInt, BitVec.ofNat_toNat, BitVec.setWidth_eq, BitVec.signExtend]

theorem lecternLoadsDeliver : Claims.LecternLoadsDeliver := by
  unfold Claims.LecternLoadsDeliver
  intro s g x id val a hacc hp hdone
  have hexec : exec (.accessDeliver g id) s
      = .next ((if a.op == .read then s.updThread g x (fun t => t.deliver a.reg a.size val) else s).dropAcc g id) := by
    simp only [exec_accessDeliver, execAccessDeliver, hacc, hdone, hp]
  have hread (hop : a.op = .read) : exec (.accessDeliver g id) s = .next ((s.updThread g x (fun t => t.deliver a.reg a.size val)).dropAcc g id) := by
    rw [hexec, if_pos (beq_iff_eq.2 hop)]
  refine ⟨fun hop hreg hsize hval => ?_, fun hop hreg => ?_, fun d hop => ?_⟩
  · have hpos : 0 < 8 * a.size := by
      simp only [List.mem_cons, List.not_mem_nil, or_false] at hsize
      omega
    have hdel (t : Thread) : t.deliver a.reg a.size val = t.wg (BitVec.ofNat 5 a.reg) ((BitVec.ofNat (8 * a.size) val).signExtend 64) := by
      rw [Thread.deliver, if_neg (by omega), signExtend_ofNat hpos hval]
    simpa only [hdel] using hread hop
  · have hdel (t : Thread) : t.deliver a.reg a.size val = { t with c := Tab.set t.c (a.reg - 32) (BitVec.ofNat 128 val) } := if_pos hreg
    simpa only [hdel] using hread hop
  · rw [hexec, hop]
    rfl

/-- Settles O5: an access that nothing holds has its effect at its place, and what is delivered is what it read. -/
theorem lecternAccessesPerformAndDeliver : Obligations.LecternAccessesPerformAndDeliver := ⟨accessesPerformAtTheirPlace, lecternLoadsDeliver⟩

end Sys2Proof.Machine

/-! ## Barriers, phases and fences (05 R157, R158; 06 R182 to R184; 09 R235) -/

namespace Sys2Proof.Machine

/-! ### A barrier and its arrivals (05 R157, R158) -/

section
variable {b : Barrier}

/-- The next value of GEN, of 4 bits, is another one. -/
theorem Barrier.gen_of_succ_ne (bs : List Byte) : ((Barrier.of bs).gen + 1) % 16 ≠ (Barrier.of bs).gen := by
  simp only [Barrier.of, bits_eq_div_mod]
  omega

theorem Barrier.arrive_none (h : b.pend = 0) : b.arrive = none := by simp [Barrier.arrive, h]

/-- The last arrival opens the barrier. -/
theorem Barrier.arrive_last (hp : b.pend = 1) (hin : b.inb = 0) (hout : b.outb = 0) :
    b.arrive = some { b with gen := (b.gen + 1) % 16, pend := b.exp } := by
  simp [Barrier.arrive, Barrier.settle, hp, hin, hout]

/-- Any other takes one from PEND. -/
theorem Barrier.arrive_more (hp : 1 < b.pend) : b.arrive = some { b with pend := b.pend - 1 } := by
  have h0 : b.pend ≠ 0 := by omega
  have h1 : b.pend - 1 ≠ 0 := by omega
  simp [Barrier.arrive, Barrier.settle, h0, h1]

end

/-! ### Words that act in the thread (06 R182) -/

section
variable {s : State} {g : RegionNo} {x : CtxNo}

@[simp] theorem State.banks_updThread (f : Thread → Thread) : (s.updThread g x f).banks = s.banks := rfl
@[simp] theorem State.banks_waitTh (kind obj agent : Nat) : (s.waitTh g x kind obj agent).banks = s.banks := rfl

/-- A thread that waits has changed in its wait alone. -/
theorem State.thread_waitTh (s : State) (kind obj agent : Nat) :
    ∃ w, (s.waitTh g x kind obj agent).thread g x = { s.thread g x with wait := some w } :=
  ⟨_, by rw [State.waitTh, State.thread_updThread_self]⟩

theorem State.thread_writePlace_bank {pl : Place} (bs : List Byte) (h : pl.bank = true) : (s.writePlace pl bs).thread g x = s.thread g x := by
  rw [State.writePlace, if_pos h]
  rfl

/-- What the arrival of a thread does at a barrier that it may use. -/
def State.arrival (s : State) (g : RegionNo) (x : CtxNo) (v pc : W64) (pl : Place) (b : Barrier) : State :=
  if b.exp = 0 then s.trapEntry g x Cause.illegal v pc
  else match b.arrive with
    | none => s.waitTh g x 8 v.toNat 0xFF
    | some b' =>
      if b'.gen ≠ b.gen then (s.writePlace pl b'.bytes).updThread g x Thread.step
      else ((s.writePlace pl b'.bytes).updThread g x (fun t => { t with bwarr := some (pl.pa, b.gen) })).waitTh g x 8 v.toNat 0xFF

section
variable {v pc : W64} {pl : Place} {b : Barrier}

theorem State.arrival_illegal (he : b.exp = 0) : s.arrival g x v pc pl b = s.trapEntry g x Cause.illegal v pc := if_pos he

theorem State.arrival_opens (he : b.exp ≠ 0) (hgen : (b.gen + 1) % 16 ≠ b.gen) (hp : b.pend = 1) (hin : b.inb = 0) (hout : b.outb = 0) :
    s.arrival g x v pc pl b
      = (s.writePlace pl (Barrier.bytes { b with gen := (b.gen + 1) % 16, pend := b.exp })).updThread g x Thread.step := by
  rw [State.arrival, if_neg he, Barrier.arrive_last hp hin hout]
  exact if_pos hgen

theorem State.arrival_waits (he : b.exp ≠ 0) (hp : 1 < b.pend) :
    s.arrival g x v pc pl b = ((s.writePlace pl (Barrier.bytes { b with pend := b.pend - 1 })).updThread g x (fun t =>
      { t with bwarr := some (pl.pa, b.gen) })).waitTh g x 8 v.toNat 0xFF := by
  rw [State.arrival, if_neg he, Barrier.arrive_more hp]
  exact if_neg (not_not_intro rfl)

end

section
variable {r : BitVec 5} (h : Claims.ReadyProg s g x [r.toNat])
include h

theorem execBwarr_misaligned (hnone : (s.thread g x).bwarr = none) (ha : ((s.thread g x).rg r).toNat % 16 ≠ 0) :
    execBwarr r s = .next (s.trapEntry g x Cause.misaligned ((s.thread g x).rg r) (s.thread g x).pc) := by
  obtain ⟨hcur, hrun, hregs⟩ := h
  have hoff : ((s.thread g x).rg r).toNat % 2 ^ 24 % 16 ≠ 0 := by omega
  rw [execBwarr, State.issueProg_ready _ hcur hrun hregs]
  simp only [hnone]
  rw [if_pos (bne_iff_ne.2 hoff)]

theorem execBwarr_beyond (hnone : (s.thread g x).bwarr = none) (ha : ((s.thread g x).rg r).toNat % 16 = 0)
    (hv : 2 ^ 24 ≤ ((s.thread g x).rg r).toNat) :
    execBwarr r s = .next (s.trapEntry g x Cause.addrClass ((s.thread g x).rg r) (s.thread g x).pc) := by
  obtain ⟨hcur, hrun, hregs⟩ := h
  have hoff : ((s.thread g x).rg r).toNat % 2 ^ 24 % 16 = 0 := by omega
  rw [execBwarr, State.issueProg_ready _ hcur hrun hregs]
  simp only [hnone]
  rw [if_neg (by simpa using hoff), if_pos hv]

theorem execBwarr_arrives (hnone : (s.thread g x).bwarr = none) {pl : Place} (hv : ((s.thread g x).rg r).toNat < 2 ^ 24)
    (hpl : bankPlace g (s.grant g x) ((s.thread g x).rg r).toNat 16 = .ok pl) (hdone : (s.core g).threadDone x = true)
    (hclean : s.spoiled pl 16 false = false) :
    execBwarr r s = .next (s.arrival g x ((s.thread g x).rg r) (s.thread g x).pc pl (Barrier.of (s.readPlace pl 16))) := by
  obtain ⟨hcur, hrun, hregs⟩ := h
  obtain ⟨ha, -⟩ := bankPlace_ok hpl
  rw [execBwarr, State.issueProg_ready _ hcur hrun hregs]
  simp only [hnone, Nat.mod_eq_of_lt hv, hpl, hdone, hclean]
  rw [if_neg (by simpa using ha), if_neg (by omega), State.arrival]
  simp only [Bool.not_true, Bool.false_eq_true, if_false, beq_iff_eq, bne_iff_ne] <;> rfl

/-- A thread that has arrived goes on once GEN differs from the one it saw. -/
theorem execBwarr_opened {off gen : Nat} (hsome : (s.thread g x).bwarr = some (off, gen))
    (hclean : s.spoiled { bank := true, g := g, pa := off } 16 false = false)
    (hgen : (Barrier.of (s.banks.readN (g.toNat * 2 ^ 24 + off) 16)).gen ≠ gen) :
    execBwarr r s = .next (s.updThread g x (fun t => { t.step with bwarr := none })) := by
  obtain ⟨hcur, hrun, hregs⟩ := h
  rw [execBwarr, State.issueProg_ready _ hcur hrun hregs]
  simp only [hsome, hclean]
  rw [if_neg Bool.false_ne_true, if_neg (by simpa using hgen)]

end

end

theorem barrierArrivalOfAThread : Claims.BarrierArrivalOfAThread := by
  unfold Claims.BarrierArrivalOfAThread
  intro s g x r h t v trap
  refine ⟨fun hnone => ⟨fun ha => execBwarr_misaligned h hnone ha, fun ha hv => execBwarr_beyond h hnone ha hv,
    fun pl hv hpl hdone => ?_⟩, fun off gen hsome hclean hgen => execBwarr_opened h hsome hclean hgen⟩
  intro b hclean
  have harr := execBwarr_arrives h hnone hv hpl hdone hclean
  refine ⟨fun he => ?_, fun he hp hin hout => ?_, fun he hp => ⟨_, harr, ?_⟩⟩
  · exact harr.trans (by rw [State.arrival_illegal he])
  · exact harr.trans (by rw [State.arrival_opens he (Barrier.gen_of_succ_ne _) hp hin hout])
  · obtain ⟨-, -, -, rfl⟩ := bankPlace_ok hpl
    rw [State.arrival_waits he hp]
    rw [State.banks_waitTh, State.banks_updThread]
    obtain ⟨w, hw⟩ := State.thread_waitTh (g := g) (x := x) _ 8 v.toNat 0xFF
    rw [hw, State.thread_updThread_self, State.thread_writePlace_bank _ rfl]
    exact ⟨rfl, rfl, rfl⟩

/-! ### Phases and fences (06 R183, R184; 09 R235) -/

section
variable {s : State} {g : RegionNo} {x : CtxNo}

theorem execPhase_counts {r : BitVec 5} (h : Claims.ReadyProg s g x [r.toNat]) (hthread : (s.core g).threadDone x = true)
    (hcells : (s.core g).cellsOut x = false) :
    execPhase r s = .next ((s.updCore g (fun k => k.bumpPhase x)).updThread g x (fun t =>
      (t.wg r ((Tab.getD (s.core g).phase x.toNat + 1 : BitVec 16).zeroExtend 64)).step)) := by
  obtain ⟨hcur, hrun, hregs⟩ := h
  rw [execPhase, State.issueProg_ready _ hcur hrun hregs]
  simp [hthread, hcells, Core.bumpPhase]

/-- Whether the condition of a fence holds (06 R184). -/
def State.fenced (s : State) (g : RegionNo) (x : CtxNo) (scope : BitVec 4) : Bool :=
  !(s.core g).cellsOut x && (s.core g).threadDone x && (scope.toNat == 0 || (s.thread g x).allPosted)
    && (scope.toNat != 4 || s.visible g (s.thread g x).kernel)

/-- What a fence of scope SYSTEM awaits outside the package has come (09 R235). -/
theorem State.visible_of {kernel : Nat} (hcxl : ∀ e ∈ s.cxl, e.2 ≠ some (g, kernel))
    (hlinks : ∀ l ∈ s.links, ∀ e ∈ l.2.unacked, e.1 ≠ some (g, kernel)) : s.visible g kernel = true := by
  simp only [State.visible, Bool.and_eq_true, Bool.not_eq_true', List.any_eq_false, List.all_eq_true, beq_iff_eq]
  exact ⟨hcxl, hlinks⟩

variable (h : Claims.ReadyProg s g x []) {scope : BitVec 4}
include h

theorem execFence_ready : execFence scope s = .next (if s.fenced g x scope then s.updThread g x Thread.step else s) := by
  obtain ⟨hcur, hrun, hregs⟩ := h
  rw [execFence, State.issueProg_ready _ hcur hrun hregs]
  rfl

theorem execFence_passes (hf : s.fenced g x scope = true) : execFence scope s = .next (s.updThread g x Thread.step) := by
  rw [execFence_ready h, if_pos hf]

theorem execFence_holds (hf : s.fenced g x scope = false) : execFence scope s = .next s := by
  rw [execFence_ready h, if_neg (by simp [hf])]

end

theorem phaseAndFence : Claims.PhaseAndFence := by
  unfold Claims.PhaseAndFence
  intro s g x r scope k past still
  have hstill : (!(s.core g).cellsOut x && (s.core g).threadDone x) = still := Bool.and_comm _ _
  refine ⟨fun h ht hc => execPhase_counts h ht hc, fun h hs => execFence_passes h ?_, fun h hs hp hsc => execFence_passes h ?_,
    fun h hs hp hcxl hlinks => execFence_passes h ?_, fun h hno => execFence_holds h ?_⟩
  · simp [State.fenced, hstill, hs]
  · have h4 : scope.toNat ≠ 4 := by
      simp only [List.mem_cons, List.not_mem_nil, or_false] at hsc
      obtain rfl | rfl | rfl := hsc
      all_goals decide
    simp [State.fenced, hstill, hs, hp, h4]
  · simp [State.fenced, hstill, hs, hp, State.visible_of hcxl hlinks]
  · rw [State.fenced, hstill]
    obtain hs | ⟨h0, hp⟩ := hno
    · simp [hs]
    · have h0' : scope.toNat ≠ 0 := fun e => h0 (BitVec.eq_of_toNat_eq e)
      simp [hp, h0']

/-- Settles O8: an arrival by the cases of `Barrier.arrive`, a fence by its condition. -/
theorem arrivalPhaseAndFence : Obligations.ArrivalPhaseAndFence := ⟨barrierArrivalOfAThread, phaseAndFence⟩

end Sys2Proof.Machine

/-! ## Updates and barriers of cells, and delivery (05 R135, R136, R155, R157, R158) -/

namespace Sys2Proof.Machine

/-! ### An access changed in its queue -/

theorem Acc.ctx_slot {a : Acc} {c : CellNo} {x : CtxNo} {n : SlotNo} (hp : a.port = .slot c x n) : a.ctx = x := by rw [Acc.ctx, hp]

theorem Acc.cell?_slot {a : Acc} {c : CellNo} {x : CtxNo} {n : SlotNo} (hp : a.port = .slot c x n) : a.cell? = some c := by rw [Acc.cell?, hp]

theorem find_mapAcc (as : List Acc) (id : Nat) {f : Acc → Acc} (hf : ∀ a, (f a).id = a.id) :
    (as.map (fun a => if a.id == id then f a else a)).find? (fun a => a.id == id) = (as.find? (fun a => a.id == id)).map f := by
  induction as with
  | nil => rfl
  | cons a as ih =>
    cases h : a.id == id with
    | true =>
      have h' : ((f a).id == id) = true := by rwa [hf]
      simp only [List.map_cons, h, if_true, List.find?_cons, h', Option.map_some]
    | false => simp only [List.map_cons, h, Bool.false_eq_true, if_false, List.find?_cons, ih]

/-- An access is found as it was changed. -/
theorem State.acc_updAcc (s : State) (g : RegionNo) (id : Nat) {f : Acc → Acc} (hf : ∀ a, (f a).id = a.id) :
    (s.updAcc g id f).acc g id = (s.acc g id).map f := by
  rw [State.acc, State.updAcc, State.core_updCore_self, State.acc]
  exact find_mapAcc _ _ hf

/-! ### What an update writes (05 R155) -/

section
variable {ty : Nat} (old val : Nat)

/-- An INT32 or UINT32 value. -/
theorem intOf_32 (h : ty ∈ [0, 1]) (v : Nat) :
    Num.intOf ty v = if ty = 0 then (BitVec.ofNat 32 v).toInt else ((v % 2 ^ 32 : Nat) : Int) := by
  simp only [List.mem_cons, List.not_mem_nil, or_false] at h
  obtain rfl | rfl := h
  · have := Num.toSigned_toNat (by decide) (BitVec.ofNat 32 v)
    rw [BitVec.toNat_ofNat] at this
    exact this
  · rfl

theorem ty_ne_six (h : ty ∈ [0, 1]) : (ty == 6) = false := by
  simp only [List.mem_cons, List.not_mem_nil, or_false] at h
  obtain rfl | rfl := h
  all_goals rfl

theorem updateValue_add (h : ty ∈ [0, 1]) : updateValue ty 0 old val = (old + val) % 2 ^ 32 := by
  simp only [updateValue, ty_ne_six h, Bool.false_eq_true, if_false]

theorem updateValue_min (h : ty ∈ [0, 1]) : updateValue ty 1 old val = if Num.intOf ty old < Num.intOf ty val then old else val := by
  simp only [updateValue, ty_ne_six h, Bool.false_eq_true, if_false]

theorem updateValue_max (h : ty ∈ [0, 1]) : updateValue ty 2 old val = if Num.intOf ty old < Num.intOf ty val then val else old := by
  simp only [updateValue, ty_ne_six h, Bool.false_eq_true, if_false]

end

/-! ### The effects of the indivisible accesses (05 R155, R157, R158) -/

section
variable {s : State} {g : RegionNo} {a : Acc} {pl : Place}

/-- An update of a bank place that no slot owns. -/
theorem State.effect_update {opn ty val : Nat} (hop : a.op = .update opn ty val) (hbank : pl.bank = true)
    (hown : s.ownerOf g a.ctx (a.addr % 2 ^ 24) = none) :
    s.effect g a pl = ((s.writePlace pl (natToBytes 4 (updateValue ty opn (leNat (s.readPlace pl 4)) val))).writeResult g a
      (BitVec.ofNat 1024 (leNat (s.readPlace pl 4)))).performed g a (leNat (s.readPlace pl 4)) := by
  simp only [State.effect, hop, hbank, hown, if_true]

theorem State.effect_arrive {b' : Barrier} (hop : a.op = .arrive) (he : (Barrier.of (s.readPlace pl 16)).exp ≠ 0)
    (harr : (Barrier.of (s.readPlace pl 16)).arrive = some b') :
    s.effect g a pl = ((s.writePlace pl b'.bytes).writeResult g a
      (BitVec.ofNat 1024 ((Barrier.of (s.readPlace pl 16)).gen * 2 ^ 28 + a.addr % 2 ^ 24))).performed g a
        ((Barrier.of (s.readPlace pl 16)).gen * 2 ^ 28 + a.addr % 2 ^ 24) := by
  simp only [State.effect, hop, beq_eq_false_iff_ne.2 he, harr, Bool.false_eq_true, if_false]

theorem State.effect_arrive_waits (hop : a.op = .arrive) (he : (Barrier.of (s.readPlace pl 16)).exp ≠ 0)
    (harr : (Barrier.of (s.readPlace pl 16)).arrive = none) : s.effect g a pl = s.waitAcc g a 8 (a.addr % 2 ^ 24) 0xFF := by
  simp only [State.effect, hop, beq_eq_false_iff_ne.2 he, harr, Bool.false_eq_true, if_false]

theorem State.effect_await {gen : Nat} (hop : a.op = .await gen) (hgen : (Barrier.of (s.readPlace pl 16)).gen ≠ gen) :
    s.effect g a pl = (s.writeResult g a
      (BitVec.ofNat 1024 ((Barrier.of (s.readPlace pl 16)).gen * 2 ^ 28 + a.addr % 2 ^ 24))).performed g a
        ((Barrier.of (s.readPlace pl 16)).gen * 2 ^ 28 + a.addr % 2 ^ 24) := by
  simp only [State.effect, hop, beq_eq_false_iff_ne.2 hgen, Bool.false_eq_true, if_false]

/-- An access that waits stands where it stood. -/
theorem State.phase_waitAcc {id kind obj agent : Nat} {e : Acc} (hid : a.id = id) (hacc : s.acc g id = some a)
    (he : (s.waitAcc g a kind obj agent).acc g id = some e) : e.phase = a.phase := by
  subst hid
  rw [State.waitAcc, State.acc_updAcc _ _ _ (by intro; rfl), hacc, Option.map_some] at he
  cases he
  rfl

end

theorem updatesAndBarriersPerform : Claims.UpdatesAndBarriersPerform := by
  unfold Claims.UpdatesAndBarriersPerform
  intro s g id a pl c x n hacc hp hready hfree hbank hclean hplain answers
  have h : s.MayPerform g id a pl := ⟨hacc, hready, hfree, by simp [State.ownedOk, hbank], hclean, hplain⟩
  have hexec := h.slot hp
  refine ⟨fun opn ty val hop hown => ?_, ?_⟩
  · intro old int puts
    have hput {v : Nat} (hv : updateValue ty opn old val = v) : puts v := by
      subst hv
      rw [← Acc.ctx_slot hp] at hown
      rwa [State.effect_update hop hbank hown] at hexec
    refine ⟨fun ht h0 => hput ?_, fun ht h1 => hput ?_, fun ht h2 => hput ?_, fun h3 => hput ?_, fun h4 => hput ?_, fun h5 => hput ?_,
      fun h6 => hput ?_, fun ht h0 => hput ?_⟩
    · rw [h0, updateValue_add old val ht]
    · rw [h1, updateValue_min old val ht, intOf_32 ht, intOf_32 ht]
    · rw [h2, updateValue_max old val ht, intOf_32 ht, intOf_32 ht]
    · rw [h3, updateValue]
    · rw [h4, updateValue]
    · rw [h5, updateValue]
    · subst h6
      rfl
    · rw [h0, ht]
      rfl
  · intro b ticket
    refine ⟨fun hop he hpend hin hout => ?_, fun hop he hpend => ?_, fun hop he hpend => ?_, fun gen hop hgen => ?_⟩
    · rwa [State.effect_arrive hop he (Barrier.arrive_last hpend hin hout)] at hexec
    · rwa [State.effect_arrive hop he (Barrier.arrive_more hpend)] at hexec
    · rw [State.effect_arrive_waits hop he (Barrier.arrive_none hpend)] at hexec
      exact ⟨_, hexec, rfl, fun e he => State.phase_waitAcc (State.acc_id hacc) hacc he⟩
    · rwa [State.effect_await hop hgen] at hexec

/-! ### Delivery (05 R135, R136) -/

theorem Slot.follow_of_nothing_after {t : Slot} (seq : Nat) (h : t.after = none) : t.follow seq = t := by simp [Slot.follow, h]

/-- Two changes of a cell, or of a slot, that agree on what stands there. -/
theorem State.updCell_congr {s : State} {g : RegionNo} {c : CellNo} {f f' : Cell → Cell} (h : f (s.cell g c) = f' (s.cell g c)) :
    s.updCell g c f = s.updCell g c f' := by
  have h' : f (Tab.getD (s.core g).cells c.toNat) = f' (Tab.getD (s.core g).cells c.toNat) := h
  simp only [State.updCell, State.updCore, Tab.upd, h']

theorem State.updSlot_congr {s : State} {l : SlotLoc} {f f' : Slot → Slot} (h : f (s.slotAt l) = f' (s.slotAt l)) :
    s.updSlot l f = s.updSlot l f' := by
  have h' : f (Tab.getD (s.cell l.g l.cell).slots (slotKey l.ctx l.slot)) = f' (Tab.getD (s.cell l.g l.cell).slots (slotKey l.ctx l.slot)) := h
  exact State.updCell_congr (by simp only [Tab.upd, h'])

/-- An access that leaves its queue leaves the slots as they are. -/
theorem State.slotAt_dropAcc (s : State) (g : RegionNo) (id : Nat) (l : SlotLoc) : (s.dropAcc g id).slotAt l = s.slotAt l := by
  have hcore : ((s.dropAcc g id).core l.g).cells = (s.core l.g).cells := by
    by_cases e : l.g = g
    · rw [e, State.dropAcc, State.core_updCore_self]
    · rw [State.dropAcc, State.core_updCore_ne _ _ _ _ e]
  simp only [State.slotAt, State.cell, hcore]

/-- The token toward a target, by its route (05 R135). -/
theorem Acc.token_of_route (a : Acc) (x : CtxNo) (val : Nat) (t : BitVec 12) :
    a.token x val t = if SlotWord.route t = 7 then none
      else if SlotWord.route t = 6 then
        some { kind := .completion, form := .scalar, ctx := x, round := a.round, p := a.p, tag := 0, pay := 0 }
      else some { kind := .data, form := if a.vector then .vector else .scalar, ctx := x, round := a.round, p := a.p, tag := 0,
                  pay := BitVec.ofNat 1024 val } := by
  unfold Acc.token
  generalize SlotWord.route t = r
  by_cases h7 : r = 7
  · subst h7
    rfl
  · by_cases h6 : r = 6
    · subst h6
      rfl
    · rw [if_neg h7, if_neg h6]
      split
      · next h => exact absurd (BitVec.eq_of_toNat_eq h) h6
      · next h => exact absurd (BitVec.eq_of_toNat_eq h) h7
      · rfl

theorem execAccessDeliver_slot {s : State} {g : RegionNo} {id val : Nat} {a : Acc} {c : CellNo} {x : CtxNo} {n : SlotNo}
    (hacc : s.acc g id = some a) (hp : a.port = .slot c x n) (hdone : a.phase = .performed val)
    (hempty : (s.slotAt ⟨g, c, x, n⟩).res.empty = true) (hafter : (s.slotAt ⟨g, c, x, n⟩).after = none)
    (hfirst : ((s.core g).accs.takeWhile (fun e => e.id != id)).all (fun e => e.port != a.port) = true) :
    execAccessDeliver g id s = .next (((s.stamp g).dropAcc g id).updSlot ⟨g, c, x, n⟩ (fun t =>
      { t with res := ⟨a.token x val (slotFields (s.slotAt ⟨g, c, x, n⟩).word).t0,
                       a.token x val (slotFields (s.slotAt ⟨g, c, x, n⟩).word).t1, s.tick⟩ })) := by
  have hnone : ((s.core g).accs.takeWhile (fun e => e.id != id)).any (fun e => e.port == a.port) = false := by
    simpa using hfirst
  rw [hp] at hnone
  have hslot : ((s.stamp g).dropAcc g id).slotAt ⟨g, c, x, n⟩ = s.slotAt ⟨g, c, x, n⟩ := by rw [State.slotAt_dropAcc, State.slotAt_stamp]
  simp only [execAccessDeliver, hacc, hdone, hp, hnone, hempty, hafter]
  refine congrArg Host.Outcome.next (State.updSlot_congr ?_)
  rw [hslot]
  exact Slot.follow_of_nothing_after s.tick hafter

theorem cellAccessesDeliver : Claims.CellAccessesDeliver := by
  unfold Claims.CellAccessesDeliver
  intro s g id val a c x n hacc hp hdone l t w form data done toward hempty hafter hfirst _
  have htoward (t : BitVec 12) : a.token x val t = toward t := Acc.token_of_route a x val t
  rw [exec_accessDeliver, execAccessDeliver_slot hacc hp hdone hempty hafter hfirst, htoward, htoward]

/-- Settles O25: an indivisible access by its operation, a delivery by the routes of its slot's targets. -/
theorem cellAccessesPerformAndDeliver : Obligations.CellAccessesPerformAndDeliver := ⟨updatesAndBarriersPerform, cellAccessesDeliver⟩

end Sys2Proof.Machine

/-! ## The other accesses of slots (05 R146, R148, R149, R153; 07 R206, R207; 09 R229, R233) -/

namespace Sys2Proof.Machine

/-! ### What a write at a place leaves -/

section
variable (s : State)

theorem State.regions_writeLine (key : Option (BitVec 512)) (pa : Nat) (bs : List Byte) : (s.writeLine key pa bs).regions = s.regions := by
  unfold State.writeLine
  dsimp only
  split
  · rfl
  · rfl

theorem State.regions_writeKeyed (key : Option (BitVec 512)) (fuel pa : Nat) (bs : List Byte) :
    (s.writeKeyed key fuel pa bs).regions = s.regions := by
  induction fuel generalizing s pa bs with
  | zero => rfl
  | succ n ih =>
    rw [State.writeKeyed]
    split
    · rfl
    · rw [ih, State.regions_writeLine]

theorem State.regions_writePlace (pl : Place) (bs : List Byte) : (s.writePlace pl bs).regions = s.regions := by
  unfold State.writePlace
  dsimp only
  split
  · rfl
  · rw [State.regions_writeKeyed]
    split
    · rfl
    · rfl

theorem State.acc_writePlace (pl : Place) (bs : List Byte) (g : RegionNo) (id : Nat) : (s.writePlace pl bs).acc g id = s.acc g id := by
  simp only [State.acc, State.core, State.reg, State.regions_writePlace]

end

/-! ### Spills and fills (05 R146) -/

section
variable {s : State} {g : RegionNo} {a : Acc} {pl : Place} {c : CellNo} {x : CtxNo} {n : SlotNo} {r : Nat} {v : Line}

theorem State.effect_spill (hp : a.port = .slot c x n) (hop : a.op = .spill r v) :
    s.effect g a pl = ((s.doSpill g c x r v pl).writeResult g a v).performed g a 0 := by
  simp only [State.effect, hop, Acc.cell?_slot hp, Acc.ctx_slot hp, Option.getD_some]

theorem State.effect_fill (hp : a.port = .slot c x n) (hop : a.op = .fill r) :
    s.effect g a pl = ((s.doFill g c x r (s.fillValue g c x r pl)).writeResult g a (s.fillValue g c x r pl)).performed g a 0 := by
  simp only [State.effect, hop, Acc.cell?_slot hp, Acc.ctx_slot hp, Option.getD_some]

/-- A register with an entry in the spill map has it rewritten. -/
theorem State.doSpill_again {i : Nat} {e : Spill} (he : (s.cell g c).spillOf x r = some (i, e)) :
    s.doSpill g c x r v pl = s.updCell g c (fun k => { k with spills := Tab.set k.spills i { e with val := v } }) := by
  simp only [State.doSpill, he]

/-- Another takes the lowest free entry and location. -/
theorem State.doSpill_new {i loc : Nat} {kind : Bool} (he : (s.cell g c).spillOf x r = none) (hi : Tab.free (s.cell g c).spills 64 = some i)
    (hloc : (s.core g).spillPlace (s.cell g c) = some (kind, loc)) :
    s.doSpill g c x r v pl = s.updCell g c (fun k =>
      { k with spills := Tab.set k.spills i { ctx := x, vreg := r, kind := kind, loc := loc, val := v } }) := by
  simp only [State.doSpill, he, hi, hloc]

/-- Without one of them it goes to the spill line. -/
theorem State.doSpill_line (he : (s.cell g c).spillOf x r = none)
    (hfull : Tab.free (s.cell g c).spills 64 = none ∨ (s.core g).spillPlace (s.cell g c) = none) :
    s.doSpill g c x r v pl = s.writePlace pl (lineBytes v) := by
  simp only [State.doSpill, he]
  split
  · next hi hloc => simp [hi, hloc] at hfull
  · rfl

theorem State.doFill_parked {i : Nat} {e : Spill} (he : (s.cell g c).spillOf x r = some (i, e)) :
    s.doFill g c x r v = s.updCell g c (fun k => { k.writeReg (s.grant g x) x ⟨2, r⟩ v with spills := Tab.erase k.spills i }) := by
  refine State.updCell_congr ?_
  simp only [he]

theorem State.doFill_line (he : (s.cell g c).spillOf x r = none) :
    s.doFill g c x r v = s.updCell g c (fun k => k.writeReg (s.grant g x) x ⟨2, r⟩ v) := by
  refine State.updCell_congr ?_
  simp only [he]
  rfl

end

/-! ### Metadata (05 R149) -/

section
variable {s : State} {g : RegionNo} {a : Acc} {pl : Place} {c : CellNo} {x : CtxNo} {n : SlotNo}

/-- Metadata are in order when the two columns of each group rise. -/
theorem metaOk_iff (fmt : Nat) (bs : List Byte) :
    metaOk fmt bs = true ↔ ∀ j < 16, ∀ k < (if fmt = 7 then 8 else 16),
      bits (leNat ((bs.drop (8 * j)).take 8)) (4 * k) (4 * k + 1) < bits (leNat ((bs.drop (8 * j)).take 8)) (4 * k + 2) (4 * k + 3) := by
  simp only [metaOk, List.all_eq_true, List.mem_range, decide_eq_true_eq, beq_iff_eq]

theorem State.effect_metadata (hp : a.port = .slot c x n) (hop : a.op = .metadata) (hok : metaOk (s.cell g c).tl.fmt (s.readPlace pl 128) = true) :
    s.effect g a pl = (s.updCell g c (fun k => { k with tl := { k.tl with mdata := s.readPlace pl 128 } })).performed g a 0 := by
  simp only [State.effect, hop, Acc.cell?_slot hp, Option.getD_some, hok, if_true]

theorem State.effect_metadata_fails (hp : a.port = .slot c x n) (hop : a.op = .metadata)
    (hbad : metaOk (s.cell g c).tl.fmt (s.readPlace pl 128) = false) : s.effect g a pl = s.failAcc g a.id Cause.illegal := by
  simp only [State.effect, hop, Acc.cell?_slot hp, Option.getD_some, hbad, Bool.false_eq_true, if_false]

end

/-! ### Accesses that go line by line (09 R229, R233) -/

theorem State.pick_one (s : State) : s.pick 1 = (0, s) := rfl

section
variable {s t : State} {g : RegionNo} {a b : Acc} {pl : Place} {i : Nat}

theorem State.effect_byLine (h : a.byLine = true) : s.effect g a pl = s.byLines g a pl := by
  unfold Acc.byLine at h
  split at h
  · next hop => simp only [State.effect, hop]
  · next hop => simp only [State.effect, hop]
  · next hop => simp only [State.effect, hop]
  · next hop => simp only [State.effect, hop]
  · cases h

/-- The lines that no hold keeps; one of them, and the access is not held. -/
theorem State.holds_byLine (h : a.byLine = true) (hone : a.linesLeft.filter (fun i => !s.heldAt g a (128 * i) (a.lineBytes i)) = [i]) :
    s.holds g a = false := by
  have hi : i ∈ a.linesLeft.filter (fun i => !s.heldAt g a (128 * i) (a.lineBytes i)) := by simp [hone]
  obtain ⟨hmem, hfree⟩ := List.mem_filter.1 hi
  have hall : a.linesLeft.all (fun i => s.heldAt g a (128 * i) (a.lineBytes i)) = false := by
    rw [List.all_eq_false]
    exact ⟨i, hmem, by simpa using hfree⟩
  simp [State.holds, h, hall]

section
variable (hone : a.linesLeft.filter (fun i => !s.heldAt g a (128 * i) (a.lineBytes i)) = [i])
include hone

theorem State.lineStep_drain {d : List Byte} (hop : a.op = .drain d)
    (hclean : s.spoiled { pl with pa := pl.pa + 128 * i } (a.lineBytes i) true = false) :
    s.lineStep g a pl = (s.writePlace { pl with pa := pl.pa + 128 * i } ((d.drop (128 * i)).take 128)).updAcc g a.id (fun e =>
      { e with parts := Tab.set e.parts i [] }) := by
  simp only [State.lineStep, hone, List.length_singleton, State.pick_one, List.getElem?_cons_zero, hop, hclean, Bool.false_eq_true, if_false]

/-- What a line of a tile or a codebook does (05 R138, R148). -/
theorem State.lineStep_other (hop : ∀ d, a.op ≠ .drain d) (hclean : s.spoiled { pl with pa := pl.pa + 128 * i } (a.lineBytes i) false = false) :
    s.lineStep g a pl = if inLease (s.grant g a.ctx) (a.addr % 2 ^ 24) (128 * i + a.lineBytes i) then
        s.updAcc g a.id (fun e => { e with parts := Tab.set e.parts i (s.readPlace { pl with pa := pl.pa + 128 * i } (a.lineBytes i)) })
      else s.failAcc g a.id Cause.pagePermission := by
  simp only [State.lineStep, hone, List.length_singleton, State.pick_one, List.getElem?_cons_zero, hclean, Bool.false_eq_true, if_false]
  cases inLease (s.grant g a.ctx) (a.addr % 2 ^ 24) (128 * i + a.lineBytes i) with
  | true => rfl
  | false => rfl

end

/-- An access with a line of it done. -/
def Acc.withPart (a : Acc) (i : Nat) (bs : List Byte) : Acc := { a with parts := Tab.set a.parts i bs }

theorem State.acc_withPart {id : Nat} (hacc : s.acc g id = some a) (bs : List Byte) :
    (s.updAcc g id (fun e => { e with parts := Tab.set e.parts i bs })).acc g id = some (a.withPart i bs) := by
  rw [State.acc_updAcc _ _ _ (by intro; rfl), hacc]
  rfl

/-- After a line that is not the last the access has more to do. -/
theorem State.byLines_more (hstep : s.lineStep g a pl = t) (hb : t.acc g a.id = some b) (hmore : b.linesLeft ≠ []) : s.byLines g a pl = t := by
  have hmore' : b.linesLeft.isEmpty = false := by simpa using hmore
  simp only [State.byLines, hstep, hb, hmore', Bool.and_false, Bool.false_eq_true, if_false]

/-- After the last it does what it gathered them for. -/
theorem State.byLines_last (hstep : s.lineStep g a pl = t) (hb : t.acc g a.id = some b) (hpend : b.pending = true) (hlast : b.linesLeft = []) :
    s.byLines g a pl = t.linesDone g b := by
  simp only [State.byLines, hstep, hb, hpend, hlast, List.isEmpty_nil, Bool.and_self, if_true]

/-- An access that a line ended does nothing more. -/
theorem State.byLines_ended (hstep : s.lineStep g a pl = t) (hb : t.acc g a.id = some b) (hpend : b.pending = false) : s.byLines g a pl = t := by
  simp only [State.byLines, hstep, hb, hpend, Bool.false_and, Bool.false_eq_true, if_false]

end

/-- The moving tile of an `mfire`: steps are added in the start order of a cell's firings (05 R151). -/
def AccOp.isMoving : AccOp → Bool
  | .moving .. => true
  | _ => false

/-! ### What the lines were gathered for (05 R148, R151, R153) -/

section
variable {t : State} {g : RegionNo} {b : Acc} {c : CellNo} {x : CtxNo} {n : SlotNo} (hp : b.port = .slot c x n)
include hp

theorem State.linesDone_tile (hop : b.op = .tile) (hfirst : t.behind g b AccOp.loadsNode = false) :
    t.linesDone g b = (t.updCell g c (fun k =>
      { k with tl := { k.tl with bytes := stationary b.ty b.gathered, fmt := b.ty, cbn := b.reg, owner := some x } })).performed g b 0 := by
  simp only [State.linesDone, hop, hfirst, Acc.cell?_slot hp, Acc.ctx_slot hp, Option.getD_some, Bool.false_eq_true, if_false]

theorem State.linesDone_codebook {m : Nat} (hop : b.op = .codebook m) (hfirst : t.behind g b AccOp.loadsNode = false) :
    t.linesDone g b = (t.setReg g
      { t.reg g with cb := Tab.set (t.reg g).cb (4 * c.toNat + m) (BitVec.ofNat 256 (leNat b.gathered)) }).performed g b 0 := by
  simp only [State.linesDone, hop, hfirst, Acc.cell?_slot hp, Option.getD_some, Bool.false_eq_true, if_false]

theorem State.linesDone_moving {m bitmap : Nat} {sp : Bool} {cbm cbt : List Nat} (hop : b.op = .moving m sp bitmap cbm cbt)
    (hfirst : t.behind g b AccOp.isMoving = false) :
    t.linesDone g b = ((t.updCell g c (fun k => k.setAcc m (matrixStep ((t.cell g c).accVals m)
      (movingRows b.ty sp cbm (b.gathered.map BitVec.toNat)) (t.cell g c).ta cbt sp bitmap))).writeResult g b
        (BitVec.ofNat 1024 m)).performed g b m := by
  simp only [State.linesDone, hop, Acc.cell?_slot hp, Option.getD_some]
  exact if_neg (ne_true_of_eq_false hfirst)

omit hp in
theorem State.linesDone_drain {d : List Byte} (hop : b.op = .drain d) :
    t.linesDone g b = (t.writeResult g b (BitVec.ofNat 1024 d.length)).performed g b d.length := by
  simp only [State.linesDone, hop]

end

/-! ### An access of several lines performs -/

section
variable {s t : State} {g : RegionNo} {id : Nat} {a b : Acc} {pl : Place} {c : CellNo} {x : CtxNo} {n : SlotNo}
  (h : s.MayPerform g id a pl) (hp : a.port = .slot c x n) (hby : a.byLine = true) (hstep : s.lineStep g a pl = t)
include h hp hby hstep

theorem State.MayPerform.goesOn (hb : t.acc g id = some b) (hmore : b.linesLeft ≠ []) : Claims.Next (exec (.accessPerform g id) s) t := by
  have hexec := h.slot hp
  rwa [State.effect_byLine hby, State.byLines_more hstep (by rwa [State.acc_id h.here]) hmore] at hexec

theorem State.MayPerform.ends (hb : t.acc g id = some b) (hpend : b.pending = true) (hlast : b.linesLeft = []) :
    Claims.Next (exec (.accessPerform g id) s) (t.linesDone g b) := by
  have hexec := h.slot hp
  rwa [State.effect_byLine hby, State.byLines_last hstep (by rwa [State.acc_id h.here]) hpend hlast] at hexec

theorem State.MayPerform.fails (hb : t.acc g id = some b) (hpend : b.pending = false) : Claims.Next (exec (.accessPerform g id) s) t := by
  have hexec := h.slot hp
  rwa [State.effect_byLine hby, State.byLines_ended hstep (by rwa [State.acc_id h.here]) hpend] at hexec

end

theorem Acc.pending_ready {a : Acc} {pl : Place} (h : a.phase = .ready pl) : a.pending = true := by rw [Acc.pending, h]

theorem State.acc_report {s : State} {g : RegionNo} (id : Nat) (r : Report) : (s.report g r).acc g id = s.acc g id := by
  simp only [State.acc, State.report, State.core_setReg_self]
  rfl

/-- An access that a fault has ended. -/
theorem State.acc_failAcc {s : State} {g : RegionNo} {id : Nat} {a : Acc} {c : CellNo} {x : CtxNo} {n : SlotNo} (hacc : s.acc g id = some a)
    (hp : a.port = .slot c x n) (cause : Byte) : (s.failAcc g id cause).acc g id = some { a with phase := .faulted cause, wait := none } := by
  simp only [State.failAcc, hacc, hp, State.cellFault, State.acc_report]
  rw [State.acc_updAcc _ _ _ (by intro; rfl), hacc, ← hp]
  rfl

theorem State.cell_updAcc (s : State) (g : RegionNo) (id : Nat) (f : Acc → Acc) (c : CellNo) : (s.updAcc g id f).cell g c = s.cell g c := by
  simp only [State.cell, State.updAcc, State.core_updCore_self]

/-! ### Publishes and releases that take effect at once (07 R206, R207) -/

section
variable {s : State} {k : Nat} {b : Scb}

/-- A control block on which nothing waits is replaced, and nothing else happens. -/
theorem State.putScb_quiet (h : b.waits = []) : s.putScb k b = s.setScb k b := by
  simp only [State.putScb, h, List.filterMap_nil, List.filter_nil, List.foldl_nil]
  cases b
  cases h
  rfl

theorem State.scb_setScb_self : (s.setScb k b).scb k = b := by simp [State.setScb, State.scb]

theorem Scb.askNext_none (h : b.waiting = []) : b.askNext = none := by simp [Scb.askNext, h]

theorem State.askSettle_quiet (n : Nat) (h : (s.scb k).waiting = []) : State.askSettle k n s = s := by
  cases n with
  | zero => rfl
  | succ n => simp only [State.askSettle, Scb.askNext_none h]

/-- What an asker whose request takes effect at once leaves: the control block moved, its access performed. -/
def State.asked (s : State) (g : RegionNo) (id k : Nat) (b : Scb) : State :=
  (s.setScb k b).updAcc g id (fun a => { a with phase := .performed 0, wait := none })

theorem State.askStream_takesEffect {g : RegionNo} {id o slot : Nat} (hwaiting : (s.scb k).waiting = [])
    (hask : (s.scb k).ask slot o = .done b) (hb : b.waiting = []) (hb' : b.waits = []) :
    s.askStream k (.acc g id) o slot = s.asked g id k b := by
  have honce : s.askOnce k (.acc g id, o, slot) = s.asked g id k b := by
    simp only [State.askOnce, hask, State.putScb_quiet hb']
    rfl
  have hscb : (s.asked g id k b).scb k = b := State.scb_setScb_self (s := s)
  simp only [State.askStream, hwaiting, List.any_nil, Bool.and_false, Bool.false_eq_true, if_false, honce]
  exact State.askSettle_quiet _ (by rw [hscb, hb])

/-- What the asker leaves is its access performed, with no wait, and nothing else of its cell, of memory or of the banks. -/
theorem State.asked_spec {g : RegionNo} {id : Nat} {a : Acc} (hacc : s.acc g id = some a) (c : CellNo) :
    (s.asked g id k b).scb k = b ∧ (s.asked g id k b).acc g id = some { a with phase := .performed 0, wait := none }
      ∧ ((s.asked g id k b).cell g c).lr = (s.cell g c).lr ∧ (s.asked g id k b).mem = s.mem ∧ (s.asked g id k b).banks = s.banks := by
  refine ⟨State.scb_setScb_self (s := s), ?_, ?_, rfl, rfl⟩
  · have hsame : (s.setScb k b).acc g id = some a := hacc
    rw [State.asked, State.acc_updAcc _ _ _ (by intro; rfl), hsame]
    rfl
  · rw [State.asked, State.cell_updAcc]
    rfl

theorem Scb.publish_takesEffect {p : Nat} (hauto : b.auto = false) (hopen : b.state = 1) (hnew : after p b.hwm = true)
    (hroom : after p b.limit = false) : b.ask 8 p = .done { b with hwm := p } := by
  simp [Scb.ask, Scb.publish, hauto, hopen, hnew, hroom]

/-- A reader with its release offset at `o`; the position of a window that it has left follows. -/
def Reader.released (r : Reader) (o : Nat) : Reader := { r with rel := o, pos := if before r.pos o then o else r.pos }

theorem Scb.release_takesEffect {m o : Nat} {r : Reader} (hm : m ≠ 8) (hopen : b.state ∈ [1, 2, 3]) (hr : Tab.get b.readers m = some r)
    (hnew : after o r.rel = true) (hroom : after o b.hwm = false) :
    b.ask m o = .done ({ b with readers := Tab.set b.readers m (r.released o) } : Scb).retail := by
  have hlive : (b.state == 0 || b.state == 4) = false := by
    simp only [List.mem_cons, List.not_mem_nil, or_false] at hopen
    rcases hopen with h | h | h <;> simp [h]
  simp [Scb.ask, hm, Scb.release, hlive, hr, hnew, hroom, Reader.released]

theorem Scb.retail_keeps (b : Scb) : b.retail.waiting = b.waiting ∧ b.retail.waits = b.waits ∧ b.retail.readers = b.readers := by
  unfold Scb.retail
  split
  · exact ⟨rfl, rfl, rfl⟩
  · exact ⟨rfl, rfl, rfl⟩

end

section
variable {s : State} {g : RegionNo} {id : Nat} {a : Acc} {b : Scb} (hacc : s.acc g id = some a) (hent : a.phase = .entering)
  (hfree : s.holds g a = false) (hwait : a.wait = none) (hquiet : (s.scb a.scb).waiting = []) (hb : b.waiting = [] ∧ b.waits = [])
include hacc hquiet hb

theorem execAccessPerform.ask_takesEffect {slot : Nat} (hask : (s.scb a.scb).ask slot a.off = .done b) (kind : Nat) :
    execAccessPerform.ask g s a slot kind = s.asked g id a.scb b := by
  obtain rfl := State.acc_id hacc
  obtain ⟨-, hdone, -⟩ := State.asked_spec (k := a.scb) (b := b) hacc 0
  simp only [execAccessPerform.ask, State.askStream_takesEffect hquiet hask hb.1 hb.2, hdone]
  rfl

include hent hfree hwait

theorem exec_publish (hop : a.op = .publish) (hask : (s.scb a.scb).ask 8 a.off = .done b) :
    Claims.Next (exec (.accessPerform g id) s) (s.asked g id a.scb b) := by
  show execAccessPerform g id s = _
  simp only [execAccessPerform, hacc, hent, hop, hfree, hwait, Option.isSome_none, Bool.or_self, Bool.false_eq_true, if_false,
    execAccessPerform.ask_takesEffect hacc hquiet hb hask]

theorem exec_release {m : Nat} (hop : a.op = .release m) (hask : (s.scb a.scb).ask m a.off = .done b) :
    Claims.Next (exec (.accessPerform g id) s) (s.asked g id a.scb b) := by
  show execAccessPerform g id s = _
  simp only [execAccessPerform, hacc, hent, hop, hfree, hwait, Option.isSome_none, Bool.or_self, Bool.false_eq_true, if_false,
    execAccessPerform.ask_takesEffect hacc hquiet hb hask]

end

end Sys2Proof.Machine

/-! ## The effect of each access of a slot, and O60 -/

namespace Sys2Proof.Machine

section
variable {s : State} {g : RegionNo} {id : Nat} {a : Acc} {pl : Place} {c : CellNo} {x : CtxNo} {n : SlotNo}
  (h : s.MayPerform g id a pl) (hp : a.port = .slot c x n)
include h hp

theorem State.MayPerform.spills {r : Nat} {v : Line} (hop : a.op = .spill r v) {t : State} (ht : s.doSpill g c x r v pl = t) :
    Claims.Next (exec (.accessPerform g id) s) ((t.writeResult g a v).performed g a 0) := by
  have hexec := h.slot hp
  rwa [State.effect_spill hp hop, ht] at hexec

theorem State.MayPerform.fills {r : Nat} {v : Line} (hop : a.op = .fill r) (hv : s.fillValue g c x r pl = v) {t : State}
    (ht : s.doFill g c x r v = t) :
    Claims.Next (exec (.accessPerform g id) s) ((t.writeResult g a v).performed g a 0) := by
  have hexec := h.slot hp
  rwa [State.effect_fill hp hop, hv, ht] at hexec

theorem State.MayPerform.setsMetadata (hop : a.op = .metadata) (hok : metaOk (s.cell g c).tl.fmt (s.readPlace pl 128) = true) :
    Claims.Next (exec (.accessPerform g id) s)
      ((s.updCell g c (fun k => { k with tl := { k.tl with mdata := s.readPlace pl 128 } })).performed g a 0) := by
  have hexec := h.slot hp
  rwa [State.effect_metadata hp hop hok] at hexec

theorem State.MayPerform.refusesMetadata (hop : a.op = .metadata) (hbad : metaOk (s.cell g c).tl.fmt (s.readPlace pl 128) = false) :
    Claims.Next (exec (.accessPerform g id) s) (s.failAcc g id Cause.illegal) := by
  have hexec := h.slot hp
  rwa [State.effect_metadata_fails hp hop hbad, State.acc_id h.here] at hexec

end

theorem State.fillValue_parked {s : State} {g : RegionNo} {c : CellNo} {x : CtxNo} {r i : Nat} {e : Spill} {pl : Place}
    (he : (s.cell g c).spillOf x r = some (i, e)) : s.fillValue g c x r pl = e.val := by
  simp only [State.fillValue, he]

theorem State.fillValue_line {s : State} {g : RegionNo} {c : CellNo} {x : CtxNo} {r : Nat} {pl : Place}
    (he : (s.cell g c).spillOf x r = none) : s.fillValue g c x r pl = lineOf (s.readPlace pl 128) := by
  simp only [State.fillValue, he]

/-- The column fields of a group, counted by fields of two bits. -/
theorem metaOk_iff_columns (fmt : Nat) (bs : List Byte) :
    metaOk fmt bs = true ↔ ∀ j < 16, ∀ k < (if fmt = 7 then 8 else 16),
      bits (leNat ((bs.drop (8 * j)).take 8)) (2 * (2 * k)) (2 * (2 * k) + 1)
        < bits (leNat ((bs.drop (8 * j)).take 8)) (2 * (2 * k + 1)) (2 * (2 * k + 1) + 1) := by
  have hlow (k : Nat) : 2 * (2 * k) = 4 * k := by omega
  have hhigh (k : Nat) : 2 * (2 * k + 1) = 4 * k + 2 := by omega
  simp only [metaOk_iff, hlow, hhigh]

section
variable {gr : Grant} {off m n : Nat}

theorem inLease_of_le (h : off % 65536 + m + n ≤ gr.lease * 4096) : inLease gr off (m + n) = true :=
  decide_eq_true (by rwa [← Nat.add_assoc])

theorem not_inLease_of_lt (h : gr.lease * 4096 < off % 65536 + m + n) : inLease gr off (m + n) = false :=
  decide_eq_false (by rw [← Nat.add_assoc]; exact Nat.not_le.2 h)

end

section
variable {s : State} {g : RegionNo} {id i : Nat} {a : Acc} {pl : Place} {c : CellNo} {x : CtxNo} {n : SlotNo} (h : s.MayPerform g id a pl)
  (hp : a.port = .slot c x n) (hone : a.linesLeft.filter (fun i => !s.heldAt g a (128 * i) (a.lineBytes i)) = [i])
  (hop : ∀ d, a.op ≠ .drain d) (hsound : s.spoiled { pl with pa := pl.pa + 128 * i } (a.lineBytes i) false = false)
include h hp hone hop hsound

/-- A line inside the lease is kept in its access. -/
theorem State.MayPerform.readsLine (hin : a.addr % 2 ^ 24 % 65536 + 128 * i + a.lineBytes i ≤ (s.grant g x).lease * 4096) :
    s.lineStep g a pl = s.updAcc g id (fun e =>
      { e with parts := Tab.set e.parts i (s.readPlace { pl with pa := pl.pa + 128 * i } (a.lineBytes i)) }) := by
  rw [State.lineStep_other hone hop hsound, Acc.ctx_slot hp, if_pos (inLease_of_le hin), State.acc_id h.here]

/-- One beyond it ends the access (05 R138). -/
theorem State.MayPerform.refusesLine (hout : (s.grant g x).lease * 4096 < a.addr % 2 ^ 24 % 65536 + 128 * i + a.lineBytes i) :
    s.lineStep g a pl = s.failAcc g id Cause.pagePermission := by
  rw [State.lineStep_other hone hop hsound, Acc.ctx_slot hp, not_inLease_of_lt hout, if_neg Bool.false_ne_true, State.acc_id h.here]

end

theorem State.asked_performed {s : State} {g : RegionNo} {id k : Nat} {a e : Acc} {b : Scb} (hacc : s.acc g id = some a)
    (he : (s.asked g id k b).acc g id = some e) : e.phase = .performed 0 ∧ e.wait = none := by
  obtain ⟨-, hdone, -⟩ := State.asked_spec (k := k) (b := b) hacc 0
  cases hdone.symm.trans he
  exact ⟨rfl, rfl⟩

/-- Settles O60: the effect of each kind of access by what its performing does, a line at a time where it goes by lines, and the two
accesses that take effect at the control point. -/
theorem slotAccessesHaveTheirEffect : Obligations.SlotAccessesHaveTheirEffect := by
  intro s g id a c x n hacc hp hfree cell gr
  refine ⟨fun pl hready howned hplain hclean => ?_, fun hent _ hwait => ?_⟩
  · have h : s.MayPerform g id a pl := ⟨hacc, hready, hfree, howned, hclean, hplain⟩
    refine ⟨fun r v hop => ?spill, fun r hop => ?fill, fun hop => ?metadata, fun i hby hone => ?line⟩
    case spill =>
      exact ⟨fun i e he => h.spills hp hop (State.doSpill_again he), fun he =>
        ⟨fun i kind loc hi hloc => h.spills hp hop (State.doSpill_new he hi hloc),
          fun hfull => h.spills hp hop (State.doSpill_line he hfull)⟩⟩
    case fill =>
      exact ⟨fun i e he => h.fills hp hop (State.fillValue_parked he) (State.doFill_parked he),
        fun he => h.fills hp hop (State.fillValue_line he) (State.doFill_line he)⟩
    case metadata =>
      refine ⟨fun hord => h.setsMetadata hp hop ((metaOk_iff_columns _ _).2 hord), fun hord => h.refusesMetadata hp hop ?_⟩
      exact eq_false_of_ne_true (fun hok => hord ((metaOk_iff_columns _ _).1 hok))
    case line =>
      have hpend : a.pending = true := Acc.pending_ready hready
      refine ⟨fun d hop hsound => ?drain, fun hop hsound hin => ?read, fun hop hsound hout => ?beyond⟩
      case drain =>
        have hstep := State.lineStep_drain hone hop hsound
        rw [State.acc_id hacc] at hstep
        have hkept := State.acc_writePlace s { pl with pa := pl.pa + 128 * i } ((d.drop (128 * i)).take 128) g id
        have hb := State.acc_withPart (i := i) (hkept.trans hacc) []
        refine ⟨fun hmore => h.goesOn hp hby hstep hb hmore, fun hlast => ?_⟩
        have hend := h.ends hp hby hstep hb hpend hlast
        rwa [State.linesDone_drain (b := a.withPart i []) hop] at hend
      case read =>
        have hstep := h.readsLine hp hone hop hsound hin
        have hb := State.acc_withPart (i := i) hacc (s.readPlace { pl with pa := pl.pa + 128 * i } (a.lineBytes i))
        refine ⟨fun hmore => h.goesOn hp hby hstep hb hmore, fun hlast hop' hfirst => ?tile, fun m hlast hop' hfirst => ?codebook⟩
        case tile =>
          have hend := h.ends hp hby hstep hb hpend hlast
          rwa [State.linesDone_tile (b := a.withPart i _) hp hop' hfirst] at hend
        case codebook =>
          have hend := h.ends hp hby hstep hb hpend hlast
          rwa [State.linesDone_codebook (b := a.withPart i _) hp hop' hfirst] at hend
      case beyond => exact h.fails hp hby (h.refusesLine hp hone hop hsound hout) (State.acc_failAcc hacc hp Cause.pagePermission) rfl
  · intro b hwaiting hwaits performed
    have hquiet : b.waiting = [] ∧ b.waits = [] := ⟨hwaiting, hwaits⟩
    refine ⟨fun hop hauto hopen hnew hroom => ?publish, fun m r hop hm hopen hr hnew hroom => ?release⟩
    case publish =>
      have hask := Scb.publish_takesEffect hauto hopen hnew hroom
      obtain ⟨hscb, -, hkept⟩ := State.asked_spec (k := a.scb) (b := { b with hwm := a.off }) hacc c
      exact ⟨_, exec_publish (b := { b with hwm := a.off }) hacc hent hfree hwait hwaiting hquiet hop hask, by rw [hscb],
        fun e he => State.asked_performed hacc he, hkept⟩
    case release =>
      have hask := Scb.release_takesEffect (by omega) hopen hr hnew hroom
      obtain ⟨hw, hws, hreaders⟩ := Scb.retail_keeps { b with readers := Tab.set b.readers m (r.released a.off) }
      obtain ⟨hscb, -, hkept⟩ :=
        State.asked_spec (k := a.scb) (b := ({ b with readers := Tab.set b.readers m (r.released a.off) } : Scb).retail) hacc c
      refine ⟨_, exec_release hacc hent hfree hwait hwaiting ⟨hw.trans hwaiting, hws.trans hwaits⟩ hop hask, ?_,
        fun e he => State.asked_performed hacc he, hkept⟩
      rw [hscb, hreaders, Tab.get_set_self]
      rfl

end Sys2Proof.Machine

/-! ## The matrix node (05 R147 to R153, 14 R294) -/

namespace Sys2Proof.Machine

/-! ### Firings of the node while no chain walker holds it -/

section
variable {s : State} {l : SlotLoc} {op : BitVec 9} {w : SlotWord} {a : Opnd} {held : SlotLoc → Bool}
  {effect : SlotLoc → Option (Nat × (Cell → Cell))}

/-- What a trigger that is taken leaves: its change of the cell, and its answer in flight. -/
def State.triggered (s : State) (l : SlotLoc) (op : BitVec 9) (w : SlotWord) (a : Opnd) (f : Cell → Cell) (v : Nat) : State :=
  (((s.pullAll l (SlotRules.positions op w)).updCell l.g l.cell f).launchFlight l w { pay := v }
    (FireOut.token { pay := v } l.ctx (s.roundOf l (SlotRules.positions op w)) (andP [a]))).updSlot l (fun t => { t with held := none })

/-- A firing whose one operand is there and movable, at a node that nothing holds. -/
structure State.Triggers (s : State) (l : SlotLoc) (op : BitVec 9) (w : SlotWord) (a : Opnd) : Prop where
  agent : s.cur = .slot l
  free  : s.slotFree l w = true
  may   : s.mayFire l (SlotRules.positions op w) = true
  srcA  : s.source l 0 w w.sa = some a
  moves : movable a = true
  chain : (s.core l.g).chainHolds l.cell = false

variable (h : s.Triggers l op w a) (hheld : held l = false)
include h hheld

theorem State.Triggers.answers {v : Nat} {f : Cell → Cell} (he : effect l = some (v, f)) :
    s.fireTrigger op w held effect = .next (s.triggered l op w a f v) := by
  simp only [State.fireTrigger, State.slotAgent_slot h.agent, h.free, h.may, h.srcA, h.moves, h.chain, hheld, he, Bool.not_true,
    Bool.or_self, Bool.false_eq_true, if_false]
  rfl

theorem State.Triggers.fails (he : effect l = none) :
    s.fireTrigger op w held effect = .next (s.fireFault l (SlotRules.positions op w) Cause.illegal 0 false) := by
  simp only [State.fireTrigger, State.slotAgent_slot h.agent, h.free, h.may, h.srcA, h.moves, h.chain, hheld, he, Bool.not_true,
    Bool.or_self, Bool.false_eq_true, if_false]

end

theorem State.fireNode_free {s : State} {l : SlotLoc} (hcur : s.cur = .slot l) (hchain : (s.core l.g).chainHolds l.cell = false)
    (op : BitVec 9) (w : SlotWord) (wr : Bool) (room : SlotLoc → Bool) (build : SlotLoc → Grant → Opnd → Opnd → Except MemErr Acc) :
    s.fireNode op w wr room build = s.fireAcc op w wr room build := by
  simp only [State.fireNode, State.slotAgent_slot hcur, hchain, Bool.false_eq_true, if_false]

/-! ### Addresses of the node (05 R147) -/

theorem tileBytes_eq (fmt : Nat) (sp : Bool) :
    tileBytes fmt sp = if fmt = 12 then 288 else if fmt = 11 then 864 else if sp then 1024 else 512 := by
  simp only [tileBytes, beq_iff_eq]

section
variable {l : SlotLoc} {gr : Grant} {a : Acc} {off : Nat} {pl : Place} (hcell : off / 65536 % 256 = l.cell.toNat)
include hcell

/-- A range of the own bank inside the lease, whose first line has the place. -/
theorem nodeAcc_ok {align check n : Nat} (halign : off % align = 0) (hpl : bankPlace l.g gr off (min check 128) = .ok pl)
    (hlease : off % 65536 + check ≤ gr.lease * 4096) :
    nodeAcc l gr a off align check n = .ok { a with addr := Claims.bankAddress off, n := n, line := true, phase := .ready pl } := by
  have hown : ownBank l gr off align check = .ok pl := by
    have hin : inLease gr off check = true := decide_eq_true hlease
    simp [ownBank, bits_eq_div_mod, hcell, halign, hpl, hin]
  rw [nodeAcc, hown]
  rfl

/-- A tile: the bytes of a BC8 tile end where its tokens do, so only its first line is checked (05 R148). -/
theorem nodeAcc_tile {fmt : Nat} {sp : Bool} (hpl : bankPlace l.g gr off 128 = .ok pl)
    (hlease : fmt = 11 ∨ off % 65536 + tileBytes fmt sp ≤ gr.lease * 4096) :
    nodeAcc l gr a off 128 (if fmt = 11 then 128 else tileBytes fmt sp) (tileBytes fmt sp)
      = .ok { a with addr := Claims.bankAddress off, n := tileBytes fmt sp, line := true, phase := .ready pl } := by
  obtain ⟨halign, -, hfirst, -⟩ := bankPlace_ok hpl
  have hlines : 128 ≤ tileBytes fmt sp := by
    rw [tileBytes_eq]
    split_ifs
    all_goals omega
  by_cases hbc : fmt = 11
  · rw [if_pos hbc]
    exact nodeAcc_ok hcell halign hpl hfirst
  · rw [if_neg hbc]
    exact nodeAcc_ok hcell halign (by rwa [Nat.min_eq_right hlines]) (hlease.resolve_left hbc)

end

/-! ### Drains (05 R153) -/

/-- The generator after a drain that draws. -/
theorem drainBytes_fst {ty md : Nat} (hdraws : md = 2 ∧ 7 ≤ ty ∧ ty ≤ 10) (sat : Bool) (cb : List Nat) (g : BitVec 16)
    (rows : List (List Nat)) : (drainBytes ty md sat cb g rows).1 = (Num.drawMap true (fun g v => Num.roundFmt ty (Num.value 6 v) md sat g) g rows.flatten).1 := by
  obtain ⟨hmd, hlow, hhigh⟩ := hdraws
  have h6 : ty ≠ 6 := by omega
  have h11 : ty ≠ 11 := by omega
  have h12 : ty ≠ 12 := by omega
  simp only [drainBytes, beq_iff_eq, h6, h11, h12, hmd, if_false, beq_self_eq_true]

/-- The bytes of a drain, by its format. -/
theorem drainBytes_snd (ty md : Nat) (sat : Bool) (cb : List Nat) (g : BitVec 16) (rows : List (List Nat)) :
    (drainBytes ty md sat cb g rows).2 =
      if ty = 6 then rows.flatten.flatMap (fun v => (natToBytes 4 v).map BitVec.toNat)
      else if ty = 11 then rows.flatMap (fun r => Num.bc8Encode (r.map (fun v => Num.roundFmt 9 (Num.value 6 v) 0 sat 0)))
      else if ty = 12 then rows.flatMap (fun r => Num.cb4Bytes (Num.cb4Quant (r.map (Num.value 6)) cb))
      else if md = 2 then
        (Num.drawMap true (fun g v => Num.roundFmt ty (Num.value 6 v) md sat g) g rows.flatten).2.flatMap
          (fun v => (natToBytes (Num.width ty / 8) v).map BitVec.toNat)
      else rows.flatten.flatMap (fun v => (natToBytes (Num.width ty / 8) (Num.roundFmt ty (Num.value 6 v) md sat g.toNat)).map BitVec.toNat) := by
  by_cases h6 : ty = 6
  · simp only [drainBytes, h6, beq_self_eq_true, if_true]
  by_cases h11 : ty = 11
  · simp [drainBytes, h11]
  by_cases h12 : ty = 12
  · simp [drainBytes, h12]
  by_cases hmd : md = 2
  · simp [drainBytes, h6, h11, h12, hmd]
  · have hdraw : (md == 2) = false := by simpa using hmd
    simp only [drainBytes, beq_iff_eq, h6, h11, h12, hmd, hdraw, if_false, Num.drawMap_false, List.flatMap_map]

theorem length_drainRows (c : Cell) (n : Nat) : (c.drainRows n false).flatten.length = 256 := by
  have hrow (m : Nat) (hm : m ∈ List.range 16) :
      (((c.accVals n).drop (16 * m)).take 16 ++ (([] : List Nat).drop (16 * m)).take 16).length = 16 := by
    rw [List.mem_range] at hm
    simp [Cell.accVals]
    omega
  have hrows : (c.drainRows n false).map List.length = (List.range 16).map (fun _ => 16) := by
    rw [Cell.drainRows, List.map_map]
    exact List.map_congr_left hrow
  rw [List.length_flatten, hrows]
  rfl

/-- A drain to FP32 of one accumulator writes 256 words. -/
theorem length_drainBytes_fp32 (c : Cell) (n md : Nat) (sat : Bool) (cb : List Nat) (g : BitVec 16) :
    (drainBytes 6 md sat cb g (c.drainRows n false)).2.length = 1024 := by
  rw [drainBytes_snd, if_pos rfl, List.length_flatMap]
  simp only [List.length_map, length_natToBytes, List.map_const', length_drainRows, List.sum_replicate]
  rfl

/-! ### The start of a drain -/

theorem State.accs_joinAcc (s : State) (g : RegionNo) (a : Acc) : ((s.joinAcc g a).core g).accs = (s.core g).accs ++ [a] := by
  rw [State.joinAcc, State.core_updCore_self]

/-- A firing that starts an access whose place is known adds it to the accesses of its region. -/
theorem State.length_accs_started {s : State} {l : SlotLoc} {op : BitVec 9} {w : SlotWord} {a b : Opnd} {acc : Acc} {pl : Place}
    (h : acc.phase = .ready pl) : ((Claims.started s l op w a b acc).core l.g).accs.length = (s.core l.g).accs.length + 1 := by
  simp only [Claims.started, State.startAcc, h, State.accs_joinAcc, List.length_append, List.length_singleton,
    (State.Tokens.updSlot _ l _).accs, (State.Tokens.pullAll s l _).accs]

/-- A firing at a node that nothing holds, whose operands are there and of a kind that a source takes. -/
structure State.HasOperands (s : State) (l : SlotLoc) (op : BitVec 9) (w : SlotWord) (a b : Opnd) : Prop where
  agent : s.cur = .slot l
  free  : s.slotFree l w = true
  may   : s.mayFire l (SlotRules.positions op w) = true
  srcA  : s.source l w.ty.toNat w w.sa = some a
  srcB  : s.source l w.ty.toNat w w.sb = some b
  kinds : memToken a = true ∧ memToken b = true
  chain : (s.core l.g).chainHolds l.cell = false

theorem State.HasOperands.of_reaches {s : State} {l : SlotLoc} {op : BitVec 9} {w : SlotWord} {a b : Opnd} (h : Claims.Reaches s l op w a b)
    (hchain : (s.core l.g).chainHolds l.cell = false) : s.HasOperands l op w a b :=
  ⟨h.agent, h.free, h.may, h.srcA, h.srcB, h.kinds, hchain⟩

section
variable {s : State} {l : SlotLoc} {op : BitVec 9} {w : SlotWord} {a b : Opnd} {wr : Bool} {room : SlotLoc → Bool}
  {build : SlotLoc → Grant → Opnd → Opnd → Except MemErr Acc} (h : s.HasOperands l op w a b) (hroom : room l = true)
include h hroom

/-- With room for its access it starts the one that its meaning builds. -/
theorem State.HasOperands.starts {acc : Acc} (hwr : acc.wr = wr) (hb : build l (s.grant l.g l.ctx) a b = .ok { acc with wr := false }) :
    s.fireNode op w wr room build = .next (Claims.started s l op w a b acc) := by
  subst hwr
  rw [State.fireNode_free h.agent h.chain]
  exact State.fireAcc_starts h.agent h.free h.may hroom h.srcA h.srcB h.kinds.1 h.kinds.2 (acc := { acc with wr := false }) hb

theorem State.HasOperands.fails {c : Byte} {va : Nat} (hb : build l (s.grant l.g l.ctx) a b = .error (c, va)) :
    s.fireNode op w wr room build = .next (s.fireFault l (SlotRules.positions op w) c va wr) := by
  rw [State.fireNode_free h.agent h.chain]
  exact State.fireAcc_fails h.agent h.free h.may hroom h.srcA h.srcB h.kinds.1 h.kinds.2 hb

end

/-- The accumulators that a drain takes (05 R153). -/
def drained (w : SlotWord) : List Nat := if w.fn.getLsbD 2 then [w.fn.toNat % 4, w.fn.toNat % 4 + 1] else [w.fn.toNat % 4]

/-- The bytes of the drain of a word, and the generator after it. -/
def State.drainOf (s : State) (l : SlotLoc) (w : SlotWord) : BitVec 16 × List Nat :=
  drainBytes w.ty.toNat w.rnd.toNat w.sat (s.codebook l.g l.cell w.rnd.toNat) (s.gen l.g l.cell)
    ((s.cell l.g l.cell).drainRows (w.fn.toNat % 4) (w.fn.getLsbD 2))

/-- The access of a drain of the bytes. -/
def drainAcc (off : Nat) (bytes : List Nat) (pl : Place) : Acc :=
  { op := .drain (bytes.map (BitVec.ofNat 8)), addr := Claims.bankAddress off, n := (bytes.map (BitVec.ofNat 8)).length, line := true,
    wr := true, phase := .ready pl }

section
variable {s : State} {l : SlotLoc} {w : SlotWord} {a b : Opnd} {pl : Place} {gen : BitVec 16} {bytes : List Nat}

theorem execMdrain_starts (h : Claims.Reaches s l 0x183 w a b) (hchain : (s.core l.g).chainHolds l.cell = false)
    (hbusy : (s.core l.g).nodeBusy l.cell (AccOp.into (drained w)) = false) (hdrain : s.drainOf l w = (gen, bytes))
    (hpl : bankPlace l.g (s.grant l.g l.ctx) (bankAddr w a b false) 128 = .ok pl)
    (hlease : bankAddr w a b false % 65536 + (bytes.map (BitVec.ofNat 8)).length ≤ (s.grant l.g l.ctx).lease * 4096) {t u : State}
    (ht : t = Claims.started s l 0x183 w a b (drainAcc (bankAddr w a b false) bytes pl))
    (hu : u = if w.rnd.toNat = 2 ∧ 7 ≤ w.ty.toNat ∧ w.ty.toNat ≤ 10 then t.setGen l.g l.cell gen else t) :
    execMdrain w s = .next (if w.fn.getLsbD 3 then
        u.updCell l.g l.cell (fun c => if w.fn.getLsbD 2 then (c.setAcc (w.fn.toNat % 4) []).setAcc (w.fn.toNat % 4 + 1) []
          else c.setAcc (w.fn.toNat % 4) [])
      else u) := by
  obtain ⟨halign, -⟩ := bankPlace_ok hpl
  have hin : inLease (s.grant l.g l.ctx) (bankAddr w a b false) (bytes.map (BitVec.ofNat 8)).length = true := decide_eq_true hlease
  have hgrew : ((t.core l.g).accs.length == (s.core l.g).accs.length) = false := by
    rw [ht, State.length_accs_started rfl]
    simp
  rw [State.drainOf] at hdrain
  rw [drained] at hbusy
  simp only [execMdrain, State.slotAgent_slot h.agent, hdrain]
  rw [State.HasOperands.starts (.of_reaches h hchain) (wr := true) (acc := drainAcc (bankAddr w a b false) bytes pl) ?room rfl ?build, ← ht]
  case room =>
    simp only [h.room, hbusy]
    rfl
  case build =>
    simp only [halign, hpl, hin]
    rfl
  simp only [hgrew, hu, Bool.and_eq_true, beq_iff_eq, decide_eq_true_eq, and_assoc, Bool.false_eq_true, if_false]

end

/-! ### The instructions of the node -/

section
variable {s : State} {l : SlotLoc} {w : SlotWord} {a b : Opnd} {pl : Place}

theorem exec_mswap_own (h : s.Triggers l 0x181 w a) (hheld : (s.core l.g).nodeBusy l.cell AccOp.holdsSwap = false)
    (hown : (s.cell l.g l.cell).tl.owner = some l.ctx) :
    Claims.Next (exec (.mswap w) s) (s.triggered l 0x181 w a (fun c => { c with ta := c.tl, tl := c.ta }) ((s.cell l.g l.cell).tl.fmt % 16)) :=
  h.answers hheld (if_neg (by simpa using hown))

theorem exec_mswap_other (h : s.Triggers l 0x181 w a) (hheld : (s.core l.g).nodeBusy l.cell AccOp.holdsSwap = false)
    (hother : (s.cell l.g l.cell).tl.owner ≠ some l.ctx) :
    Claims.Next (exec (.mswap w) s) (s.fireFault l (SlotRules.positions 0x181 w) Cause.illegal 0 false) :=
  h.fails hheld (if_pos (by simpa using hother))

theorem exec_mzero_answers (h : s.Triggers l 0x184 w a)
    (hheld : (s.core l.g).nodeBusy l.cell (AccOp.into [w.fn.toNat % 4]) = false) :
    Claims.Next (exec (.mzero w) s) (s.triggered l 0x184 w a (fun c => c.setAcc (w.fn.toNat % 4) []) (w.fn.toNat % 4)) :=
  (exec_mzero s w).trans (h.answers hheld rfl)

theorem getLsbD_zero {n : Nat} (v : BitVec n) : v.getLsbD 0 = decide (v.toNat % 2 = 1) := by
  rw [BitVec.getLsbD, Nat.testBit_zero]

/-- `mload` of a tile. -/
theorem exec_mload_tile (h : s.HasOperands l 0x180 w a b) (hroom : s.memRoom l = true)
    (hcell : bankAddr w a b false / 65536 % 256 = l.cell.toNat) (hfn : w.fn.toNat % 2 = 0)
    (hpl : bankPlace l.g (s.grant l.g l.ctx) (bankAddr w a b false) 128 = .ok pl)
    (hlease : w.ty.toNat = 11 ∨ bankAddr w a b false % 65536 + tileBytes w.ty.toNat false ≤ (s.grant l.g l.ctx).lease * 4096) :
    Claims.Next (exec (.mload w) s) (Claims.started s l 0x180 w a b
      { op := .tile, reg := w.fn.toNat / 2 % 4, addr := Claims.bankAddress (bankAddr w a b false), n := tileBytes w.ty.toNat false, line := true,
        phase := .ready pl }) := by
  have hbit : w.fn.getLsbD 0 = false := by rw [getLsbD_zero, hfn]; rfl
  have hty : (w.ty == 11) = decide (w.ty.toNat = 11) := decide_eq_decide.2 BitVec.toNat_inj.symm
  refine h.starts hroom rfl ?_
  simp only [hbit, hty, Bool.false_eq_true, if_false, decide_eq_true_eq]
  exact nodeAcc_tile hcell hpl hlease

/-- `mload` of a codebook. -/
theorem exec_mload_codebook (h : s.HasOperands l 0x180 w a b) (hroom : s.memRoom l = true)
    (hcell : bankAddr w a b false / 65536 % 256 = l.cell.toNat) (hfn : w.fn.toNat % 2 = 1)
    (hpl : bankPlace l.g (s.grant l.g l.ctx) (bankAddr w a b false) 32 = .ok pl) :
    Claims.Next (exec (.mload w) s) (Claims.started s l 0x180 w a b
      { op := .codebook (w.fn.toNat / 2 % 4), addr := Claims.bankAddress (bankAddr w a b false), n := 32, line := true, phase := .ready pl }) := by
  have hbit : w.fn.getLsbD 0 = true := by rw [getLsbD_zero, hfn]; rfl
  obtain ⟨halign, -, hlease, -⟩ := bankPlace_ok hpl
  refine h.starts hroom rfl ?_
  simp only [hbit, if_true]
  exact nodeAcc_ok hcell halign hpl hlease

theorem exec_msmeta_starts (h : s.HasOperands l 0x185 w a b) (hroom : s.memRoom l = true)
    (hcell : bankAddr w a b false / 65536 % 256 = l.cell.toNat)
    (hpl : bankPlace l.g (s.grant l.g l.ctx) (bankAddr w a b false) 128 = .ok pl) :
    Claims.Next (exec (.msmeta w) s) (Claims.started s l 0x185 w a b
      { op := .metadata, addr := Claims.bankAddress (bankAddr w a b false), n := 128, line := true, phase := .ready pl }) := by
  obtain ⟨halign, -, hlease, -⟩ := bankPlace_ok hpl
  exact h.starts hroom rfl (nodeAcc_ok hcell halign hpl hlease)

/-- The bitmap of an `mfire`: every group in the one-source form, else the word's index or lane 0 of B (05 R151). -/
def firedBitmap (w : SlotWord) (b : Opnd) : Nat := if w.sb = 10 then 0xFFFF else if w.sb = 9 then w.ix.toNat else b.pay % 2 ^ 32 % 2 ^ 16

theorem exec_mfire_starts (h : s.HasOperands l 0x182 w a b) (hroom : s.slotPending l = false)
    (hown : (s.cell l.g l.cell).ta.owner = some l.ctx) (hfmt : (s.cell l.g l.cell).ta.fmt = w.fn.toNat % 16)
    (hcell : addrA w a / 65536 % 256 = l.cell.toNat) (hpl : bankPlace l.g (s.grant l.g l.ctx) (addrA w a) 128 = .ok pl)
    (hlease : w.ty.toNat = 11 ∨ addrA w a % 65536 + tileBytes w.ty.toNat (w.mode.getLsbD 2) ≤ (s.grant l.g l.ctx).lease * 4096) :
    Claims.Next (exec (.mfire w) s) (Claims.started s l 0x182 w a b
      { op := .moving (w.mode.toNat % 4) (w.mode.getLsbD 2) (firedBitmap w b) (s.codebook l.g l.cell (if w.fn.getLsbD 4 then 1 else 0))
          (s.codebook l.g l.cell (s.cell l.g l.cell).ta.cbn),
        addr := Claims.bankAddress (addrA w a), n := tileBytes w.ty.toNat (w.mode.getLsbD 2), line := true, phase := .ready pl }) := by
  refine h.starts (by simp [hroom]) rfl ?_
  simp only [hown, hfmt, bne_self_eq_false, Bool.or_self, Bool.false_eq_true, if_false, beq_iff_eq]
  exact nodeAcc_tile hcell hpl hlease

theorem exec_mfire_fails (h : s.HasOperands l 0x182 w a b) (hroom : s.slotPending l = false)
    (hother : (s.cell l.g l.cell).ta.owner ≠ some l.ctx ∨ (s.cell l.g l.cell).ta.fmt ≠ w.fn.toNat % 16) :
    Claims.Next (exec (.mfire w) s) (s.fireFault l (SlotRules.positions 0x182 w) Cause.illegal (Claims.bankAddress (addrA w a)) false) :=
  h.fails (by simp [hroom]) (if_pos (by simpa using hother))

end

/-- Settles O28: the triggers, the firings that start one access, and the moving tile. -/
theorem matrixNode : Obligations.MatrixNode := by
  unfold Obligations.MatrixNode
  refine ⟨?_, ?_⟩
  · intro s l w a b gr c ty off triggers answered hchain
    have htrig {op : BitVec 9} (h : triggers op) : s.Triggers l op w a := by
      obtain ⟨hcur, hfree, hmay, ha, hmoves⟩ := h
      exact ⟨hcur, hfree, hmay, ha, hmoves, hchain⟩
    have hops {op : BitVec 9} (h : Claims.Reaches s l op w a b) : s.HasOperands l op w a b := .of_reaches h hchain
    refine ⟨fun h hheld => ?mswap, fun h hheld => exec_mzero_answers (htrig h) hheld, fun pl h hcell hfn => ?tile,
      fun pl h hcell hfn hpl => exec_mload_codebook (hops h) h.room hcell hfn hpl,
      fun pl h hcell hpl => exec_msmeta_starts (hops h) h.room hcell hpl,
      fun pl hcur hfree hmay hpend ha hb hka hkb => ?mfire, fun pl h hpl => ?mdrain⟩
    case mswap => exact ⟨exec_mswap_own (htrig h) hheld, exec_mswap_other (htrig h) hheld⟩
    case tile =>
      intro n hpl hlease
      have hn : tileBytes ty false = n := tileBytes_eq ty false
      rw [← hn] at hlease ⊢
      exact exec_mload_tile (hops h) h.room hcell hfn hpl hlease
    case mfire =>
      intro o sp n bitmap
      have h : s.HasOperands l 0x182 w a b := ⟨hcur, hfree, hmay, ha, hb, ⟨hka, hkb⟩, hchain⟩
      have hn : tileBytes ty sp = n := tileBytes_eq ty sp
      rw [← hn]
      exact ⟨exec_mfire_starts h hpend, exec_mfire_fails h hpend⟩
    case mdrain =>
      intro n pair md rows le e draws vs bytes data hty hlease hbusy t u
      have hdrain : s.drainOf l w = ((s.drainOf l w).1, bytes) := Prod.ext rfl (drainBytes_snd ..)
      have hgen (hd : draws) : (s.drainOf l w).1 = vs.1 := drainBytes_fst hd ..
      have hu : u = if draws then t.setGen l.g l.cell (s.drainOf l w).1 else t := by
        by_cases hd : draws
        · simp only [u, if_pos hd, hgen hd]
        · simp only [u, if_neg hd]
      refine ⟨execMdrain_starts h hchain hbusy hdrain hpl hlease rfl hu, fun hfp32 hsingle => ?_⟩
      have hbytes : (drainBytes ty md w.sat (s.codebook l.g l.cell md) (s.gen l.g l.cell) (c.drainRows n pair)).2 = bytes :=
        congrArg Prod.snd hdrain
      rw [hfp32, hsingle] at hbytes
      rw [show data.length = bytes.length from List.length_map _, ← hbytes]
      exact length_drainBytes_fp32 ..
  · intro s g id i n bitmap sp cbm cbt a c x k pl hacc hp hready howned hplain hop hone p bs b t hsound hlease
    have hby : a.byLine = true := by rw [Acc.byLine, hop]
    have hclean : s.accSpoiled g a pl = false := by rw [State.accSpoiled, hby]; rfl
    have h : s.MayPerform g id a pl := ⟨hacc, hready, State.holds_byLine hby hone, howned, hclean, hplain⟩
    have hstep : s.lineStep g a pl = t := h.readsLine hp hone (by simp [hop]) hsound hlease
    have hb : t.acc g id = some b := State.acc_withPart hacc bs
    refine ⟨fun hmore => h.goesOn hp hby hstep hb hmore, fun hlast hfirst => ?_⟩
    have hend := h.ends hp hby hstep hb (Acc.pending_ready hready) hlast
    have hcell : t.cell g c = s.cell g c := State.cell_updAcc ..
    rwa [State.linesDone_moving (b := b) hp hop hfirst, hcell] at hend

end Sys2Proof.Machine

/-! ## Words of a thread that may issue (06 R165, R167) -/

namespace Sys2Proof.Machine

/-! ### Fields and offsets as words -/

theorem setWidth_eq_fld {m n : Nat} (v : BitVec m) (h : n ≤ m) : v.setWidth n = fld v 0 n := BitVec.setWidth_eq_extractLsb' h

/-- An offset in words of four bytes (06 R169, R173). -/
theorem shiftLeft_two_eq (v : W64) : v <<< 2 = 4 * v := by
  rw [BitVec.shiftLeft_eq_mul_twoPow, BitVec.mul_comm]
  rfl

/-- An offset in command registers of sixteen bytes (06 R174). -/
theorem shiftLeft_four_eq (v : W64) : v <<< 4 = 16 * v := by
  rw [BitVec.shiftLeft_eq_mul_twoPow, BitVec.mul_comm]
  rfl

/-- A PC from the bits 13 to 2 that `lepc` and `ltvec` hold of it (06 R168). -/
theorem wordAddress_eq (v : BitVec 12) : (0#50) ++ v ++ (0#2) = (v.zeroExtend 64) <<< 2 := by
  apply BitVec.eq_of_getLsbD_eq
  intro i hi
  rw [BitVec.getLsbD_append, BitVec.getLsbD_append, BitVec.getLsbD_shiftLeft, BitVec.getLsbD_setWidth]
  by_cases h2 : i < 2
  · simp [h2]
  · by_cases h14 : i - 2 < 12
    · simp [h2, h14, hi, show i - 2 < 64 by omega]
    · simp [h2, h14, BitVec.getLsbD_of_ge v (i - 2) (by omega)]

/-! ### The thread that a word changes -/

theorem State.updTh_congr {s : State} {w : Who} {f f' : Thread → Thread} (h : f (s.th w) = f' (s.th w)) : s.updTh w f = s.updTh w f' := by
  cases w with
  | prog g x =>
    change f (Tab.getD (s.core g).threads x.toNat) = f' (Tab.getD (s.core g).threads x.toNat) at h
    simp only [State.updTh, State.updThread, State.updCore, Tab.upd, h]
  | micro g =>
    change f (s.reg g).micro.th = f' (s.reg g).micro.th at h
    simp only [State.updTh, h]

theorem State.updThread_congr {s : State} {g : RegionNo} {x : CtxNo} {f f' : Thread → Thread} (h : f (s.thread g x) = f' (s.thread g x)) :
    s.updThread g x f = s.updThread g x f' := State.updTh_congr (w := .prog g x) h

section
variable {s : State} {w : Who} {g : RegionNo} {x : CtxNo}

/-- A word of either kind of thread. -/
theorem State.issue_of_ready {regs : List (BitVec 5)} (h : Claims.Ready s w regs) (f : Who → Thread → State) :
    s.issue (regs.map BitVec.toNat) f = .next (f w (s.th w)) :=
  have ⟨hwho, hrun, hregs⟩ := h
  State.issue_ready f hwho hrun hregs

/-- A word that writes one register. -/
theorem State.setWord_of_ready {d : BitVec 5} {regs : List (BitVec 5)} (h : Claims.Ready s w (d :: regs)) (f : Thread → W64) :
    s.setWord d regs f = .next (Claims.wrote s w d (f (s.th w))) := State.issue_of_ready h _

/-- A word of either kind of thread, in a program thread. -/
theorem State.issue_of_readyProg {regs : List Nat} (h : Claims.ReadyProg s g x regs) (f : Who → Thread → State) :
    s.issue regs f = .next (f (.prog g x) (s.thread g x)) :=
  have ⟨hcur, hrun, hregs⟩ := h
  State.issue_ready f (State.who_lectern hcur) hrun hregs

/-- A word that only program threads have the registers for. -/
theorem State.issueProg_of_readyProg {regs : List Nat} (h : Claims.ReadyProg s g x regs) (f : RegionNo → CtxNo → Thread → State) :
    s.issueProg regs f = .next (f g x (s.thread g x)) := State.issue_of_readyProg h _

end

end Sys2Proof.Machine

/-! ## Words that write one register (06 R169; 02 R52) -/

namespace Sys2Proof.Machine

/-! ### Signed results of 64 bits -/

/-- The signed product of two words, of 128 bits. -/
theorem signExtend_mul_signExtend (x y : W64) : x.signExtend 128 * y.signExtend 128 = BitVec.ofInt 128 (x.toInt * y.toInt) := by
  apply BitVec.eq_of_toInt_eq
  rw [BitVec.toInt_mul, BitVec.toInt_signExtend_of_le (by decide), BitVec.toInt_signExtend_of_le (by decide), BitVec.toInt_ofInt]

theorem ofInt_high_product (x y : W64) :
    BitVec.ofInt 64 (x.toInt * y.toInt / 2 ^ 64) = (x.signExtend 128 * y.signExtend 128).extractLsb' 64 64 := by
  rw [signExtend_mul_signExtend]
  apply BitVec.eq_of_toNat_eq
  rw [BitVec.toNat_ofInt, BitVec.extractLsb'_toNat, BitVec.toNat_ofInt, Nat.shiftRight_eq_div_pow]
  generalize x.toInt * y.toInt = p
  omega

theorem ofInt_tdiv (x y : W64) : BitVec.ofInt 64 (x.toInt.tdiv y.toInt) = x.sdiv y := by
  apply BitVec.eq_of_toInt_eq
  rw [BitVec.toInt_ofInt, BitVec.toInt_sdiv]

theorem ofInt_tmod (x y : W64) : BitVec.ofInt 64 (x.toInt.tmod y.toInt) = x.srem y := by
  rw [← BitVec.toInt_srem, BitVec.ofInt_toInt]

theorem shiftCount_eq (y : W64) : y.toNat % 64 = (fld y 0 6).toNat := by
  rw [BitVec.extractLsb'_toNat]
  rfl

/-! ### The words -/

/-- A word that writes one register, by the value that it forms. -/
theorem exec_setWord {s : State} {w : Who} {d : BitVec 5} {regs : List (BitVec 5)} {i : Instr} {f : Thread → W64} {v : W64}
    (h : Claims.Ready s w (d :: regs)) (hi : exec i s = s.setWord d regs f) (hv : f (s.th w) = v) :
    Claims.Next (exec i s) (Claims.wrote s w d v) := by
  rw [← hv]
  exact hi.trans (State.setWord_of_ready h f)

/-- A word of two registers. -/
theorem exec_alu {s : State} {w : Who} {d a b : BitVec 5} {i : Instr} {f : W64 → W64 → W64} {v : W64} (h : Claims.Ready s w [d, a, b])
    (hi : exec i s = s.alu d a b f) (hv : f ((s.th w).rg a) ((s.th w).rg b) = v) : Claims.Next (exec i s) (Claims.wrote s w d v) :=
  exec_setWord h hi hv

/-- A word of a register and an immediate. -/
theorem exec_aluImm {s : State} {w : Who} {d a : BitVec 5} {i : Instr} {f : W64 → W64} {v : W64} (h : Claims.Ready s w [d, a])
    (hi : exec i s = s.aluImm d a f) (hv : f ((s.th w).rg a) = v) : Claims.Next (exec i s) (Claims.wrote s w d v) :=
  exec_setWord h hi hv

theorem integerWordsWriteTheirValue : Claims.IntegerWordsWriteTheirValue := by
  unfold Claims.IntegerWordsWriteTheirValue
  intro s w d a b h x y n
  have hn : y.toNat % 64 = n := shiftCount_eq y
  refine ⟨exec_alu h (exec_add ..) rfl, exec_alu h (exec_sub ..) rfl, exec_alu h (exec_mul ..) rfl,
    exec_alu h (exec_mulh ..) (ofInt_high_product x y), exec_alu h (exec_div ..) ?div, exec_alu h (exec_rem ..) ?rem,
    exec_alu h (exec_lecternAnd ..) rfl, exec_alu h (exec_lecternOr ..) rfl, exec_alu h (exec_lecternXor ..) rfl,
    exec_alu h (exec_sll ..) (congrArg (x <<< ·) hn), exec_alu h (exec_srl ..) (congrArg (x >>> ·) hn),
    exec_alu h (exec_sra ..) (congrArg x.sshiftRight hn), exec_alu h (exec_slt ..) ?slt, exec_alu h (exec_sltu ..) ?sltu⟩
  case div => simp only [ofInt_tdiv, beq_iff_eq, x, y]
  case rem => simp only [ofInt_tmod, beq_iff_eq, x, y]
  case slt => simp only [BitVec.slt_iff_toInt_lt, x, y]
  case sltu => simp only [BitVec.ult_iff_lt, BitVec.lt_def, x, y]

/-- A shift whose immediate has a bit above its count set is no word (06 R169). -/
theorem decodeLectern_shift_undefined {w : W32} (hop : fld w 26 6 ∈ [0x05#6, 0x06#6, 0x07#6]) (hcount : fld w 6 10 ≠ 0#10) :
    ∃ e, decodeLectern w = .error e := by
  have hz : (fld w 6 10 == 0#10) = false := beq_false_of_ne hcount
  simp only [List.mem_cons, List.not_mem_nil, or_false] at hop
  obtain h | h | h := hop
  all_goals exact ⟨.undefinedField, by simp [decodeLectern, h, hz]⟩

theorem immediateWordsWriteTheirValue : Claims.ImmediateWordsWriteTheirValue := by
  unfold Claims.ImmediateWordsWriteTheirValue
  refine ⟨?_, ?_, fun w hop hcount => decodeLectern_shift_undefined hop hcount⟩
  · intro s w d a imm n h x
    have himm : (imm.signExtend 64).toInt = imm.toInt := BitVec.toInt_signExtend_of_le (by decide)
    refine ⟨exec_aluImm h (exec_addi ..) rfl, exec_aluImm h (exec_andi ..) rfl, exec_aluImm h (exec_ori ..) rfl,
      exec_aluImm h (exec_xori ..) rfl, exec_aluImm h (exec_slli ..) rfl, exec_aluImm h (exec_srli ..) rfl,
      exec_aluImm h (exec_srai ..) rfl, exec_aluImm h (exec_slti ..) ?slti⟩
    simp only [BitVec.slt_iff_toInt_lt, himm, x]
  · intro s w d imm h
    exact ⟨exec_setWord h (exec_lui ..) rfl, exec_setWord h (exec_adr ..) (congrArg ((s.th w).pc + ·) (shiftLeft_two_eq _))⟩

/-- Settles O1: each word forms the value of its row, in the model's integers or directly in words of 64 bits. -/
theorem registerWordsWriteTheirValue : Obligations.RegisterWordsWriteTheirValue := by
  unfold Obligations.RegisterWordsWriteTheirValue
  exact ⟨integerWordsWriteTheirValue, immediateWordsWriteTheirValue⟩

end Sys2Proof.Machine

/-! ## Branches and jumps (06 R166, R173) -/

namespace Sys2Proof.Machine

section
variable {s : State} {w : Who}

/-- A branch, by whether its condition holds. -/
theorem exec_branch {a b : BitVec 5} {off : BitVec 16} {i : Instr} {cond : W64 → W64 → Bool} {taken : Bool} (h : Claims.Ready s w [a, b])
    (hi : exec i s = s.branch a b off cond) (hc : cond ((s.th w).rg a) ((s.th w).rg b) = taken) :
    Claims.Next (exec i s) (s.updTh w (fun t => if taken then { t with pc := t.pc + 4 * off.signExtend 64 } else t.step)) := by
  rw [hi, State.branch, ← shiftLeft_two_eq, ← hc]
  exact (State.issue_of_ready h _).trans (congrArg Host.Outcome.next (State.updTh_congr rfl))

/-- `jal` (06 R173). -/
theorem exec_jal_links {off : BitVec 26} (h : Claims.Ready s w [31]) :
    Claims.Next (exec (.jal off) s)
      (s.updTh w (fun _ => { (s.th w).wg 31 ((s.th w).pc + 4) with pc := (s.th w).pc + 4 * off.signExtend 64 })) := by
  rw [exec_jal, execJal, ← shiftLeft_two_eq]
  exact State.issue_of_ready h _

section
variable {d a : BitVec 5} {off : BitVec 16} (h : Claims.Ready s w [d, a])
include h

theorem exec_jalr_aligned (ht : ((s.th w).rg a + off.signExtend 64).toNat % 4 = 0) :
    Claims.Next (exec (.jalr d a off) s)
      (s.updTh w (fun _ => { (s.th w).wg d ((s.th w).pc + 4) with pc := (s.th w).rg a + off.signExtend 64 })) := by
  rw [exec_jalr, execJalr]
  exact (State.issue_of_ready h _).trans (congrArg Host.Outcome.next (if_neg (by simpa using ht)))

theorem exec_jalr_misaligned (ht : ((s.th w).rg a + off.signExtend 64).toNat % 4 ≠ 0) :
    Claims.Next (exec (.jalr d a off) s) (s.trap w Cause.misaligned ((s.th w).rg a + off.signExtend 64) (s.th w).pc) := by
  rw [exec_jalr, execJalr]
  exact (State.issue_of_ready h _).trans (congrArg Host.Outcome.next (if_pos (by simpa using ht)))

end

end

/-- A fetch at or beyond the end of the section traps at the word itself (06 R166). -/
theorem exec_fetchBeyondSection_traps {s : State} {g : RegionNo} {x : CtxNo} (h : Claims.ReadyProg s g x []) :
    exec .fetchBeyondSection s = .next (s.trapEntry g x Cause.illegal (s.thread g x).pc (s.thread g x).pc) := by
  rw [exec_fetchBeyondSection]
  exact State.issue_of_readyProg h _

/-- Settles O2: a branch by its condition, a jump by its target, and the step of a thread whose PC is out of its section. -/
theorem branchesAndJumpsSetThePc : Obligations.BranchesAndJumpsSetThePc := by
  unfold Obligations.BranchesAndJumpsSetThePc
  refine ⟨?branch, fun s w off h => exec_jal_links h, ?jalr, ?beyond⟩
  case branch =>
    intro s w a b off h x y go
    refine ⟨exec_branch h (exec_beq ..) ?_, exec_branch h (exec_bne ..) ?_, exec_branch h (exec_blt ..) ?_, exec_branch h (exec_bge ..) ?_,
      exec_branch h (exec_bltu ..) ?_, exec_branch h (exec_bgeu ..) ?_⟩
    · exact beq_eq_decide x y
    · rw [decide_not, ← beq_eq_decide]
      rfl
    · exact BitVec.slt_eq_decide
    · simp only [BitVec.slt_eq_decide, ← decide_not, Int.not_lt, x, y]
    · exact BitVec.ult_eq_decide
    · simp only [BitVec.ult_eq_decide, ← decide_not, Nat.not_lt, x, y]
  case jalr =>
    intro s w d a off h t target
    split
    case isTrue ht => exact exec_jalr_aligned h ht
    case isFalse ht => exact exec_jalr_misaligned h ht
  case beyond =>
    intro s g x rest ha hs hpc s1 h
    have hfetch : (s.taken (.lectern g x) rest).fetch = some .fetchBeyondSection := by rw [State.fetch_lectern, fetchWord_beyond hpc]
    have hthread : s1.thread g x = s.thread g x := s.thread_noteReady g x
    rw [← hthread]
    exact (step_of_fetch ha hs hfetch).trans (exec_fetchBeyondSection_traps h)

end Sys2Proof.Machine

/-! ## The frame of register words (06 R165, R169, R173) -/

namespace Sys2Proof.Machine

/-! ### Threads beside the one that a word changes -/

theorem State.th_updTh_ne {s : State} {w v : Who} (f : Thread → Thread) (h : v ≠ w) : (s.updTh w f).th v = s.th v := by
  cases w with
  | prog g x =>
    cases v with
    | prog h' y =>
      by_cases hg : h' = g
      · subst hg
        exact State.thread_updThread_ne s h' x y f (fun e => h (by rw [e]))
      · simp only [State.th, State.updTh, State.thread, State.updThread, State.core_updCore_ne _ _ _ _ hg]
    | micro h' => exact congrArg Micro.th (State.micro_updCore s g h' _)
  | micro g =>
    cases v with
    | prog h' y =>
      by_cases hg : h' = g
      · subst hg
        simp [State.th, State.updTh, State.thread, State.core]
      · simp [State.th, State.updTh, State.thread, State.core, hg]
    | micro h' =>
      have hg : h' ≠ g := fun e => h (by rw [e])
      simp [State.th, State.updTh, hg]

/-! ### What a register word leaves of its thread -/

/-- A thread that differs in one general register, its PC and what it waits for. -/
structure Thread.Kept (r : Option (BitVec 5)) (t t' : Thread) : Prop where
  regs : ∀ n, some n ≠ r → t'.rg n = t.rg n
  c : t'.c = t.c
  k : t'.k = t.k
  bd : t'.bd = t.bd
  ports : t'.ports = t.ports
  status : ∀ w r, t'.status w r = t.status w r

theorem Thread.status_wg (t : Thread) (d : BitVec 5) (v : W64) (w : Who) (r : BitVec 4) : (t.wg d v).status w r = t.status w r := by
  unfold Thread.wg
  split <;> rfl

theorem Thread.Kept.refl (r : Option (BitVec 5)) (t : Thread) : Thread.Kept r t t := ⟨fun _ _ => rfl, rfl, rfl, rfl, rfl, fun _ _ => rfl⟩

theorem Thread.Kept.wg (t : Thread) (d : BitVec 5) (v : W64) : Thread.Kept (some d) t (t.wg d v) where
  regs n hn := t.rg_wg_ne d n v (fun e => hn (by rw [e]))
  c := t.wg_c d v
  k := t.wg_k d v
  bd := t.wg_bd d v
  ports := t.wg_ports d v
  status := t.status_wg d v

/-- The PC and the waits are none of these. -/
theorem Thread.Kept.moved {r : Option (BitVec 5)} {t t' : Thread} (h : Thread.Kept r t t') (pc : W64) (wait : Option Wait) (latched : Bool)
    (going : Option Nat) : Thread.Kept r t { t' with pc := pc, wait := wait, latched := latched, going := going } :=
  ⟨h.regs, h.c, h.k, h.bd, h.ports, h.status⟩

theorem Thread.Kept.step {r : Option (BitVec 5)} {t t' : Thread} (h : Thread.Kept r t t') : Thread.Kept r t t'.step :=
  h.moved _ _ _ _

/-- The registers of the microprogram thread (06 R165). -/
theorem microStatus_of_mem {r : BitVec 4} (h : r ∈ [0, 1, 2, 4]) : microStatus r = true := by
  simp only [List.mem_cons, List.not_mem_nil, or_false] at h
  obtain rfl | rfl | rfl | rfl := h
  all_goals rfl

/-! ### What a register word can answer -/

/-- The thread alone has changed, and there one general register, the PC and the waits, or nothing has. -/
def State.WroteAtMost (s : State) (w : Who) (r : Option (BitVec 5)) (s' : State) : Prop :=
  s' = s ∨ ∃ f : Thread → Thread, s' = s.updTh w f ∧ Thread.Kept r (s.th w) (f (s.th w))

section
variable {s s' : State} {w : Who} (hw : s.who = some w)
include hw

theorem State.setWord_wroteAtMost {d : BitVec 5} {regs : List (BitVec 5)} {f : Thread → W64} (h : s.setWord d regs f = .next s') :
    s.WroteAtMost w (some d) s' := by
  obtain h | ⟨v, hv, rfl⟩ := State.setWord_inv h
  · exact .inl h
  · cases hw.symm.trans hv
    exact .inr ⟨_, rfl, (Thread.Kept.wg _ d _).step⟩

theorem State.alu_wroteAtMost {d a b : BitVec 5} {f : W64 → W64 → W64} (h : s.alu d a b f = .next s') : s.WroteAtMost w (some d) s' :=
  State.setWord_wroteAtMost hw h

theorem State.aluImm_wroteAtMost {d a : BitVec 5} {f : W64 → W64} (h : s.aluImm d a f = .next s') : s.WroteAtMost w (some d) s' :=
  State.setWord_wroteAtMost hw h

theorem State.branch_wroteAtMost {a b : BitVec 5} {off : BitVec 16} {cond : W64 → W64 → Bool} (h : s.branch a b off cond = .next s') :
    s.WroteAtMost w none s' := by
  obtain h | ⟨v, hv, -, rfl⟩ := State.issue_inv h
  · exact .inl h
  · cases hw.symm.trans hv
    refine .inr ⟨_, rfl, ?_⟩
    split
    · exact (Thread.Kept.refl none _).moved _ _ _ _
    · exact (Thread.Kept.refl none _).step

theorem execJal_wroteAtMost {off : BitVec 26} (h : execJal off s = .next s') : s.WroteAtMost w (some 31) s' := by
  obtain h | ⟨v, hv, -, rfl⟩ := State.issue_inv h
  · exact .inl h
  · cases hw.symm.trans hv
    exact .inr ⟨_, rfl, (Thread.Kept.wg _ 31 _).moved _ _ _ _⟩

theorem execRdst_wroteAtMost {r : BitVec 4} {d : BitVec 5} (hheld : ∀ g, w = .micro g → r ∈ [0, 1, 2, 4]) (h : execRdst r d s = .next s') :
    s.WroteAtMost w (some d) s' := by
  rw [execRdst, State.statusWord] at h
  obtain h | ⟨v, hv, -, rfl⟩ := State.issue_inv h
  · exact .inl h
  · cases hw.symm.trans hv
    cases w with
    | prog g x => exact .inr ⟨_, rfl, (Thread.Kept.wg _ d _).step⟩
    | micro g =>
      refine .inr ⟨_, if_pos (microStatus_of_mem (hheld g rfl)), (Thread.Kept.wg _ d _).step⟩

/-- Everything a register word or a branch can answer. -/
theorem exec_wroteAtMost {i : Instr} (hi : Claims.registerWord i = true)
    (hheld : ∀ g, w = .micro g → ∀ r d, i = .rdst r d → r ∈ [0, 1, 2, 4])
    (h : exec i s = .next s') : s.WroteAtMost w (Claims.registerOf i) s' := by
  cases i with
  | add d a b | sub d a b | mul d a b | mulh d a b | div d a b | rem d a b | lecternAnd d a b | lecternOr d a b
    | lecternXor d a b | sll d a b | srl d a b | sra d a b | slt d a b | sltu d a b =>
    dsimp only [exec] at h
    exact State.alu_wroteAtMost hw h
  | addi d a imm | andi d a imm | ori d a imm | xori d a imm | slli d a n | srli d a n | srai d a n | slti d a imm =>
    dsimp only [exec] at h
    exact State.aluImm_wroteAtMost hw h
  | lui d imm | adr d imm =>
    dsimp only [exec] at h
    exact State.setWord_wroteAtMost hw h
  | beq a b off | bne a b off | blt a b off | bge a b off | bltu a b off | bgeu a b off =>
    dsimp only [exec] at h
    exact State.branch_wroteAtMost hw h
  | jal off => exact execJal_wroteAtMost hw h
  | rdst r d => exact execRdst_wroteAtMost hw (fun g hg => hheld g hg r d rfl) h
  | _ => cases hi

end

/-- Settles O14: a register word or a branch has changed its own thread alone, and there one register, the PC and the waits. -/
theorem registerWordsFrame : Obligations.RegisterWordsFrame := by
  unfold Obligations.RegisterWordsFrame
  intro i s s' w hi hw hheld h
  obtain rfl | ⟨f, rfl, hkept⟩ := exec_wroteAtMost hw hi hheld h
  · exact ⟨rfl, rfl, rfl, rfl, rfl, fun _ _ => rfl, fun _ _ => rfl, rfl, rfl, rfl, rfl, rfl, fun _ => rfl⟩
  · obtain ⟨hregs, hc, hk, hbd, hports, hstatus⟩ := hkept
    rw [State.th_updTh_self]
    exact ⟨State.updTh_mem .., State.updTh_banks .., State.updTh_ctxs .., State.updTh_streams .., State.updTh_records ..,
      fun v hv => State.th_updTh_ne f hv, hregs, rfl, hc, hk, hbd, hports, fun r => hstatus w r⟩

end Sys2Proof.Machine

/-! ## Loads and stores of threads (06 R170 to R172, R174) -/

namespace Sys2Proof.Machine

/-! ### The checks of an address, in the order of 06 R171 -/

section
variable {va : Nat}

theorem classFault_drawer (h : clsOf va = 8) : classFault va = some Cause.drawerAccess := by simp [classFault, h]

theorem classFault_other (h : clsOf va ∉ [0, 4, 8, 0xC]) : classFault va = some Cause.addrClass := by
  simp only [List.mem_cons, List.not_mem_nil, or_false, not_or] at h
  obtain ⟨h0, -, h8, hC⟩ := h
  simp [classFault, h0, h8, hC]

theorem classFault_ordinary (h : clsOf va = 0) (hb : bits va 57 59 = 0) : classFault va = none := by simp [classFault, h, hb]

theorem classFault_bank (h : clsOf va = 0xC) (hb : bits va 24 59 = 0) : classFault va = none := by simp [classFault, h, hb]

variable {g : RegionNo} {gr : Grant} {n : Nat}

theorem lecternCheck_misaligned (ha : va % n ≠ 0) : lecternCheck g gr va n = .error Cause.misaligned := by simp [lecternCheck, ha]

variable (ha : va % n = 0)
include ha

theorem lecternCheck_stream (h : clsOf va = 4) : lecternCheck g gr va n = .ok none := by simp [lecternCheck, ha, h]

theorem lecternCheck_classFault (h : clsOf va ≠ 4) {c : Byte} (hc : classFault va = some c) : lecternCheck g gr va n = .error c := by
  simp [lecternCheck, ha, h, hc]

theorem lecternCheck_ordinary (h : clsOf va = 0) (hb : bits va 57 59 = 0) : lecternCheck g gr va n = .ok none := by
  simp [lecternCheck, ha, h, classFault_ordinary h hb]

theorem lecternCheck_bank (h : clsOf va = 0xC) (hb : bits va 24 59 = 0) :
    lecternCheck g gr va n = (bankPlace g gr (va % 2 ^ 24) n).map some := by
  simp [lecternCheck, ha, h, classFault_bank h hb]

end

/-- A bank address at or beyond the lease, counted in lines of 128 bytes (05 R138). -/
theorem bankPlace_beyond_lease {g : RegionNo} {gr : Grant} {va n : Nat} (ha : va % 2 ^ 24 % n = 0) (hn : 0 < n)
    (hl : gr.lease * 32 ≤ bits va 7 15) : bankPlace g gr (va % 2 ^ 24) n = .error Cause.pagePermission := by
  rw [bits_eq_div_mod] at hl
  have hout : inLease gr (va % 2 ^ 24) n = false := decide_eq_false (by omega)
  rw [bankPlace, if_neg (by simpa using ha), if_neg (by omega), hout]
  rfl

/-! ### The issue of an access -/

section
variable {s : State} {g : RegionNo} {x : CtxNo} {t : Thread} {a : Acc} {va n : Nat}

/-- The access of a word as it stands in the thread's order. -/
def Acc.issued (a : Acc) (s : State) (x : CtxNo) (t : Thread) (va n : Nat) : Acc :=
  { a with id := s.tick, seq := s.tick, port := .thread x, ctxid := t.ctxid, gen := t.gen, addr := va, n := n, size := n }

theorem State.issueAcc_traps {c : Byte} (hc : lecternCheck g (s.grant g x) va n = .error c) :
    s.issueAcc g x t a va n = s.trapEntry g x c (BitVec.ofNat 64 va) t.pc := by
  rw [State.issueAcc, hc]

theorem State.issueAcc_bank {pl : Place} (hc : lecternCheck g (s.grant g x) va n = .ok (some pl)) :
    s.issueAcc g x t a va n = (s.updThread g x Thread.step).joinAcc g { a.issued s x t va n with phase := .ready pl } := by
  rw [State.issueAcc, hc]
  rfl

theorem State.issueAcc_stream (hc : lecternCheck g (s.grant g x) va n = .ok none) (h : clsOf va = 4) :
    s.issueAcc g x t a va n = (s.updThread g x Thread.step).joinAcc g { a.issued s x t va n with phase := .entering } := by
  rw [State.issueAcc, hc]
  exact if_pos (beq_iff_eq.2 h)

/-- An access whose translation succeeds is ready at its place. -/
theorem State.startOrdinary_ready {s' : State} {pl : Place}
    (ht : (s.joinAcc g { a with phase := .walk a.addr }).translate g a.ctxid a.addr a.req = (s', .ok pl)) :
    s.startOrdinary g a = s'.updAcc g a.id (fun b => { b with phase := .ready pl, va := a.addr, wait := none }) := by
  rw [State.startOrdinary, State.walkAcc, ht]

/-- Whether an access stands parked in its queue. -/
def State.accParked (s : State) (g : RegionNo) (id : Nat) : Bool := match s.acc g id with
  | some b => (match b.phase with | .parked .. => true | _ => false)
  | none => false

theorem State.accParked_ready (s : State) (g : RegionNo) (id va : Nat) (pl : Place) :
    (s.updAcc g id (fun b => { b with phase := .ready pl, va := va, wait := none })).accParked g id = false := by
  rw [State.accParked, State.acc_updAcc s g id (f := fun b => { b with phase := .ready pl, va := va, wait := none }) (fun _ => rfl)]
  cases s.acc g id with
  | none => rfl
  | some b => rfl

/-- The word of an access that is translated is passed unless the access has parked (06 R171). -/
theorem State.issueAcc_translated {u : State} (hc : lecternCheck g (s.grant g x) va n = .ok none) (h : clsOf va ≠ 4)
    (hu : s.startOrdinary g (a.issued s x t va n) = u) :
    s.issueAcc g x t a va n
      = u.updThread g x (fun t => if u.accParked g s.tick then { t with hold := some (s.tick, true) } else t.step) := by
  have hne : ¬ (clsOf va == 4) = true := by simpa using h
  rw [State.issueAcc, hc, ← hu]
  exact if_neg hne

theorem State.issueAcc_ordinary {s' : State} {pl : Place} (hc : lecternCheck g (s.grant g x) va n = .ok none) (h : clsOf va = 0)
    (hline : a.line = false)
    (ht : (s.joinAcc g { a.issued s x t va n with phase := .walk va }).translate g t.ctxid va { wr := a.wr, narrow := true } = (s', .ok pl)) :
    s.issueAcc g x t a va n
      = (s'.updAcc g s.tick (fun b => { b with phase := .ready pl, va := va, wait := none })).updThread g x Thread.step := by
  have hreq : (a.issued s x t va n).req = { wr := a.wr, narrow := true } := by simp [Acc.req, Acc.issued, hline]
  rw [← hreq] at ht
  have hstart : s.startOrdinary g (a.issued s x t va n)
      = s'.updAcc g s.tick (fun b => { b with phase := .ready pl, va := va, wait := none }) := State.startOrdinary_ready ht
  rw [State.issueAcc_translated hc (by omega) hstart, State.accParked_ready]
  rfl

end

/-- A word that issues an access starts it, in each class that a thread reaches. -/
theorem startsAcc_of_issueAcc {s : State} {g : RegionNo} {x : CtxNo} {i : Instr} {va n : Nat} {a : Acc} (hline : a.line = false)
    (hi : exec i s = .next (s.issueAcc g x (s.thread g x) a va n)) : Claims.startsAcc s g x i va n a := by
  unfold Claims.startsAcc
  intro t e past ha
  have issues {u : State} (hu : s.issueAcc g x t a va n = u) : Claims.Next (exec i s) u := hi.trans (congrArg Host.Outcome.next hu)
  refine ⟨fun pl hC hb hpl => issues (State.issueAcc_bank ?_), fun h4 => issues (State.issueAcc_stream (lecternCheck_stream ha h4) h4),
    fun s' pl h0 hb ht => issues (State.issueAcc_ordinary (lecternCheck_ordinary ha h0 hb) h0 hline ht)⟩
  rw [lecternCheck_bank ha hC hb, hpl]
  rfl

/-! ### The words -/

/-- The stores in a thread's buffer, not performed yet (06 R172). -/
def State.buffered (s : State) (g : RegionNo) (x : CtxNo) : Nat :=
  ((s.core g).accs.filter (fun e => e.port == .thread x && e.wr && !e.done)).length

section
variable {s : State} {g : RegionNo} {x : CtxNo} {d a b : BitVec 5} {off : BitVec 16} {n : Nat}

theorem exec_loadOf (hn : n ∈ [1, 2, 4, 8]) (h : Claims.ReadyProg s g x [d.toNat, a.toNat]) :
    exec (Claims.loadOf n d a off) s = .next (s.issueAcc g x (s.thread g x) { op := .read, reg := d.toNat }
      ((s.thread g x).rg a + off.signExtend 64).toNat n) := by
  have hload : exec (Claims.loadOf n d a off) s = s.loadWord d a off n := by
    simp only [List.mem_cons, List.not_mem_nil, or_false] at hn
    obtain rfl | rfl | rfl | rfl := hn
    all_goals rfl
  exact hload.trans (State.issue_of_readyProg h _)

theorem exec_storeOf (hn : n ∈ [1, 2, 4, 8]) (h : Claims.ReadyProg s g x [a.toNat, b.toNat]) :
    exec (Claims.storeOf n a b off) s = .next (
      if 8 ≤ s.buffered g x then s.waitTh g x 15 ((s.thread g x).rg a + off.signExtend 64).toNat 0xFF
      else s.issueAcc g x (s.thread g x) { op := .write (natToBytes n (((s.thread g x).rg b).toNat % 2 ^ (8 * n))), wr := true }
        ((s.thread g x).rg a + off.signExtend 64).toNat n) := by
  have hstore : exec (Claims.storeOf n a b off) s = s.storeWord a b off n := by
    simp only [List.mem_cons, List.not_mem_nil, or_false] at hn
    obtain rfl | rfl | rfl | rfl := hn
    all_goals rfl
  exact hstore.trans (State.issue_of_readyProg h _)

/-- A store that finds a place in the buffer issues its access. -/
theorem exec_storeOf_issues (hn : n ∈ [1, 2, 4, 8]) (h : Claims.ReadyProg s g x [a.toNat, b.toNat]) (hroom : s.buffered g x < 8) :
    exec (Claims.storeOf n a b off) s = .next (s.issueAcc g x (s.thread g x)
      { op := .write (natToBytes n (((s.thread g x).rg b).toNat % 2 ^ (8 * n))), wr := true }
      ((s.thread g x).rg a + off.signExtend 64).toNat n) := by
  rw [exec_storeOf hn h, if_neg (Nat.not_le.2 hroom)]

theorem exec_cld_issues {c : BitVec 3} {sel : BitVec 10} (h : Claims.ReadyProg s g x [32 + c.toNat, a.toNat]) :
    exec (.cld c a sel) s = .next (s.issueAcc g x (s.thread g x) { op := .read, reg := 32 + c.toNat }
      ((s.thread g x).rg a + 16 * sel.signExtend 64).toNat 16) := by
  rw [exec_cld, execCld, ← shiftLeft_four_eq]
  exact State.issueProg_of_readyProg h _

end

theorem loadsStartOneAccess : Claims.LoadsStartOneAccess := by
  unfold Claims.LoadsStartOneAccess
  exact ⟨fun s g x d a off n hn h => startsAcc_of_issueAcc rfl (exec_loadOf hn h),
    fun s g x c a sel h => startsAcc_of_issueAcc rfl (exec_cld_issues h)⟩

theorem storesStartOneAccess : Claims.StoresStartOneAccess := by
  unfold Claims.StoresStartOneAccess
  intro s g x a b off n hn h t buffered
  refine ⟨fun hroom => startsAcc_of_issueAcc rfl (exec_storeOf_issues hn h hroom), fun hfull => ?_⟩
  refine ⟨_, (exec_storeOf hn h).trans (congrArg Host.Outcome.next (if_pos hfull)), ?_, ?_⟩
  · rw [State.waitTh, State.thread_updThread_self]
  · rw [State.waitTh, State.core_updThread]

/-- Settles O3: a load, a `cld` and a store with room issue their access, and an access that is issued starts. -/
theorem loadsAndStoresStartOneAccess : Obligations.LoadsAndStoresStartOneAccess := by
  unfold Obligations.LoadsAndStoresStartOneAccess
  exact ⟨loadsStartOneAccess, storesStartOneAccess⟩

/-- Settles O4: an access that is issued traps with the cause of the first check that it fails. -/
theorem lecternAccessChecksTrapInOrder : Obligations.LecternAccessChecksTrapInOrder := by
  unfold Obligations.LecternAccessChecksTrapInOrder
  intro s g x d a b off n hn t va fails
  have traps {c : Byte} (hc : lecternCheck g (s.grant g x) va n = .error c) : fails c :=
    ⟨fun h => (exec_loadOf hn h).trans (congrArg Host.Outcome.next (State.issueAcc_traps hc)),
      fun h hroom => (exec_storeOf_issues hn h hroom).trans (congrArg Host.Outcome.next (State.issueAcc_traps hc))⟩
  refine ⟨fun ha => traps (lecternCheck_misaligned ha), fun ha h8 => traps (lecternCheck_classFault ha ?_ (classFault_drawer h8)),
    fun ha hc => traps (lecternCheck_classFault ha ?_ (classFault_other hc)), fun ha hC hb hl => traps ?_⟩
  · omega
  · simp only [List.mem_cons, not_or] at hc
    exact hc.2.1
  · have hpos : 0 < n := by
      simp only [List.mem_cons, List.not_mem_nil, or_false] at hn
      omega
    have hoff : va % 2 ^ 24 % n = 0 := by
      simp only [List.mem_cons, List.not_mem_nil, or_false] at hn
      obtain rfl | rfl | rfl | rfl := hn
      all_goals omega
    rw [lecternCheck_bank ha hC hb, bankPlace_beyond_lease hoff hpos hl]
    rfl

end Sys2Proof.Machine

/-! ## Counters and bonds (06 R177, R178, R181) -/

namespace Sys2Proof.Machine

section
variable {s : State} {g : RegionNo} {x : CtxNo} {k : BitVec 4} {r : BitVec 5} {imm : BitVec 10} (h : Claims.ReadyProg s g x [r.toNat])
include h

theorem exec_kset_sets :
    exec (.kset k r imm) s = .next (s.updThread g x (fun t => (t.setCounter k ((s.thread g x).comparand r imm)).step)) := by
  rw [exec_kset, execKset]
  exact State.issueProg_of_readyProg h _

theorem exec_kadd_adds : exec (.kadd k r imm) s
    = .next (s.updThread g x (fun t => (t.setCounter k ((s.thread g x).counter k + (s.thread g x).comparand r imm)).step)) := by
  rw [exec_kadd, execKadd]
  exact State.issueProg_of_readyProg h _

theorem exec_krd_reads : exec (.krd k r) s = .next (s.updThread g x (fun t => (t.wg r (((s.thread g x).counter k).zeroExtend 64)).step)) := by
  rw [exec_krd, execKrd]
  exact State.issueProg_of_readyProg h _

section
variable {c : BitVec 3}

theorem exec_kwait_ready : exec (.kwait k c r imm) s = .next (
    if (s.thread g x).latched || kCond c ((s.thread g x).counter k) ((s.thread g x).comparand r imm) then s.updThread g x Thread.step
    else s.waitTh g x 6 k.toNat 0xFF) := by
  rw [exec_kwait, execKwait]
  exact State.issueProg_of_readyProg h _

theorem exec_kwait_holds (hc : kCond c ((s.thread g x).counter k) ((s.thread g x).comparand r imm) = true) :
    exec (.kwait k c r imm) s = .next (s.updThread g x Thread.step) := by
  rw [exec_kwait_ready h, hc, Bool.or_true, if_pos rfl]

theorem exec_kwait_latched (hl : (s.thread g x).latched = true) : exec (.kwait k c r imm) s = .next (s.updThread g x Thread.step) := by
  rw [exec_kwait_ready h, hl, Bool.true_or, if_pos rfl]

theorem exec_kwait_waits (hl : (s.thread g x).latched = false)
    (hc : kCond c ((s.thread g x).counter k) ((s.thread g x).comparand r imm) = false) :
    exec (.kwait k c r imm) s = .next (s.waitTh g x 6 k.toNat 0xFF) := by
  rw [exec_kwait_ready h, hl, hc]
  rfl

end

theorem exec_bdset_ready {b : BitVec 4} : exec (.bdset b r imm) s = .next (
    if 1 ≤ ((s.thread g x).rg r + imm.zeroExtend 64).toNat && ((s.thread g x).rg r + imm.zeroExtend 64).toNat ≤ 256 then
      s.updThread g x (fun t => { t.step with bd := Tab.set t.bd b.toNat (((s.thread g x).rg r + imm.zeroExtend 64).truncate 16) })
    else s.trapEntry g x Cause.bondRange ((s.thread g x).rg r + imm.zeroExtend 64) (s.thread g x).pc) := by
  rw [exec_bdset, execBdset]
  exact State.issueProg_of_readyProg h _

theorem exec_bdrd_reads {b : BitVec 4} :
    exec (.bdrd b r) s = .next (s.updThread g x (fun t => (t.wg r (((s.thread g x).bond b).zeroExtend 64)).step)) := by
  rw [exec_bdrd, execBdrd]
  exact State.issueProg_of_readyProg h _

end

/-- What a waiting thread shows of its wait. -/
theorem State.wait_waitTh (s : State) (g : RegionNo) (x : CtxNo) (kind obj agent : Nat) :
    ∃ w, ((s.waitTh g x kind obj agent).thread g x).wait = some w ∧ w.kind = kind ∧ w.obj = obj := by
  rw [State.waitTh, State.thread_updThread_self]
  exact ⟨_, rfl, rfl, rfl⟩

theorem counterWords : Claims.CounterWords := by
  unfold Claims.CounterWords
  intro s g x k r imm h t n v done
  have hn : t.comparand r imm = n := congrArg (· + imm.zeroExtend 32) (setWidth_eq_fld (t.rg r) (by decide))
  have holds {c : BitVec 3} (hc : kCond c v n = true) : Claims.Next (exec (.kwait k c r imm) s) done :=
    exec_kwait_holds h (hn.symm ▸ hc)
  refine ⟨(exec_kset_sets h).trans (by rw [hn]), (exec_kadd_adds h).trans (by rw [hn]), exec_krd_reads h,
    fun hc => holds (by simpa [kCond] using hc), fun hc => holds (by simpa [kCond] using hc),
    fun hc => holds (by simpa [kCond, BitVec.le_def] using hc), fun hc => holds (by simpa [kCond, BitVec.lt_def] using hc),
    fun c fails hmem hf => ⟨fun hl => ?waits, fun hl => exec_kwait_latched h hl⟩⟩
  have hc : kCond c v n = false := by
    simp only [List.mem_cons, Prod.mk.injEq, List.not_mem_nil, or_false] at hmem
    obtain ⟨rfl, rfl⟩ | ⟨rfl, rfl⟩ | ⟨rfl, rfl⟩ | ⟨rfl, rfl⟩ := hmem
    · simpa [kCond] using hf
    · simpa [kCond] using hf
    · simpa [kCond, BitVec.le_def, BitVec.lt_def] using hf
    · simpa [kCond, BitVec.le_def, BitVec.lt_def] using hf
  refine ⟨_, exec_kwait_waits h hl (hn.symm ▸ hc), ?_, ?_, ?_, State.wait_waitTh ..⟩
  all_goals rw [State.waitTh, State.thread_updThread_self]

theorem bondWords : Claims.BondWords := by
  unfold Claims.BondWords
  intro s g x b r imm h t n
  refine ⟨fun h1 h256 => ?_, fun hout => ?_, exec_bdrd_reads h⟩
  · have hin : (decide (1 ≤ n.toNat) && decide (n.toNat ≤ 256)) = true := by simp [h1, h256]
    rw [exec_bdset_ready h, if_pos hin, BitVec.truncate_eq_setWidth, setWidth_eq_fld _ (by decide)]
  · have hout' : ¬ (decide (1 ≤ n.toNat) && decide (n.toNat ≤ 256)) = true := by
      simp only [Bool.and_eq_true, decide_eq_true_eq]
      omega
    rw [exec_bdset_ready h, if_neg hout']

/-- Settles O7: each word by its value, a `kwait` by its condition, a `bdset` by its range. -/
theorem counterAndBondWords : Obligations.CounterAndBondWords := by
  unfold Obligations.CounterAndBondWords
  exact ⟨counterWords, bondWords⟩

end Sys2Proof.Machine

/-! ## Configuration words (06 R180) -/

namespace Sys2Proof.Machine

section
variable {s : State} {g : RegionNo} {x : CtxNo} {b : BitVec 4} (h : Claims.ReadyProg s g x [])
include h

theorem exec_cfgload_beyond (hb : hNBLK (s.kernelOf g x).image ≤ b.toNat) :
    exec (.cfgload b) s = .next (s.trapEntry g x Cause.illegal (BitVec.ofNat 64 b.toNat) (s.thread g x).pc) := by
  rw [exec_cfgload, execCfgload, State.issueProg_of_readyProg h]
  exact congrArg Host.Outcome.next (if_pos hb)

section
variable (hb : ¬ hNBLK (s.kernelOf g x).image ≤ b.toNat)
include hb

theorem exec_cfgload_bad {i : Nat} (hi : s.imageBlock g (s.blockCtx g x b.toNat) b.toNat = .error i) :
    exec (.cfgload b) s = .next (s.trapEntry g x Cause.cfgBadSlot (BitVec.ofNat 64 i) (s.thread g x).pc) := by
  rw [exec_cfgload, execCfgload, State.issueProg_of_readyProg h]
  simp only [hi]
  rw [if_neg hb]

theorem exec_cfgload_stages {c : Cfg} (hc : s.imageBlock g (s.blockCtx g x b.toNat) b.toNat = .ok c) :
    exec (.cfgload b) s = .next ((s.stageImage g (s.blockCtx g x b.toNat) b.toNat c).updThread g x Thread.step) := by
  rw [exec_cfgload, execCfgload, State.issueProg_of_readyProg h]
  simp only [hc]
  rw [if_neg hb]

theorem exec_cfggo_active (ha : (s.sched g (s.blockCtx g x b.toNat)).active = some b.toNat) :
    exec (.cfggo b) s = .next (s.updThread g x Thread.step) := by
  rw [exec_cfggo, execCfggo, State.issueProg_of_readyProg h]
  simp only [ha, beq_self_eq_true, if_true]
  rw [if_neg hb]

/-- A staged block becomes the next choice, and the thread waits for it at its word. -/
theorem exec_cfggo_staged (ha : (s.sched g (s.blockCtx g x b.toNat)).active ≠ some b.toNat) (hg : (s.thread g x).going ≠ some b.toNat)
    (hs : Tab.has (s.sched g (s.blockCtx g x b.toNat)).staged b.toNat = true) :
    exec (.cfggo b) s = .next (((s.updSched g (s.blockCtx g x b.toNat) (fun c => { c with forced := some b.toNat })).waitTh
      g x 14 b.toNat 0xFF).updThread g x (fun t => { t with going := some b.toNat })) := by
  rw [exec_cfggo, execCfggo, State.issueProg_of_readyProg h]
  simp only [beq_false_of_ne ha, beq_false_of_ne hg, hs, Bool.false_eq_true, if_true, if_false]
  rw [if_neg hb]

end

end

theorem State.thread_updSched (s : State) (g : RegionNo) (x y : CtxNo) (f : Sched → Sched) : (s.updSched g y f).thread g x = s.thread g x := by
  rw [State.thread, State.updSched, State.core_updCore_self]
  rfl

/-- Settles O9: `cfgload` by what the image gives for its block, `cfggo` by the state of its block. -/
theorem configurationWords : Obligations.ConfigurationWords := by
  unfold Obligations.ConfigurationWords
  intro s g x b h t n y beyond
  refine ⟨exec_cfgload_beyond h, fun hb i hi => exec_cfgload_bad h hb hi, fun hb c hc => exec_cfgload_stages h hb hc,
    fun hb ha => exec_cfggo_active h hb ha, fun hb ha hg hs => ⟨_, exec_cfggo_staged h hb ha hg hs, ?_, ?_, ?_⟩⟩
  · rw [State.sched_updThread, State.waitTh, State.sched_updThread, State.sched_updSched_self]
  · rw [State.thread_updThread_self]
  · rw [State.thread_updThread_self, State.waitTh, State.thread_updThread_self, State.thread_updSched]

end Sys2Proof.Machine

/-! ## Status registers (06 R165, R168, R185) -/

namespace Sys2Proof.Machine

section
variable {s : State} {w : Who} {r : BitVec 4} {d : BitVec 5} (h : Claims.Ready s w [d])
include h

/-- A word on a status register that its thread holds. -/
theorem State.statusWord_held (hheld : ∀ g, w = .micro g → r ∈ [0, 1, 2, 4]) (f : Who → Thread → State) :
    s.statusWord r d f = .next (f w (s.th w)) := by
  refine (State.issue_of_ready h _).trans (congrArg Host.Outcome.next ?_)
  cases w with
  | prog g x => rfl
  | micro g => exact if_pos (microStatus_of_mem (hheld g rfl))

/-- The microprogram thread stops at one that it lacks (log 20). -/
theorem State.statusWord_lacking {g : RegionNo} (hw : w = .micro g) (hr : r ∉ [0, 1, 2, 4]) (f : Who → Thread → State) :
    s.statusWord r d f = .next (s.microStop g) := by
  subst hw
  have hlacks : ¬ microStatus r = true := by simpa [microStatus, and_assoc] using hr
  exact (State.issue_of_ready h _).trans (congrArg Host.Outcome.next (if_neg hlacks))

theorem exec_rdst_reads (hheld : ∀ g, w = .micro g → r ∈ [0, 1, 2, 4]) :
    exec (.rdst r d) s = .next (s.updTh w (fun t => (t.wg d (t.status w r)).step)) := by
  rw [exec_rdst, execRdst, State.statusWord_held h hheld]
  exact congrArg Host.Outcome.next (State.updTh_congr rfl)

variable {imm : BitVec 10}

/-- A word that sets a status register of the thread alone. -/
theorem exec_wrst_sets (hheld : ∀ g, w = .micro g → r ∈ [0, 1, 2, 4]) (h6 : r.toNat ≠ 6) (h8 : r.toNat ≠ 8) {t : Thread}
    (ht : (s.th w).setStatus r.toNat ((s.th w).rg d) = t) :
    Claims.Next (exec (.wrst r d imm) s) ((s.updTh w (fun _ => t)).updTh w Thread.step) := by
  rw [exec_wrst, execWrst, State.statusWord_held h hheld]
  have hset : s.updTh w (fun t' => t'.setStatus r.toNat ((s.th w).rg d)) = s.updTh w (fun _ => t) := State.updTh_congr ht
  simp only [beq_false_of_ne h6, beq_false_of_ne h8, Bool.false_eq_true, if_false, hset]

theorem exec_wrst_lprio (hprog : ∀ g, w ≠ .micro g) {t : Thread} (ht : (s.th w).setStatus 6 ((s.th w).rg d) = t) :
    Claims.Next (exec (.wrst 6 d imm) s) (((s.updTh w (fun _ => t)).syncParam (s.th w).ctxid).updTh w Thread.step) := by
  rw [exec_wrst, execWrst, State.statusWord_held h (fun g hg => absurd hg (hprog g))]
  have hset : s.updTh w (fun t' => t'.setStatus 6 ((s.th w).rg d)) = s.updTh w (fun _ => t) := State.updTh_congr ht
  rw [← hset]
  rfl

theorem exec_wrst_lseed (hprog : ∀ g, w ≠ .micro g) (hone : imm.getLsbD 8 = false) :
    Claims.Next (exec (.wrst 8 d imm) s)
      ((s.setGen w.g (fld imm 0 8) (Num.seed (fld ((s.th w).rg d) 0 16) (cellIdent w.g (fld imm 0 8)))).updTh w Thread.step) := by
  have hseed : s.seedGens w.g imm (((s.th w).rg d).truncate 16)
      = s.setGen w.g (fld imm 0 8) (Num.seed (fld ((s.th w).rg d) 0 16) (cellIdent w.g (fld imm 0 8))) := by
    rw [← setWidth_eq_fld imm (by decide), ← setWidth_eq_fld ((s.th w).rg d) (by decide), State.seedGens,
      if_neg (by rw [hone]; exact Bool.false_ne_true)]
  rw [exec_wrst, execWrst, State.statusWord_held h (fun g hg => absurd hg (hprog g)), ← hseed]
  rfl

end

/-! ### What a write stores (06 R168) -/

section
variable (t : Thread) (v : W64)

theorem Thread.setStatus_lcause : t.setStatus 1 v = { t with lcause := fld v 0 8 } := by
  rw [← setWidth_eq_fld v (by decide)]
  rfl

theorem Thread.setStatus_lprio :
    t.setStatus 6 v = { t with prio := if t.ceil.toNat < (fld v 0 2).toNat then t.ceil else fld v 0 2 } := by
  rw [← setWidth_eq_fld v (by decide), BitVec.toNat_setWidth]
  rfl

theorem Thread.setStatus_lquant :
    t.setStatus 7 v = if t.spriv then { t with quant := if (fld v 0 32).toNat < 100 then 100 else fld v 0 32 } else t := by
  rw [← setWidth_eq_fld v (by decide), BitVec.toNat_setWidth]
  rfl

end

/-- Settles O10: a read by whether its thread holds the register, a write by the register that it names. -/
theorem statusRegisterWords : Obligations.StatusRegisterWords := by
  unfold Obligations.StatusRegisterWords
  intro s w r d imm h t v set
  have both {q : BitVec 4} (hq : q ∈ [0, 1, 2, 4]) : ∀ g, w = .micro g → q ∈ [0, 1, 2, 4] := fun _ _ => hq
  refine ⟨fun g hw hr => ⟨?_, ?_⟩, fun hheld => exec_rdst_reads h hheld, exec_wrst_sets h (both (by decide)) (by decide) (by decide) rfl,
    exec_wrst_sets h (both (by decide)) (by decide) (by decide) (t.setStatus_lcause v),
    exec_wrst_sets h (both (by decide)) (by decide) (by decide) rfl, exec_wrst_sets h (both (by decide)) (by decide) (by decide) rfl,
    fun hprog => ?_⟩
  · rw [exec_rdst, execRdst]
    exact State.statusWord_lacking h hw hr _
  · rw [exec_wrst, execWrst]
    exact State.statusWord_lacking h hw hr _
  · have prog {q : BitVec 4} : ∀ g, w = .micro g → q ∈ [0, 1, 2, 4] := fun g hg => absurd hg (hprog g)
    exact ⟨exec_wrst_sets h prog (by decide) (by decide) rfl, exec_wrst_sets h prog (by decide) (by decide) rfl,
      exec_wrst_lprio h hprog (t.setStatus_lprio v), exec_wrst_sets h prog (by decide) (by decide) (t.setStatus_lquant v),
      fun hone => exec_wrst_lseed h hprog hone⟩

end Sys2Proof.Machine

/-! ## Traps and their return (06 R186, R188, R193, R196; 03 R94) -/

namespace Sys2Proof.Machine

section
variable {s : State} {g : RegionNo} {x : CtxNo} (h : Claims.ReadyProg s g x [])
include h

theorem exec_trap_traps (code : BitVec 10) :
    exec (.trap code) s = .next (s.trapEntry g x Cause.trap (code.zeroExtend 64) ((s.thread g x).pc + 4)) := by
  rw [exec_trap, execTrap]
  exact State.issue_of_readyProg h _

theorem exec_brk_traps (hd : (s.thread g x).dbge = false) :
    exec .brk s = .next (s.trapEntry g x Cause.breakpoint (s.thread g x).pc ((s.thread g x).pc + 4)) := by
  rw [exec_brk, execBrk, State.issue_of_readyProg h]
  exact congrArg Host.Outcome.next (if_neg (by simp [hd]))

theorem exec_brk_halts (hd : (s.thread g x).dbge = true) :
    exec .brk s = .next (s.updThread g x (fun t => { t.step with halted := true })) := by
  rw [exec_brk, execBrk, State.issue_of_readyProg h]
  exact congrArg Host.Outcome.next (if_pos hd)

theorem exec_undefinedWord_traps (w : W32) : exec (.undefinedWord w) s = .next (s.trapEntry g x
    (if fld w 26 6 == 0x3F#6 then Cause.privileged else Cause.illegal) (w.zeroExtend 64) (s.thread g x).pc) := by
  rw [exec_undefinedWord, execUndefinedWord]
  exact State.issue_of_readyProg h _

/-- A word of microprogram mode, in a program thread (06 R193). -/
theorem exec_privileged_traps {i : Instr} {f : RegionNo → Thread → State} (hi : exec i s = s.privileged i f) :
    exec i s = .next (s.trapEntry g x Cause.privileged (wordOf i) (s.thread g x).pc) :=
  hi.trans (State.issue_of_readyProg h _)

theorem exec_eret_ready : exec .eret s = .next (
    if (s.thread g x).tr then s.updThread g x Thread.eret else s.trapEntry g x Cause.illegal (wordOf .eret) (s.thread g x).pc) := by
  rw [exec_eret, execEret]
  exact State.issue_of_readyProg h _

end

/-- A trap with a handler, its PC as the words of 06 R168 give it. -/
theorem State.trapEntry_enters {s : State} {g : RegionNo} {x : CtxNo} (cause : Byte) (val pc : W64) (hl : s.loadsOut g x = false)
    (htr : (s.thread g x).tr = false) (hen : (s.thread g x).en = true) :
    s.trapEntry g x cause val pc = s.updThread g x (fun t =>
      { t with lcause := cause, lval := val, lepc := fld pc 2 12, tr := true, pc := (t.vec.zeroExtend 64) <<< 2,
               wait := none, latched := false, going := none }) := by
  rw [State.trapEntry_handled cause val pc hl htr hen]
  simp only [wordAddress_eq]

/-- Settles O11: each word or fetch that traps does so by `State.trapEntry`, whose three answers are its lemmas. -/
theorem trapsEnterTheHandlerAndReturn : Obligations.TrapsEnterTheHandlerAndReturn := by
  unfold Obligations.TrapsEnterTheHandlerAndReturn
  intro s g x h t enters
  have traps {i : Instr} {cause : Byte} {val pc : W64} (hi : exec i s = .next (s.trapEntry g x cause val pc)) : enters i cause val pc :=
    ⟨fun hl => hi.trans (congrArg Host.Outcome.next (State.trapEntry_waits cause val pc hl)),
      fun hl htr hen => hi.trans (congrArg Host.Outcome.next (State.trapEntry_enters cause val pc hl htr hen)),
      fun hl hno => hi.trans (congrArg Host.Outcome.next (State.trapEntry_stops cause val pc hl hno))⟩
  refine ⟨fun code => traps (exec_trap_traps h code), fun hd => traps (exec_brk_traps h hd), fun hd => exec_brk_halts h hd,
    fun w hw => traps ?illegal, fun w hw => traps ?privileged, traps (exec_fetchBeyondSection_traps h),
    fun k r => traps (exec_privileged_traps h (exec_xinv ..)), fun r => traps (exec_privileged_traps h (exec_frz ..)),
    fun r => traps (exec_privileged_traps h (exec_thaw ..)), fun r => traps (exec_privileged_traps h (exec_ftok ..)),
    fun htr => traps ?noTrap, fun htr => ?returns⟩
  case illegal =>
    rw [exec_undefinedWord_traps h, if_neg (by simpa using hw)]
  case privileged =>
    rw [exec_undefinedWord_traps h, if_pos (by simpa using hw)]
  case noTrap =>
    rw [exec_eret_ready h, if_neg (by simpa using htr)]
  case returns =>
    rw [exec_eret_ready h, if_pos htr]
    exact congrArg Host.Outcome.next (State.updThread_congr (by rw [Thread.eret, wordAddress_eq]))

end Sys2Proof.Machine

/-! ## Words of microprogram mode (06 R192, R193; 17 R341) -/

namespace Sys2Proof.Machine

section
variable {s : State} {g : RegionNo} {r : BitVec 5} (hcur : s.cur = .micro g) (hrun : s.runnable (.micro g) = true)
include hcur hrun

theorem State.issue_of_micro (regs : List Nat) (f : Who → Thread → State) : s.issue regs f = .next (f (.micro g) (s.reg g).micro.th) :=
  State.issue_ready f (by rw [State.who, hcur]) hrun rfl

/-- A word of microprogram mode, in the microprogram thread. -/
theorem State.privileged_micro (i : Instr) (f : RegionNo → Thread → State) : s.privileged i f = .next (f g (s.reg g).micro.th) :=
  State.issue_of_micro hcur hrun [] _

end

/-! ### What each word does -/

/-- Whether `xinv` of a kind drops a cached translation for the run's context and an address. -/
def Tlb.dropped (e : Tlb) (k : BitVec 4) (ctxid va : Nat) : Bool := match k.toNat with
  | 0 => e.ctxid == ctxid && e.page * 4096 / 2 ^ e.shift == va / 2 ^ e.shift
  | 1 => e.ctxid == ctxid
  | _ => true

theorem Tlb.dropped_eq (e : Tlb) {k : BitVec 4} (hk : k.toNat ≤ 2) (ctxid va : Nat) :
    e.dropped k ctxid va = if k = 0 then e.ctxid == ctxid && e.page * 4096 / 2 ^ e.shift == va / 2 ^ e.shift
      else if k = 1 then e.ctxid == ctxid else true := by
  obtain h | h | h : k.toNat = 0 ∨ k.toNat = 1 ∨ k.toNat = 2 := by omega
  · obtain rfl : k = 0 := BitVec.eq_of_toNat_eq h
    rfl
  · obtain rfl : k = 1 := BitVec.eq_of_toNat_eq h
    rfl
  · obtain rfl : k = 2 := BitVec.eq_of_toNat_eq h
    rfl

section
variable {s : State} {g : RegionNo} {r : BitVec 5} (hcur : s.cur = .micro g) (hrun : s.runnable (.micro g) = true)
include hcur hrun

theorem exec_xinv_drops (k : BitVec 4) : exec (.xinv k r) s = .next ((s.setReg g { s.reg g with
    tlb := (s.reg g).tlb.filter (fun e => !e.dropped k (s.reg g).micro.cur.ctxid ((s.reg g).micro.th.rg r).toNat) }).microStep g) := by
  rw [exec_xinv, execXinv]
  exact State.privileged_micro hcur hrun _ _

/-- A frozen context fires no more, so its started firings are those that there were. -/
theorem exec_frz_freezes : exec (.frz r) s = .next (
    if (s.core g).quiet (fld ((s.reg g).micro.th.rg r) 0 2) then (s.freeze g (fld ((s.reg g).micro.th.rg r) 0 2) true).microStep g
    else s.freeze g (fld ((s.reg g).micro.th.rg r) 0 2) true) := by
  have hquiet (y : CtxNo) : ((s.freeze g y true).core g).quiet y = (s.core g).quiet y := by
    rw [State.freeze, State.core_updCore_self]
    rfl
  rw [exec_frz, execFrz, ← setWidth_eq_fld _ (by decide), ← hquiet]
  exact State.privileged_micro hcur hrun _ _

theorem exec_thaw_thaws : exec (.thaw r) s = .next ((s.freeze g (fld ((s.reg g).micro.th.rg r) 0 2) false).microStep g) := by
  rw [exec_thaw, execThaw, ← setWidth_eq_fld _ (by decide)]
  exact State.privileged_micro hcur hrun _ _

/-- The record that `ftok` finds at its bank address. -/
def State.ftokRecord (s : State) (g : RegionNo) (v : Nat) : Report :=
  (s.reg g).micro.cur.of (s.banks.readN (g.toNat * 2 ^ 24 + v % 2 ^ 24) 32)

theorem exec_ftok_aligned {v : Nat} (hv : ((s.reg g).micro.th.rg r).toNat = v) (ha : v % 32 = 0)
    (hclean : s.spoiled { bank := true, g := g, pa := v % 2 ^ 24 } 32 false = false) :
    exec (.ftok r) s = .next (if s.ftokHeld (s.ftokRecord g v) then s else (s.record (s.ftokRecord g v)).microStep g) := by
  have hoff : v % 2 ^ 24 % 32 = 0 := by omega
  subst hv
  rw [exec_ftok, execFtok, State.privileged_micro hcur hrun]
  refine congrArg Host.Outcome.next (if_neg ?_)
  rw [hclean, hoff]
  exact Bool.false_ne_true

theorem exec_eret_ends : exec .eret s = .next (s.setReg g { s.reg g with micro := { (s.reg g).micro with running := false } }) := by
  rw [exec_eret, execEret]
  exact State.issue_of_micro hcur hrun _ _

end

/-- Settles O12: each word of microprogram mode by what it does in the microprogram thread. -/
theorem microprogramWords : Obligations.MicroprogramWords := by
  unfold Obligations.MicroprogramWords
  intro s g r hcur hrun t past v cur y
  refine ⟨fun k hk => ⟨_, exec_xinv_drops hcur hrun k, ?_, ?_, ?_⟩, fun hq => ?_, fun hq => ?_, exec_thaw_thaws hcur hrun,
    fun ha hclean => ⟨fun hfree => ?_, fun hheld => ?_⟩, exec_eret_ends hcur hrun⟩
  · simp only [State.microStep, State.updTh, State.reg_setReg_self, Tlb.dropped_eq _ hk]
    rfl
  · simp only [State.microStep, State.updTh, State.reg_setReg_self]
  · simp only [State.microStep, State.updTh, State.reg_setReg_self]
    rfl
  · rw [exec_frz_freezes hcur hrun, if_pos hq]
    rfl
  · rw [exec_frz_freezes hcur hrun, if_neg (Bool.eq_false_iff.1 hq)]
    rfl
  · exact (exec_ftok_aligned hcur hrun rfl ha hclean).trans (congrArg Host.Outcome.next (if_neg (Bool.eq_false_iff.1 hfree)))
  · exact (exec_ftok_aligned hcur hrun rfl ha hclean).trans (congrArg Host.Outcome.next (if_pos hheld))

end Sys2Proof.Machine

/-! ## Waiting for events, and the end of a thread (06 R189 to R191) -/

namespace Sys2Proof.Machine

/-! ### `idle` (06 R189) -/

section
variable {s : State} {g : RegionNo} {x : CtxNo} (h : Claims.ReadyProg s g x [])
include h

theorem exec_idle_waits (hw : (s.thread g x).wait = none) :
    exec .idle s = .next ((s.updThread g x (fun t => { t with woken := false })).waitTh g x 13 0 0xFF) := by
  rw [exec_idle, execIdle, State.issueProg_of_readyProg h]
  simp only [hw]

theorem exec_idle_completes {w : Wait} (hw : (s.thread g x).wait = some w) (hk : w.kind = 13) (hwoken : (s.thread g x).woken = true) :
    exec .idle s = .next (s.updThread g x (fun t => { t.step with woken := false })) := by
  rw [exec_idle, execIdle, State.issueProg_of_readyProg h]
  simp only [hw, hk, hwoken, beq_self_eq_true, if_true]

end

/-! ### What an end awaits, and what it does -/

theorem Thread.allPosted_discard (t : Thread) : t.discard.allPosted = t.allPosted := by
  simp [Thread.allPosted, Thread.discard, Tab.mapVal, List.all_map, Function.comp_def]

theorem Thread.rq_discard (t : Thread) (p : BitVec 4) : (t.discard.port p).rq = [] := by
  rw [Thread.port, Thread.discard, Tab.getD_mapVal _ _ rfl]

section
variable (s : State) (g : RegionNo) (x : CtxNo)

theorem State.threadDone_updThread (f : Thread → Thread) : ((s.updThread g x f).core g).threadDone x = (s.core g).threadDone x := by
  rw [State.core_updThread]
  rfl

variable {s g x} {e : Ending}

/-- With nothing outstanding the thread ends. -/
theorem State.finish_ends (hd : (s.core g).threadDone x = true) (hp : (s.thread g x).allPosted = true) :
    s.finish g x e = (s.updThread g x (fun _ => (s.thread g x).discard)).endThread g x e.code := by
  rw [State.finish]
  refine if_pos ?_
  rw [State.threadDone_updThread, Thread.allPosted_discard, hd, hp]
  rfl

/-- With an access outstanding it has only discarded its responses. -/
theorem State.finish_awaits (hd : (s.core g).threadDone x = false) :
    s.finish g x e = s.updThread g x (fun _ => (s.thread g x).discard) := by
  rw [State.finish]
  refine if_neg ?_
  rw [State.threadDone_updThread, hd]
  exact Bool.false_ne_true

/-- A thread ended for its kernel with an exit code (06 R190, R191). -/
structure State.Ended (s : State) (g : RegionNo) (x : CtxNo) (code : W32) (s' : State) : Prop where
  live : (s'.thread g x).live = false
  registers : (s'.thread g x).g = []
  kernel : (s'.thread g x).kernel = (s.thread g x).kernel
  exits : ∀ k, Tab.get s.kernels (s.thread g x).kernel = some k →
    Tab.get s'.kernels (s.thread g x).kernel = some { k with exits := Tab.set k.exits (s.thread g x).kreg code }

theorem State.endThread_ended (s : State) (g : RegionNo) (x : CtxNo) (code : W32) : s.Ended g x code (s.endThread g x code) := by
  rw [State.endThread]
  refine ⟨?_, ?_, ?_, fun k hk => ?_⟩
  · rw [State.thread_updThread_self]
  · rw [State.thread_updThread_self]
  · rw [State.thread_updThread_self]
  · rw [State.updThread_kernels, State.updCore_kernels, State.updKernel, hk]
    exact Tab.get_set_self _ _ _

/-- What ends for a state that agrees on the thread's kernel and its number there ends for this one. -/
theorem State.Ended.of_same {s u s' : State} {code : W32} (h : u.Ended g x code s') (hk : u.kernels = s.kernels)
    (hkernel : (u.thread g x).kernel = (s.thread g x).kernel) (hkreg : (u.thread g x).kreg = (s.thread g x).kreg) : s.Ended g x code s' := by
  obtain ⟨hlive, hregs, hkern, hexits⟩ := h
  rw [hk, hkernel, hkreg] at hexits
  exact ⟨hlive, hregs, hkern.trans hkernel, hexits⟩

theorem State.finish_ended (hd : (s.core g).threadDone x = true) (hp : (s.thread g x).allPosted = true) :
    s.Ended g x e.code (s.finish g x e) := by
  rw [State.finish_ends hd hp]
  refine (State.endThread_ended ..).of_same rfl ?_ ?_
  · rw [State.thread_updThread_self]
    rfl
  · rw [State.thread_updThread_self]
    rfl

end

/-! ### `lexit` and `lkill` (06 R190, R191) -/

/-- The ending of a thread noted, its wait abandoned. -/
def State.beginEnd (s : State) (g : RegionNo) (x : CtxNo) (e : Ending) : State :=
  s.updThread g x (fun t => { t with ending := some e, wait := none })

/-- The commands of a thread's issue queues that have not started. -/
def State.unstarted (s : State) (g : RegionNo) (x : CtxNo) : List Nat :=
  (s.thread g x).ports.flatMap (fun p => p.2.iq.filter (fun id => !(s.cmd g id).done))

/-- The end of a killed thread noted: its commands that have not started are removed. -/
def State.beginKill (s : State) (g : RegionNo) (x : CtxNo) : State :=
  (s.updCore g (fun k => { k with cmds := k.cmds.filter (fun c => !(s.unstarted g x).contains c.1) })).updThread g x (fun t =>
    { t with ending := some { code := 0xFFFFFFFF, kill := true }, wait := none,
             ports := Tab.mapVal t.ports (fun _ p => { p with iq := p.iq.filter (fun id => !(s.unstarted g x).contains id) }) })

section
variable {s : State} {g : RegionNo} {x : CtxNo} {r : BitVec 5}

theorem State.endingThread_none (hcur : s.cur = .lectern g x) (he : (s.thread g x).ending = none) : s.endingThread = none := by
  rw [State.endingThread, hcur]
  simp only [he]
  cases (s.thread g x).live with
  | true => rfl
  | false => rfl

theorem exec_lexit_begins (h : Claims.ReadyProg s g x [r.toNat]) (he : (s.thread g x).ending = none) :
    exec (.lexit r) s = .next ((s.beginEnd g x { code := fld ((s.thread g x).rg r) 0 32 }).finish g x
      { code := fld ((s.thread g x).rg r) 0 32 }) := by
  rw [exec_lexit, execLexit, State.endingThread_none h.1 he, ← setWidth_eq_fld _ (by decide)]
  exact State.issueProg_of_readyProg h _

theorem exec_lkill_begins (h : Claims.ReadyProg s g x []) (he : (s.thread g x).ending = none) :
    exec .lkill s = .next ((s.beginKill g x).finish g x { code := 0xFFFFFFFF, kill := true }) := by
  rw [exec_lkill, execLkill, State.endingThread_none h.1 he]
  exact State.issueProg_of_readyProg h _

theorem State.thread_beginEnd (e : Ending) :
    (s.beginEnd g x e).thread g x = { s.thread g x with ending := some e, wait := none } := State.thread_updThread_self ..

theorem State.threadDone_beginEnd (e : Ending) : ((s.beginEnd g x e).core g).threadDone x = (s.core g).threadDone x :=
  State.threadDone_updThread ..

theorem State.thread_beginKill : (s.beginKill g x).thread g x = { s.thread g x with
    ending := some { code := 0xFFFFFFFF, kill := true }, wait := none,
    ports := Tab.mapVal (s.thread g x).ports (fun _ p => { p with iq := p.iq.filter (fun id => !(s.unstarted g x).contains id) }) } := by
  rw [State.beginKill, State.thread_updThread_self]
  simp only [State.thread, State.core_updCore_self]

theorem State.threadDone_beginKill : ((s.beginKill g x).core g).threadDone x = (s.core g).threadDone x := by
  rw [State.beginKill, State.threadDone_updThread, State.core_updCore_self]
  rfl

/-- A port with nothing queued has nothing to remove. -/
theorem Thread.allPosted_filter {t : Thread} (h : t.allPosted = true) (keep : Nat → Bool) :
    ({ t with ports := Tab.mapVal t.ports (fun _ p => { p with iq := p.iq.filter keep }) } : Thread).allPosted = true := by
  simp only [Thread.allPosted, List.all_eq_true, Bool.and_eq_true, List.isEmpty_iff] at h
  simp only [Thread.allPosted, Tab.mapVal, List.all_map, Function.comp_def, List.all_eq_true, Bool.and_eq_true, List.isEmpty_iff]
  intro p hp
  obtain ⟨hiq, hord⟩ := h p hp
  exact ⟨by rw [hiq]; rfl, hord⟩

theorem State.beginEnd_ended {e : Ending} (hd : (s.core g).threadDone x = true) (hp : (s.thread g x).allPosted = true) :
    s.Ended g x e.code ((s.beginEnd g x e).finish g x e) := by
  refine (State.finish_ended ((State.threadDone_beginEnd e).trans hd) ?_).of_same rfl ?_ ?_
  all_goals rw [State.thread_beginEnd]
  exact hp

theorem State.beginKill_ended (hd : (s.core g).threadDone x = true) (hp : (s.thread g x).allPosted = true) :
    s.Ended g x 0xFFFFFFFF ((s.beginKill g x).finish g x { code := 0xFFFFFFFF, kill := true }) := by
  refine (State.finish_ended (e := { code := 0xFFFFFFFF, kill := true }) (State.threadDone_beginKill.trans hd) ?_).of_same rfl ?_ ?_
  all_goals rw [State.thread_beginKill]
  exact Thread.allPosted_filter (t := s.thread g x) hp _

end

/-- Settles O13: `idle` by what it waits for, `lexit` and `lkill` by whether anything of the thread is outstanding. -/
theorem idleAndTheEndOfAThread : Obligations.IdleAndTheEndOfAThread := by
  unfold Obligations.IdleAndTheEndOfAThread
  intro s g x r t ended
  have ends {code : W32} {s' : State} (h : s.Ended g x code s') : ended code s' := ⟨h.live, h.registers, h.kernel, h.exits⟩
  refine ⟨fun h hw => ⟨_, exec_idle_waits h hw, ?_, ?_⟩, fun w h hw hk hwoken => exec_idle_completes h hw hk hwoken,
    fun h he hd hp => ⟨_, exec_lexit_begins h he, ends (State.beginEnd_ended (e := { code := _ }) hd hp)⟩,
    fun h he hd hp => ⟨_, exec_lkill_begins h he, ends (State.beginKill_ended hd hp)⟩,
    fun h he hd => ⟨_, exec_lexit_begins h he, ?outstanding⟩⟩
  · rw [State.waitTh, State.thread_updThread_self, State.thread_updThread_self]
  · rw [State.waitTh, State.thread_updThread_self, State.thread_updThread_self]
  case outstanding =>
    obtain ⟨-, hrun, -⟩ := h
    have hlive : t.live = true := by
      simp only [State.runnable, Bool.and_eq_true] at hrun
      obtain ⟨⟨⟨⟨⟨⟨hlive, -⟩, -⟩, -⟩, -⟩, -⟩, -⟩ := hrun
      exact hlive
    rw [State.finish_awaits ((State.threadDone_beginEnd _).trans hd), State.thread_updThread_self, State.thread_beginEnd]
    exact ⟨hlive, rfl, Thread.rq_discard _⟩

end Sys2Proof.Machine

/-! ## Microprogram runs (06 R192; 17 R336; log 17) -/

namespace Sys2Proof.Machine

/-- The microprogram thread at the start of a run: at the entry of its cause, the report's fields in g1 to g4. -/
def Thread.reported (t : Thread) (r : Report) : Thread :=
  ((({ t with pc := BitVec.ofNat 64 (64 * r.cause.toNat), wait := none }.wg 1 (r.cause.zeroExtend 64)).wg 2 (r.rep.zeroExtend 64)).wg 3
    (BitVec.ofNat 64 r.addr)).wg 4 (r.x.zeroExtend 64)

section
variable (t : Thread) (r : Report)

theorem Thread.reported_pc : (t.reported r).pc = BitVec.ofNat 64 (64 * r.cause.toNat) := by simp [Thread.reported]

theorem Thread.reported_rg : (t.reported r).rg 1 = r.cause.zeroExtend 64 ∧ (t.reported r).rg 2 = r.rep.zeroExtend 64
    ∧ (t.reported r).rg 3 = BitVec.ofNat 64 r.addr ∧ (t.reported r).rg 4 = r.x.zeroExtend 64 := by
  refine ⟨?_, ?_, ?_, ?_⟩
  · rw [Thread.reported, Thread.rg_wg_ne _ _ _ _ (by decide), Thread.rg_wg_ne _ _ _ _ (by decide), Thread.rg_wg_ne _ _ _ _ (by decide),
      Thread.rg_wg_self _ _ _ (by decide)]
  · rw [Thread.reported, Thread.rg_wg_ne _ _ _ _ (by decide), Thread.rg_wg_ne _ _ _ _ (by decide), Thread.rg_wg_self _ _ _ (by decide)]
  · rw [Thread.reported, Thread.rg_wg_ne _ _ _ _ (by decide), Thread.rg_wg_self _ _ _ (by decide)]
  · rw [Thread.reported, Thread.rg_wg_self _ _ _ (by decide)]

end

/-- A run ended. -/
def State.endRun (s : State) (g : RegionNo) : State := s.setReg g { s.reg g with micro := { (s.reg g).micro with running := false } }

@[simp] theorem State.running_endRun (s : State) (g : RegionNo) : ((s.endRun g).reg g).micro.running = false := by
  rw [State.endRun, State.reg_setReg_self]

@[simp] theorem State.core_endRun (s : State) (g : RegionNo) : (s.endRun g).core g = s.core g := State.core_setReg_self ..

section
variable {s : State} {g : RegionNo} {r : Report}

theorem execMicroprogramRun_begins {rest : List Report} (hstopped : (s.reg g).micro.stopped = false)
    (hrunning : (s.reg g).micro.running = false) (hqueue : (s.reg g).micro.queue = r :: rest) (hdue : s.reportDue g r = true)
    (hwords : (s.reg g).micro.ofService = false) :
    execMicroprogramRun g s = .next (s.setReg g { s.reg g with micro :=
      { (s.reg g).micro with running := true, cur := r, queue := rest, th := (s.reg g).micro.th.reported r } }) := by
  unfold execMicroprogramRun
  simp only [hstopped, hrunning, hqueue, hdue, hwords, Bool.not_true, Bool.false_eq_true, if_false]
  rfl

theorem execMicroprogramRun_goesOn (hstopped : (s.reg g).micro.stopped = false) (hrunning : (s.reg g).micro.running = true)
    (hservice : (s.reg g).micro.ofService = true) : execMicroprogramRun g s = .next (s.serviceProgram g (s.reg g).micro.cur) := by
  unfold execMicroprogramRun
  simp only [hstopped, hrunning, hservice, Bool.false_eq_true, if_false, if_true]

/-- Whether a context has an access, a command, a port or a packet's write parked (17 R336). -/
def State.ctxParked (s : State) (g : RegionNo) (x : Nat) : Bool :=
  (s.core g).hasParked (BitVec.ofNat 2 x) || (s.reg g).hopParked (Tab.getD (s.core g).grants x : Grant).ctxid

/-- The program of cause 0 thaws every context with nothing parked. -/
theorem State.serviceProgram_thaws (hc : r.cause = 0) :
    s.serviceProgram g r = (s.updCore g (fun k => { k with frozen := (s.core g).frozen.filter (fun e => s.ctxParked g e.1) })).endRun g := by
  rw [State.serviceProgram]
  exact if_pos (by simp [hc])

/-- The programs of the other causes send the record of a context that is quiet, frozen. -/
theorem State.serviceProgram_sends (hc : r.cause ≠ 0) (hquiet : (s.core g).quiet r.x = true) (hfree : s.ftokHeld r = false) :
    s.serviceProgram g r = (((s.freeze g r.x true).record { r with count := 0 }).setReg g
      { (s.freeze g r.x true).reg g with micro := { ((s.freeze g r.x true).reg g).micro with scratch := ({ r with count := 0 }).bytes 0 } }).endRun
        g := by
  have hq : ((s.freeze g r.x true).core g).quiet r.x = true := by
    rw [State.freeze, State.core_updCore_self]
    exact hquiet
  have hf : (s.freeze g r.x true).ftokHeld r = false := hfree
  rw [State.serviceProgram, if_neg (by simpa using hc)]
  simp only [hq, hf, Bool.not_false, Bool.and_self, if_true]
  rfl

theorem State.frozen_freeze (s : State) (g : RegionNo) (x : CtxNo) : Tab.getD ((s.freeze g x true).core g).frozen x.toNat = true := by
  rw [State.freeze, State.core_updCore_self]
  exact Tab.getD_set_self _ _ _

end

end Sys2Proof.Machine

/-! ## The debugger (06 R189, R194 to R196; log 79, log 83) -/

namespace Sys2Proof.Machine

/-! ### The thread that it reaches -/

section
variable {s : State} {g : RegionNo} {x : CtxNo}

theorem State.debugImage_live (h : (s.thread g x).live = true) : s.debugImage g x = none := if_pos h

theorem State.debugImage_saved (h : (s.thread g x).live = false) :
    s.debugImage g x = (s.reg g).images.findIdx? (fun i => (Tab.get i.core.threads x.toNat).any Thread.live) :=
  if_neg (Bool.eq_false_iff.1 h)

/-- It turns on whether the resident thread lives and on the saved images. -/
theorem State.debugImage_congr {t : State} (hlive : (t.thread g x).live = (s.thread g x).live) (himages : (t.reg g).images = (s.reg g).images) :
    t.debugImage g x = s.debugImage g x := by
  rw [State.debugImage, State.debugImage, hlive, himages]

section
variable (h : s.debugImage g x = none)
include h

theorem State.debugThread_resident : s.debugThread g x = s.thread g x := by
  rw [State.debugThread, State.debugCore, h]
  rfl

theorem State.updDebug_resident (f : Core → Core) : s.updDebug g x f = s.updCore g f := by rw [State.updDebug, h]

theorem State.updDebugThread_resident (f : Thread → Thread) : s.updDebugThread g x f = s.updThread g x f := State.updDebug_resident h _

end

end

@[simp] theorem State.reg_closeFaults (s : State) (g : RegionNo) : s.closeFaults.reg g = s.reg g := rfl

@[simp] theorem State.core_closeFaults (s : State) (g : RegionNo) : s.closeFaults.core g = s.core g := rfl

@[simp] theorem State.thread_closeFaults (s : State) (g : RegionNo) (x : CtxNo) : s.closeFaults.thread g x = s.thread g x := rfl

theorem execDebugHalt_attached {s : State} {g : RegionNo} {x : CtxNo} (hd : (s.debugThread g x).dbge = true) :
    execDebugHalt g x s = .next ((s.abandon g x).updDebugThread g x (fun t => { t.haltWord with halted := true })).closeFaults :=
  if_neg (by rw [hd]; exact Bool.false_ne_true)

/-! ### A word boundary (06 R189, R194) -/

/-- Whether a thread waits at an `idle`. -/
def Thread.idles (t : Thread) : Bool := match t.wait with
  | some w => w.kind == 13
  | none => false

section
variable (t : Thread)

theorem Thread.haltWord_eq :
    t.haltWord = { (if t.idles then t.step else t) with wait := none, latched := false, going := none, hold := none } := rfl

theorem Thread.live_haltWord : t.haltWord.live = t.live := by
  rw [Thread.haltWord_eq]
  cases t.idles with
  | true => rfl
  | false => rfl

theorem Thread.pc_haltWord : t.haltWord.pc = if t.idles then t.pc + 4 else t.pc := by
  rw [Thread.haltWord_eq]
  cases t.idles with
  | true => rfl
  | false => rfl

end

/-! ### A thread of the resident image -/

section
variable {s : State} {g : RegionNo} {x : CtxNo} (h : s.debugImage g x = none)
include h

theorem execDebugAttach_resident (on : Bool) : execDebugAttach g x on s = .next (s.updThread g x (fun t => { t with dbge := on })) := by
  rw [execDebugAttach, State.updDebugThread_resident h]

/-- Nothing is done to a thread without an attached debugger. -/
theorem exec_debug_detached (hd : (s.thread g x).dbge = false) : execDebugHalt g x s = .next s ∧ execDebugResume g x s = .next s
    ∧ ∀ tg v, execDebugRegisterWrite g x tg v s = .next s := by
  rw [← State.debugThread_resident h] at hd
  refine ⟨if_pos (by rw [hd]; rfl), congrArg Host.Outcome.next (if_neg (Bool.eq_false_iff.1 hd)), fun tg v => if_pos (by rw [hd]; rfl)⟩

/-- The access at which the thread stands has left its queue, and the thread is as it was. -/
theorem State.abandon_resident : (s.abandon g x).thread g x = s.thread g x ∧ (s.abandon g x).debugImage g x = none
    ∧ ∀ id, (s.thread g x).hold = some (id, true) → ∀ a ∈ ((s.abandon g x).core g).accs, a.id ≠ id := by
  rw [State.abandon, State.debugThread_resident h]
  split
  · next id hhold =>
    rw [State.updDebug_resident h]
    have hthread : (s.updCore g (fun k => { k with accs := k.accs.filter (fun a => a.id != id) })).thread g x = s.thread g x := by
      rw [State.thread, State.core_updCore_self]
      rfl
    refine ⟨hthread, ?_, fun id' hid a ha => ?_⟩
    · rw [State.debugImage_congr (congrArg Thread.live hthread) (by rw [State.reg_updCore_self]), h]
    · cases hhold.symm.trans hid
      rw [State.core_updCore_self] at ha
      simpa using (List.mem_filter.1 ha).2
  · next hnone => exact ⟨rfl, h, fun id hid => absurd hid (hnone id)⟩

/-- A halt leaves the thread at its word boundary, the access at which it stood abandoned. -/
theorem State.halt_resident : let u := (s.abandon g x).updThread g x (fun t => { t.haltWord with halted := true })
    u.thread g x = { (s.thread g x).haltWord with halted := true }
    ∧ ∀ id, (s.thread g x).hold = some (id, true) → ∀ a ∈ (u.core g).accs, a.id ≠ id := by
  intro u
  obtain ⟨hthread, -, haccs⟩ := State.abandon_resident h
  refine ⟨by rw [State.thread_updThread_self, hthread], ?_⟩
  rw [State.core_updThread]
  exact haccs

variable (hd : (s.thread g x).dbge = true)
include hd

theorem execDebugHalt_resident : execDebugHalt g x s
    = .next ((s.abandon g x).updThread g x (fun t => { t.haltWord with halted := true })).closeFaults := by
  obtain ⟨-, himage, -⟩ := State.abandon_resident h
  rw [execDebugHalt_attached (by rw [State.debugThread_resident h, hd]), State.updDebugThread_resident himage]

theorem execDebugResume_resident : execDebugResume g x s = .next (s.updThread g x (fun t => { t with halted := false })) := by
  rw [execDebugResume, State.debugThread_resident h, hd, State.updDebugThread_resident h]
  rfl

/-- An action of the attached debugger on the thread has its effect. -/
theorem eq_updThread_of_attached {o : Out} {f : Thread → Thread}
    (ho : o = if !(s.debugThread g x).dbge then .next s else .next (s.updDebugThread g x f)) : o = .next (s.updThread g x f) := by
  rw [ho, State.debugThread_resident h, hd, State.updDebugThread_resident h]
  rfl

section
variable (v : Line)

theorem execDebugRegisterWrite_g (n : BitVec 5) :
    execDebugRegisterWrite g x (.g n) v s = .next (s.updThread g x (fun t => t.wg n (v.truncate 64))) :=
  eq_updThread_of_attached h hd rfl

theorem execDebugRegisterWrite_pc : execDebugRegisterWrite g x .pc v s = .next (s.updThread g x (fun t =>
    { t with pc := v.truncate 64 &&& 0x3FFC, wait := none, latched := false, bwarr := none })) :=
  eq_updThread_of_attached h hd rfl

theorem execDebugRegisterWrite_lval :
    execDebugRegisterWrite g x .lval v s = .next (s.updThread g x (fun t => { t with lval := v.truncate 64 })) :=
  eq_updThread_of_attached h hd rfl

theorem execDebugRegisterWrite_bd (n : BitVec 4) : execDebugRegisterWrite g x (.bd n) v s
    = .next (s.updThread g x (fun t => { t with bd := Tab.set t.bd n.toNat (v.truncate 16) })) :=
  eq_updThread_of_attached h hd rfl

end

end

end Sys2Proof.Machine

/-! ### A thread of a saved image (log 79) -/

namespace Sys2Proof.Machine

/-- An element changed in what a predicate does not look at is no other's concern. -/
theorem findIdx?_modify {α : Type} {p : α → Bool} {f : α → α} (h : ∀ a, p (f a) = p a) (l : List α) (n : Nat) :
    (l.modify n f).findIdx? p = l.findIdx? p := by
  induction l generalizing n with
  | nil => rw [List.modify_nil]
  | cons a l ih =>
    cases n with
    | zero => rw [List.modify_zero_cons, List.findIdx?_cons, List.findIdx?_cons, h]
    | succ n => rw [List.modify_succ_cons, List.findIdx?_cons, List.findIdx?_cons, ih]

/-- Whether a core holds the living thread of a number. -/
def Core.liveThread (k : Core) (x : CtxNo) : Bool := (Tab.get k.threads x.toNat).any Thread.live

/-- A change of the thread that leaves it alive or dead. -/
theorem Core.liveThread_upd (k : Core) (x : CtxNo) {f : Thread → Thread} (hf : ∀ t, (f t).live = t.live) :
    ({ k with threads := Tab.upd k.threads x.toNat f } : Core).liveThread x = k.liveThread x := by
  rw [Core.liveThread, Tab.get_upd_self, Option.any_some, hf, Tab.getD, Core.liveThread]
  cases Tab.get k.threads x.toNat with
  | none => rfl
  | some t => rfl

section
variable {s : State} {g : RegionNo} {x : CtxNo} {n : Nat} (h : s.debugImage g x = some n)
include h

theorem State.live_of_debugImage : (s.thread g x).live = false := by
  cases hlive : (s.thread g x).live with
  | true => exact absurd (h.symm.trans (State.debugImage_live hlive)) (Option.some_ne_none n)
  | false => rfl

theorem State.findIdx?_images : (s.reg g).images.findIdx? (fun i => i.core.liveThread x) = some n :=
  (State.debugImage_saved (State.live_of_debugImage h)).symm.trans h

theorem State.debugCore_saved : s.debugCore g x = ((s.reg g).images.getD n {}).core := by rw [State.debugCore, h]

theorem State.lt_images : n < (s.reg g).images.length := by
  obtain ⟨hn, -⟩ := List.findIdx?_eq_some_iff_getElem.1 (State.findIdx?_images h)
  exact hn

theorem State.core_updDebug_saved (f : Core → Core) : (s.updDebug g x f).core g = s.core g := by
  rw [State.updDebug, h]
  exact State.core_setReg_self ..

/-- A change that leaves the thread alive is seen where the debugger reaches it. -/
theorem State.updDebug_saved {f : Core → Core} (hf : ∀ k, (f k).liveThread x = k.liveThread x) :
    (s.updDebug g x f).debugImage g x = some n ∧ (s.updDebug g x f).debugCore g x = f (s.debugCore g x) := by
  have hlive : ((s.updDebug g x f).thread g x).live = false := by
    rw [State.thread, State.core_updDebug_saved h]
    exact State.live_of_debugImage h
  have himage : (s.updDebug g x f).debugImage g x = some n := by
    rw [State.debugImage_saved hlive, State.updDebug, h, State.reg_setReg_self]
    exact (findIdx?_modify (p := fun i : Image => i.core.liveThread x) (fun i => hf i.core) _ n).trans (State.findIdx?_images h)
  refine ⟨himage, ?_⟩
  rw [State.debugCore_saved himage, State.debugCore_saved h, State.updDebug, h, State.reg_setReg_self, List.getD_eq_getElem?_getD,
    List.getD_eq_getElem?_getD, List.getElem?_modify_eq, List.getElem?_eq_getElem (State.lt_images h)]
  rfl

theorem State.updDebugThread_saved {f : Thread → Thread} (hf : ∀ t, (f t).live = t.live) :
    (s.updDebugThread g x f).debugImage g x = some n
    ∧ (s.updDebugThread g x f).debugCore g x
      = { s.debugCore g x with threads := Tab.upd (s.debugCore g x).threads x.toNat f } :=
  State.updDebug_saved h (fun k => k.liveThread_upd x hf)

theorem State.debugThread_updDebugThread {f : Thread → Thread} (hf : ∀ t, (f t).live = t.live) :
    (s.updDebugThread g x f).debugThread g x = f (s.debugThread g x) := by
  rw [State.debugThread, (State.updDebugThread_saved h hf).2]
  exact Tab.getD_upd_self ..

end

/-- A halt of a saved thread abandons the access at which it stands. -/
theorem State.halt_saved {s : State} {g : RegionNo} {x : CtxNo} {n id : Nat} (h : s.debugImage g x = some n)
    (hhold : (s.debugThread g x).hold = some (id, true)) :
    let u := (s.abandon g x).updDebugThread g x (fun t => { t.haltWord with halted := true })
    u.debugImage g x = some n ∧ (∀ a ∈ (u.debugCore g x).accs, a.id ≠ id) ∧ (u.debugThread g x).halted = true := by
  intro u
  have habandon : s.abandon g x = s.updDebug g x (fun k => { k with accs := k.accs.filter (fun a => a.id != id) }) := by
    rw [State.abandon, hhold]
  obtain ⟨himage, hcore⟩ := State.updDebug_saved h (f := fun k => { k with accs := k.accs.filter (fun a => a.id != id) }) (fun _ => rfl)
  rw [← habandon] at himage hcore
  have hlive (t : Thread) : ({ t.haltWord with halted := true } : Thread).live = t.live := t.live_haltWord
  obtain ⟨huimage, hucore⟩ := State.updDebugThread_saved himage hlive
  refine ⟨huimage, fun a ha => ?_, ?_⟩
  · rw [hucore, hcore] at ha
    simpa using (List.mem_filter.1 ha).2
  · rw [State.debugThread_updDebugThread himage hlive]

end Sys2Proof.Machine

/-! ## Stream faults of threads (08 R226) -/

namespace Sys2Proof.Machine

/-- Whether an access has faulted. -/
def Acc.faulted (a : Acc) : Bool := match a.phase with
  | .faulted _ => true
  | _ => false

theorem Acc.faulted_false {a : Acc} (h : ∀ c, a.phase ≠ .faulted c) : a.faulted = false := by
  unfold Acc.faulted
  split
  · next c hc => exact absurd hc (h c)
  · rfl

/-! ### The accesses given up -/

/-- Accesses given up wait at no stream any more. -/
def State.unwaited (s : State) (g : RegionNo) (gone : List Acc) : State :=
  gone.foldl (fun s e => if clsOf e.addr == 4 then s.clearWait e.scb (.acc g e.id) else s) s

theorem State.regions_unwaited (s : State) (g : RegionNo) (gone : List Acc) : (s.unwaited g gone).regions = s.regions := by
  induction gone generalizing s with
  | nil => rfl
  | cons e gone ih =>
    refine (ih _).trans ?_
    beta_reduce
    split
    · rfl
    · rfl

/-- Whether a fault of an access discards another of its thread. -/
def Acc.discarded (a : Acc) (x : CtxNo) (e : Acc) : Bool := e.port == .thread x && e.id ≥ a.id && !e.done

/-- The faulted access of a thread and those behind it discarded. -/
def State.discardFaulted (s : State) (g : RegionNo) (x : CtxNo) (a : Acc) : State :=
  ((s.unwaited g ((s.core g).accs.filter (a.discarded x))).updCore g (fun k =>
    { k with accs := k.accs.filter (fun e => !a.discarded x e) })).updThread g x (fun t => { t with hold := none })

section
variable {s : State} {g : RegionNo} {x : CtxNo} {a : Acc}

theorem State.core_unwaited (gone : List Acc) : (s.unwaited g gone).core g = s.core g := by
  rw [State.core, State.reg, State.regions_unwaited]
  rfl

theorem State.accs_discardFaulted : ((s.discardFaulted g x a).core g).accs = (s.core g).accs.filter (fun e => !a.discarded x e) := by
  rw [State.discardFaulted, State.core_updThread, State.core_updCore_self, State.core_unwaited]

theorem State.thread_discardFaulted : (s.discardFaulted g x a).thread g x = { s.thread g x with hold := none } := by
  rw [State.discardFaulted, State.thread_updThread_self, State.thread, State.core_updCore_self, State.core_unwaited]
  rfl

/-! ### The trap -/

/-- The cause with which a stream fault traps its thread. -/
def streamCause (c : Byte) : Byte := if c = Cause.streamPeerGone then Cause.streamClosed else c

/-- A thread traps at the word at which it stands, which it abandons; one in `lexit` stops. -/
def State.streamTrap (s : State) (g : RegionNo) (x : CtxNo) (cause : Byte) (v : W64) : State := match (s.thread g x).ending with
  | some e =>
    if e.kill then (s.updThread g x (fun t => { t with ending := none })).trapEntry g x cause v (s.thread g x).pc else s.stopThread g x cause v
  | none => s.trapEntry g x cause v (s.thread g x).pc

theorem execStreamAccessFault_none (hnone : ∀ a ∈ (s.core g).accs, a.port = .thread x → ∀ c, a.phase ≠ .faulted c) :
    execStreamAccessFault g x s = .next s := by
  have hfind : (s.core g).accs.find? (fun a => a.port == .thread x && a.faulted) = none := by
    refine List.find?_eq_none.2 fun a ha => ?_
    by_cases hp : a.port = .thread x
    · simp [Acc.faulted_false (hnone a ha hp)]
    · simp [hp]
  unfold execStreamAccessFault
  split
  · rfl
  · next b hb => cases hfind.symm.trans hb

variable {c : Byte} (hfind : (s.core g).accs.find? (fun a => a.port == .thread x && a.faulted) = some a) (hphase : a.phase = .faulted c)
include hfind

theorem execStreamAccessFault_waits (hbefore : (s.core g).accs.any (fun e => e.port == .thread x && e.op == .read && e.id < a.id) = true) :
    execStreamAccessFault g x s = .next s := by
  unfold execStreamAccessFault
  split
  · rfl
  · next b hb =>
    obtain rfl : a = b := Option.some.inj (hfind.symm.trans hb)
    exact if_pos hbefore

include hphase

theorem execStreamAccessFault_traps (hbefore : (s.core g).accs.any (fun e => e.port == .thread x && e.op == .read && e.id < a.id) = false) :
    execStreamAccessFault g x s = .next ((s.discardFaulted g x a).streamTrap g x (streamCause c) (BitVec.ofNat 64 a.addr)) := by
  unfold execStreamAccessFault
  split
  · next hnone => cases hfind.symm.trans hnone
  · next b hb =>
    obtain rfl : a = b := Option.some.inj (hfind.symm.trans hb)
    refine (if_neg (Bool.eq_false_iff.1 hbefore)).trans ?_
    have hc : (if c == Cause.streamPeerGone then Cause.streamClosed else c) = streamCause c := by
      simp only [beq_iff_eq, streamCause]
    simp only [hphase, hc]
    rfl

end

section
variable {s : State} {g : RegionNo} {x : CtxNo} {cause : Byte} {v : W64}

theorem State.streamTrap_runs (h : (s.thread g x).ending = none) :
    s.streamTrap g x cause v = s.trapEntry g x cause v (s.thread g x).pc := by
  rw [State.streamTrap, h]

theorem State.streamTrap_kills {e : Ending} (h : (s.thread g x).ending = some e) (hk : e.kill = true) :
    s.streamTrap g x cause v = (s.updThread g x (fun t => { t with ending := none })).trapEntry g x cause v (s.thread g x).pc := by
  rw [State.streamTrap, h]
  exact if_pos hk

theorem State.streamTrap_exits {e : Ending} (h : (s.thread g x).ending = some e) (hk : e.kill = false) :
    s.streamTrap g x cause v = s.stopThread g x cause v := by
  rw [State.streamTrap, h]
  exact if_neg (Bool.eq_false_iff.1 hk)

end

end Sys2Proof.Machine

/-! ## Microprograms, debuggers and stream faults -/

namespace Sys2Proof.Machine

/-- A PC as the debugger writes it is a word address below 16 KiB (06 R166). -/
theorem toNat_writtenPc (v : W64) : (v &&& 0x3FFC).toNat % 4 = 0 ∧ (v &&& 0x3FFC).toNat < 2 ^ 14 := by
  have hmod : (v.toNat &&& 0x3FFC) % 2 ^ 2 = v.toNat % 2 ^ 2 &&& 0x3FFC % 2 ^ 2 := Nat.and_mod_two_pow
  have hzero : v.toNat % 2 ^ 2 &&& 0x3FFC % 2 ^ 2 = 0 := Nat.and_zero _
  have hle : v.toNat &&& 0x3FFC ≤ 0x3FFC := Nat.and_le_right
  rw [BitVec.toNat_and]
  change (v.toNat &&& 0x3FFC) % 4 = 0 ∧ v.toNat &&& 0x3FFC < 2 ^ 14
  omega

/-- Settles O52: the start and the two kinds of program of a run, the debugger's actions on a resident and on a saved thread, and the fault of
a stream access by what is outstanding before it. -/
theorem microprogramsDebuggersAndStreamFaults : Obligations.MicroprogramsDebuggersAndStreamFaults := by
  unfold Obligations.MicroprogramsDebuggersAndStreamFaults
  intro s g x m t
  refine ⟨?begins, ?thaws, ?sends, fun h on => execDebugAttach_resident h on, ?attached, ?savedHalt, ?savedAttach,
    fun h hd => exec_debug_detached h hd, ?fault, fun hnone => execStreamAccessFault_none hnone⟩
  case begins =>
    intro r rest hstopped hrunning hqueue hdue hwords
    refine ⟨_, execMicroprogramRun_begins hstopped hrunning hqueue hdue hwords, ?_⟩
    rw [State.reg_setReg_self]
    exact ⟨rfl, rfl, Thread.reported_pc .., Thread.reported_rg ..⟩
  case thaws =>
    intro hstopped hrunning hservice hc
    refine ⟨_, execMicroprogramRun_goesOn hstopped hrunning hservice, ?_⟩
    rw [State.serviceProgram_thaws hc]
    refine ⟨State.running_endRun .., fun e he => ?_⟩
    rw [State.core_endRun, State.core_updCore_self] at he
    exact Bool.or_eq_true_iff.1 (List.mem_filter.1 he).2
  case sends =>
    intro hstopped hrunning hservice hc hquiet hfree
    refine ⟨_, execMicroprogramRun_goesOn hstopped hrunning hservice, ?_⟩
    rw [State.serviceProgram_sends hc hquiet hfree]
    refine ⟨State.running_endRun .., rfl, ?_⟩
    rw [State.core_endRun, State.core_setReg_self]
    exact State.frozen_freeze ..
  case attached =>
    intro h hd
    refine ⟨⟨_, execDebugHalt_resident h hd, ?halted⟩, execDebugResume_resident h hd, fun n v => execDebugRegisterWrite_g h hd v n,
      fun v => ⟨_, execDebugRegisterWrite_pc h hd v, ?pc⟩, fun v => execDebugRegisterWrite_lval h hd v,
      fun n v => execDebugRegisterWrite_bd h hd v n⟩
    case halted =>
      obtain ⟨hthread, haccs⟩ := State.halt_resident h
      rw [State.thread_closeFaults, State.core_closeFaults, hthread]
      refine ⟨rfl, rfl, haccs, t.pc_haltWord.trans ?_⟩
      rw [Thread.idles]
      cases t.wait with
      | none => rfl
      | some w => simp only [beq_iff_eq]
    case pc =>
      rw [State.thread_updThread_self]
      exact toNat_writtenPc _
  case savedHalt =>
    intro n id h hd hhold
    obtain ⟨himage, haccs, hhalted⟩ := State.halt_saved h hhold
    rw [State.debugThread, State.debugCore_saved himage] at hhalted
    rw [State.debugCore_saved himage] at haccs
    refine ⟨_, execDebugHalt_attached hd, ?_⟩
    rw [State.reg_closeFaults]
    exact ⟨haccs, hhalted⟩
  case savedAttach =>
    intro n on h
    exact ⟨_, rfl, State.core_updDebug_saved h _, 
      congrArg Thread.dbge (State.debugThread_updDebugThread h (f := fun t => { t with dbge := on }) (fun _ => rfl))⟩
  case fault =>
    intro a c hfind hphase before gone s0 s1 cause v
    refine ⟨fun ⟨e, he, hbefore⟩ => execStreamAccessFault_waits hfind (List.any_eq_true.2 ⟨e, he, hbefore⟩), fun hnone => ?_⟩
    have htraps := execStreamAccessFault_traps hfind hphase (List.any_eq_false.2 fun e he => Bool.eq_false_iff.1 (hnone e he))
    have hthread : s1.thread g x = { t with hold := none } := State.thread_discardFaulted (a := a)
    have hending : (s1.thread g x).ending = t.ending := by rw [hthread]
    have hpc : (s1.thread g x).pc = t.pc := by rw [hthread]
    rw [← hending, ← hpc]
    exact ⟨State.accs_discardFaulted (a := a), fun he => htraps.trans (congrArg Host.Outcome.next (State.streamTrap_runs he)),
      fun e he hk => htraps.trans (congrArg Host.Outcome.next (State.streamTrap_kills he hk)),
      fun e he hk => htraps.trans (congrArg Host.Outcome.next (State.streamTrap_exits he hk))⟩

end Sys2Proof.Machine

/-! ## Reads and writes at a control point (07 R204, R205) -/

namespace Sys2Proof.Machine

section
variable {b : Scb} {o n : Nat}

theorem Scb.shut_iff : b.shut = true ↔ b.state = 0 ∨ b.state = 4 := by simp [Scb.shut]

theorem Scb.shut_of_not_closed (h : ¬ (b.state = 0 ∨ b.state = 4)) : b.shut = false := Bool.eq_false_iff.2 (fun hs => h (Scb.shut_iff.1 hs))

theorem Scb.shut_of_live (h : b.state ∈ [1, 2, 3]) : b.shut = false :=
  Scb.shut_of_not_closed (by simp only [List.mem_cons, List.not_mem_nil, or_false] at h; omega)

theorem Scb.read_shut (h : b.shut = true) : b.read o n = .fault Cause.streamClosed := if_pos h

section
variable (hlive : b.shut = false)
include hlive

/-- A read of a stream with a window passes the further checks of R204 one after another. -/
theorem Scb.read_live : b.read o n =
    if n > b.win then .fault Cause.misaligned
    else if before o b.tail then .fault Cause.streamBehind
    else if after (offAdd o n) b.hwm then
      (if b.state == 2 then .fault Cause.streamClosed else if b.state == 3 then .fault Cause.streamPeerGone else .wait 1)
    else .perform (o % b.win) := if_neg (Bool.eq_false_iff.1 hlive)

theorem Scb.read_tooLong (hlen : b.win < n) : b.read o n = .fault Cause.misaligned := by
  simp [Scb.read_live hlive, hlen]

theorem Scb.read_behind (hlen : n ≤ b.win) (hbehind : before o b.tail = true) : b.read o n = .fault Cause.streamBehind := by
  simp [Scb.read_live hlive, Nat.not_lt.2 hlen, hbehind]

theorem Scb.read_beyond (hlen : n ≤ b.win) (hbehind : before o b.tail = false) (hbeyond : after (offAdd o n) b.hwm = true) :
    b.read o n = if b.state = 2 then .fault Cause.streamClosed else if b.state = 3 then .fault Cause.streamPeerGone else .wait 1 := by
  simp [Scb.read_live hlive, Nat.not_lt.2 hlen, hbehind, hbeyond]

theorem Scb.read_performs (hlen : n ≤ b.win) (hbehind : before o b.tail = false) (hbeyond : after (offAdd o n) b.hwm = false) :
    b.read o n = .perform (o % b.win) := by
  simp [Scb.read_live hlive, Nat.not_lt.2 hlen, hbehind, hbeyond]

end

theorem Scb.write_peerGone (h : b.state = 3) : b.write o n = .fault Cause.streamPeerGone := by simp [Scb.write, h]

theorem Scb.write_closed (h : b.state ≠ 1) (h' : b.state ≠ 3) : b.write o n = .fault Cause.streamClosed := by simp [Scb.write, h, h']

section
variable (hopen : b.state = 1)
include hopen

theorem Scb.write_tooLong (hlen : b.win < n) : b.write o n = .fault Cause.misaligned := by simp [Scb.write, hopen, hlen]

theorem Scb.write_behind (hlen : n ≤ b.win) (hbehind : before o b.hwm = true) : b.write o n = .fault Cause.streamBehind := by
  simp [Scb.write, hopen, Nat.not_lt.2 hlen, hbehind]

theorem Scb.write_beyond (hlen : n ≤ b.win) (hbehind : before o b.hwm = false) (hbeyond : after (offAdd o n) b.limit = true) :
    b.write o n = .wait 2 := by
  simp [Scb.write, hopen, Nat.not_lt.2 hlen, hbehind, hbeyond]

theorem Scb.write_performs (hlen : n ≤ b.win) (hbehind : before o b.hwm = false) (hbeyond : after (offAdd o n) b.limit = false)
    (hauto : b.auto = false) : b.write o n = .perform (o % b.win) := by
  simp [Scb.write, hopen, Nat.not_lt.2 hlen, hbehind, hbeyond, hauto]

end

end

/-- Settles O29: each answer of a control point by the first check that the read or the write fails. -/
theorem controlPointRules : Obligations.ControlPointRules := by
  unfold Obligations.ControlPointRules
  intro b o n closed
  have hlive (h : ¬ closed) : b.shut = false := Scb.shut_of_not_closed h
  exact ⟨fun h => Scb.read_shut (Scb.shut_iff.2 h), fun h => Scb.read_tooLong (hlive h), fun h => Scb.read_behind (hlive h),
    fun h => Scb.read_beyond (hlive h), fun h => Scb.read_performs (hlive h), Scb.write_peerGone, Scb.write_closed, Scb.write_tooLong,
    Scb.write_behind, Scb.write_beyond, Scb.write_performs⟩

/-! ## Stream accesses of cells and threads (06 R172; 07 R204, R205) -/

section
variable {b : Scb} {who : SWho} {o n : Nat}

/-- The write of an agent at an offset that stands noted at a control point. -/
def Scb.noted (b : Scb) (who : SWho) (o : Nat) : Option SWait := b.waits.find? (fun w => w.who == who && w.off == o && w.wr)

theorem Scb.tryWrite_new (h : b.noted who o = none) : b.tryWrite who o n = b.write o n := by
  rw [Scb.noted] at h
  rw [Scb.tryWrite, h]

theorem Scb.tryWrite_waits {w : SWait} (h : b.noted who o = some w) (hadm : w.adm = false) : b.tryWrite who o n = .wait w.kind := by
  rw [Scb.noted] at h
  rw [Scb.tryWrite, h]
  exact if_pos (by rw [hadm]; rfl)

/-- Bytes published after a write was admitted do not stop it. -/
theorem Scb.tryWrite_admitted {w : SWait} (h : b.noted who o = some w) (hadm : w.adm = true)
    (hbehind : b.write o n = .fault Cause.streamBehind) : b.tryWrite who o n = .perform (o % b.win) := by
  rw [Scb.noted] at h
  simp only [Scb.tryWrite, h, hadm, hbehind, Bool.not_true, Bool.false_eq_true, if_false, beq_self_eq_true, if_true]

end

section
variable {s : State} {g : RegionNo} {a : Acc}

/-- What the control point of its stream answers an access. -/
def State.streamAnswer (s : State) (g : RegionNo) (a : Acc) : SRes :=
  if a.wr then (s.scb a.scb).tryWrite (.acc g a.id) a.off a.n else (s.scb a.scb).read a.off a.n

theorem State.streamAnswer_read (hwr : a.wr = false) : s.streamAnswer g a = (s.scb a.scb).read a.off a.n := if_neg (by simp [hwr])

theorem State.streamAnswer_write (hwr : a.wr = true) : s.streamAnswer g a = (s.scb a.scb).tryWrite (.acc g a.id) a.off a.n := if_pos hwr

/-- An access that waits for an event of a kind at its stream. -/
def State.waitStream (s : State) (g : RegionNo) (a : Acc) (kind : Nat) : State :=
  s.waitAcc g a kind a.addr ((s.scb a.scb).waitsFor kind)

/-- Noting a wait changes the stream's control block alone. -/
theorem State.noteWait_eq_setScb (s : State) (k : Nat) (who : SWho) (off n : Nat) (wr : Bool) (kind : Nat) :
    ∃ b, s.noteWait k who off n wr kind = s.setScb k b := by
  unfold State.noteWait
  dsimp only
  split
  · exact ⟨_, rfl⟩
  · exact ⟨_, rfl⟩

theorem State.tryStream_fails {c : Byte} (h : s.streamAnswer g a = .fault c) :
    s.tryStream g a = (s.clearWait a.scb (.acc g a.id)).failAcc g a.id c := by
  rw [State.streamAnswer] at h
  simp only [State.tryStream, h]

theorem State.tryStream_admits {ring : Nat} (h : s.streamAnswer g a = .perform ring)
    (hturn : a.wr = true → (s.scb a.scb).overtaken (.acc g a.id) = false) : s.tryStream g a = s.admitAcc g a ring := by
  rw [State.streamAnswer] at h
  have hgo : (a.wr && (s.scb a.scb).overtaken (.acc g a.id)) = false := by
    cases hwr : a.wr with
    | false => rfl
    | true => exact hturn hwr
  simp only [State.tryStream, h, hgo, Bool.false_eq_true, if_false]

theorem State.tryStream_overtaken {ring : Nat} (h : s.streamAnswer g a = .perform ring) (hwr : a.wr = true)
    (hover : (s.scb a.scb).overtaken (.acc g a.id) = true) : s.tryStream g a = s.waitStream g a 4 := by
  rw [State.streamAnswer_write hwr] at h
  simp only [State.tryStream, h, hwr, hover, Bool.and_self, if_true, State.waitStream]

/-- An access that has to wait stays; but for the note at its control point its region is as if it alone had changed. -/
theorem State.tryStream_waits {kind : Nat} (h : s.streamAnswer g a = .wait kind) :
    (s.tryStream g a).core g = (s.waitStream g a kind).core g := by
  rw [State.streamAnswer] at h
  obtain ⟨b, hb⟩ := State.noteWait_eq_setScb s a.scb (.acc g a.id) a.off a.n a.wr kind
  simp only [State.tryStream, h, hb, State.waitStream, State.waitAcc, State.updAcc, State.core_updCore_self]
  rfl

/-- An admitted access of a bank-backed stream is ready at its ring byte. -/
theorem State.admitAcc_bank {ring : Nat} (hbk : (s.scb a.scb).bk = true) :
    s.admitAcc g a ring = ((s.clearWait a.scb (.acc g a.id)).updAcc g a.id (fun e =>
      { e with opens := (s.scb a.scb).opens, wait := none })).updAcc g a.id (fun e => { e with phase := .ready ((s.scb a.scb).bankAt ring) }) :=
  if_pos hbk

/-- One of another stream is translated at its ring byte. -/
theorem State.admitAcc_memory {ring : Nat} (hbk : (s.scb a.scb).bk = false) :
    s.admitAcc g a ring = ((s.clearWait a.scb (.acc g a.id)).updAcc g a.id (fun e =>
      { e with opens := (s.scb a.scb).opens, wait := none })).walkAcc g a ((s.scb a.scb).base + ring) :=
  if_neg (by simp [hbk])

end

section
variable {s : State} {g : RegionNo} {id : Nat} {a : Acc} (hacc : s.acc g id = some a)
include hacc

theorem execStreamRead_outOfOrder (hord : (s.core g).inOrder a = false) : execStreamRead g id s = .next s := by
  simp [execStreamRead, hacc, hord]

theorem execStreamWrite_outOfOrder (hord : (s.core g).inOrder a = false) : execStreamWrite g id s = .next s := by
  simp only [execStreamWrite, hacc, hord, Bool.false_eq_true, if_false]
  split <;> rfl

variable (hent : a.phase = .entering) (hord : (s.core g).inOrder a = true)
include hent hord

theorem execStreamRead_tries (hop : a.op = .read) : execStreamRead g id s = .next (s.tryStream g a) := by
  simp [execStreamRead, hacc, hent, hop, hord]

theorem execStreamWrite_tries {d : List Byte} (hop : a.op = .write d) : execStreamWrite g id s = .next (s.tryStream g a) := by
  simp [execStreamWrite, hacc, hent, hop, hord]

end

/-- Settles O30: an access that may act is tried at its control point, and each answer of the control point has its effect. -/
theorem streamAccessesAreAdmitted : Obligations.StreamAccessesAreAdmitted := by
  unfold Obligations.StreamAccessesAreAdmitted
  intro s g id a hacc hent b s1 s2 ready
  have hready {i : Instr} {ring : Nat} (h : exec i s = .next (s.admitAcc g a ring)) : ready i ring :=
    ⟨fun hbk => h.trans (congrArg Host.Outcome.next (State.admitAcc_bank hbk)),
      fun hbk => h.trans (congrArg Host.Outcome.next (State.admitAcc_memory hbk))⟩
  refine ⟨fun hord => ?_, fun hord => ⟨execStreamRead_outOfOrder hacc hord, execStreamWrite_outOfOrder hacc hord⟩⟩
  refine ⟨fun hop hwr ring hr => ?readAdmitted, fun hop hwr c hr => ?readFails, fun hop hwr k hr => ?readWaits, fun d hop hwr => ?write⟩
  case readAdmitted =>
    have htry := State.tryStream_admits ((State.streamAnswer_read (g := g) hwr).trans hr) (fun h => absurd (hwr.symm.trans h) Bool.false_ne_true)
    exact hready ((execStreamRead_tries hacc hent hord hop).trans (congrArg _ htry))
  case readFails =>
    exact (execStreamRead_tries hacc hent hord hop).trans (congrArg _ (State.tryStream_fails ((State.streamAnswer_read hwr).trans hr)))
  case readWaits =>
    exact ⟨_, execStreamRead_tries hacc hent hord hop, State.tryStream_waits ((State.streamAnswer_read hwr).trans hr)⟩
  case write =>
    have hexec := execStreamWrite_tries hacc hent hord hop
    have hanswer : s.streamAnswer g a = b.tryWrite (.acc g a.id) a.off a.n := State.streamAnswer_write hwr
    intro waits mine
    have hadmits {ring : Nat} (hr : b.tryWrite (.acc g a.id) a.off a.n = .perform ring) (hturn : b.overtaken (.acc g a.id) = false) :
        ready (.streamWrite g id) ring :=
      hready (hexec.trans (congrArg _ (State.tryStream_admits (hanswer.trans hr) (fun _ => hturn))))
    have hwaits {kind : Nat} (hr : b.tryWrite (.acc g a.id) a.off a.n = .wait kind) : waits kind :=
      ⟨_, hexec, State.tryStream_waits (hanswer.trans hr)⟩
    refine ⟨fun hnew => ?_, fun w hw hadm => hwaits (Scb.tryWrite_waits hw hadm),
      fun w hw hadm hbehind => hadmits (Scb.tryWrite_admitted hw hadm hbehind)⟩
    have hfirst : b.tryWrite (.acc g a.id) a.off a.n = b.write a.off a.n := Scb.tryWrite_new hnew
    refine ⟨fun ring hr => hadmits (hfirst.trans hr), fun ring hr hover => ?_, fun c hr => ?_, fun k hr => hwaits (hfirst.trans hr)⟩
    · exact ⟨_, hexec, congrArg (fun t => t.core g) (State.tryStream_overtaken (hanswer.trans (hfirst.trans hr)) hwr hover)⟩
    · exact hexec.trans (congrArg _ (State.tryStream_fails (hanswer.trans (hfirst.trans hr))))

end Sys2Proof.Machine

/-! ## Host participants (07 R211 to R213) -/

namespace Sys2Proof.Machine

/-! ### Rings in a bank (07 R202; 09 R229) -/

section
variable {s : State} {b : Scb}

/-- A ring in a bank needs no translation. -/
theorem State.ringPlace_bank (hbk : b.bk = true) (g : RegionNo) (ctxid ring : Nat) (wr : Bool) :
    s.ringPlace g ctxid b ring wr = (s, .ok (b.bankAt ring)) := if_pos hbk

theorem State.hostPlace_bank (hbk : b.bk = true) (ctxid ring : Nat) : s.hostPlace ctxid b ring = (s, .ok (b.bankAt ring)) := by
  simp only [State.hostPlace, State.ringPlace_bank hbk]

/-- A write of a bank place changes the banks and the list of bad units, nothing else. -/
theorem State.writePlace_bank {pl : Place} (h : pl.bank = true) (d : List Byte) :
    s.writePlace pl d = { s with bad := s.bad.filter (fun u => !pl.covers d.length u),
                                 banks := s.banks.writeN (pl.g.toNat * 2 ^ 24 + pl.pa) d } := if_pos h

theorem ringPieces_zero (win fuel off : Nat) : ringPieces win fuel off 0 = [] := by
  cases fuel <;> rfl

/-- Bytes within one line of the window, short of its end, are one piece. -/
theorem ringPieces_one {win off n : Nat} (hn : 0 < n) (hline : off % 128 + n ≤ 128) (hwin : off + n ≤ win) :
    ringPieces win (n + 1) off n = [(off, n)] := by
  have hring : off % win = off := Nat.mod_eq_of_lt (by omega)
  have hall : min n (min (128 - off % 128) (win - off)) = n := by omega
  have hsome : ¬ (n == 0) = true := by rw [beq_iff_eq]; omega
  simp only [ringPieces, hring, hall, if_neg hsome, Nat.sub_self, ringPieces_zero]

end

/-! ### The data area of an aperture (07 R212) -/

section
variable {s : State} {f : BitVec 5} {ap : BitVec 6} {a : Aperture} (ha : Tab.get (Tab.getD s.funcs f.toNat : Func).aps ap.toNat = some a)
include ha

theorem execApertureDataWrite_shut (hshut : (s.apScb a).shut = true) (off : Nat) (bytes : List Byte) :
    execApertureDataWrite f ap off bytes s = .next s := by
  simp [execApertureDataWrite, ha, hshut]

/-- Bytes within one line of a ring in a bank are written there. -/
theorem execApertureDataWrite_bank {off : Nat} {bytes : List Byte} (hlive : (s.apScb a).shut = false) (hbk : (s.apScb a).bk = true)
    (hsome : 0 < bytes.length) (hline : off % 128 + bytes.length ≤ 128) (hwin : off + bytes.length ≤ (s.apScb a).win) :
    execApertureDataWrite f ap off bytes s = .next (s.writePlace ((s.apScb a).bankAt off) bytes) := by
  have hin : ¬ off ≥ (s.apScb a).win := by omega
  have hall : bytes.take ((s.apScb a).win - off) = bytes := List.take_of_length_le (by omega)
  simp only [execApertureDataWrite, ha, hlive, hin, decide_false, Bool.or_self, Bool.false_eq_true, if_false, hall,
    ringPieces_one hsome hline hwin, State.hostWrite, State.hostPlace_bank hbk, List.take_length]

omit ha

/-- The context that an aperture was prepared for has been destroyed since (07 R213). -/
theorem State.apScb_stale (hgen : a.gen ≠ s.genOf a.ctxid) : s.apScb a = { state := 4 } := if_neg (by simpa using hgen)

include ha

theorem State.hostScb_stale (hgen : a.gen ≠ s.genOf a.ctxid) (role : Bool) : s.hostScb f.toNat ap.toNat role = none := by
  simp [State.hostScb, ha, State.apScb_stale hgen]

end

/-! ### Writes of the control page (07 R211) -/

section
variable {s : State} {f : BitVec 5} {ap : BitVec 6} {v : W64}

theorem execHwmWrite_publishes {key : Nat} (h : s.hostScb f.toNat ap.toNat true = some key) :
    execHwmWrite f ap v s = .next (s.hostAsk key false (v.toNat % 2 ^ 48) 8) := by simp only [execHwmWrite, h]

theorem execHwmWrite_ignored (h : s.hostScb f.toNat ap.toNat true = none) : execHwmWrite f ap v s = .next s := by
  simp only [execHwmWrite, h]

theorem execHrelWrite_releases {key : Nat} (h : s.hostScb f.toNat ap.toNat false = some key) :
    execHrelWrite f ap v s = .next (s.hostAsk key true (v.toNat % 2 ^ 48) (s.scb key).hslot) := by simp only [execHrelWrite, h]

theorem execHrelWrite_ignored (h : s.hostScb f.toNat ap.toNat false = none) : execHrelWrite f ap v s = .next s := by
  simp only [execHrelWrite, h]

end

/-- Settles O31: a write of the control page by the host's role, a write of the data area by the aperture's stream. -/
theorem hostParticipantsReachTheirStream : Obligations.HostParticipantsReachTheirStream := by
  unfold Obligations.HostParticipantsReachTheirStream
  intro s f ap v
  refine ⟨fun key => execHwmWrite_publishes, execHwmWrite_ignored, fun key => execHrelWrite_releases, execHrelWrite_ignored, ?data, ?stale⟩
  case data =>
    intro a off bytes ha b hbk hsome hline hwin hlive hok p
    have hbanks : s.banks.wf = true := by
      simp only [State.memOk, Bool.and_eq_true] at hok
      obtain ⟨⟨⟨-, hwf⟩, -⟩, -⟩ := hok
      exact hwf
    refine ⟨_, execApertureDataWrite_bank ha (Scb.shut_of_live hlive) hbk hsome hline hwin, ?_⟩
    rw [State.writePlace_bank rfl]
    exact ⟨Memory.readN_writeN hbanks p bytes, fun q hq => Memory.read_writeN_outside s.banks p q bytes hq, rfl, rfl⟩
  case stale =>
    intro a off bytes ha hgen
    exact ⟨execApertureDataWrite_shut ha (by rw [State.apScb_stale hgen]; rfl) off bytes, execHwmWrite_ignored (State.hostScb_stale ha hgen _),
      execHrelWrite_ignored (State.hostScb_stale ha hgen _)⟩

end Sys2Proof.Machine

/-! ## Stream commands (07 R219 to R224) -/

namespace Sys2Proof.Machine

/-! ### Changes of regions alone -/

/-- What differs lies in the regions: the streams, memory and the banks are as they were. -/
def State.InRegions (s t : State) : Prop := ∃ rs, t = { s with regions := rs }

section
variable {s t u : State}

theorem State.InRegions.refl (s : State) : s.InRegions s := ⟨_, rfl⟩

theorem State.InRegions.trans (h : s.InRegions t) (h' : t.InRegions u) : s.InRegions u := by
  obtain ⟨rs, rfl⟩ := h
  obtain ⟨rs', rfl⟩ := h'
  exact ⟨rs', rfl⟩

theorem State.InRegions.scb (h : s.InRegions t) (k : Nat) : t.scb k = s.scb k := by
  obtain ⟨rs, rfl⟩ := h
  rfl

theorem State.InRegions.mem (h : s.InRegions t) : t.mem = s.mem := by
  obtain ⟨rs, rfl⟩ := h
  rfl

theorem State.InRegions.banks (h : s.InRegions t) : t.banks = s.banks := by
  obtain ⟨rs, rfl⟩ := h
  rfl

theorem State.InRegions.setReg (s : State) (g : RegionNo) (r : Region) : s.InRegions (s.setReg g r) := ⟨_, rfl⟩

theorem State.InRegions.updCore (s : State) (g : RegionNo) (f : Core → Core) : s.InRegions (s.updCore g f) := ⟨_, rfl⟩

theorem State.InRegions.updCmd (s : State) (g : RegionNo) (id : Nat) (f : Cmd → Cmd) : s.InRegions (s.updCmd g id f) := by
  unfold State.updCmd
  dsimp only
  split
  · exact .updCore ..
  · split
    · exact .refl s
    · exact .setReg ..

theorem State.InRegions.releaseNodes (s : State) (g : RegionNo) (id : Nat) : s.InRegions (s.releaseNodes g id) := by
  unfold State.releaseNodes
  split
  · exact .updCore ..
  · split
    · exact .setReg ..
    · exact .refl s

theorem State.InRegions.endCmd (s : State) (g : RegionNo) (id : Nat) (cause : Byte) (value : Nat) : s.InRegions (s.endCmd g id cause value) :=
  (State.InRegions.releaseNodes s g id).trans (.updCmd ..)

theorem State.InRegions.progress (s : State) (g : RegionNo) (id : Nat) (f : Prog → Prog) : s.InRegions (s.progress g id f) :=
  (State.InRegions.setReg s g { s.reg g with residency := 0 }).trans (.updCmd (s.stamp g) g id _)

theorem State.InRegions.askDone (s : State) (k : Nat) (who : Asker) (slot : Nat) : s.InRegions (s.askDone k who slot) := by
  cases who with
  | acc g id => exact ⟨_, rfl⟩
  | cmd g id => exact .endCmd ..
  | port g p => exact ⟨_, rfl⟩
  | host rel => exact .refl s

end

/-! ### Askers whose request takes effect at once (07 R206, R207) -/

/-- With nothing waiting at the control point, a request that it grants has its effect, whoever asks. -/
theorem State.askStream_done {s : State} {k o slot : Nat} {b : Scb} (who : Asker) (hwaiting : (s.scb k).waiting = [])
    (hask : (s.scb k).ask slot o = .done b) (hb : b.waiting = []) (hb' : b.waits = []) :
    s.askStream k who o slot = (s.setScb k b).askDone k who slot := by
  have honce : s.askOnce k (who, o, slot) = (s.setScb k b).askDone k who slot := by
    simp only [State.askOnce, hask, State.putScb_quiet hb']
  have hscb : ((s.setScb k b).askDone k who slot).scb k = b := ((State.InRegions.askDone ..).scb k).trans State.scb_setScb_self
  simp only [State.askStream, hwaiting, List.any_nil, Bool.and_false, Bool.false_eq_true, if_false, honce]
  exact State.askSettle_quiet _ (by rw [hscb, hb])

/-! ### A command in the resident part of its region (03 R87; 09 R234) -/

theorem State.core_setScb (s : State) (k : Nat) (b : Scb) (g : RegionNo) : (s.setScb k b).core g = s.core g := rfl

theorem State.cmds_releaseNodes (s : State) (g : RegionNo) (id : Nat) : ((s.releaseNodes g id).core g).cmds = (s.core g).cmds := by
  unfold State.releaseNodes
  split
  · rw [State.core_updCore_self]
    rfl
  · split
    · rw [State.core_setReg_self]
      rfl
    · rfl

section
variable {s : State} {g : RegionNo} {id : Nat} (hhere : Tab.has (s.core g).cmds id = true)
include hhere

theorem State.cmd_resident : s.cmd g id = Tab.getD (s.core g).cmds id := by
  obtain ⟨c, hc⟩ := Option.isSome_iff_exists.1 hhere
  rw [State.cmd, Region.cmd?, show Tab.get (s.reg g).core.cmds id = some c from hc, Tab.getD, hc]
  rfl

theorem State.cmds_updCmd (f : Cmd → Cmd) : ((s.updCmd g id f).core g).cmds = Tab.upd (s.core g).cmds id f := by
  obtain ⟨c, hc⟩ := Option.isSome_iff_exists.1 hhere
  rw [State.updCmd_of_get hc, State.core_updCore_self]

theorem State.has_updCmd (f : Cmd → Cmd) : Tab.has ((s.updCmd g id f).core g).cmds id = true := by
  rw [State.cmds_updCmd hhere]
  exact Tab.has_set_self ..

theorem State.cmd_updCmd (f : Cmd → Cmd) : (s.updCmd g id f).cmd g id = f (s.cmd g id) := by
  rw [State.cmd_resident (State.has_updCmd hhere f), State.cmds_updCmd hhere, Tab.getD_upd_self, State.cmd_resident hhere]

theorem State.cmd_endCmd (cause : Byte) (value : Nat) : let e := (s.endCmd g id cause value).cmd g id
    e.done = true ∧ e.cause = cause ∧ e.value = BitVec.ofNat 32 value := by
  have hkept : Tab.has ((s.releaseNodes g id).core g).cmds id = true := by rwa [State.cmds_releaseNodes]
  rw [State.endCmd, State.cmd_updCmd hkept]
  exact ⟨rfl, rfl, rfl⟩

theorem State.has_progress (f : Prog → Prog) : Tab.has ((s.progress g id f).core g).cmds id = true :=
  State.has_updCmd (by rwa [State.core_stamp]) _

end

theorem State.runCmd_of_runs {s : State} {g : RegionNo} {id : Nat} {m : Cmd} (h : Claims.Runs s g id m) (f : RegionNo → Nat → Cmd → State) :
    s.runCmd f = .next (f g id m) := by
  obtain ⟨hcur, hcmd, hhere, ⟨hstarted, hdone, hparked⟩, hon⟩ := h
  simp [State.runCmd, hcur, hcmd, hhere, Cmd.running, hstarted, hdone, hparked, hon]

/-! ### Publishing and releasing by command (07 R206, R207, R221) -/

section
variable {s : State} {g : RegionNo} {id : Nat} {m : Cmd} {c : Frame}

/-- A command whose request has taken effect: its stream's control block moved, VALUE answered. -/
def State.cmdAsked (s : State) (g : RegionNo) (id k : Nat) (b : Scb) (slot : Nat) : State :=
  ((s.progress g id (fun p => { p with stage := 1 })).setScb k b).endCmd g id 0 (b.askValue slot)

theorem State.scb_cmdAsked (s : State) (g : RegionNo) (id k : Nat) (b : Scb) (slot : Nat) : (s.cmdAsked g id k b slot).scb k = b :=
  ((State.InRegions.endCmd ..).scb k).trans State.scb_setScb_self

theorem State.cmd_cmdAsked (hhere : Tab.has (s.core g).cmds id = true) (k : Nat) (b : Scb) (slot : Nat) :
    let e := (s.cmdAsked g id k b slot).cmd g id
    e.done = true ∧ e.cause = 0 ∧ e.value = BitVec.ofNat 32 (b.askValue slot) := by
  refine State.cmd_endCmd ?_ 0 _
  rw [State.core_setScb]
  exact State.has_progress hhere _

theorem State.cmdAsk_takesEffect (hhere : Tab.has (s.core g).cmds id = true) (hstage : m.prog.stage = 0) {slot : Nat} {b : Scb}
    (hask : (s.scb (cmdScb m c)).ask slot (frameOff c) = .done b) (hquiet : (s.scb (cmdScb m c)).waiting = [])
    (hb : b.waiting = [] ∧ b.waits = []) (kind : Nat) : s.cmdAsk g id m c slot kind = s.cmdAsked g id (cmdScb m c) b slot := by
  obtain ⟨hbw, hbws⟩ := hb
  have hscb : (s.progress g id (fun p => { p with stage := 1 })).scb (cmdScb m c) = s.scb (cmdScb m c) := (State.InRegions.progress ..).scb _
  have heffect : (s.progress g id (fun p => { p with stage := 1 })).askStream (cmdScb m c) (.cmd g id) (frameOff c) slot
      = s.cmdAsked g id (cmdScb m c) b slot := by
    rw [State.askStream_done _ (by rwa [hscb]) (by rwa [hscb]) hbw hbws, State.askDone, State.scb_setScb_self]
    rfl
  obtain ⟨hdone, -, -⟩ := State.cmd_cmdAsked hhere (cmdScb m c) b slot
  simp only [State.cmdAsk, hstage, bne_self_eq_false, Bool.false_eq_true, if_false, heffect, hdone, if_true]

end

/-! ### What each command makes of a control block -/

section
variable {b : Scb} {n o : Nat}

theorem lowest_none {p q : Bool} (hp : p = false) (hq : q = false) (e f : Byte) : lowest [(p, e), (q, f)] = none := by
  rw [hp, hq]
  rfl

theorem Scb.rewind_shut (h : b.shut = true) : b.rewind n o = .error Cause.streamClosed := if_pos h

theorem Scb.rewind_moves {r : Reader} (hlive : b.shut = false) (hr : Tab.get b.readers n = some r) (hrel : before o r.rel = false)
    (hpos : after o r.pos = false) : b.rewind n o = .ok { b with readers := Tab.set b.readers n { r with pos := o } } := by
  fun_cases Scb.rewind b n o with
  | case1 hshut => cases hlive.symm.trans hshut
  | case2 _ hnone => cases hr.symm.trans hnone
  | case3 _ r' hr' e he =>
    cases hr.symm.trans hr'
    cases (lowest_none hrel hpos _ _).symm.trans he
  | case4 _ r' hr' =>
    cases hr.symm.trans hr'
    rfl

theorem Scb.attach_free {agent : Nat} (h : Tab.has b.readers n = false) :
    b.attach n agent = some { b with readers := Tab.set b.readers n ⟨agent, b.tail, b.tail⟩ } := if_neg (by simp [h])

theorem Scb.attach_taken {agent : Nat} (h : Tab.has b.readers n = true) : b.attach n agent = none := if_pos h

end

section
variable {s : State} {g : RegionNo} {id : Nat} {m : Cmd} {c : Frame} (h : Claims.Runs s g id m)
include h

/-- `sopen` with nothing against it: a new control block, and the ports bound to the stream work as from their first activation. -/
theorem execSopen_opens (hok : openFault (s.scb (cmdScb m c)) (s.grant g m.x) (c.handle.toNat % 4096) (c.cf.getLsbD 0) (c.w0.toNat % 64)
      (c.w0.toNat / 64 % 16) (frameAddr c) = none) :
    execSopen c s = .next (((s.setScb (cmdScb m c)
      { prod := if c.handle.toNat % 4096 = 4095 then 0xFF else g.toNat, owner := m.ctxid, state := 1, auto := c.cf.getLsbD 0,
        k := c.w0.toNat % 64, wlog := c.w0.toNat / 64 % 16, bk := clsOf (frameAddr c) == 0xC, base := frameAddr c % 2 ^ 57, greg := g,
        lease := (s.grant g m.x).lease, lbase := (s.grant g m.x).base, opens := (s.scb (cmdScb m c)).opens + 1 }).freshPorts m.ctxid
        (c.handle.toNat % 4096)).endCmd g id 0 0) := by
  simp only [execSopen, State.runCmd_of_runs h, hok, beq_iff_eq, regionAgent]

theorem execSopen_fails {e : Byte} (hbad : openFault (s.scb (cmdScb m c)) (s.grant g m.x) (c.handle.toNat % 4096) (c.cf.getLsbD 0)
      (c.w0.toNat % 64) (c.w0.toNat / 64 % 16) (frameAddr c) = some e) : execSopen c s = .next (s.failCmd g id e) := by
  simp only [execSopen, State.runCmd_of_runs h, hbad]

theorem execSclose_shut (hshut : (s.scb (cmdScb m c)).shut = true) : execSclose c s = .next (s.failCmd g id Cause.streamClosed) := by
  simp only [execSclose, State.runCmd_of_runs h, hshut, if_true]

theorem execSclose_ends (hopen : (s.scb (cmdScb m c)).state = 1) (hend : c.cf.getLsbD 0 = true) :
    execSclose c s = .next ((s.changeScb (cmdScb m c) { s.scb (cmdScb m c) with state := 2 }).endCmd g id 0 2) := by
  have hlive : (s.scb (cmdScb m c)).shut = false := Scb.shut_of_live (by simp [hopen])
  simp [execSclose, State.runCmd_of_runs h, hlive, hend, hopen]

section
variable (hlive : (s.scb (cmdScb m c)).shut = false) (hclose : c.cf.getLsbD 0 = false)
include hlive hclose

/-- Closing waits while a copy has written part of its chunk to the stream (log 74). -/
theorem execSclose_waits (hgoing : s.chunkGoing (cmdScb m c) = true) : execSclose c s = .next s := by
  simp only [execSclose, State.runCmd_of_runs h, hlive, hclose, hgoing, Bool.not_false, Bool.and_self, Bool.false_eq_true, if_false, if_true]

theorem execSclose_closes (hgoing : s.chunkGoing (cmdScb m c) = false) :
    execSclose c s = .next ((s.changeScb (cmdScb m c) (s.scb (cmdScb m c)).close).endCmd g id 0 4) := by
  simp only [execSclose, State.runCmd_of_runs h, hlive, hclose, hgoing, Bool.not_false, Bool.and_false, Bool.false_eq_true, if_false]
  rfl

end

theorem execSpublish_takesEffect (hstage : m.prog.stage = 0) {b : Scb} (hask : (s.scb (cmdScb m c)).ask 8 (frameOff c) = .done b)
    (hquiet : (s.scb (cmdScb m c)).waiting = []) (hb : b.waiting = [] ∧ b.waits = []) :
    execSpublish c s = .next (s.cmdAsked g id (cmdScb m c) b 8) :=
  (State.runCmd_of_runs h _).trans (congrArg _ (State.cmdAsk_takesEffect h.here hstage hask hquiet hb 2))

theorem execSrelease_takesEffect (hstage : m.prog.stage = 0) {b : Scb} (hask : (s.scb (cmdScb m c)).ask (c.w2.toNat % 8) (frameOff c) = .done b)
    (hquiet : (s.scb (cmdScb m c)).waiting = []) (hb : b.waiting = [] ∧ b.waits = []) :
    execSrelease c s = .next (s.cmdAsked g id (cmdScb m c) b (c.w2.toNat % 8)) :=
  (State.runCmd_of_runs h _).trans (congrArg _ (State.cmdAsk_takesEffect h.here hstage hask hquiet hb 3))

theorem execSrewind_fails {e : Byte} (hbad : (s.scb (cmdScb m c)).rewind (c.w2.toNat % 8) (frameOff c) = .error e) :
    execSrewind c s = .next (s.failCmd g id e) := by
  simp only [execSrewind, State.runCmd_of_runs h, hbad]

theorem execSrewind_moves {b : Scb} (hok : (s.scb (cmdScb m c)).rewind (c.w2.toNat % 8) (frameOff c) = .ok b) :
    execSrewind c s = .next ((s.changeScb (cmdScb m c) b).endCmd g id 0 (frameOff c)) := by
  simp only [execSrewind, State.runCmd_of_runs h, hok]

/-- `sstat` without an image answers at once. -/
theorem execSstat_answers (hstage : m.prog.stage = 0) (hnone : frameAddr c = 0) :
    execSstat c s = .next (s.endCmd g id 0 (s.scb (cmdScb m c)).statValue) := by
  simp [execSstat, State.runCmd_of_runs h, hstage, hnone]

theorem execSbind_shut (hshut : (s.scb (cmdScb m c)).shut = true) : execSbind c s = .next (s.failCmd g id Cause.streamClosed) := by
  simp only [execSbind, State.runCmd_of_runs h, hshut, if_true]

section
variable (hlive : (s.scb (cmdScb m c)).shut = false)
include hlive

theorem execSbind_attaches (hcf : c.cf = 0) {b : Scb} (hok : (s.scb (cmdScb m c)).attach (c.w0.toNat % 8) g.toNat = some b) :
    execSbind c s = .next ((s.changeScb (cmdScb m c) b).endCmd g id 0 (c.w0.toNat % 8)) := by
  simp [execSbind, State.runCmd_of_runs h, hlive, hcf, Scb.bind, regionAgent, hok]

theorem execSbind_refuses (hcf : c.cf = 0) (hbad : (s.scb (cmdScb m c)).attach (c.w0.toNat % 8) g.toNat = none) :
    execSbind c s = .next (s.failCmd g id Cause.cmdInvalid) := by
  simp [execSbind, State.runCmd_of_runs h, hlive, hcf, Scb.bind, regionAgent, hbad]

theorem execSbind_detaches (hcf : c.cf = 1) :
    execSbind c s = .next ((s.changeScb (cmdScb m c) ((s.scb (cmdScb m c)).detach (c.w0.toNat % 8))).endCmd g id 0 (c.w0.toNat % 8)) := by
  simp [execSbind, State.runCmd_of_runs h, hlive, hcf, Scb.bind]

end

end

theorem Scb.statValue_eq (b : Scb) : b.statValue = if b.state = 0 then 0 else
    b.state % 8 * 2 ^ 29 + b.free % 2 ^ 13 * 2 ^ 16
      + ((List.range 8).filter (fun i => Tab.has b.readers i)).foldl (fun a i => a + 2 ^ i) 0 * 2 ^ 8
      + min (b.waits.filter b.stillWaits).length 255 := by
  simp only [Scb.statValue, beq_iff_eq]
  rfl

/-- VALUE is the low word of what the command asked for. -/
theorem ofNat_askValue_publish (b : Scb) : BitVec.ofNat 32 (b.askValue 8) = BitVec.ofNat 32 b.hwm :=
  BitVec.eq_of_toNat_eq (by simp [Scb.askValue])

/-- Settles O33: each command by what it makes of the control block, or by the check that it fails. -/
theorem streamCommandsHaveTheirEffect : Obligations.StreamCommandsHaveTheirEffect := by
  unfold Obligations.StreamCommandsHaveTheirEffect
  intro s g id m c key b six gr base off k wlog runs
  have hopen (h0 : b.state ≠ 0) (h4 : b.state ≠ 4) : b.shut = false := Scb.shut_of_not_closed (fun h => h.elim h0 h4)
  refine ⟨fun hok h => execSopen_opens h hok, fun e hbad h => execSopen_fails h hbad, fun _ _ hend hstate h => execSclose_ends h hstate hend,
    fun h0 h4 hclose hgoing h => execSclose_waits h (hopen h0 h4) hclose hgoing,
    fun h0 h4 hclose hgoing h => execSclose_closes h (hopen h0 h4) hclose hgoing, ?shut, ?publish, ?release, ?rewind, ?stat,
    fun hlive hcf hfree h => execSbind_attaches h (Scb.shut_of_live hlive) hcf (Scb.attach_free hfree),
    fun hlive hcf htaken h => execSbind_refuses h (Scb.shut_of_live hlive) hcf (Scb.attach_taken htaken),
    fun hlive hcf h => execSbind_detaches h (Scb.shut_of_live hlive) hcf⟩
  case shut =>
    intro hstate
    have hshut : b.shut = true := Scb.shut_iff.2 hstate
    exact ⟨fun h => execSclose_shut h hshut, fun h => execSrewind_fails h (Scb.rewind_shut hshut), fun h => execSbind_shut h hshut⟩
  case publish =>
    intro hstage hauto hstate hnew hroom hwaiting hwaits h
    have hask := Scb.publish_takesEffect hauto hstate hnew hroom
    obtain ⟨hdone, hcause, hvalue⟩ := State.cmd_cmdAsked h.here key { b with hwm := off } 8
    exact ⟨_, execSpublish_takesEffect h hstage hask hwaiting ⟨hwaiting, hwaits⟩, by rw [State.scb_cmdAsked], hdone, hcause,
      hvalue.trans (ofNat_askValue_publish _)⟩
  case release =>
    intro r hstage hlive hr hnew hroom hwaiting hwaits h
    have hask := Scb.release_takesEffect (m := c.w2.toNat % 8) (by omega) hlive hr hnew hroom
    obtain ⟨hw, hws, hreaders⟩ := Scb.retail_keeps { b with readers := Tab.set b.readers (c.w2.toNat % 8) (r.released off) }
    obtain ⟨hdone, hcause, -⟩ := State.cmd_cmdAsked h.here key
      ({ b with readers := Tab.set b.readers (c.w2.toNat % 8) (r.released off) } : Scb).retail (c.w2.toNat % 8)
    refine ⟨_, execSrelease_takesEffect h hstage hask hwaiting ⟨hw.trans hwaiting, hws.trans hwaits⟩, ?_, hdone, hcause⟩
    rw [State.scb_cmdAsked, hreaders, Tab.get_set_self]
    rfl
  case rewind =>
    intro r hlive hr hrel hpos h
    exact execSrewind_moves h (Scb.rewind_moves (Scb.shut_of_live hlive) hr hrel hpos)
  case stat =>
    intro hstage hnone h
    exact (execSstat_answers h hstage hnone).trans (by rw [Scb.statValue_eq])

end Sys2Proof.Machine

/-! ## Edge ports bound to a stream (07 R214; 09 R229, R230) -/

namespace Sys2Proof.Machine

/-! ### Ports and channels beside what changes -/

/-- Threads alone differ: the ports and the channels of the region, the streams, memory and the banks are as they were. -/
structure State.OnlyThreads (g : RegionNo) (s t : State) : Prop where
  within : s.InRegions t
  ports  : (t.core g).ports = (s.core g).ports
  chans  : (t.core g).chans = (s.core g).chans

section
variable {s t u : State} {g : RegionNo}

theorem State.OnlyThreads.refl (g : RegionNo) (s : State) : State.OnlyThreads g s s := ⟨.refl s, rfl, rfl⟩

theorem State.OnlyThreads.trans (h : State.OnlyThreads g s t) (h' : State.OnlyThreads g t u) : State.OnlyThreads g s u :=
  ⟨h.within.trans h'.within, h'.ports.trans h.ports, h'.chans.trans h.chans⟩

theorem State.OnlyThreads.stamp (s : State) (g : RegionNo) : State.OnlyThreads g s (s.stamp g) :=
  ⟨.setReg .., by rw [State.core_stamp], by rw [State.core_stamp]⟩

theorem State.OnlyThreads.bump (s : State) (g : RegionNo) (x : CtxNo) (k : BitVec 4) : State.OnlyThreads g s (s.bump g x k) := by
  unfold State.bump
  exact ⟨⟨_, rfl⟩, by rw [State.core_updThread], by rw [State.core_updThread]⟩

theorem State.OnlyThreads.bumps (s : State) (g : RegionNo) (arms : Tab Nat) : State.OnlyThreads g s (arms.foldl (fun s a =>
    if (s.thread g (BitVec.ofNat 2 a.1)).live then s.bump g (BitVec.ofNat 2 a.1) (BitVec.ofNat 4 a.2) else s) s) := by
  induction arms generalizing s with
  | nil => exact .refl g s
  | cons a arms ih =>
    refine State.OnlyThreads.trans ?_ (ih _)
    dsimp only
    split
    · exact .bump ..
    · exact .refl g s

/-- The counters armed on a port are registers of threads (10 R249). -/
theorem State.OnlyThreads.countPort (s : State) (g : RegionNo) (p : Nat) (k : TokKind) : State.OnlyThreads g s (s.countPort g p k) :=
  (State.OnlyThreads.stamp s g).trans (.bumps ..)

theorem State.port_updPort (s : State) (g : RegionNo) (p : Nat) (f : EdgePort → EdgePort) :
    (Tab.getD ((s.updPort g p f).core g).ports p : EdgePort) = f (Tab.getD (s.core g).ports p) := by
  rw [State.updPort, State.core_updCore_self]
  exact Tab.getD_upd_self ..

theorem State.chans_updPort (s : State) (g : RegionNo) (p : Nat) (f : EdgePort → EdgePort) :
    ((s.updPort g p f).core g).chans = (s.core g).chans := by
  rw [State.updPort, State.core_updCore_self]

theorem State.ports_updChan (s : State) (g : RegionNo) (n : Nat) (f : Chan → Chan) :
    ((s.updChan g n f).core g).ports = (s.core g).ports := by
  rw [State.core_updChan]

/-- A token that leaves its channel at a port leaves the streams as they are, and of the port all but its wait. -/
theorem State.portPull_keeps (s : State) (g : RegionNo) (p n : Nat) (k : TokKind) : s.InRegions (s.portPull g p n k)
    ∧ (Tab.getD ((s.portPull g p n k).core g).ports p : EdgePort) = { (Tab.getD (s.core g).ports p : EdgePort) with wait := none } := by
  have hcount := State.OnlyThreads.countPort ((s.updChan g n Chan.pull).updPort g p (fun e => { e with wait := none })) g p k
  refine ⟨State.InRegions.trans ⟨_, rfl⟩ hcount.within, ?_⟩
  rw [State.portPull, hcount.ports, State.port_updPort, State.ports_updChan]

end

/-! ### The lines of a port's access (09 R229, R230) -/

section
variable {six win off n : Nat} {q : EAcc}

/-- The accesses of a read carry no data. -/
theorem ringAccs_read (h : q ∈ ringAccs six win off n none) : q.wr = none := by
  obtain ⟨r, -, rfl⟩ := List.mem_map.1 h
  rfl

theorem cutWrites_new {ps : List (Nat × Nat)} {bs : List Byte} (h : q ∈ cutWrites ps bs) : q.got = none := by
  induction ps generalizing bs with
  | nil => cases h
  | cons p ps ih =>
    rcases List.mem_cons.1 h with rfl | h
    · rfl
    · exact ih h

/-- Those of a write have not performed as they are formed. -/
theorem ringAccs_write {bs : List Byte} (h : q ∈ ringAccs six win off n (some bs)) : q.got = none := cutWrites_new h

end

section
variable {w : PortAcc} {es : List EAcc} {q q' : EAcc}

theorem PortAcc.mem_todo : q ∈ w.todo es ↔ q ∈ es ∧ w.io.any (fun e => e.same q && e.got.isSome) = false := by
  simp only [PortAcc.todo, List.mem_filter, Bool.not_eq_true']

/-- A line that has started has still to perform. -/
theorem PortAcc.todo_put_started (h : q ∈ w.todo es) (hnew : q'.got = none) : (w.put q').todo es ≠ [] := by
  obtain ⟨hmem, hundone⟩ := PortAcc.mem_todo.1 h
  refine List.ne_nil_of_mem (PortAcc.mem_todo.2 ⟨hmem, ?_⟩)
  rw [PortAcc.put, List.any_append, Bool.or_eq_false_iff]
  refine ⟨List.any_eq_false.2 fun e he => List.any_eq_false.1 hundone e (List.mem_of_mem_filter he), ?_⟩
  simp [hnew]

end

section
variable {s t : State} {g : RegionNo} {who : Agent} {b : Scb} {w : PortAcc} {elem : Nat} {q q' : EAcc}

theorem State.ownedOk_bank {pl : Place} (h : pl.bank = true) : s.ownedOk pl = true := by simp [State.ownedOk, h]

/-- A line of a ring in a bank starts: its place is that of its ring byte. -/
theorem State.ringOne_starts (hbk : b.bk = true) (hnew : w.io.find? q.same = none) : s.ringOne g who b w elem q
    = (s, .ok { q with pl := b.bankAt (q.addr % 2 ^ 48 % b.win), va := b.base + q.addr % 2 ^ 48 % b.win, opens := b.opens }) := by
  simp only [State.ringOne, hnew, State.ringPlace_bank hbk]

section
variable (hstarted : w.io.find? q.same = some q') (hbank : q'.pl.bank = true)
include hstarted hbank

theorem State.ringOne_reads (hwr : q.wr = none) (hclean : s.spoiled q'.pl q'.n false = false) :
    s.ringOne g who b w elem q = (s, .ok { q' with got := some (s.readPlace q'.pl q'.n) }) := by
  simp [State.ringOne, hstarted, State.ownedOk_bank hbank, hwr, hclean, State.ioEffect]

theorem State.ringOne_writes {d : List Byte} (hwr : q.wr = some d) (hclean : s.spoiled q'.pl q'.n true = false) :
    s.ringOne g who b w elem q = (s.writePlace q'.pl d, .ok { q' with got := some [] }) := by
  simp [State.ringOne, hstarted, State.ownedOk_bank hbank, hwr, hclean, State.ioEffect]

end

/-- A line of a port's access has acted: it stands so in the access, and the port waits for nothing. -/
def State.putLine (s : State) (g : RegionNo) (p : Nat) (w : PortAcc) (q : EAcc) : State :=
  (s.stamp g).updPort g p (fun e => { e with work := some (w.put q), wait := none })

theorem State.work_putLine (s : State) (g : RegionNo) (p : Nat) (w : PortAcc) (q : EAcc) :
    (Tab.getD ((s.putLine g p w q).core g).ports p : EdgePort).work = some (w.put q) := by
  rw [State.putLine, State.port_updPort]

theorem State.scb_putLine (s : State) (g : RegionNo) (p : Nat) (w : PortAcc) (q : EAcc) (k : Nat) : (s.putLine g p w q).scb k = s.scb k := rfl

/-- The one line that has still to perform acts. -/
theorem State.portLine_one {p key : Nat} {x : CtxNo} {es : List EAcc} {wr : Bool} (hone : w.todo es = [q])
    (hplain : wr = true → (s.scb key).auto = false)
    (hacts : s.ringOne g who (s.scb key) w (streamAddr (key % 4096) w.off) q = (t, .ok q')) :
    s.portLine g p x who key w es wr = t.putLine g p w q' := by
  have hroom : (wr && (s.scb key).auto) = false := by
    cases hwr : wr with
    | false => rfl
    | true => exact hplain hwr
  have hpick : s.pick 1 = (0, s) := rfl
  simp only [State.portLine, hone, List.length_singleton, beq_self_eq_true, Bool.and_true, hroom, Bool.false_and, Bool.false_eq_true, if_false,
    hpick, List.getElem?_cons_zero, hacts]
  rfl

end

/-! ### Read-bound ports -/

/-- A read-bound port of KIND 2 at work: the channel that it feeds, and the reader slot of its region at its stream (07 R214). -/
structure State.ReadPort (s : State) (g : RegionNo) (p : Nat) (e : EdgePort) (n : Nat) (c : Chan) (i : Nat) (r : Reader) : Prop where
  port    : (Tab.getD (s.core g).ports p : EdgePort) = e
  kind    : e.kind = 2
  reads   : e.arg.getLsbD 16 = false
  going   : e.stopped = false
  present : e.parked = none
  feeds   : (s.core g).chanFrom p = some (n, c)
  slot    : (s.scb (s.portScb e)).readers.find? (fun r => r.2.agent == regionAgent g) = some (i, r)

/-- The channel of a port takes a vector token now (01 R38, R46; 10 R252, R258). -/
structure State.TakesVector (s : State) (g : RegionNo) (c : Chan) : Prop where
  moves : s.portMoves g c.desc = true
  rmark : c.rmark = []
  jout  : c.jout = []
  ready : c.open_ = true
  room  : c.sfifo.length ≤ 4

theorem State.TakesVector.takes {s : State} {g : RegionNo} {c : Chan} (h : s.TakesVector g c) :
    c.takes { (default : Token) with form := .vector } = true := by
  rw [Chan.takes, h.ready, Bool.true_and, decide_eq_true_iff]
  exact Nat.add_le_add_right h.room 4

/-- The token of a read sent on its channel, and the reader's position moved with its control block. -/
def State.portSent (s : State) (g : RegionNo) (p n key : Nat) (b : Scb) (t : Token) : State :=
  (((s.setScb key b).updPort g p (fun e => { e with work := none, wait := none })).updChan g n (fun c => c.place n s.tick t)).countPort g p t.kind

theorem Chan.sfifo_place {c : Chan} {t : Token} (h : t.kind = .data) (n tid : Nat) :
    (c.place n tid t).sfifo.length = c.sfifo.length + flitsOf t := by
  simp [Chan.place, h, flitsFor]

theorem State.portSent_spec (s : State) (g : RegionNo) (p n key : Nat) (b : Scb) {t : Token} (h : t.kind = .data) :
    let u := s.portSent g p n key b t
    u.scb key = b ∧ (Tab.getD (u.core g).chans n : Chan).sfifo.length = (Tab.getD (s.core g).chans n : Chan).sfifo.length + flitsOf t
      ∧ (Tab.getD (u.core g).ports p : EdgePort).work = none ∧ u.banks = s.banks ∧ u.mem = s.mem := by
  have hcount := State.OnlyThreads.countPort (((s.setScb key b).updPort g p (fun e => { e with work := none, wait := none })).updChan g n
    (fun c => c.place n s.tick t)) g p t.kind
  refine ⟨(hcount.within.scb key).trans State.scb_setScb_self, ?_, ?_, hcount.within.banks, hcount.within.mem⟩
  · rw [State.portSent, hcount.chans, State.core_updChan]
    dsimp only
    rw [Tab.getD_upd_self, Chan.sfifo_place h, State.chans_updPort, State.core_setScb]
  · rw [State.portSent, hcount.ports, State.ports_updChan, State.port_updPort]

section
variable {s : State} {g : RegionNo} {port : BitVec 6} {e : EdgePort} {n : Nat} {c : Chan} {i : Nat} {r : Reader}
  (h : s.ReadPort g port.toNat e n c i r)
include h

/-- The next 128 bytes of the reader are admitted. -/
theorem execEdgePortStreamRead_admits {ring : Nat} (hwork : e.work = none) (hroom : s.TakesVector g c)
    (hin : after (offAdd r.pos 128) (s.scb (s.portScb e)).hwm = false) (hread : (s.scb (s.portScb e)).read r.pos 128 = .perform ring) :
    execEdgePortStreamRead g port s = .next ((s.stamp g).updPort g port.toNat (fun q =>
      { q with work := some { off := r.pos, n := 128, opens := (s.scb (s.portScb e)).opens }, wait := none })) := by
  obtain ⟨hport, hkind, hreads, hgoing, hpresent, hfeeds, hslot⟩ := h
  have htakes := hroom.takes
  obtain ⟨hmoves, hrmark, hjout, -, -⟩ := hroom
  simp only [execEdgePortStreamRead, hport, hkind, hreads, hgoing, hpresent, hfeeds, hslot, hwork, hin, hread, hmoves, hrmark, hjout, htakes,
    bne_self_eq_false, Option.isSome_none, Bool.or_self, Bool.false_eq_true, if_false, if_true, List.isEmpty_nil, Bool.and_self]

section
variable {w : PortAcc} {es : List EAcc} (hwork : e.work = some w) (hkept : (s.scb (s.portScb e)).gone w = false) (hpos : r.pos = w.off)
  (hes : ringAccs (s.portScb e % 4096) (s.scb (s.portScb e)).win w.off w.n none = es)
include hwork hkept hpos hes

theorem execEdgePortStreamRead_goesOn (htodo : w.todo es ≠ []) : execEdgePortStreamRead g port s
    = .next (s.portLine g port.toNat (dCTX c.desc) (.event (.edgePortStreamRead g port)) (s.portScb e) w es false) := by
  obtain ⟨hport, hkind, hreads, hgoing, hpresent, hfeeds, hslot⟩ := h
  have hsome : (w.todo es).isEmpty = false := by simpa using htodo
  simp only [execEdgePortStreamRead, hport, hkind, hreads, hgoing, hpresent, hfeeds, hslot, hwork, hkept, hpos, hes, hsome,
    bne_self_eq_false, Option.isSome_none, Bool.or_self, Bool.false_eq_true, if_false, if_true, Bool.not_false]

theorem execEdgePortStreamRead_sends (htodo : w.todo es = []) (hroom : s.TakesVector g c) : execEdgePortStreamRead g port s
    = .next ((s.portToken .data .vector (dCTX c.desc) (lineOf (w.got es))).1.portSent g port.toNat n (s.portScb e)
        { s.scb (s.portScb e) with readers := Tab.upd (s.scb (s.portScb e)).readers i (fun r => { r with pos := offAdd w.off w.n }) }
        (s.portToken .data .vector (dCTX c.desc) (lineOf (w.got es))).2) := by
  obtain ⟨hport, hkind, hreads, hgoing, hpresent, hfeeds, hslot⟩ := h
  have htakes := hroom.takes
  obtain ⟨hmoves, hrmark, hjout, -, -⟩ := hroom
  simp only [execEdgePortStreamRead, hport, hkind, hreads, hgoing, hpresent, hfeeds, hslot, hwork, hkept, hpos, hes, htodo, hmoves, hrmark,
    hjout, htakes, bne_self_eq_false, Option.isSome_none, Bool.or_self, Bool.false_eq_true, if_false, if_true, List.isEmpty_nil, Bool.not_true,
    Bool.and_self]
  rfl

end

end

/-! ### Write-bound ports -/

theorem portBytes_eq (t : Token) :
    portBytes t = natToBytes (if t.form = .vector then 128 else if t.form = .tile then 8 else 4) t.pay.toNat := by
  unfold portBytes
  cases t.form <;> rfl

theorem Scb.gone_of_kept {b : Scb} {w : PortAcc} (hopens : w.opens = b.opens) (hlive : b.state ∈ [1, 2, 3]) : b.gone w = false := by
  simp [Scb.gone, Scb.shut_of_live hlive, hopens]

theorem State.scb_writePlace_bank {s : State} {pl : Place} (h : pl.bank = true) (d : List Byte) (k : Nat) :
    (s.writePlace pl d).scb k = s.scb k := by
  rw [State.writePlace_bank h]
  rfl

/-- A port that has asked for a publish. -/
def State.portAsks (s : State) (g : RegionNo) (p : Nat) : State := s.updPort g p (fun e => { e with ask := 1 })

/-- A marker is pulled, and the port asks for nothing. -/
def State.markerPulled (s : State) (g : RegionNo) (p n : Nat) : State := (s.updPort g p (fun e => { e with ask := 0 })).portPull g p n .marker

section
variable {s : State} {g : RegionNo} {port : BitVec 6} {e : EdgePort} {n : Nat} {t : Token} {x : CtxNo}
  (h : s.writePort g port.toNat = some (e, n, t, x))
include h

section
variable (hdata : t.kind = .data)
include hdata

/-- The write of a data token is admitted at the write offset. -/
theorem execEdgePortStreamWrite_admits {off ring : Nat} (hoff : (if e.wset then e.woff else (s.scb (s.portScb e)).hwm) = off)
    (hwork : e.work = none) (htry : (s.scb (s.portScb e)).tryWrite (.port g port.toNat) off (portBytes t).length = .perform ring)
    (hturn : (s.scb (s.portScb e)).overtaken (.port g port.toNat) = false) : execEdgePortStreamWrite g port s
    = .next ((((s.updPort g port.toNat (fun q => { q with woff := off, wset := true })).clearWait (s.portScb e) (.port g port.toNat)).stamp g).updPort
        g port.toNat (fun q =>
          { q with work := some { off := off, n := (portBytes t).length, opens := (s.scb (s.portScb e)).opens }, wait := none })) := by
  simp only [execEdgePortStreamWrite, h, hdata, hwork, hoff, htry, hturn, Bool.false_eq_true, if_false]
  rfl

section
variable {w w' : PortAcc} {es : List EAcc} {u : State} (hwork : e.work = some w) (hkept : (s.scb (s.portScb e)).gone w = false)
  (hes : ringAccs (s.portScb e % 4096) (s.scb (s.portScb e)).win w.off w.n (some (portBytes t)) = es) (htodo : w.todo es ≠ [])
  (hline : s.portLine g port.toNat x (.event (.edgePortStreamWrite g port)) (s.portScb e) w es true = u)
  (hput : (Tab.getD (u.core g).ports port.toNat : EdgePort).work = some w')
include hwork hkept hes htodo hline hput

theorem execEdgePortStreamWrite_goesOn (hmore : w'.todo es ≠ []) : execEdgePortStreamWrite g port s = .next u := by
  have hsome : (w.todo es).isEmpty = false := by simpa using htodo
  have hsome' : (w'.todo es).isEmpty = false := by simpa using hmore
  simp only [execEdgePortStreamWrite, h, hdata, hwork, hkept, hes, hsome, Bool.false_eq_true, if_false, hline, hput, hsome', Bool.not_false, if_true]
  rfl

/-- With its last line the write offset moves past the token, which is pulled. -/
theorem execEdgePortStreamWrite_ends (hlast : w'.todo es = []) (hplain : (u.scb (s.portScb e)).auto = false) : execEdgePortStreamWrite g port s
    = .next (((u.clearWait (s.portScb e) (.port g port.toNat)).updPort g port.toNat (fun q =>
        { q with woff := offAdd w'.off w'.n, work := none })).portPull g port.toNat n .data) := by
  have hsome : (w.todo es).isEmpty = false := by simpa using htodo
  have hplain' : ((u.clearWait (s.portScb e) (.port g port.toNat)).scb (s.portScb e)).auto = false := by
    rwa [State.clearWait, State.scb_setScb_self]
  simp only [execEdgePortStreamWrite, h, hdata, hwork, hkept, hes, hsome, Bool.false_eq_true, if_false, hline, hput, hlast, List.isEmpty_nil,
    Bool.not_true, hplain']
  rfl

end

end

theorem execEdgePortMarkerPublish_waiting (hask : e.ask = 1) : execEdgePortMarkerPublish g port s = .next s := by
  simp [execEdgePortMarkerPublish, h, hask]

section
variable (hmark : t.kind = .marker)
include hmark

theorem execEdgePortMarkerPublish_pulls (hdone : e.ask = 2 ∨ (e.ask = 0 ∧ (s.scb (s.portScb e)).auto = true)) :
    execEdgePortMarkerPublish g port s = .next (s.markerPulled g port.toNat n) := by
  rcases hdone with hask | ⟨hask, hauto⟩
  · simp [execEdgePortMarkerPublish, h, hmark, hask, State.markerPulled]
  · simp [execEdgePortMarkerPublish, h, hmark, hask, hauto, State.markerPulled]

section
variable {u : State} (hask : e.ask = 0) (hplain : (s.scb (s.portScb e)).auto = false)
  (hasks : (s.portAsks g port.toNat).askStream (s.portScb e) (.port g port.toNat) e.woff 8 = u)
include hask hplain hasks

theorem execEdgePortMarkerPublish_publishes (hdone : (Tab.getD (u.core g).ports port.toNat : EdgePort).ask = 2) :
    execEdgePortMarkerPublish g port s = .next (u.markerPulled g port.toNat n) := by
  rw [State.portAsks] at hasks
  simp only [execEdgePortMarkerPublish, h, hmark, hask, hplain, hasks, hdone]
  rfl

theorem execEdgePortMarkerPublish_waits (hwaits : (Tab.getD (u.core g).ports port.toNat : EdgePort).ask = 1) :
    execEdgePortMarkerPublish g port s = .next (u.waitPort g port.toNat 2 (streamAddr (s.portScb e % 4096) e.woff)
      ((s.scb (s.portScb e)).waitsFor 2)) := by
  rw [State.portAsks] at hasks
  simp only [execEdgePortMarkerPublish, h, hmark, hask, hplain, hasks, hwaits]
  rfl

end

end

end

/-! ### Publishes of a port (07 R206) -/

section
variable {s : State} {key : Nat}

theorem Scb.publish_waits {b : Scb} {o : Nat} (hauto : b.auto = false) (hopen : b.state = 1) (hnew : after o b.hwm = true)
    (hfull : after o b.limit = true) : b.ask 8 o = .wait := by
  simp [Scb.ask, Scb.publish, hauto, hopen, hnew, hfull]

/-- A publish that has to wait is the only one at its control point, where nothing moves. -/
theorem State.askStream_waits {o : Nat} (who : Asker) (hwaiting : (s.scb key).waiting = []) (hauto : (s.scb key).auto = false)
    (hopen : (s.scb key).state = 1) (hnew : after o (s.scb key).hwm = true) (hfull : after o (s.scb key).limit = true) :
    s.askStream key who o 8 = s.setScb key { s.scb key with waiting := [(who, o, 8)] } := by
  have hask : (s.scb key).ask 8 o = .wait := Scb.publish_waits hauto hopen hnew hfull
  have honce : s.askOnce key (who, o, 8) = s.setScb key { s.scb key with waiting := [(who, o, 8)] } := by
    simp only [State.askOnce, hask, State.askLater, hwaiting, List.nil_append]
  have hstuck : ({ s.scb key with waiting := [(who, o, 8)] } : Scb).askNext = none := by
    have hready : ({ s.scb key with waiting := [(who, o, 8)] } : Scb).askReady (who, o, 8) = false := by
      have hagain : ({ s.scb key with waiting := [(who, o, 8)] } : Scb).ask 8 o = .wait := Scb.publish_waits hauto hopen hnew hfull
      simp only [Scb.askReady, hagain]
    simp [Scb.askNext, hready]
  simp only [State.askStream, hwaiting, List.any_nil, Bool.and_false, Bool.false_eq_true, if_false, honce]
  simp only [State.askSettle, State.scb_setScb_self, hstuck]

end

section
variable {s : State} {g : RegionNo} {p : Nat}

theorem State.markerPulled_keeps (s : State) (g : RegionNo) (p n : Nat) : s.InRegions (s.markerPulled g p n)
    ∧ (Tab.getD ((s.markerPulled g p n).core g).ports p : EdgePort).ask = 0 := by
  obtain ⟨hwithin, hport⟩ := State.portPull_keeps (s.updPort g p (fun e => { e with ask := 0 })) g p n .marker
  refine ⟨State.InRegions.trans ⟨_, rfl⟩ hwithin, ?_⟩
  rw [State.markerPulled, hport, State.port_updPort]

theorem State.scb_portAsks (s : State) (g : RegionNo) (p k : Nat) : (s.portAsks g p).scb k = s.scb k := rfl

section
variable {k o : Nat} (hauto : (s.scb k).auto = false) (hopen : (s.scb k).state = 1) (hnew : after o (s.scb k).hwm = true)
  (hquiet : (s.scb k).waiting = [])
include hauto hopen hnew hquiet

/-- The publish of a port within the window takes effect at once. -/
theorem State.portAsks_publishes (hroom : after o (s.scb k).limit = false) (hwaits : (s.scb k).waits = []) :
    let u := (s.portAsks g p).askStream k (.port g p) o 8
    (u.scb k).hwm = o ∧ (Tab.getD (u.core g).ports p : EdgePort).ask = 2 := by
  have hask : ((s.portAsks g p).scb k).ask 8 o = .done { s.scb k with hwm := o } := by
    rw [State.scb_portAsks]
    exact Scb.publish_takesEffect hauto hopen hnew hroom
  rw [State.askStream_done (.port g p) (by rwa [State.scb_portAsks]) hask hquiet hwaits]
  refine ⟨?_, ?_⟩
  · rw [(State.InRegions.askDone ..).scb, State.scb_setScb_self]
  · rw [State.askDone, State.port_updPort]

/-- One beyond it waits there. -/
theorem State.portAsks_waits (hfull : after o (s.scb k).limit = true) : let u := (s.portAsks g p).askStream k (.port g p) o 8
    u.scb k = { s.scb k with waiting := [(.port g p, o, 8)] } ∧ (Tab.getD (u.core g).ports p : EdgePort).ask = 1 := by
  have hscb := State.scb_portAsks s g p k
  rw [← hscb] at hquiet hauto hopen hnew hfull
  rw [State.askStream_waits (.port g p) hquiet hauto hopen hnew hfull]
  refine ⟨by rw [State.scb_setScb_self, hscb], ?_⟩
  rw [State.core_setScb, State.portAsks, State.port_updPort]

end

end

/-- Settles O32: a read-bound port by what of its access is left to do, a write-bound one by the token that stands before it. -/
theorem edgePortsFollowTheirStream : Obligations.EdgePortsFollowTheirStream := by
  unfold Obligations.EdgePortsFollowTheirStream
  intro s g port p e key b put place
  refine ⟨?reads, ?writes, ?markers⟩
  case reads =>
    intro n c i r hkind hreads hgoing hpresent hfeeds hslot room
    have h : s.ReadPort g p e n c i r := ⟨rfl, hkind, hreads, hgoing, hpresent, hfeeds, hslot⟩
    have hroom (hr : room) : s.TakesVector g c := by
      obtain ⟨hmoves, hrmark, hjout, hready, hlen⟩ := hr
      exact ⟨hmoves, hrmark, hjout, hready, hlen⟩
    refine ⟨fun ring hwork hr hin hread => execEdgePortStreamRead_admits h hwork (hroom hr) hin hread, ?_⟩
    intro w hwork hopens hlive hpos es
    have hkept : b.gone w = false := Scb.gone_of_kept hopens hlive
    refine ⟨fun q hone hbk => ?line, fun htodo hr => ?sends⟩
    case line =>
      have hstep := execEdgePortStreamRead_goesOn h hwork hkept hpos rfl (List.ne_nil_of_mem (hone ▸ List.mem_singleton_self q))
      have hacts {q' : EAcc} (hone' : s.ringOne g _ b w _ q = (s, .ok q')) : Claims.Next (exec (.edgePortStreamRead g port) s) (put w q' s) :=
        hstep.trans (congrArg _ (State.portLine_one hone nofun hone'))
      have hwr : q.wr = none := ringAccs_read (PortAcc.mem_todo.1 (hone ▸ List.mem_singleton_self q)).1
      exact ⟨fun hnew => hacts (State.ringOne_starts hbk hnew),
        fun q' hstarted hbank hclean => hacts (State.ringOne_reads hstarted hbank hwr hclean)⟩
    case sends =>
      obtain ⟨hscb, hsent, hwork', hbanks, hmem⟩ := State.portSent_spec (s.portToken .data .vector (dCTX c.desc) (lineOf (w.got es))).1 g p n key
        { b with readers := Tab.upd b.readers i (fun r => { r with pos := offAdd w.off w.n }) }
        (t := (s.portToken .data .vector (dCTX c.desc) (lineOf (w.got es))).2) rfl
      refine ⟨_, execEdgePortStreamRead_sends h hwork hkept hpos rfl htodo (hroom hr), ?_, hsent, hwork', hbanks, hmem⟩
      rw [hscb, Tab.get_upd_self]
      rfl
  case writes =>
    intro n t x h hdata bs off
    have hbs : portBytes t = bs := portBytes_eq t
    refine ⟨fun ring hwork htry hturn => ?admits, fun w hwork hopens hlive hauto => ?line⟩
    case admits =>
      rw [← hbs] at htry ⊢
      exact execEdgePortStreamWrite_admits h hdata rfl hwork htry hturn
    case line =>
      intro es last q hone hbk
      have hkept : b.gone w = false := Scb.gone_of_kept hopens hlive
      have hq : q ∈ w.todo es := hone ▸ List.mem_singleton_self q
      have hgot : q.got = none := ringAccs_write (PortAcc.mem_todo.1 hq).1
      have hes : ringAccs (key % 4096) b.win w.off w.n (some (portBytes t)) = es := by rw [hbs]
      have hline {q' : EAcc} {u : State} (hacts : s.ringOne g (.event (.edgePortStreamWrite g port)) b w (streamAddr (key % 4096) w.off) q
          = (u, .ok q')) : s.portLine g p x (.event (.edgePortStreamWrite g port)) key w es true = u.putLine g p w q' :=
        State.portLine_one hone (fun _ => hauto) hacts
      refine ⟨fun hnew => ?starts, fun q' d hstarted hwr hbank hclean => ?performs⟩
      case starts =>
        exact execEdgePortStreamWrite_goesOn h hdata hwork hkept hes (List.ne_nil_of_mem hq) (hline (State.ringOne_starts hbk hnew))
          (State.work_putLine ..) (PortAcc.todo_put_started hq hgot)
      case performs =>
        have hput := hline (State.ringOne_writes hstarted hbank hwr hclean)
        by_cases hlast : (w.put { q' with got := some [] }).todo es = []
        · have hplain : (((s.writePlace q'.pl d).putLine g p w { q' with got := some [] }).scb key).auto = false := by
            rwa [State.scb_putLine, State.scb_writePlace_bank hbank]
          exact (execEdgePortStreamWrite_ends h hdata hwork hkept hes (List.ne_nil_of_mem hq) hput (State.work_putLine ..) hlast hplain).trans
            (congrArg _ (if_pos hlast).symm)
        · exact (execEdgePortStreamWrite_goesOn h hdata hwork hkept hes (List.ne_nil_of_mem hq) hput (State.work_putLine ..) hlast).trans
            (congrArg _ (if_neg hlast).symm)
  case markers =>
    intro n t x h hmark pulled
    refine ⟨execEdgePortMarkerPublish_pulls h hmark, execEdgePortMarkerPublish_waiting h,
      fun hask hauto hopen hnew hroom hwaiting hwaits => ?publishes, fun hask hauto hopen hnew hfull hwaits hwaiting => ?waits⟩
    case publishes =>
      obtain ⟨hhwm, hdone⟩ := State.portAsks_publishes (g := g) (p := p) hauto hopen hnew hwaiting hroom hwaits
      obtain ⟨hwithin, hask'⟩ := State.markerPulled_keeps ((s.portAsks g p).askStream key (.port g p) e.woff 8) g p n
      exact ⟨_, execEdgePortMarkerPublish_publishes h hmark hask hauto rfl hdone, (congrArg Scb.hwm (hwithin.scb key)).trans hhwm, hask'⟩
    case waits =>
      obtain ⟨hscb, hask'⟩ := State.portAsks_waits (g := g) (p := p) hauto hopen hnew hwaiting hfull
      refine ⟨_, execEdgePortMarkerPublish_waits h hmark hask hauto rfl hask', ?_, ?_, ?_⟩
      · exact (congrArg Scb.hwm hscb :)
      · exact (congrArg Scb.waiting hscb :)
      · rw [State.waitPort, State.port_updPort]
        exact hask'

end Sys2Proof.Machine

/-! ## Accesses of a command at bank places (05 R138; 09 R229, R230, R234; log 6) -/

namespace Sys2Proof.Machine

section
variable {s t : State} {g : RegionNo} {id : Nat}

theorem State.cmd_of_regions (h : t.regions = s.regions) (g : RegionNo) (id : Nat) : t.cmd g id = s.cmd g id := by
  simp only [State.cmd, State.reg, h]

theorem State.core_of_regions (h : t.regions = s.regions) (g : RegionNo) : t.core g = s.core g := by
  simp only [State.core, State.reg, h]

/-- A part of a stage that is done has changed nothing. -/
theorem State.ioAll_ok {start : State → EAcc → State × Except Stop EAcc} {es : List EAcc} {bs : List Byte}
    (h : s.ioAll g id start es = (t, .ok bs)) : t = s := by
  unfold State.ioAll at h
  dsimp only at h
  split at h
  · exact (Prod.mk.inj h).1.symm
  · nomatch (Prod.mk.inj h).2

theorem State.eRead_ok {c : Cmd} {a n : Nat} {bs : List Byte} (h : s.eRead g id c a n = (t, .ok bs)) : t = s := State.ioAll_ok h

/-- An access of a bank address starts at its place. -/
theorem State.engStart_bank {who : Agent} {c : Cmd} {e : EAcc} {pl : Place} (hcls : clsOf e.addr = 0xC) (hbits : bits e.addr 24 59 = 0)
    (hpl : bankRange g (s.grant g c.x) (e.addr % 2 ^ 24) e.n = .ok pl) : s.engStart g who c e = (s, .ok { e with pl := pl, va := e.addr }) := by
  have hbank : (clsOf e.addr == 0xC) = true := beq_iff_eq.2 hcls
  simp only [State.engStart, classFault_bank hcls hbits, hbank, if_true, hpl]
  rfl

/-- The issue queue in which an access has performed and read those bytes. -/
def ioGot (q : EAcc) (bs : List Byte) (io : List EAcc) : List EAcc := io.map (fun e => if e.same q then { e with got := some bs } else e)

section
variable {q : EAcc} (hbank : q.pl.bank = true)
include hbank

theorem State.ioPerform_reads (hwr : q.wr = none) (hclean : s.spoiled q.pl q.n false = false) : s.ioPerform g id q
    = ((s.ownCxl s.cxl.length (g, (s.cmd g id).kernel)).updIo g id (ioGot q (s.readPlace q.pl q.n)), .hold) := by
  simp only [State.ioPerform, State.ownedOk_bank hbank, hwr, Option.isSome_none, hclean, State.ioEffect, Bool.not_true, Bool.false_and,
    Bool.false_eq_true, if_false]
  rfl

theorem State.ioPerform_writes {bs : List Byte} (hwr : q.wr = some bs) (hclean : s.spoiled q.pl q.n true = false) : s.ioPerform g id q
    = (((s.writePlace q.pl bs).ownCxl s.cxl.length (g, (s.cmd g id).kernel)).updIo g id (ioGot q []), .hold) := by
  have hcmd : (s.writePlace q.pl bs).cmd g id = s.cmd g id := State.cmd_of_regions (State.regions_writePlace ..) g id
  simp only [State.ioPerform, State.ownedOk_bank hbank, hwr, Option.isSome_some, hclean, State.ioEffect, hcmd, Bool.not_true, Bool.false_and,
    Bool.false_eq_true, if_false]
  rfl

end

/-- Once every access of a part stands in the issue queue, the part has started. -/
theorem State.ioReady_all {start : State → EAcc → State × Except Stop EAcc} {es : List EAcc}
    (h : ∀ e ∈ es, ((s.cmd g id).prog.find e).isSome = true) : s.ioReady g id start es = (s, .ok ()) := by
  have hnone : es.filter (fun e => ((s.cmd g id).prog.find e).isNone) = [] := by
    rw [List.filter_eq_nil_iff]
    intro e he
    simpa using Option.isSome_iff_ne_none.1 (h e he)
  simp only [State.ioReady, hnone]

end

/-! ## Copies (10 R240 to R247) -/

/-! ### The accesses of a chunk -/

section
variable {p : Prog}

theorem Prog.find_of_did {e : EAcc} (h : p.did e = true) : (p.find e).isSome = true := by
  cases hf : p.find e with
  | none => simp [Prog.did, hf] at h
  | some q => rfl

/-- Writes as they stand in the issue queue, with their data. -/
def Prog.queued (p : Prog) (es : List EAcc) : List EAcc := es.filterMap (fun e => (p.find e).map (fun q => { q with wr := e.wr }))

/-- Those that have still to perform are those of the writes that have not. -/
theorem Prog.queued_undone (p : Prog) (es : List EAcc) :
    (p.queued es).filter (fun q => q.got.isNone) = p.queued (es.filter (fun e => !p.did e)) := by
  induction es with
  | nil => rfl
  | cons e es ih =>
    simp only [Prog.queued] at ih ⊢
    cases hf : p.find e with
    | none => simp [Prog.did, hf, ih]
    | some q => cases hg : q.got <;> simp [Prog.did, hf, hg, ih]

theorem Prog.queued_one {e q : EAcc} (h : p.find e = some q) : p.queued [e] = [{ q with wr := e.wr }] := by
  simp [Prog.queued, h]

theorem openWrites_one (q : EAcc) : openWrites [] [q] = [q] := rfl

end

/-- The reads of a chunk carry no data, and the numbers of its elements. -/
theorem CopyDesc.mem_reads {d : CopyDesc} {code lo n : Nat} {tab : List Nat} {e : EAcc} (h : e ∈ d.reads code tab lo n) :
    e.wr = none ∧ e.tag < lo + n := by
  unfold CopyDesc.reads at h
  split at h
  · cases h
  · obtain ⟨i, hi, rfl⟩ := List.mem_map.1 h
    exact ⟨rfl, Nat.add_lt_add_left (List.mem_range.1 hi) lo⟩

theorem CopyDesc.reads_zero (d : CopyDesc) (code lo : Nat) (tab : List Nat) : d.reads code tab lo 0 = [] := by
  unfold CopyDesc.reads
  split <;> rfl

/-- The start of an access of an element at a bank address whose base is one too. -/
theorem State.copyStart_bank {s : State} {g : RegionNo} {id : Nat} {m : Cmd} {d : CopyDesc} {e : EAcc} {pl : Place} (hwr : e.wr = none)
    (hsrc : clsOf d.src = 0xC) (hcls : clsOf e.addr = 0xC) (hbits : bits e.addr 24 59 = 0)
    (hpl : bankRange g (s.grant g m.x) (e.addr % 2 ^ 24) e.n = .ok pl) :
    s.copyStart g id m d e = (s, .ok { e with pl := pl, va := e.addr }) := by
  have hsame : sameClass d.src e.addr = true := by rw [sameClass, hsrc, hcls]; rfl
  have hplain : (clsOf e.addr != 4) = true := by rw [hcls]; rfl
  simp only [State.copyStart, hwr, Option.isSome_none, Bool.false_eq_true, if_false, hsame, Bool.not_true, hplain, if_true,
    State.engStart_bank hcls hbits hpl]

section
variable {s : State} {g : RegionNo} {id : Nat} {m : Cmd} {d : CopyDesc} {e q : EAcc}

theorem State.copyRead_starts {pl : Place} (hnew : m.prog.find e = none) (hwr : e.wr = none) (hsrc : clsOf d.src = 0xC)
    (hcls : clsOf e.addr = 0xC) (hbits : bits e.addr 24 59 = 0) (hpl : bankRange g (s.grant g m.x) (e.addr % 2 ^ 24) e.n = .ok pl) :
    s.copyRead g id m d e = (s.updIo g id (fun io => io ++ [{ e with pl := pl, va := e.addr }]), .hold) := by
  simp only [State.copyRead, hnew, State.ioStart, State.copyStart_bank hwr hsrc hcls hbits hpl]

/-- A place in a bank is no ring that could have been given up. -/
theorem State.ringLost_bank (hcls : clsOf q.addr = 0xC) : s.ringLost m q = false := by
  simp [State.ringLost, hcls]

theorem State.copyRead_performs (hold : m.prog.find e = some q) (hcls : clsOf q.addr = 0xC) (hwr : q.wr = none) (hbank : q.pl.bank = true)
    (hclean : s.spoiled q.pl q.n false = false) : s.copyRead g id m d e
      = ((s.ownCxl s.cxl.length (g, (s.cmd g id).kernel)).updIo g id (ioGot q (s.readPlace q.pl q.n)), .hold) := by
  simp only [State.copyRead, hold, State.ringLost_bank hcls, Bool.false_eq_true, if_false, State.ioPerform_reads hbank hwr hclean]

/-- An access that has acted ends the step of its copy. -/
theorem State.copyStop_hold (t : State) (wr : Bool) : t.copyStop g id .hold wr = t := rfl

end

/-! ### The steps of a chunk (10 R244) -/

/-- A copy at its last chunk: its elements are the n from number lo. -/
structure Cmd.LastChunk (m : Cmd) (d : CopyDesc) (lo n : Nat) : Prop where
  stage : m.prog.stage = 2
  desc  : CopyDesc.of m.prog.hdr = d
  start : m.prog.chunk * d.per m.code = lo
  size  : min (d.per m.code) (d.total - lo) = n
  more  : lo < d.total
  last  : d.total ≤ lo + n

section
variable {s : State} {g : RegionNo} {id : Nat} {m : Cmd} {c : Frame} {d : CopyDesc} {lo n : Nat} (h : m.LastChunk d lo n)
include h

/-- What is left of the last chunk's reads is what the step may take up: nothing is read ahead. -/
theorem State.copyChunk_read {e : EAcc} {t : State}
    (hone : (d.reads m.code m.prog.tab lo n).filter (fun e => !m.prog.did e) = [e]) (hread : s.copyRead g id m d e = (t, .hold)) :
    s.copyChunk g id m c = t := by
  obtain ⟨-, hdesc, hstart, hsize, hmore, hlast⟩ := h
  have htag : e.tag < lo + n := (CopyDesc.mem_reads (List.mem_of_mem_filter (hone ▸ List.mem_singleton_self e))).2
  have hahead : min (d.per m.code) (d.total - (lo + n)) = 0 := by omega
  have hpick : s.pick ([e].length + ([] : List EAcc).length + 0) = (0, s) := rfl
  simp only [State.copyChunk, hdesc, hstart, hsize, Nat.not_le.2 hmore, if_false, hone, hahead, CopyDesc.reads_zero, List.filter_nil,
    List.isEmpty_cons, Bool.false_eq_true, hpick, List.append_nil, List.getElem?_cons_zero, hread, htag, if_true, State.copyStop_hold]

theorem State.copyChunk_out (hnone : (d.reads m.code m.prog.tab lo n).filter (fun e => !m.prog.did e) = []) :
    s.copyChunk g id m c = s.copyOut g id m c d lo n := by
  obtain ⟨-, hdesc, hstart, hsize, hmore, hlast⟩ := h
  have hahead : min (d.per m.code) (d.total - (lo + n)) = 0 := by omega
  have hpick : s.pick (([] : List EAcc).length + ([] : List EAcc).length + 1) = (0, s) := rfl
  simp only [State.copyChunk, hdesc, hstart, hsize, Nat.not_le.2 hmore, if_false, hnone, hahead, CopyDesc.reads_zero, List.filter_nil,
    List.isEmpty_nil, if_true, hpick, List.append_nil, List.getElem?_nil]

end

section
variable {s : State} {g : RegionNo} {id : Nat} {m : Cmd} {c : Frame} {d : CopyDesc} {lo n : Nat} {es : List EAcc}
  (hcmd : s.cmd g id = m)
  (hes : CopyDesc.pieces m.code lo (fun a => (s.scb (elemScb m.ctxid a)).win)
    (d.writes m.code c.w0.toNat m.prog.tab lo (m.chunkData d lo n c.w0.toNat)) = es)
include hes

/-- A stream refuses a write of the chunk before any of its writes has performed. -/
theorem State.copyOut_refused {f : Byte} (hdst : clsOf d.dst = 4) (hadm : m.prog.adm = false) (hfresh : ∀ w ∈ es, m.prog.did w = false)
    (hask : (s.chunkAsk m.ctxid [] (d.writes m.code c.w0.toNat m.prog.tab lo (m.chunkData d lo n c.w0.toNat))).1 = some f) :
    s.copyOut g id m c d lo n = s.copyStop g id (.fail f) true := by
  have hall : es.all (fun e => !m.prog.did e) = true := by simpa using hfresh
  obtain ⟨r, hr⟩ : ∃ r, s.chunkAsk m.ctxid [] (d.writes m.code c.w0.toNat m.prog.tab lo (m.chunkData d lo n c.w0.toNat)) = (some f, r) :=
    ⟨_, Prod.ext hask rfl⟩
  simp only [State.copyOut, hdst, hes, hall, hadm, hr, beq_self_eq_true, Bool.not_false, Bool.and_self, if_true]

include hcmd

/-- The one write at a bank place that has still to perform does so. -/
theorem State.copyOut_performs {e q : EAcc} {bs : List Byte} (hdst : clsOf d.dst = 0xC) (hready : ∀ w ∈ es, (m.prog.find w).isSome = true)
    (hone : es.filter (fun w => !m.prog.did w) = [e]) (hq : m.prog.find e = some q) (hwr : e.wr = some bs)
    (hbank : q.pl.bank = true) (hclean : s.spoiled q.pl q.n true = false) : s.copyOut g id m c d lo n
      = ((s.writePlace q.pl bs).ownCxl s.cxl.length (g, m.kernel)).updIo g id (ioGot { q with wr := some bs } []) := by
  have hplain : (clsOf d.dst == 4) = false := by rw [hdst]; rfl
  have hstarted (start) : s.ioReady g id start es = (s, .ok ()) := State.ioReady_all (by rwa [hcmd])
  have hundone : (m.prog.queued es).filter (fun q => q.got.isNone) = [{ q with wr := some bs }] := by
    rw [Prog.queued_undone, hone, Prog.queued_one hq, hwr]
  have howned : (if es.all (fun e => !m.prog.did e) then (m.prog.queued es).find? (fun q => !s.ownedOk q.pl) else none) = none := by
    split
    · next hfresh =>
      rw [← List.filter_eq_self.2 (List.all_eq_true.1 hfresh), hone, Prog.queued_one hq]
      simp [State.ownedOk_bank hbank]
    · rfl
  have hperform := State.ioPerform_writes (s := s) (g := g) (id := id) (q := { q with wr := some bs }) hbank rfl hclean
  rw [hcmd] at hperform
  simp only [Prog.queued] at hundone howned
  simp only [State.copyOut, hplain, hes, Bool.false_and, Bool.false_eq_true, if_false, ite_self, hstarted, howned, hundone, openWrites_one,
    List.length_nil, Nat.zero_add, State.pick_one, List.getD_cons_zero, hperform, State.copyStop_hold]

/-- With every write performed the next chunk begins. -/
theorem State.copyOut_next (hsome : es ≠ []) (hdone : ∀ w ∈ es, m.prog.did w = true) : s.copyOut g id m c d lo n
    = (s.stamp g).updCmd g id (fun m => { m with prog := m.prog.nextChunk (lo + n) d.total, wait := none }) := by
  have hstarted (start) : s.ioReady g id start es = (s, .ok ()) :=
    State.ioReady_all (fun w hw => by rw [hcmd]; exact Prog.find_of_did (hdone w hw))
  have hundone : (m.prog.queued es).filter (fun q => q.got.isNone) = [] := by
    rw [Prog.queued_undone, List.filter_eq_nil_iff.2 (fun w hw => by simp [hdone w hw])]
    rfl
  have hstale : es.all (fun e => !m.prog.did e) = false := by
    obtain ⟨w, hw⟩ := List.exists_mem_of_ne_nil es hsome
    exact List.all_eq_false.2 ⟨w, hw, by simp [hdone w hw]⟩
  simp only [Prog.queued] at hundone
  simp only [State.copyOut, hes, hstale, Bool.and_false, Bool.false_and, Bool.false_eq_true, if_false, ite_self, hstarted, hundone, openWrites]

end

/-! ### The stages -/

section
variable {s : State} {g : RegionNo} {id : Nat} {m : Cmd} {c : Frame}

/-- Why the address of a descriptor is refused. -/
def copyAddrFault (a : Nat) : Option Byte := lowest [(a % 32 != 0, Cause.cmdInvalid), ((classFault a).isSome, (classFault a).getD 0)]

theorem copyAddrFault_none {a : Nat} (halign : a % 32 = 0) (hcls : classFault a = none) : copyAddrFault a = none :=
  lowest_none (bne_eq_false_iff_eq.2 halign) (by rw [hcls]; rfl) _ _

theorem copyAddrFault_misaligned {a : Nat} (halign : a % 32 ≠ 0) (hcls : classFault a = none) : copyAddrFault a = some Cause.cmdInvalid := by
  rw [copyAddrFault, bne_iff_ne.2 halign, hcls]
  rfl

/-- Stage 0: a bad address ends the command; else the descriptor is read, then checked. The unfolding is of the function alone and the
address becomes a variable at once, as the kernel is not to evaluate its remainder by 32. -/
theorem State.copyBegin_spec (s : State) (g : RegionNo) (id : Nat) (m : Cmd) (c : Frame) :
    (∀ e, copyAddrFault (frameAddr c) = some e → s.copyBegin g id m c = s.failCmd g id e)
    ∧ ∀ s1 s2 hd ds, copyAddrFault (frameAddr c) = none → s.eRead g id m (frameAddr c) 32 = (s1, .ok hd) →
      s1.eRead g id m (frameAddr c + 32) (16 * copyNdim hd) = (s2, .ok ds) →
      (∀ e, (CopyDesc.of (hd ++ ds)).fault m.code c.w0.toNat = some e → s.copyBegin g id m c = s2.failCmd g id e)
      ∧ ((CopyDesc.of (hd ++ ds)).fault m.code c.w0.toNat = none →
          s.copyBegin g id m c = s2.progress g id (fun p => { p with stage := 1, hdr := hd ++ ds })) := by
  obtain ⟨f, hf⟩ : ∃ f, f = @State.copyBegin := ⟨_, rfl⟩
  rw [← hf]
  delta State.copyBegin at hf
  rw [hf]
  beta_reduce
  generalize frameAddr c = a
  refine ⟨fun e hbad => ?_, fun s1 s2 hd ds hok hhead hdims => ⟨fun e hbad => ?_, fun hgood => ?_⟩⟩
  · rw [copyAddrFault] at hbad
    simp only [hbad]
  · rw [copyAddrFault] at hok
    simp only [hok, hhead, hdims, hbad]
  · rw [copyAddrFault] at hok
    simp only [hok, hhead, hdims, hgood]

/-- A copy fails with the bytes written at its last progress point (10 R244). -/
theorem Cmd.failValue_copy (h : m.code ∈ [0x20, 0x21, 0x22, 0x23, 0x24]) : m.failValue = some m.prog.a := by
  have hcopy : (decide (0x20 ≤ m.code) && decide (m.code ≤ 0x24)) = true := by
    simp only [List.mem_cons, List.not_mem_nil, or_false] at h
    simp only [Bool.and_eq_true, decide_eq_true_eq]
    omega
  exact if_pos hcopy

/-- A copy that a stream refuses is done, and has written nothing more. -/
theorem State.copyStop_fails (hhere : Tab.has (s.core g).cmds id = true) (hcmd : s.cmd g id = m)
    (hcode : m.code ∈ [0x20, 0x21, 0x22, 0x23, 0x24]) (f : Byte) (wr : Bool) :
    let t := s.copyStop g id (.fail f) wr
    (t.cmd g id).done = true ∧ (t.cmd g id).cause = f ∧ (t.cmd g id).value = BitVec.ofNat 32 m.prog.a ∧ t.mem = s.mem ∧ t.banks = s.banks := by
  have hcmd' : (s.clearElems g id (s.cmd g id).ctxid).cmd g id = m := hcmd
  have hends : s.copyStop g id (.fail f) wr = (s.clearElems g id (s.cmd g id).ctxid).endCmd g id f m.prog.a := by
    simp only [State.copyStop, State.onStop, State.failCmd, hcmd', Cmd.failValue_copy hcode]
  have hkeep := State.InRegions.endCmd (s.clearElems g id (s.cmd g id).ctxid) g id f m.prog.a
  obtain ⟨hdone, hcause, hvalue⟩ := State.cmd_endCmd (s := s.clearElems g id (s.cmd g id).ctxid) hhere f m.prog.a
  intro t
  rw [show t = _ from hends]
  exact ⟨hdone, hcause, hvalue, hkeep.mem, hkeep.banks⟩

section
variable (h : Claims.Runs s g id m)
include h

theorem State.copyStep_begins (hstage : m.prog.stage = 0) : s.copyStep c = .next (s.copyBegin g id m c) := by
  simp only [State.copyStep, State.runCmd_of_runs h, hstage]

theorem State.copyStep_chunk (hstage : m.prog.stage = 2) : s.copyStep c = .next (s.copyChunk g id m c) := by
  simp only [State.copyStep, State.runCmd_of_runs h, hstage]

theorem State.copyStep_ends (hstage : m.prog.stage = 3) (howed : m.prog.owed = 0) (hok : m.prog.c = 0) : s.copyStep c
    = .next (s.endCmd g id 0 (if m.code = 0x21 then (CopyDesc.of m.prog.hdr).total / 32
        else (CopyDesc.of m.prog.hdr).total * (CopyDesc.of m.prog.hdr).e)) := by
  simp [State.copyStep, State.runCmd_of_runs h, hstage, State.copyEnd, howed, hok]

end

/-- The copy commands are one engine's steps, each with its code. -/
theorem exec_copy {i : Instr} {code : Nat} (hi : (i, code) ∈ [(Instr.tcopy c, 0x20), (.qcopy c, 0x21), (.tfill c, 0x22), (.tgather c, 0x23),
    (.tscatter c, 0x24)]) (s : State) : exec i s = s.copyStep c ∧ code ∈ [0x20, 0x21, 0x22, 0x23, 0x24] := by
  simp only [List.mem_cons, List.not_mem_nil, or_false, Prod.mk.injEq] at hi
  rcases hi with ⟨rfl, rfl⟩ | ⟨rfl, rfl⟩ | ⟨rfl, rfl⟩ | ⟨rfl, rfl⟩ | ⟨rfl, rfl⟩ <;> exact ⟨rfl, by decide⟩

end

/-- Settles O35: the engine's step by its stage, and at the last chunk by what of it is read and written. -/
theorem copyCommandsCopy : Obligations.CopyCommandsCopy := by
  unfold Obligations.CopyCommandsCopy
  intro s g id m c i hi hruns d a lo n unread writes has
  obtain ⟨hexec, hcode⟩ := exec_copy hi s
  obtain ⟨hstops, hreads⟩ := State.copyBegin_spec s g id m c
  rw [hexec]
  refine ⟨?begins, ?misaligned, ?chunk, ?refused, fun hstage howed hok => State.copyStep_ends hruns hstage howed hok⟩
  case begins =>
    intro s1 s2 hd ds hstage halign hcls hhead hdims
    have hstep := State.copyStep_begins (c := c) hruns hstage
    obtain ⟨hrefuses, hkeeps⟩ := hreads s1 s2 hd ds (copyAddrFault_none halign hcls) hhead hdims
    exact ⟨fun hok => hstep.trans (congrArg _ (hkeeps hok)), fun e hbad => hstep.trans (congrArg _ (hrefuses e hbad))⟩
  case misaligned =>
    intro hstage halign hcls
    exact (State.copyStep_begins hruns hstage).trans (congrArg _ (hstops _ (copyAddrFault_misaligned halign hcls)))
  case chunk =>
    intro hstage hmore hlast
    have hchunk : m.LastChunk d lo n := ⟨hstage, rfl, rfl, rfl, hmore, hlast⟩
    have hout (hnone : unread = []) : s.copyStep c = .next (s.copyOut g id m c d lo n) :=
      (State.copyStep_chunk hruns hstage).trans (congrArg _ (State.copyChunk_out hchunk hnone))
    refine ⟨fun e hone hsrc hcls hbits => ?read, fun e q bs hnone hdst hready hone hq hwr _ hbank hclean => ?write,
      fun hnone hsome hdone => ?next⟩
    case read =>
      have hreads {t : State} (hread : s.copyRead g id m d e = (t, .hold)) : s.copyStep c = .next t :=
        (State.copyStep_chunk hruns hstage).trans (congrArg _ (State.copyChunk_read hchunk hone hread))
      have hwr : e.wr = none := (CopyDesc.mem_reads (List.mem_of_mem_filter (hone ▸ List.mem_singleton_self e))).1
      refine ⟨fun pl hnew hpl => hreads (State.copyRead_starts hnew hwr hsrc hcls hbits hpl), fun q hold haddr hqwr hbank hclean => ?_⟩
      have hread := State.copyRead_performs (s := s) (g := g) (id := id) (d := d) hold (haddr ▸ hcls) hqwr hbank hclean
      rw [hruns.cmd] at hread
      exact hreads hread
    case write =>
      exact (hout hnone).trans (congrArg _ (State.copyOut_performs hruns.cmd rfl hdst hready hone hq hwr hbank hclean))
    case next =>
      have hprog (p : Prog) : p.nextChunk (lo + n) d.total
          = { p with chunk := p.chunk + 1, a := d.total, adm := false, io := p.io.filter (fun e => e.wr.isNone && lo + n ≤ e.tag) } := by
        rw [Prog.nextChunk, Nat.min_eq_left hlast]
      have hstep := (hout hnone).trans (congrArg _ (State.copyOut_next hruns.cmd rfl hsome hdone))
      simpa only [hprog] using hstep
  case refused =>
    intro f hstage hmore hlast hnone hdst hadm hfresh hask
    have hstep := (State.copyStep_chunk (c := c) hruns hstage).trans
      (congrArg _ (State.copyChunk_out ⟨hstage, rfl, rfl, rfl, hmore, hlast⟩ hnone))
    rw [State.copyOut_refused rfl hdst hadm hfresh hask] at hstep
    exact ⟨_, hstep, State.copyStop_fails hruns.here hruns.cmd hcode f true⟩

end Sys2Proof.Machine

/-! ## Barrier, port and channel commands (09 R237; 10 R242, R247, R249 to R252) -/

namespace Sys2Proof.Machine

/-! ### Counts of a barrier (05 R157; 10 R247) -/

section
variable {b : Barrier}

/-- A barrier with a count left stays as it is. -/
theorem Barrier.settle_waits (h : b.pend ≠ 0 ∨ b.inb ≠ 0 ∨ b.outb ≠ 0) : b.settle = b := by
  refine if_neg ?_
  simp only [Bool.and_eq_true, beq_iff_eq]
  omega

theorem Barrier.settle_opens (hpend : b.pend = 0) (hin : b.inb = 0) (hout : b.outb = 0) :
    b.settle = { b with gen := (b.gen + 1) % 16, pend := b.exp } := by
  simp [Barrier.settle, hpend, hin, hout]

/-- A count taken that is not the last one of its kind. -/
theorem Barrier.count_outb (h : 1 < b.outb) : b.count true = some { b with outb := b.outb - 1 } := by
  have hleft : (b.outb == 0) = false := by rw [beq_eq_false_iff_ne]; omega
  simp only [Barrier.count, if_true, hleft, Bool.false_eq_true, if_false]
  rw [Barrier.settle_waits (b := { b with outb := b.outb - 1 }) (.inr (.inr (show b.outb - 1 ≠ 0 by omega)))]

theorem Barrier.count_inb (h : 1 < b.inb) : b.count false = some { b with inb := b.inb - 1 } := by
  have hleft : (b.inb == 0) = false := by rw [beq_eq_false_iff_ne]; omega
  simp only [Barrier.count, Bool.false_eq_true, if_false, hleft]
  rw [Barrier.settle_waits (b := { b with inb := b.inb - 1 }) (.inr (.inl (show b.inb - 1 ≠ 0 by omega)))]

end

/-- What a command becomes is all that a change of it says. -/
theorem State.updCmd_congr {s : State} {g : RegionNo} {id : Nat} (hhere : Tab.has (s.core g).cmds id = true) {f f' : Cmd → Cmd}
    (h : f (s.cmd g id) = f' (s.cmd g id)) : s.updCmd g id f = s.updCmd g id f' := by
  obtain ⟨c, hc⟩ := Option.isSome_iff_exists.1 hhere
  rw [State.cmd_resident hhere] at h
  rw [State.updCmd_of_get hc, State.updCmd_of_get hc, State.updCore, State.updCore, Tab.upd, Tab.upd, h]

/-! ### The counts that a copy owes (10 R242, R247) -/

/-- A copy that has written its last chunk and owes a count of a barrier in its lease. -/
structure State.OwesCount (s : State) (g : RegionNo) (id : Nat) (m : Cmd) (pl : Place) : Prop where
  cmd     : s.cmd g id = m
  here    : Tab.has (s.core g).cmds id = true
  running : m.running = true
  copy    : m.isCopy = true
  free    : m.parked = none
  stage   : m.prog.stage = 3
  runs    : (s.reg g).runs = true
  place   : bankPlace g (s.grant g m.x) (CopyDesc.of m.prog.hdr).barr 16 = .ok pl
  clean   : s.spoiled pl 16 false = false

section
variable {s : State} {g : RegionNo} {id : Nat} {m : Cmd} {pl : Place} (h : s.OwesCount g id m pl) {b : Barrier}
include h

/-- A count is taken: the barrier is written back, and the copy owes one less. -/
theorem execBarrierCount_takes {owed : Nat} (howed : m.prog.owed ≠ 0)
    (hcount : (Barrier.of (s.readPlace pl 16)).count (decide (2 ≤ m.prog.owed)) = some b)
    (hleft : (if 2 ≤ m.prog.owed then m.prog.owed - 2 else 0) = owed) : execBarrierCount g id s
      = .next ((s.writePlace pl b.bytes).updCmd g id (fun m => { m with prog := { m.prog with owed := owed } })) := by
  obtain ⟨hcmd, hhere, hrunning, hcopy, hfree, hstage, hruns, hplace, hclean⟩ := h
  have hregs : (s.writePlace pl b.bytes).regions = s.regions := State.regions_writePlace ..
  have hhere' : Tab.has ((s.writePlace pl b.bytes).core g).cmds id = true := by rwa [State.core_of_regions hregs]
  have hsome : (m.prog.owed == 0) = false := beq_eq_false_iff_ne.2 howed
  simp only [execBarrierCount, hcmd, hrunning, hcopy, hfree, hstage, hruns, hplace, hclean, hsome, hcount, Option.isSome_none, bne_self_eq_false,
    Bool.not_true, Bool.or_self, Bool.false_eq_true, if_false, ge_iff_le]
  refine congrArg _ (State.updCmd_congr hhere' ?_)
  rw [State.cmd_of_regions hregs, hcmd]
  subst hleft
  by_cases hout : 2 ≤ m.prog.owed <;> simp [hout]

end

/-! ### The commands -/

section
variable {s : State} {g : RegionNo} {id : Nat} {m : Cmd} {c : Frame} (h : Claims.Runs s g id m)
include h

section
variable {pl : Place} (hpl : bankPlace g (s.grant g m.x) (c.w0.toNat % 2 ^ 24) 16 = .ok pl) (hclean : s.spoiled pl 16 false = false)
include hpl hclean

theorem execBinit_refuses (hexp : (Barrier.of (s.readPlace pl 16)).exp = 0) : execBinit c s = .next (s.failCmd g id Cause.cmdInvalid) := by
  simp only [execBinit, State.runCmd_of_runs h, hpl, hclean, hexp, beq_self_eq_true, if_true, Bool.false_eq_true, if_false]

/-- INB and OUTB are set, and VALUE is GEN after. -/
theorem execBinit_sets {b : Barrier} (hexp : (Barrier.of (s.readPlace pl 16)).exp ≠ 0)
    (hb : ({ Barrier.of (s.readPlace pl 16) with inb := c.w1.toNat, outb := c.w2.toNat } : Barrier).settle = b) :
    execBinit c s = .next ((s.writePlace pl b.bytes).endCmd g id 0 b.gen) := by
  have hsome : ((Barrier.of (s.readPlace pl 16)).exp == 0) = false := beq_eq_false_iff_ne.2 hexp
  simp only [execBinit, State.runCmd_of_runs h, hpl, hclean, hsome, Bool.false_eq_true, if_false, hb]

end

theorem execKarm_tokens (hcf : c.cf = 0) : execKarm c s = .next ((s.updPort g (c.w0.toNat % 64) (fun e =>
    { e with tokArm := Tab.set e.tokArm m.x.toNat (c.handle.toNat % 16) })).endCmd g id 0 0) := by
  simp only [execKarm, State.runCmd_of_runs h, hcf]
  rfl

theorem execKarm_markers (hcf : c.cf = 1) : execKarm c s = .next ((s.updPort g (c.w0.toNat % 64) (fun e =>
    { e with markArm := Tab.set e.markArm m.x.toNat (c.handle.toNat % 16) })).endCmd g id 0 0) := by
  simp only [execKarm, State.runCmd_of_runs h, hcf]
  rfl

theorem execKarm_disarm (hcf : c.cf = 2) : execKarm c s = .next ((s.updPort g (c.w0.toNat % 64) (fun e =>
    { e with tokArm := Tab.erase e.tokArm m.x.toNat, markArm := Tab.erase e.markArm m.x.toNat })).endCmd g id 0 0) := by
  simp only [execKarm, State.runCmd_of_runs h, hcf]
  rfl

section
variable {n : Nat} {ch : Chan} (hn : c.handle.toNat % 128 = n) (hch : (Tab.getD (s.core g).chans n : Chan) = ch) (hstage : m.prog.stage = 0)
include hn hch hstage

/-- A probe behind what the port has pulled, gathered and holds (log 90). -/
theorem execFprobe_probes (hcf : c.cf = 0) (hen : dEN ch.desc = true) (hctx : dCTX ch.desc = m.x) (hvc : dVC ch.desc ≠ 1) : execFprobe c s
    = .next ((s.placeProbe g id n).progress g id (fun p => { p with stage := 1, owed := 1, a := 1 })) := by
  simp [execFprobe, State.runCmd_of_runs h, hn, hch, hstage, hcf, hen, hctx, hvc]

theorem execFprobe_refuses (hcf : c.cf = 0) (hbad : dEN ch.desc = false ∨ dCTX ch.desc ≠ m.x ∨ dVC ch.desc = 1) :
    execFprobe c s = .next (s.failCmd g id Cause.cmdInvalid) := by
  have hbad' : (!dEN ch.desc || dCTX ch.desc != m.x || dVC ch.desc == 1) = true := by
    simpa only [Bool.or_eq_true, Bool.not_eq_true', bne_iff_ne, beq_iff_eq, or_assoc] using hbad
  simp only [execFprobe, State.runCmd_of_runs h, hn, hch, hstage, hcf, hbad', bne_self_eq_false, beq_self_eq_true, Bool.and_self, if_true,
    Bool.false_eq_true, if_false]

section
variable (hen : dEN ch.desc = true) (hctx : dCTX ch.desc = m.x)
include hen hctx

omit hstage in
theorem execRmark_places (hfirst : ch.rmark = []) (hgathered : ch.jElems = []) (hheld : ch.jout = []) (hopen : ch.open_ = true)
    (hroom : ch.sfifo.length < 8) : execRmark c s = .next ((s.updChan g n (fun k => ({ k with rmark := k.rmark.drop 1 } : Chan).place n s.tick
      { kind := .marker, form := .scalar, ctx := m.x, round := fld c.w0 0 8, p := true, tag := 0, pay := 0 })).endCmd g id 0 0) := by
  have htakes : ch.takes { kind := .marker, form := .scalar, ctx := m.x, round := fld c.w0 0 8, p := true, tag := 0, pay := 0 } = true := by
    rw [Chan.takes, hopen, Bool.true_and, decide_eq_true_iff]
    exact hroom
  simp only [execRmark, State.runCmd_of_runs h, hn, hch, hen, hctx, hfirst, hgathered, hheld, Bool.not_true, bne_self_eq_false, Bool.or_self,
    Bool.and_false, Bool.false_eq_true, if_false, List.isEmpty_nil, Bool.true_and]
  exact congrArg _ (if_pos htakes)

/-- It waits behind what a joining port holds, which it completes; the wait kind is the model's (log 73). -/
theorem execRmark_waits (hheld : ch.jElems ≠ [] ∨ ch.jout ≠ []) : execRmark c s
    = .next (((s.updChan g n (fun k => { k.flushJoin with rmark := k.rmark ++ [(id, fld c.w0 0 8)] })).updCmd g id (fun m =>
        { m with prog := { m.prog with stage := 1 } })).waitCmd g id 0 n 0xFF) := by
  have hbusy (first takes : Bool) : (first && ch.jElems.isEmpty && ch.jout.isEmpty && takes) = false := by
    rcases hheld with hgathered | hout
    · rw [List.isEmpty_eq_false_iff.2 hgathered, Bool.and_false, Bool.false_and, Bool.false_and]
    · rw [List.isEmpty_eq_false_iff.2 hout, Bool.and_false, Bool.false_and]
  simp only [execRmark, State.runCmd_of_runs h, hn, hch, hen, hctx, hstage, hbusy, Bool.not_true, bne_self_eq_false, Bool.or_self, Bool.and_false,
    Bool.false_eq_true, if_false, beq_self_eq_true, if_true]
  rfl

end

end

end

theorem State.placeProbe_eq (s : State) (g : RegionNo) (id n : Nat) : s.placeProbe g id n = s.updChan g n (fun k =>
    if k.jElems ≠ [] then { k with jwait := k.jwait ++ [id] }
    else if k.jout = [] then { k with sfifo := k.sfifo ++ [{ ch := n, kind := .probe id, tid := s.tick, vc := dVC k.desc }] }
    else { k with jout := k.jout ++ [{ probe := some id }] }) := by
  simp only [State.placeProbe, Chan.placeProbe, Bool.not_eq_true', List.isEmpty_eq_false_iff, List.isEmpty_iff]

/-- A probe at the head of a destination FIFO is taken; with the last one that is awaited its command ends. -/
theorem execProbeReturn_takes {s : State} {g : RegionNo} {chn : BitVec 7} {i : DItem} {rest : List DItem} {cmd : Nat}
    (hfifo : (Tab.getD (s.core g).chans chn.toNat : Chan).dfifo = i :: rest) (hprobe : i.probe = some cmd) :
    let s1 := (s.stamp g).updChan g chn.toNat Chan.pull
    ((s1.cmd g cmd).prog.owed ≤ 1 → execProbeReturn g chn s = .next (s1.endCmd g cmd 0 (s1.cmd g cmd).prog.a))
    ∧ (1 < (s1.cmd g cmd).prog.owed → execProbeReturn g chn s = .next (s1.updCmd g cmd (fun m =>
        { m with prog := { m.prog with owed := m.prog.owed - 1 } }))) := by
  refine ⟨fun hlast => ?_, fun hmore => ?_⟩
  · simp only [execProbeReturn, hfifo, hprobe, if_pos hlast]
  · simp only [execProbeReturn, hfifo, hprobe, if_neg (Nat.not_le.2 hmore)]

/-- Settles O36: each command by the channel, the port or the barrier that it names, and a copy's counts one at a time. -/
theorem barrierPortAndChannelCommands : Obligations.BarrierPortAndChannelCommands := by
  unfold Obligations.BarrierPortAndChannelCommands
  intro s g id m c runs n ch
  refine ⟨?binit, fun hcf h => execKarm_tokens h hcf, fun hcf h => execKarm_markers h hcf, fun hcf h => execKarm_disarm h hcf, ?probes,
    fun hcf hstage hbad h => execFprobe_refuses h rfl rfl hstage hcf hbad,
    fun _ hen hctx hfirst hgathered hheld hopen hroom h =>
      execRmark_places h rfl rfl hen hctx hfirst hgathered hheld hopen hroom,
    fun hstage hen hctx hheld h => execRmark_waits h rfl rfl hstage hen hctx hheld,
    fun chn i rest cmd hfifo hprobe => execProbeReturn_takes hfifo hprobe, ?counts⟩
  case binit =>
    intro pl hpl b hclean
    refine ⟨fun hexp h => execBinit_refuses h hpl hclean hexp, fun hexp hsome h => execBinit_sets h hpl hclean hexp (Barrier.settle_waits ?_),
      fun hexp hpend hin hout h => execBinit_sets h hpl hclean hexp ?_⟩
    · have hne {v : W32} (hv : v ≠ 0) : v.toNat ≠ 0 := fun e => hv (BitVec.eq_of_toNat_eq e)
      exact hsome.imp_right (Or.imp hne hne)
    · rw [hin, hout]
      exact Barrier.settle_opens hpend rfl rfl
  case probes =>
    intro hcf hstage hen hctx hvc h
    have hstep := execFprobe_probes h rfl rfl hstage hcf hen hctx hvc
    rwa [State.placeProbe_eq] at hstep
  case counts =>
    intro pl b hcmd hhere hstarted hdone hcopy hfree hstage hruns hpl hb hclean
    subst hb
    have h : s.OwesCount g id m pl := ⟨hcmd, hhere, by simp [Cmd.running, hstarted, hdone], hcopy, hfree, hstage, hruns, hpl, hclean⟩
    refine ⟨fun howed hout => ?_, fun howed hin => ?_⟩
    · exact execBarrierCount_takes h (by omega) (by rw [howed]; exact Barrier.count_outb hout) (by rw [howed]; rfl)
    · exact execBarrierCount_takes h (by omega) (by rw [howed]; exact Barrier.count_inb hin) (by rw [howed]; rfl)

end Sys2Proof.Machine

/-! ## Group commands (10 R260 to R264) -/

namespace Sys2Proof.Machine

/-! ### What leaves the groups of the regions as they are -/

/-- The groups of every region, the contributions at their units, and the switches decided are as they were. -/
structure State.KeepsGroups (s t : State) : Prop where
  groups    : ∀ h, (t.reg h).groups = (s.reg h).groups
  contribs  : ∀ h, (t.reg h).contribs = (s.reg h).contribs
  switching : ∀ h, (t.reg h).switching = (s.reg h).switching

section
variable {s t u : State}

theorem State.KeepsGroups.refl (s : State) : s.KeepsGroups s := ⟨fun _ => rfl, fun _ => rfl, fun _ => rfl⟩

theorem State.KeepsGroups.trans (h : s.KeepsGroups t) (h' : t.KeepsGroups u) : s.KeepsGroups u :=
  ⟨fun q => (h'.groups q).trans (h.groups q), fun q => (h'.contribs q).trans (h.contribs q), fun q => (h'.switching q).trans (h.switching q)⟩

theorem State.KeepsGroups.of_regions (h : t.regions = s.regions) : s.KeepsGroups t := by
  have hreg (q : RegionNo) : t.reg q = s.reg q := by rw [State.reg, State.reg, h]
  exact ⟨fun q => by rw [hreg], fun q => by rw [hreg], fun q => by rw [hreg]⟩

theorem State.KeepsGroups.setReg {g : RegionNo} {r : Region} (hgroups : r.groups = (s.reg g).groups) (hcontribs : r.contribs = (s.reg g).contribs)
    (hswitching : r.switching = (s.reg g).switching) : s.KeepsGroups (s.setReg g r) := by
  have hother {q : RegionNo} (hq : q ≠ g) : (s.setReg g r).reg q = s.reg q := State.reg_setReg_ne s g q r hq
  refine ⟨fun q => ?_, fun q => ?_, fun q => ?_⟩
  all_goals
    by_cases hq : q = g
    · subst hq
      rwa [State.reg_setReg_self]
    · rw [hother hq]

theorem State.KeepsGroups.updCore (s : State) (g : RegionNo) (f : Core → Core) : s.KeepsGroups (s.updCore g f) := .setReg rfl rfl rfl

theorem State.KeepsGroups.updCmd (s : State) (g : RegionNo) (id : Nat) (f : Cmd → Cmd) : s.KeepsGroups (s.updCmd g id f) := by
  unfold State.updCmd
  dsimp only
  split
  · exact .updCore ..
  · split
    · exact .refl s
    · exact .setReg rfl rfl rfl

theorem State.KeepsGroups.releaseNodes (s : State) (g : RegionNo) (id : Nat) : s.KeepsGroups (s.releaseNodes g id) := by
  unfold State.releaseNodes
  split
  · exact .updCore ..
  · split
    · exact .setReg rfl rfl rfl
    · exact .refl s

theorem State.KeepsGroups.endCmd (s : State) (g : RegionNo) (id : Nat) (cause : Byte) (value : Nat) : s.KeepsGroups (s.endCmd g id cause value) :=
  (State.KeepsGroups.releaseNodes s g id).trans (.updCmd ..)

theorem State.KeepsGroups.progress (s : State) (g : RegionNo) (id : Nat) (f : Prog → Prog) : s.KeepsGroups (s.progress g id f) :=
  (State.KeepsGroups.setReg (s := s) (r := { s.reg g with residency := 0 }) rfl rfl rfl).trans (.updCmd ..)

end

theorem State.tick_of_inRegions {s t : State} (h : s.InRegions t) : t.tick = s.tick := by
  obtain ⟨rs, rfl⟩ := h
  rfl

theorem State.updGroup_contribs (s : State) (g : RegionNo) (key : Nat) (f : Group → Group) :
    ((s.updGroup g key f).reg g).contribs = (s.reg g).contribs := by
  rw [State.updGroup, State.reg_setReg_self]

/-! ### Links and results -/

section
variable {s : State} {e : BitVec 16} {x : Group}

theorem State.routeHeld_of_kind (h : routeKind e ≠ 0) : s.routeHeld e = false := by
  simp [State.routeHeld, h]

theorem State.routeDown_of_kind (h : routeKind e ≠ 0) : s.routeDown e = false := by
  simp [State.routeDown, h]

/-- A member whose group lies within the package loses none with a link. -/
theorem State.lostRanks_inside (h : ∀ e ∈ x.table, routeKind e ≠ 0) : s.lostRanks x = [] := by
  refine List.filter_eq_nil_iff.2 fun r hr => ?_
  have hlt : r < x.table.length := List.mem_range.1 hr
  have hmem : x.table.getD r 0 ∈ x.table := by
    rw [List.getD_eq_getElem _ _ hlt]
    exact List.getElem_mem hlt
  rw [State.routeDown_of_kind (h _ hmem)]
  exact Bool.false_ne_true

end

section
variable {r : Region} {key chunk n : Nat}

theorem Region.result_some {q : Contrib} (h : r.contribs.find? (fun q => q.grp == key && q.pk.plan && q.pk.chunk.toNat == chunk && q.pk.op0 == 4
    && q.pk.rank == 0 && q.pk.span.toNat == n) = some q) : r.result key chunk n = some q.pk.pay := by
  rw [Region.result, h]
  rfl

theorem Region.result_none (h : r.contribs.any (fun q => q.grp == key && q.pk.plan && q.pk.chunk.toNat == chunk && q.pk.op0 == 4) = false) :
    r.result key chunk n = none := by
  rw [Region.result, List.find?_eq_none.2 fun q hq => ?_]
  · rfl
  · have hno := List.any_eq_false.1 h q hq
    rw [Bool.not_eq_true] at hno
    simp [hno]

end

/-! ### `ngroup` (10 R260) -/

section
variable {s : State} {g : RegionNo} {id : Nat} {m : Cmd} {c : Frame} {key : Nat} (h : Claims.Runs s g id m)
  (hkey : grpKey m.ctxid c.handle.toNat = key)
include h hkey

/-- The member table is read and checked, then kept. The address becomes a variable first, as the kernel is not to evaluate its class. -/
theorem execNgroup_reads {s1 : State} {bs : List Byte} (hcf : c.cf = 0) (hnone : (s.reg g).group? key = none)
    (hcls : classFault (frameAddr c) = none) (hread : s.eRead g id m (frameAddr c) (8 * (c.w0.toNat % 65536)) = (s1, .ok bs)) {es : List Nat}
    (hes : (List.range (c.w0.toNat % 65536)).map (word8 bs) = es) : execNgroup c s
      = .next (if (List.zip (List.range (c.w0.toNat % 65536)) es).any (fun p => entryWrong (c.w0.toNat / 65536) p.1 p.2)
          then s1.failCmd g id Cause.cmdInvalid
          else (s1.updGroup g key (fun _ => { table := es.map (BitVec.ofNat 16), own := c.w0.toNat / 65536 })).endCmd g id 0 0) := by
  have hcreate : (c.cf == 1) = false := by rw [hcf]; rfl
  unfold execNgroup
  rw [State.runCmd_of_runs h]
  generalize frameAddr c = a at *
  simp only [hkey, hcreate, hnone, hcls, hread, hes, Option.isSome_none, Bool.false_eq_true, if_false]

/-- A group that has been created is not created again; it is deleted while no `nsend` of it runs. -/
theorem execNgroup_known (hsome : (s.reg g).group? key ≠ none) : execNgroup c s = .next (
    if c.cf = 1 ∧ (s.reg g).sender key = none then (s.updGroup g key (fun _ => { failed := true })).endCmd g id 0 0
    else s.failCmd g id Cause.cmdInvalid) := by
  have hexists : ((s.reg g).group? key).isSome = true := Option.isSome_iff_ne_none.2 hsome
  have hexists' : ((s.reg g).group? key).isNone = false := Option.isNone_eq_false_iff.2 hexists
  unfold execNgroup
  rw [State.runCmd_of_runs h]
  generalize frameAddr c = a
  by_cases hcf : c.cf = 1
  · cases hsender : (s.reg g).sender key <;> simp [hkey, hcf, hexists', hsender]
  · have hcreate : (c.cf == 1) = false := beq_eq_false_iff_ne.2 hcf
    have hkept : ¬ (c.cf = 1 ∧ (s.reg g).sender key = none) := fun hdel => hcf hdel.1
    simp only [hkey, hcreate, hexists, hkept, Bool.false_eq_true, if_false, if_true]

/-! ### `npause` and `nresume` (10 R264) -/

section
variable (hnone : (s.reg g).group? key = none)
include hnone

theorem execNpause_unknown : execNpause c s = .next (s.endCmd g id Cause.cmdInvalid 0) := by
  simp only [execNpause, State.runCmd_of_runs h, hkey, hnone]

theorem execNresume_unknown : execNresume c s = .next (s.endCmd g id Cause.cmdInvalid 0) := by
  simp only [execNresume, State.runCmd_of_runs h, hkey, hnone]

theorem execNsend_unknown : execNsend c s = .next (s.endCmd g id Cause.cmdInvalid 0) := by
  simp only [execNsend, State.runCmd_of_runs h, hkey, hnone]

end

section
variable {gr : Group} (hgroup : (s.reg g).group? key = some gr) (hstage : m.prog.stage = 0)
include hgroup hstage

theorem execNpause_paused {p : Nat} (hpaused : gr.paused = some p) : execNpause c s = .next (s.endCmd g id 0 p) := by
  simp [execNpause, State.runCmd_of_runs h, hkey, hgroup, hstage, hpaused]

theorem execNresume_unpaused (hpaused : gr.paused = none) : execNresume c s = .next (s.endCmd g id 0 gr.next) := by
  simp [execNresume, State.runCmd_of_runs h, hkey, hgroup, hstage, hpaused]

/-- An ALLREDUCE that has still to read which chunk is its first is waited for. -/
theorem execNpause_waits (hpaused : gr.paused = none) (hunknown : s.firstUnknown g key = true) : execNpause c s = .next s := by
  simp [execNpause, State.runCmd_of_runs h, hkey, hgroup, hstage, hpaused, hunknown]

section
variable (hfree : gr.asker = none)
include hfree

theorem execNpause_begins (hpaused : gr.paused = none) (hknown : s.firstUnknown g key = false) : execNpause c s
    = .next (((s.progress g id (fun q => { q with stage := 1, a := gr.next + 4 })).updGroup g key (fun x =>
        { x with asker := some id })).beginPause g key gr).1 := by
  simp [execNpause, State.runCmd_of_runs h, hkey, hgroup, hstage, hpaused, hknown, hfree]

theorem execNresume_begins {p : Nat} (hpaused : gr.paused = some p) : execNresume c s
    = .next (((s.progress g id (fun q => { q with stage := 1, a := p })).updGroup g key (fun x =>
        { x with asker := some id })).beginResume g key gr) := by
  simp [execNresume, State.runCmd_of_runs h, hkey, hgroup, hstage, hpaused, hfree]

end

end

/-! ### `nsend` by the state of its group (10 R260, R261; log 93) -/

section
variable {gr : Group} (hgroup : (s.reg g).group? key = some gr)
include hgroup

theorem execNsend_lost (hfailed : gr.failed = true) : execNsend c s = .next (s.endCmd g id Cause.collMemberLost m.prog.chunk) := by
  simp only [execNsend, State.runCmd_of_runs h, hkey, hgroup, hfailed, if_true]

section
variable (hfailed : gr.failed = false)
include hfailed

theorem execNsend_losing (hloss : Tab.has s.losses key = true) : execNsend c s = .next (s.lossStep g id m key gr) := by
  simp only [execNsend, State.runCmd_of_runs h, hkey, hgroup, hfailed, hloss, Bool.false_eq_true, if_false, if_true]

section
variable (hwhole : Tab.has s.losses key = false)
include hwhole

theorem execNsend_raw (hcf : c.cf = 1) : execNsend c s = .next (s.rawSend g id m (frameAddr c)) := by
  simp only [execNsend, State.runCmd_of_runs h, hkey, hgroup, hfailed, hwhole, hcf, beq_self_eq_true, Bool.false_eq_true, if_false, if_true]

theorem execNsend_begins (hcf : c.cf = 0) (hstage : m.prog.stage = 0) : execNsend c s = .next (s.reduceBegin g id m (frameAddr c) key) := by
  have hreduce : (c.cf == 1) = false := by rw [hcf]; rfl
  simp only [execNsend, State.runCmd_of_runs h, hkey, hgroup, hfailed, hwhole, hreduce, hstage, beq_self_eq_true, Bool.false_eq_true, if_false,
    if_true]

theorem execNsend_reduces (hcf : c.cf = 0) (hstage : m.prog.stage ≠ 0) : execNsend c s = .next (s.reduceStep g id m key gr) := by
  have hreduce : (c.cf == 1) = false := by rw [hcf]; rfl
  have hbegun : (m.prog.stage == 0) = false := beq_eq_false_iff_ne.2 hstage
  simp only [execNsend, State.runCmd_of_runs h, hkey, hgroup, hfailed, hwhole, hreduce, hbegun, Bool.false_eq_true, if_false]

end

end

end

end

/-! ### The steps of an `nsend` -/

section
variable {s : State} {g : RegionNo} {id : Nat} {m : Cmd}

/-- A RAW packet that has been read stands behind what has arrived at the unit (10 R262, R263). -/
theorem State.rawSend_sends {s1 s2 : State} {a len : Nat} {hd pay : List Byte} (hstage : m.prog.stage = 0) (hcls : classFault a = none)
    (hhead : s.eRead g id m a 64 = (s1, .ok hd)) (hlen : leNat ((hd.drop 20).take 4) = len) (hmult : len % 128 = 0) (hmin : 128 ≤ len)
    (hmax : len ≤ 4096) (hpay : s1.eRead g id m (a + 64) len = (s2, .ok pay)) {s3 : State}
    (hs3 : s2.progress g id (fun q => { q with stage := 1, chunk := (packetOf hd pay).chunk.toNat }) = s3) : s.rawSend g id m a
      = s3.setReg g { s3.reg g with arrivals := (s3.reg g).arrivals ++ [{ ctxid := m.ctxid, gen := some m.gen, cmd := some id,
                                                                          pk := packetOf hd pay, since := s.tick }] } := by
  have htick : s3.tick = s.tick := by
    rw [← hs3, State.tick_of_inRegions (.progress ..), State.eRead_ok hpay, State.eRead_ok hhead]
  have hgood : (len % 128 != 0 || decide (len < 128) || decide (4096 < len)) = false := by
    simp only [Bool.or_eq_false_iff, bne_eq_false_iff_eq, decide_eq_false_iff_not]
    omega
  simp only [State.rawSend, hstage, bne_self_eq_false, hcls, hhead, hlen, gt_iff_lt, hgood, Bool.false_eq_true, if_false, hpay, hs3, htick]

/-- An ALLREDUCE whose descriptor is good begins at its first chunk; none of its chunks has come yet (10 R261). -/
theorem State.reduceBegin_begins {s1 s2 : State} {a key : Nat} {hd : List Byte} (hcls : classFault a = none)
    (hhead : s.eRead g id m a 32 = (s1, .ok hd))
    (hs2 : s1.progress g id (fun q => { q with hdr := hd, chunk := bits (word8 hd 3) 32 63 }) = s2) (hok : (s2.cmd g id).reduce.fault hd = none)
    (hnew : (s2.reg g).contribs.all (fun q => q.grp != key) = true) : s.reduceBegin g id m a key
      = (s2.progress g id (fun q => { q with stage := 1 })).updGroup g key (fun x => { x with next := (s2.cmd g id).reduce.first }) := by
  have hnone : (((s2.progress g id (fun q => { q with stage := 1 })).updGroup g key (fun x =>
      { x with next := (s2.cmd g id).reduce.first })).reg g).contribs.any (fun q => q.grp == key && q.pk.plan && !(s2.cmd g id).reduce.agrees q.pk)
      = false := by
    rw [State.updGroup_contribs, (State.KeepsGroups.progress ..).contribs]
    refine List.any_eq_false.2 fun q hq => ?_
    have hother : q.grp ≠ key := bne_iff_ne.1 (List.all_eq_true.1 hnew q hq)
    simp [hother]
  simp only [State.reduceBegin, hcls, hhead, hs2, hok, hnone, Bool.false_eq_true, if_false]

section
variable {key : Nat} {gr : Group}

theorem State.reduceStep_ends (hlast : m.reduce.first + m.reduce.nch ≤ m.prog.chunk) :
    s.reduceStep g id m key gr = (s.endCmd g id 0 m.reduce.nch).pauseReport g key := if_pos hlast

section
variable (hmore : m.prog.chunk < m.reduce.first + m.reduce.nch)
include hmore

/-- The result of the lowest uncompleted chunk is written. -/
theorem State.reduceStep_finishes {pay : List Byte} (hresult : (s.reg g).result key m.prog.chunk gr.table.length = some pay) {s1 s2 : State}
    (hcheck : s.eCheck g id m (m.reduce.dst + (m.prog.chunk - m.reduce.first) * m.reduce.chb) pay.length = (s1, .ok ()))
    (hwrite : s1.eWrite g id m (m.reduce.dst + (m.prog.chunk - m.reduce.first) * m.reduce.chb) pay = (s2, .ok ())) :
    s.reduceStep g id m key gr = ((s2.setReg g { s2.reg g with
      contribs := (s2.reg g).contribs.filter (fun q => !(q.grp == key && q.pk.chunk.toNat == m.prog.chunk)) }).chunkIo g id true (fun q =>
        { q with chunk := q.chunk + 1 })).pauseReport g key := by
  simp only [State.reduceStep, ge_iff_le, Nat.not_le.2 hmore, if_false, hresult, State.finishChunk, hcheck, hwrite]

section
variable (hnone : (s.reg g).result key m.prog.chunk gr.table.length = none)
include hnone

/-- A chunk starts within the package: the member's contribution, with the lists of its part of `ctree`, goes to every member (log 19). -/
theorem State.reduceStep_starts {pay : List Byte} {s1 : State} (hfinal : gr.next < m.reduce.first + m.reduce.nch) (hnear : gr.next < m.prog.chunk + 4)
    (hopen : gr.paused = none) (hinside : ∀ e ∈ gr.table, routeKind e ≠ 0)
    (hread : s.eRead g id m (m.reduce.src + (gr.next - m.reduce.first) * m.reduce.chb) m.reduce.chb = (s1, .ok pay)) {p : Packet}
    (hp : { daddr := 0, ops := planOps m.reduce.op gr.own gr.table.length,
            routes := (planOps m.reduce.op gr.own gr.table.length).map (fun _ => 0x8000), chunk := BitVec.ofNat 32 gr.next, span := 1,
            rank := BitVec.ofNat 16 gr.own, group := BitVec.ofNat 16 key, fmt := BitVec.ofNat 4 m.reduce.ty,
            nent := BitVec.ofNat 4 (planOps m.reduce.op gr.own gr.table.length).length,
            last := gr.next + 1 == m.reduce.first + m.reduce.nch, pay := pay, plan := true } = p) : s.reduceStep g id m key gr
      = gr.table.foldl (fun s e => (s.sendPk g m.ctxid p e).1)
          ((s1.updGroup g key (fun x => { x with next := gr.next + 1 })).chunkIo g id false (fun q => q)) := by
  have hready : (decide (gr.next < m.reduce.first + m.reduce.nch) && decide (gr.next < m.prog.chunk + 4) && true) = true := by
    simp [hfinal, hnear]
  have hfree (t : State) : gr.table.any t.routeHeld = false :=
    List.any_eq_false.2 fun e he => by rw [State.routeHeld_of_kind (hinside e he)]; exact Bool.false_ne_true
  simp only [State.reduceStep, ge_iff_le, Nat.not_le.2 hmore, if_false, hnone, hopen, hready, if_true, State.startChunk, hread, hp, hfree,
    Bool.false_eq_true, State.lostRanks_inside hinside, List.isEmpty_nil]

theorem State.reduceStep_waits (hfull : m.reduce.first + m.reduce.nch ≤ gr.next ∨ m.prog.chunk + 4 ≤ gr.next
      ∨ ∃ p, gr.paused = some p ∧ (gr.whole = true ∨ p ≤ gr.next)) :
    s.reduceStep g id m key gr = (s.pauseReport g key).waitCmd g id 12 (key % 65536) 0xFF := by
  have hshut : (decide (gr.next < m.reduce.first + m.reduce.nch) && decide (gr.next < m.prog.chunk + 4)
      && (match gr.paused with | some p => !gr.whole && decide (gr.next < p) | none => true)) = false := by
    rcases hfull with hlast | hfar | ⟨p, hpaused, hwhole | hheld⟩
    · simp [Nat.not_lt.2 hlast]
    · simp [Nat.not_lt.2 hfar]
    · simp [hpaused, hwhole]
    · simp [hpaused, Nat.not_lt.2 hheld]
  simp only [State.reduceStep, ge_iff_le, Nat.not_le.2 hmore, if_false, hnone]
  exact if_neg (by rw [Bool.not_eq_true]; exact hshut)

end

end

/-- A member whose results have all come together reports its lowest uncompleted chunk (log 93). -/
theorem State.lossStep_reports (hstage : m.prog.stage ≠ 0) (hcf : m.cf = 0)
    (hunheard : Tab.has (Tab.getD s.losses key : Loss).heard gr.own = false)
    (hnone : (s.reg g).result key m.prog.chunk gr.table.length = none)
    (hquiet : (s.reg g).arrivals.any (fun a => a.pk.plan && grpKey a.ctxid a.pk.group.toNat == key) = false) :
    s.lossStep g id m key gr = (s.reportLoss key gr.own m.prog.chunk).settleLoss key := by
  have hgoing : (m.prog.stage == 0 || m.cf == 1 || Tab.has (Tab.getD s.losses key : Loss).heard gr.own) = false := by
    simp [hstage, hcf, hunheard]
  simp only [State.lossStep, hgoing, hnone, hquiet, Bool.false_eq_true, if_false]

end

end

/-- Settles O38: each command by the state of its group, then an `nsend` by what of its chunks has come together. -/
theorem groupCommands : Obligations.GroupCommands := by
  unfold Obligations.GroupCommands
  intro s g id m c runs key r n a
  refine ⟨fun s1 bs hcf hnone hcls hread => ⟨fun hgood h => (execNgroup_reads h rfl hcf hnone hcls hread rfl).trans
        (congrArg _ (if_neg (Bool.eq_false_iff.1 hgood))),
      fun hbad h => (execNgroup_reads h rfl hcf hnone hcls hread rfl).trans (congrArg _ (if_pos hbad))⟩,
    fun hcf hsome h => (execNgroup_known h rfl hsome).trans (congrArg _ (if_neg fun hdel => absurd (hcf ▸ hdel.1 : (0 : BitVec 2) = 1) (by decide))),
    fun hcf hsome hidle h => (execNgroup_known h rfl hsome).trans (congrArg _ (if_pos ⟨hcf, hidle⟩)),
    fun hnone => ⟨fun h => execNpause_unknown h rfl hnone, fun h => execNresume_unknown h rfl hnone, fun h => execNsend_unknown h rfl hnone⟩,
    fun gr hgroup hfree hstage => ⟨fun p hpaused => ⟨fun h => execNpause_paused h rfl hgroup hstage hpaused,
        fun h => execNresume_begins h rfl hgroup hstage hfree hpaused⟩,
      fun hpaused => ⟨fun h => execNresume_unpaused h rfl hgroup hstage hpaused,
        fun hunknown h => execNpause_waits h rfl hgroup hstage hpaused hunknown,
        fun hknown h => execNpause_begins h rfl hgroup hstage hfree hpaused hknown⟩⟩,
    ?raw, ?begins, ?reduces, ?losing, fun gr hgroup hfailed h => execNsend_lost h rfl hgroup hfailed⟩
  case raw =>
    intro gr s1 s2 hd pay hgroup hfailed hwhole hcf hstage hcls hhead len hmult hmin hmax hpay p s3 h
    exact (execNsend_raw h rfl hgroup hfailed hwhole hcf).trans
      (congrArg _ (State.rawSend_sends hstage hcls hhead rfl hmult hmin hmax hpay rfl))
  case begins =>
    intro gr s1 hd hgroup hfailed hwhole hcf hstage hcls hhead s2 d hok hnew h
    exact (execNsend_begins h rfl hgroup hfailed hwhole hcf hstage).trans (congrArg _ (State.reduceBegin_begins hcls hhead rfl hok hnew))
  case reduces =>
    intro gr hgroup hfailed hwhole hcf hstage d
    have hstep (h : Claims.Runs s g id m) := execNsend_reduces h rfl hgroup hfailed hwhole hcf hstage
    exact ⟨fun hlast h => (hstep h).trans (congrArg _ (State.reduceStep_ends hlast)),
      fun q s1 s2 hmore hfind hcheck hwrite h =>
        (hstep h).trans (congrArg _ (State.reduceStep_finishes hmore (Region.result_some hfind) hcheck hwrite)),
      fun pay s1 hmore hnone hfinal hnear hopen hinside hread h =>
        (hstep h).trans (congrArg _ (State.reduceStep_starts hmore (Region.result_none hnone) hfinal hnear hopen hinside hread rfl)),
      fun hmore hnone hfull h => (hstep h).trans (congrArg _ (State.reduceStep_waits hmore (Region.result_none hnone) hfull))⟩
  case losing =>
    intro gr hgroup hfailed hloss hstage _ hcf hunheard hnone hquiet h
    exact (execNsend_losing h rfl hgroup hfailed hloss).trans (congrArg _ (State.lossStep_reports hstage hcf hunheard hnone hquiet))

end Sys2Proof.Machine

/-! ## Packets at a unit (10 R262, R263; 13 R284, R285; log 19) -/

namespace Sys2Proof.Machine

/-! ### Packets of a link -/

section
variable {s : State} {g : RegionNo} {link : BitVec 4} {p : Packet}

theorem execCollectiveHop_joins {ctxid : Nat} (hfree : (Tab.getD s.links link.toNat : Link).heldPk = none)
    (hctx : s.groupCtx g p.group = some ctxid) : execCollectiveHop g (some (link, p)) s
      = .next (s.setReg g { s.reg g with arrivals := (s.reg g).arrivals ++ [{ ctxid := ctxid, pk := p, since := s.tick }] }) := by
  simp only [execCollectiveHop, hfree, hctx, Option.isSome_none, Bool.false_eq_true, if_false]
  rfl

/-- A packet for a group not created stays in the receive buffer of its link. -/
theorem execCollectiveHop_holds (hfree : (Tab.getD s.links link.toNat : Link).heldPk = none) (hctx : s.groupCtx g p.group = none) :
    execCollectiveHop g (some (link, p)) s
      = .next { s with links := Tab.upd s.links link.toNat (fun l => { l with heldPk := some (g, p, s.tick) }) } := by
  simp only [execCollectiveHop, hfree, hctx, Option.isSome_none, Bool.false_eq_true, if_false]
  rfl

theorem execCollectiveHop_full {q : RegionNo × Packet × Nat} (hheld : (Tab.getD s.links link.toNat : Link).heldPk = some q) :
    execCollectiveHop g (some (link, p)) s = .next s := by
  simp only [execCollectiveHop, hheld, Option.isSome_some, if_true]

end

/-! ### The first packet of a unit -/

/-- The packet at the head of a unit's arrivals is of a group created there that has lost no member, and its header is a good one. -/
structure State.FirstPacket (s : State) (g : RegionNo) (a : Arrival) (key : Nat) (gr : Group) : Prop where
  freed : s.freedPk g = none
  whole : s.losses = []
  first : ∃ rest, (s.reg g).arrivals = a :: rest
  named : grpKey a.ctxid a.pk.group.toNat = key
  fresh : ∀ v, a.gen = some v → v = s.genOf a.ctxid
  group : Tab.get (s.reg g).groups key = some gr
  live  : gr.failed = false
  rsvd  : a.pk.rsvd = false
  nent  : a.pk.nent ≠ 0
  route : routeKind a.pk.route0 ≠ 3
  op    : a.pk.op0 < 5

section
variable {s t : State} {g : RegionNo} {a : Arrival} {key : Nat} {gr : Group} (h : s.FirstPacket g a key gr)
include h

/-- A hop that takes the packet ends its stay at the unit. -/
theorem execCollectiveHop_taken (hhop : s.hop g 0 a = (t, .taken)) :
    execCollectiveHop g none s = .next (t.setReg g { t.reg g with arrivals := (t.reg g).arrivals.eraseIdx 0 }) := by
  obtain ⟨hfreed, hwhole, ⟨rest, hfirst⟩, -⟩ := h
  have hsettled : s.settleLosses = s := by rw [State.settleLosses, hwhole]; rfl
  simp only [execCollectiveHop, hfreed, hsettled, hfirst, State.hopScan, List.contains_nil, Bool.and_false, Bool.false_eq_true, if_false, hhop]

theorem execCollectiveHop_acted (hhop : s.hop g 0 a = (t, .acted)) : execCollectiveHop g none s = .next t := by
  obtain ⟨hfreed, hwhole, ⟨rest, hfirst⟩, -⟩ := h
  have hsettled : s.settleLosses = s := by rw [State.settleLosses, hwhole]; rfl
  simp only [execCollectiveHop, hfreed, hsettled, hfirst, State.hopScan, List.contains_nil, Bool.and_false, Bool.false_eq_true, if_false, hhop]

/-- How a packet of operation 3 or 4 leaves once it is written. -/
def State.hopLeaves (g : RegionNo) (a : Arrival) (key : Nat) (s : State) : State :=
  if a.pk.op0 == 3 then s.passOn g a.ctxid key a.pk a.cmd else s.leftHop g a.cmd

/-- The contribution that a packet of operation 1 or 2 meets. -/
def Region.partner (r : Region) (key : Nat) (p : Packet) : Option Contrib :=
  r.contribs.find? (fun q => q.grp == key && !q.pk.plan && q.pk.chunk == p.chunk && q.pk.adjoins p)

/-- The hop of a packet whose group and header are good, by its operation. -/
theorem State.hop_by_operation :
    (a.pk.plan = true → s.hop g 0 a = s.hopPlan g a.ctxid key gr a.pk)
    ∧ (a.pk.plan = false →
        (a.pk.op0 = 0 → s.routeHeld a.pk.route0 = false → s.hop g 0 a = (s.passOn g a.ctxid key a.pk a.cmd, .taken))
        ∧ (a.pk.op0 = 1 ∨ a.pk.op0 = 2 →
            ((s.reg g).partner key a.pk = none → s.hop g 0 a
              = (s.setReg g { s.reg g with contribs := (s.reg g).contribs ++ [{ grp := key, cmd := a.cmd, pk := a.pk }] }, .taken))
            ∧ ∀ q, (s.reg g).partner key a.pk = some q → s.hop g 0 a = s.hopJoin g a.ctxid key a.pk a.cmd q)
        ∧ (a.pk.op0 = 3 ∨ a.pk.op0 = 4 → s.hop g 0 a = s.hopWrite g 0 a key (State.hopLeaves g a key))) := by
  obtain ⟨-, -, -, hnamed, hfresh, hgroup, hlive, hrsvd, hnent, hroute, hop⟩ := h
  have hnent' : (a.pk.nent == 0) = false := beq_eq_false_iff_ne.2 hnent
  have hroute' : (routeKind a.pk.route0 == 3) = false := beq_eq_false_iff_ne.2 hroute
  have hgen : a.gen = none ∨ a.gen = some (s.genOf a.ctxid) := by
    cases hg : a.gen with
    | none => exact .inl rfl
    | some v => exact .inr (congrArg some (hfresh v hg))
  unfold State.hopLeaves Region.partner
  refine ⟨fun hplan => ?plan, fun hplain => ⟨fun hop hfree => ?passes, fun hop => ⟨fun hnone => ?waits, fun q hq => ?joins⟩,
    fun hop => ?writes⟩⟩
  case plan =>
    rcases hgen with hgen | hgen <;>
      simp only [State.hop, hgen, hnamed, hgroup, hlive, hrsvd, hnent', hroute', ge_iff_le, Nat.not_le.2 hop, decide_false,
        Bool.or_self, hplan, bne_self_eq_false, Bool.false_eq_true, if_false, if_true]
  case passes =>
    rcases hgen with hgen | hgen <;>
      simp only [State.hop, hgen, hnamed, hgroup, hlive, hrsvd, hnent', hroute', ge_iff_le, Nat.reduceLeDiff, decide_false, Bool.or_self,
        hplain, hop, hfree, bne_self_eq_false, Bool.false_eq_true, if_false]
  case waits =>
    rcases hgen with hgen | hgen <;> rcases hop with hop | hop <;>
      simp only [State.hop, hgen, hnamed, hgroup, hlive, hrsvd, hnent', hroute', ge_iff_le, Nat.reduceLeDiff, decide_false, Bool.or_self,
        hplain, hop, hnone, bne_self_eq_false, Bool.false_eq_true, if_false]
  case joins =>
    rcases hgen with hgen | hgen <;> rcases hop with hop | hop <;>
      simp only [State.hop, hgen, hnamed, hgroup, hlive, hrsvd, hnent', hroute', ge_iff_le, Nat.reduceLeDiff, decide_false, Bool.or_self,
        hplain, hop, hq, bne_self_eq_false, Bool.false_eq_true, if_false]
  case writes =>
    rcases hgen with hgen | hgen <;> rcases hop with hop | hop <;>
      simp only [State.hop, hgen, hnamed, hgroup, hlive, hrsvd, hnent', hroute', ge_iff_le, Nat.reduceLeDiff, decide_false, Bool.or_self,
        hplain, hop, bne_self_eq_false, Bool.false_eq_true, if_false]

end

/-! ### Joins (10 R263, 02 R75) -/

section
variable {s : State} {g : RegionNo} {ctxid key : Nat} {p : Packet} {cmd : Option Nat} {q : Contrib}

/-- A packet of the lower ranks takes in its partner and goes on by its own lists. -/
theorem State.hopJoin_lower (hred : redFormat p.fmt.toNat = true) (hfmt : q.pk.fmt = p.fmt) (hlen : q.pk.pay.length = p.pay.length)
    (hlow : p.rank.toNat < q.pk.rank.toNat) (hfree : s.routeHeld p.route0 = false) : s.hopJoin g ctxid key p cmd q
      = (((s.setReg g { s.reg g with contribs := (s.reg g).contribs.erase q }).leftHop g q.cmd).passOn g ctxid key
          { p with span := p.span + q.pk.span, pay := redPay p.fmt.toNat (p.op0 - 1) p.pay q.pk.pay } cmd, .taken) := by
  simp only [State.hopJoin, if_pos hlow, hred, hfmt, hlen, hfree, Bool.not_true, bne_self_eq_false, Bool.or_self, Bool.false_eq_true, if_false]

section
variable {gr : Group} (hidle : (s.reg g).sending key = none)
include hidle

/-- With no `nsend` of the member that has read what it sends, a packet of a plan meets its mate or waits for it. -/
theorem State.hopPlan_waits (hnone : (s.reg g).contribs.find? (fun q => q.grp == key && p.op0 != 4 && p.mates q.pk gr.table.length) = none) :
    s.hopPlan g ctxid key gr p = (s.setReg g { s.reg g with contribs := (s.reg g).contribs ++ [{ grp := key, pk := p }] }, .taken) := by
  simp only [State.hopPlan, hidle, hnone, Bool.false_eq_true, if_false]

theorem State.hopPlan_joins (hmate : (s.reg g).contribs.find? (fun q => q.grp == key && p.op0 != 4 && p.mates q.pk gr.table.length) = some q) :
    s.hopPlan g ctxid key gr p = s.hopJoin g ctxid key p none q := by
  simp only [State.hopPlan, hidle, hmate, Bool.false_eq_true, if_false]

end

/-- A packet that disagrees with the member's own `nsend` loses the chunk for all (10 R261). -/
theorem State.hopPlan_disagrees {gr : Group} {e : Nat × Cmd} (hsending : (s.reg g).sending key = some e) (hreduce : e.2.cf = 0)
    (hwrong : e.2.reduce.agrees p = false) : s.hopPlan g ctxid key gr p = (s.loseGroup key true [], .taken) := by
  simp only [State.hopPlan, hsending, hreduce, hwrong, beq_self_eq_true, Bool.not_false, Bool.and_self, if_true]

end

/-! ### Writes at DADDR (10 R263; 09 R229) -/

section
variable {s : State} {g : RegionNo} {a : Arrival} {key : Nat} {x : CtxNo} {done : State → State}
  (hidle : s.sender g key = none) (hhere : (s.core g).resident a.ctxid = some x) (hparked : a.parked = none)
  (hfree : s.routeHeld a.pk.route0 = false)
include hidle hhere hparked hfree

/-- A line of the write starts: it joins the queue that stands with the packet. -/
theorem State.hopWrite_starts {e : EAcc} {pl : Place} (hone : writeLines a.pk.daddr.toNat a.pk.pay = [e]) (hnew : a.io.find? e.same = none)
    (hcls : clsOf e.addr = 0xC) (hbits : bits e.addr 24 59 = 0) (hpl : bankRange g (s.grant g x) (e.addr % 2 ^ 24) e.n = .ok pl) :
    s.hopWrite g 0 a key done = (s.updArrival g 0 (fun io => io ++ [{ e with pl := pl, va := e.addr }]), .acted) := by
  have hstart := State.engStart_bank (who := .event (.collectiveHop g none)) (c := { ctxid := a.ctxid, x := x, g := g }) hcls hbits hpl
  simp only [State.hopWrite, hidle, hhere, hparked, hfree, hone, hnew, Option.isSome_none, Option.isNone_some, Option.isNone_none, Bool.and_false,
    Bool.false_and, Bool.or_self, Bool.false_eq_true, if_false, List.filter_cons_of_pos, List.filter_nil, List.length_nil, Nat.zero_add,
    State.pick_one, List.getD_cons_zero, Option.getD_some, State.hopStart, hstart]

/-- A line that stands in the queue performs. -/
theorem State.hopWrite_performs {e q : EAcc} {bs : List Byte} (hone : writeLines a.pk.daddr.toNat a.pk.pay = [e])
    (hold : a.io.find? e.same = some q) (hundone : q.got = none) (hwr : e.wr = some bs) (hbank : q.pl.bank = true)
    (hclean : s.spoiled q.pl q.n true = false) :
    s.hopWrite g 0 a key done = ((s.writePlace q.pl bs).updArrival g 0 (ioGot { q with wr := some bs } []), .acted) := by
  simp only [State.hopWrite, hidle, hhere, hparked, hfree, hone, hold, hundone, hwr, Option.isSome_none, Option.isNone_some, Option.isNone_none,
    Option.any_some, Bool.and_false, Bool.false_and, Bool.or_self, Bool.false_eq_true, if_false, List.filter_cons_of_pos, List.filter_nil,
    not_false_eq_true, List.filter_cons_of_neg, List.length_nil, Nat.zero_add, State.pick_one, List.getD_cons_zero, Option.getD_some,
    State.hopPerform, State.ownedOk_bank hbank, Bool.not_true, hclean, State.ioEffect]
  rfl

/-- With every line performed the packet leaves. -/
theorem State.hopWrite_leaves (hdone : ∀ e ∈ writeLines a.pk.daddr.toNat a.pk.pay, ∃ q, a.io.find? e.same = some q ∧ q.got ≠ none) :
    s.hopWrite g 0 a key done = (done s, .taken) := by
  have hstarted : (writeLines a.pk.daddr.toNat a.pk.pay).filter (fun e => (a.io.find? e.same).isNone) = [] := by
    refine List.filter_eq_nil_iff.2 fun e he => ?_
    obtain ⟨q, hq, -⟩ := hdone e he
    simp [hq]
  have hperformed : (writeLines a.pk.daddr.toNat a.pk.pay).filter (fun e => (a.io.find? e.same).any (fun q => q.got.isNone)) = [] := by
    refine List.filter_eq_nil_iff.2 fun e he => ?_
    obtain ⟨q, hq, hgot⟩ := hdone e he
    simp [hq, hgot]
  simp only [State.hopWrite, hidle, hhere, hparked, hfree, hstarted, hperformed, Option.isSome_none, Option.isNone_some, Bool.and_false,
    Bool.false_and, Bool.or_self, Bool.false_eq_true, if_false]

end

end Sys2Proof.Machine

/-! ## Pauses at a unit (10 R264; 16 R315, R316; log 33, log 77) -/

namespace Sys2Proof.Machine

/-! ### A group of a region -/

section
variable {r : Region} {key : Nat} {gr : Group}

theorem Region.get_of_group (h : r.group? key = some gr) : Tab.get r.groups key = some gr ∧ gr.table.isEmpty = false := by
  cases hget : Tab.get r.groups key with
  | none => simp [Region.group?, hget] at h
  | some x =>
    cases hempty : x.table.isEmpty with
    | true => simp [Region.group?, hget, hempty] at h
    | false =>
      simp only [Region.group?, hget, hempty, Bool.false_eq_true, if_false, Option.some.injEq] at h
      subst h
      exact ⟨rfl, hempty⟩

theorem Region.group_of_get (h : Tab.get r.groups key = some gr) (hsome : gr.table.isEmpty = false) : r.group? key = some gr := by
  simp only [Region.group?, h, hsome, Bool.false_eq_true, if_false]

end

theorem State.KeepsGroups.group {s t : State} (h : s.KeepsGroups t) (g : RegionNo) (key : Nat) : (t.reg g).group? key = (s.reg g).group? key := by
  rw [Region.group?, Region.group?, h.groups]

section
variable {s : State} {g : RegionNo} {key : Nat} {gr : Group} (hgroup : (s.reg g).group? key = some gr)
include hgroup

theorem State.get_updGroup (f : Group → Group) : Tab.get ((s.updGroup g key f).reg g).groups key = some (f gr) := by
  have hget := (Region.get_of_group hgroup).1
  rw [State.updGroup, State.reg_setReg_self, Tab.get_upd_self, Tab.getD, hget]
  rfl

/-- A group changed in anything but its table is a group still. -/
theorem State.group_updGroup {f : Group → Group} (htable : (f gr).table = gr.table) : ((s.updGroup g key f).reg g).group? key = some (f gr) :=
  Region.group_of_get (State.get_updGroup hgroup f) (by rw [htable]; exact (Region.get_of_group hgroup).2)

end

theorem State.switching_updGroup (s : State) (g : RegionNo) (key : Nat) (f : Group → Group) :
    ((s.updGroup g key f).reg g).switching = (s.reg g).switching := by
  rw [State.updGroup, State.reg_setReg_self]

theorem State.sender_updGroup (s : State) (g : RegionNo) (key : Nat) (f : Group → Group) : (s.updGroup g key f).sender g key = s.sender g key := by
  rw [State.sender, State.updGroup, State.reg_setReg_self]
  rfl

/-! ### Messages -/

section
variable {s : State}

theorem State.KeepsGroups.foldl {α : Type} {f : State → α → State} (h : ∀ (s : State) a, s.KeepsGroups (f s a)) (l : List α) (s : State) :
    s.KeepsGroups (l.foldl f s) := by
  induction l generalizing s with
  | nil => exact .refl s
  | cons a l ih => exact (h s a).trans (ih _)

/-- A message on a link leaves the regions as they are. -/
theorem State.KeepsGroups.say (s : State) (n : Nat) (m : Nat × Nat × Nat) : s.KeepsGroups (s.say n m) := .of_regions rfl

theorem State.KeepsGroups.sendReport (s : State) (g : RegionNo) (key : Nat) (gr : Group) (way : Nat) :
    s.KeepsGroups (s.sendReport g key gr way) := by
  have hhome (l : List RegionNo) (s : State) : s.KeepsGroups (l.foldl (fun s r =>
      s.setReg r { s.reg r with msgs := (s.reg r).msgs ++ [(1, key, gr.own)] }) s) := by
    refine .foldl (fun s r => ?_) l s
    exact .setReg rfl rfl rfl
  have hlink (l : List Nat) (s : State) : s.KeepsGroups (l.foldl (fun s n => s.say n (1, key % 65536, gr.own)) s) :=
    .foldl (fun _ _ => .say ..) l s
  unfold State.sendReport
  dsimp only
  split
  · split
    · exact (hhome _ s).trans (hlink _ _)
    · exact hlink _ s
  · split
    · exact hhome _ s
    · exact .refl s

theorem State.KeepsGroups.takeMsg (s : State) (g : RegionNo) (msg : Nat × Nat × Nat) : s.KeepsGroups (s.takeMsg g msg) := .setReg rfl rfl rfl

theorem State.group_takeMsg (s : State) (g : RegionNo) (msg : Nat × Nat × Nat) (key : Nat) :
    ((s.takeMsg g msg).reg g).group? key = (s.reg g).group? key := (State.KeepsGroups.takeMsg s g msg).group g key

theorem State.core_takeMsg (s : State) (g : RegionNo) (msg : Nat × Nat × Nat) : (s.takeMsg g msg).core g = s.core g := State.core_setReg_self ..

theorem State.sender_takeMsg (s : State) (g : RegionNo) (msg : Nat × Nat × Nat) (key : Nat) :
    (s.takeMsg g msg).sender g key = s.sender g key := by
  rw [State.sender, State.takeMsg, State.reg_setReg_self]
  rfl

end

/-! ### Reports -/

section
variable {s : State} {g : RegionNo} {key : Nat} {gr : Group} (hgroup : (s.reg g).group? key = some gr)
include hgroup

/-- A report adds its rank; with the last one the command that asks is done. Nothing else of the group changes. -/
theorem State.addReport_group (rank : Nat) : ∃ rs asker,
    Tab.get ((s.addReport g key rank).reg g).groups key = some { gr with reported := rs, asker := asker }
    ∧ ((s.addReport g key rank).reg g).switching = (s.reg g).switching := by
  unfold State.addReport
  simp only [hgroup]
  split
  · exact ⟨gr.reported, gr.asker, (Region.get_of_group hgroup).1, rfl⟩
  · generalize (if gr.reported.contains rank then gr.reported else gr.reported ++ [rank]) = rs
    cases hasker : gr.asker with
    | none =>
      refine ⟨rs, none, ?_, State.switching_updGroup ..⟩
      rw [State.get_updGroup hgroup, ← hasker]
    | some id =>
      dsimp only
      split
      · have hreported := State.group_updGroup hgroup (f := fun x => { x with reported := rs }) rfl
        have hkeep := State.KeepsGroups.endCmd ((s.updGroup g key (fun x => { x with reported := rs })).updGroup g key (fun x =>
          { x with asker := none })) g id 0 (gr.paused.getD ((s.updGroup g key (fun x => { x with reported := rs })).cmd g id).prog.a)
        refine ⟨rs, none, ?_, ?_⟩
        · rw [hkeep.groups, State.get_updGroup hreported]
        · rw [hkeep.switching, State.switching_updGroup, State.switching_updGroup]
      · refine ⟨rs, some id, ?_, State.switching_updGroup ..⟩
        rw [State.get_updGroup hgroup, ← hasker]

/-- At a member whose region switches, with no command that asks, the rank is counted. -/
theorem State.addReport_switching (hidle : gr.asker = none) (hswitching : gr.switching = true) (rank : Nat) :
    s.addReport g key rank = s.updGroup g key (fun x =>
      { x with reported := if gr.reported.contains rank then gr.reported else gr.reported ++ [rank] }) := by
  simp only [State.addReport, hgroup, hidle, hswitching, Bool.not_true, Bool.and_false, Bool.false_eq_true, if_false]

/-- What is owed is reported once it is due: of the group only what is asked, owed and reported has changed. -/
theorem State.pauseReport_group (hdue : s.pauseDone g key gr = true) : ∃ rs asker,
    Tab.get ((s.pauseReport g key).reg g).groups key = some { gr with asked := false, owes := 0, reported := rs, asker := asker }
    ∧ ((s.pauseReport g key).reg g).switching = (s.reg g).switching := by
  have hcleared := State.group_updGroup hgroup (f := fun x => { x with asked := false, owes := 0 }) rfl
  unfold State.pauseReport
  simp only [hgroup, hdue, Bool.not_true, Bool.false_eq_true, if_false]
  split
  · obtain ⟨rs, asker, hadded, hswitching⟩ := State.addReport_group hcleared gr.own
    refine ⟨rs, asker, ?_, ?_⟩
    · rw [(State.KeepsGroups.sendReport ..).groups, hadded]
    · rw [(State.KeepsGroups.sendReport ..).switching, hswitching, State.switching_updGroup]
  · refine ⟨gr.reported, gr.asker, ?_, ?_⟩
    · rw [(State.KeepsGroups.sendReport ..).groups, State.get_updGroup hgroup]
    · rw [(State.KeepsGroups.sendReport ..).switching, State.switching_updGroup]

end

section
variable {s : State} {g : RegionNo} {key : Nat} {gr : Group}

/-- A member with no `nsend` has no chunk to complete. -/
theorem State.pauseDone_idle (h : s.sender g key = none) : s.pauseDone g key gr = true := by simp only [State.pauseDone, h]

theorem State.pauseDone_unpaused (h : gr.paused = none) : s.pauseDone g key gr = true := by
  unfold State.pauseDone
  rw [h]
  cases s.sender g key <;> rfl

end

/-! ### What is received -/

/-- A group that has taken in a pause that came in a way: the lower of two at once holds (log 77). -/
def Group.takePause (x gr : Group) (p : PauseMsg) (way : Nat) : Group := match gr.paused with
  | some q => { x with owes := x.owes ||| way, gang := x.gang || p.gang, paused := some (min q p.p.toNat) }
  | none => { x with owes := x.owes ||| way, gang := p.gang, paused := some p.p.toNat }

theorem Group.table_takePause (x gr : Group) (p : PauseMsg) (way : Nat) : (x.takePause gr p way).table = x.table := by
  unfold Group.takePause
  split <;> rfl

section
variable {s : State} {g : RegionNo} {cid : BitVec 12} {grp : BitVec 16} {gr : Group}
  (hgroup : (s.reg g).group? (grpKey cid.toNat grp.toNat) = some gr)
include hgroup

/-- A pause at a member with no `nsend`: it is taken in, what is owed is reported at once, and a gang pause has the region leave where the
context is resident (log 33). -/
theorem execGroupPauseReceive_idle (p : PauseMsg) (hidle : s.sender g (grpKey cid.toNat grp.toNat) = none) : ∃ t way rs asker,
    execGroupPauseReceive g cid grp p s = .next t
    ∧ Tab.get (t.reg g).groups (grpKey cid.toNat grp.toNat)
        = some { gr.takePause gr p way with asked := false, owes := 0, reported := rs, asker := asker }
    ∧ (p.gang = true → (s.core g).grants.any (fun e => e.2.ctxid == cid.toNat) = true → (t.reg g).switching = true) := by
  generalize hkey : grpKey cid.toNat grp.toNat = key at *
  let msg : Nat × Nat × Nat := (if p.gang then 5 else 0, key, p.p.toNat)
  let s1 := (s.takeMsg g msg).updGroup g key (fun x => x.takePause gr p (s.msgWay g msg))
  have hgroup1 : (s1.reg g).group? key = some (gr.takePause gr p (s.msgWay g msg)) :=
    State.group_updGroup ((State.group_takeMsg ..).trans hgroup) (Group.table_takePause ..)
  have hidle1 : s1.sender g key = none := by rw [State.sender_updGroup, State.sender_takeMsg, hidle]
  let here := (s.core g).grants.any (fun e => e.2.ctxid == cid.toNat)
  let s2 := if p.gang && here then s1.setReg g { s1.reg g with switching := true } else s1
  have hgroup2 : (s2.reg g).group? key = some (gr.takePause gr p (s.msgWay g msg)) := by
    unfold s2
    split
    · rw [State.reg_setReg_self]
      exact hgroup1
    · exact hgroup1
  have hidle2 : s2.sender g key = none := by
    unfold s2
    split
    · rw [State.sender, State.reg_setReg_self]
      exact hidle1
    · exact hidle1
  obtain ⟨rs, asker, hget, hswitching⟩ := State.pauseReport_group hgroup2 (State.pauseDone_idle hidle2)
  refine ⟨s2.pauseReport g key, _, rs, asker, ?_, hget, fun hgang hhere => ?_⟩
  · simp only [execGroupPauseReceive, hkey, hgroup, State.core_takeMsg]
    rfl
  · have hleaves : (p.gang && here) = true := by rw [hgang]; exact hhere
    rw [hswitching]
    unfold s2
    rw [if_pos hleaves, State.reg_setReg_self]

/-- A resume while the member's own `nsend` is saved is kept for its restoring (16 R316). -/
theorem execGroupResumeReceive_late (hsaved : s.senderSaved g (grpKey cid.toNat grp.toNat) = true) :
    ∃ t, execGroupResumeReceive g cid grp s = .next t
      ∧ ∃ late, late ≠ 0 ∧ Tab.get (t.reg g).groups (grpKey cid.toNat grp.toNat) = some { gr with late := late } := by
  generalize hkey : grpKey cid.toNat grp.toNat = key at *
  have hgroup' : ((s.takeMsg g (2, key, 0)).reg g).group? key = some gr := (State.group_takeMsg ..).trans hgroup
  have hsaved' : (s.takeMsg g (2, key, 0)).senderSaved g key = true := by
    rw [State.senderSaved, State.sender_takeMsg, State.core_takeMsg]
    exact hsaved
  refine ⟨_, ?_, gr.late ||| s.msgWay g (2, key, 0), ?_,
    State.get_updGroup hgroup' (fun x => { x with late := x.late ||| s.msgWay g (2, key, 0) })⟩
  · simp only [execGroupResumeReceive, hkey, hgroup, hsaved', if_true]
  · have hway : s.msgWay g (2, key, 0) ≠ 0 := by
      unfold State.msgWay
      split <;> decide
    exact fun hzero => hway (Nat.or_eq_zero_iff.1 hzero).2

/-- Any other resume ends the pause, and is reported. -/
theorem execGroupResumeReceive_ends (hhere : s.senderSaved g (grpKey cid.toNat grp.toNat) = false) :
    ∃ t rs asker, execGroupResumeReceive g cid grp s = .next t
      ∧ Tab.get (t.reg g).groups (grpKey cid.toNat grp.toNat)
        = some { gr with paused := none, whole := false, gang := false, asked := false, owes := 0, reported := rs, asker := asker } := by
  generalize hkey : grpKey cid.toNat grp.toNat = key at *
  have hgroup' : ((s.takeMsg g (2, key, 0)).reg g).group? key = some gr := (State.group_takeMsg ..).trans hgroup
  have hhere' : (s.takeMsg g (2, key, 0)).senderSaved g key = false := by
    rw [State.senderSaved, State.sender_takeMsg, State.core_takeMsg]
    exact hhere
  have hended := State.group_updGroup hgroup' (f := fun x =>
    { x with paused := none, whole := false, gang := false, owes := x.owes ||| s.msgWay g (2, key, 0) }) rfl
  obtain ⟨rs, asker, hget, -⟩ := State.pauseReport_group hended (State.pauseDone_unpaused rfl)
  refine ⟨_, rs, asker, ?_, hget⟩
  simp only [execGroupResumeReceive, hkey, hgroup, hhere', Bool.false_eq_true, if_false]

/-- A report at a member whose region switches. -/
theorem execGroupPauseReport_switching (rank : BitVec 16) (hidle : gr.asker = none) (hswitching : gr.switching = true) :
    ∃ t, execGroupPauseReport g cid grp rank s = .next t
      ∧ Tab.get (t.reg g).groups (grpKey cid.toNat grp.toNat)
        = some { gr with reported := if gr.reported.contains rank.toNat then gr.reported else gr.reported ++ [rank.toNat] } := by
  have hgroup' : ((s.takeMsg g (1, grpKey cid.toNat grp.toNat, rank.toNat)).reg g).group? (grpKey cid.toNat grp.toNat) = some gr :=
    (State.group_takeMsg ..).trans hgroup
  refine ⟨_, rfl, ?_⟩
  rw [State.addReport_switching hgroup' hidle hswitching, State.get_updGroup hgroup']

end

end Sys2Proof.Machine

/-! ## The loss of a member (10 R261; 19 R368; log 93) -/

namespace Sys2Proof

/-- The value under one key changed wherever it stands. -/
theorem Tab.get_map_at {α : Type} (t : Tab α) (n : Nat) (f : α → α) :
    Tab.get (List.map (fun e => if e.1 == n then (e.1, f e.2) else e) t) n = (Tab.get t n).map f := by
  have hmap : List.map (fun e => if e.1 == n then (e.1, f e.2) else e) t = Tab.mapVal t (fun k v => if k == n then f v else v) := by
    refine List.map_congr_left fun e _ => ?_
    by_cases hkey : e.1 = n <;> simp [hkey]
  rw [hmap, Tab.get_mapVal]
  simp

end Sys2Proof

namespace Sys2Proof.Machine

/-! ### The members of a package -/

theorem State.mem_members {s : State} {key : Nat} {m : RegionNo × Group} (h : m ∈ s.members key) :
    (s.reg m.1).group? key = some m.2 ∧ m.2.failed = false := by
  obtain ⟨g, -, hm⟩ := List.mem_filterMap.1 h
  cases hgroup : (s.reg g).group? key with
  | none => simp [hgroup] at hm
  | some x =>
    cases hfailed : x.failed with
    | true => simp [hgroup, hfailed] at hm
    | false =>
      simp only [hgroup, hfailed, Bool.false_eq_true, if_false, Option.some.injEq] at hm
      subst hm
      exact ⟨hgroup, hfailed⟩

theorem State.members_of_regions {s t : State} (h : t.regions = s.regions) (key : Nat) : t.members key = s.members key := by
  simp only [State.members, State.reg, h]

theorem State.reg_of_regions {s t : State} (h : t.regions = s.regions) (g : RegionNo) : t.reg g = s.reg g := by
  rw [State.reg, State.reg, h]

/-- A fold whose steps change nothing. -/
theorem foldl_unchanged {α β : Type} {f : β → α → β} {b : β} {l : List α} (h : ∀ a ∈ l, f b a = b) : l.foldl f b = b := by
  induction l with
  | nil => rfl
  | cons a l ih =>
    rw [List.foldl_cons, h a List.mem_cons_self]
    exact ih fun a ha => h a (List.mem_cons_of_mem _ ha)

theorem le_foldl_max {n : Nat} {l : List Nat} (h : n ∈ l) (i : Nat) : n ≤ l.foldl max i := by
  have hstart (l : List Nat) (i : Nat) : i ≤ l.foldl max i := by
    induction l generalizing i with
    | nil => exact Nat.le_refl i
    | cons a l ih => exact Nat.le_trans (Nat.le_max_left i a) (ih _)
  induction l generalizing i with
  | nil => cases h
  | cons a l ih =>
    rcases List.mem_cons.1 h with rfl | h
    · exact Nat.le_trans (Nat.le_max_right i n) (hstart l _)
    · exact ih h _

/-! ### Reports of members that can complete no chunk -/

/-- What is known of a group's loss after some ranks have reported: those that had reported stand as they did. -/
structure State.HearsMore (key : Nat) (s t : State) : Prop where
  regions : t.regions = s.regions
  gone    : (Tab.getD t.losses key : Loss).gone = (Tab.getD s.losses key : Loss).gone
  heard   : ∀ r, Tab.has (Tab.getD s.losses key : Loss).heard r = true →
    Tab.get (Tab.getD t.losses key : Loss).heard r = Tab.get (Tab.getD s.losses key : Loss).heard r

section
variable {key : Nat} {s t u : State}

theorem State.HearsMore.refl (key : Nat) (s : State) : State.HearsMore key s s := ⟨rfl, rfl, fun _ _ => rfl⟩

theorem State.HearsMore.trans (h : State.HearsMore key s t) (h' : State.HearsMore key t u) : State.HearsMore key s u := by
  refine ⟨h'.regions.trans h.regions, h'.gone.trans h.gone, fun r hr => ?_⟩
  have hkept := h.heard r hr
  exact (h'.heard r (by rwa [Tab.has, hkept])).trans hkept

theorem State.sayGroup_keeps (s : State) (key kind value : Nat) :
    (s.sayGroup key kind value).regions = s.regions ∧ (s.sayGroup key kind value).losses = s.losses := by
  unfold State.sayGroup
  dsimp only
  generalize (List.eraseDups _ : List Nat) = ns
  induction ns generalizing s with
  | nil => exact ⟨rfl, rfl⟩
  | cons n ns ih => exact ih (s.say n _)

theorem State.loss_reportLoss (s : State) (key rank chunk : Nat) :
    (Tab.getD (s.reportLoss key rank chunk).losses key : Loss) = (Tab.getD s.losses key : Loss).hear rank chunk := by
  rw [State.reportLoss]
  dsimp only
  rw [Tab.getD_upd_self, (State.sayGroup_keeps ..).2]

theorem State.HearsMore.reportLoss {rank : Nat} (h : Tab.has (Tab.getD s.losses key : Loss).heard rank = false) (chunk : Nat) :
    State.HearsMore key s (s.reportLoss key rank chunk) := by
  refine ⟨(State.sayGroup_keeps ..).1, by rw [State.loss_reportLoss]; rfl, fun r hr => ?_⟩
  have hne : r ≠ rank := fun e => by rw [e, h] at hr; cases hr
  rw [State.loss_reportLoss]
  exact Tab.get_set_ne _ _ _ _ hne

/-- What a member that can complete no chunk does: it reports, unless it has reported or is lost. -/
def State.stuckReport (key : Nat) (s : State) (m : RegionNo × Group) : State :=
  let l : Loss := Tab.getD s.losses key
  if l.gone.contains m.2.own || Tab.has l.heard m.2.own then s
  else match (s.reg m.1).sending key with
    | some e => if s.stuck m.1 e || (e.2.w.extractLsb' 112 2).toNat == 1 then s.reportLoss key m.2.own e.2.prog.chunk else s
    | none => s

theorem State.stuckReports_eq (s : State) (key : Nat) : s.stuckReports key = (s.members key).foldl (State.stuckReport key) s := rfl

/-- A member that is lost, has reported or can complete chunks reports nothing; any other had not reported. -/
theorem State.stuckReport_cases (m : RegionNo × Group) : s.stuckReport key m = s
    ∨ Tab.has (Tab.getD s.losses key : Loss).heard m.2.own = false ∧ ∃ e, (s.reg m.1).sending key = some e
      ∧ (s.stuck m.1 e = true ∨ e.2.cf = 1) ∧ s.stuckReport key m = s.reportLoss key m.2.own e.2.prog.chunk := by
  unfold State.stuckReport
  dsimp only
  split
  · exact .inl rfl
  · next hknown =>
    rw [Bool.not_eq_true, Bool.or_eq_false_iff] at hknown
    split
    · next e hsending =>
      split
      · next hstuck =>
        rw [Bool.or_eq_true, beq_iff_eq] at hstuck
        exact .inr ⟨hknown.2, e, hsending, hstuck, rfl⟩
      · exact .inl rfl
    · exact .inl rfl

theorem State.HearsMore.stuckReport (s : State) (key : Nat) (m : RegionNo × Group) : State.HearsMore key s (s.stuckReport key m) := by
  rcases s.stuckReport_cases (key := key) m with h | ⟨hnew, e, -, -, h⟩ <;> rw [h]
  · exact .refl key s
  · exact .reportLoss hnew _

/-- A rank whose members can all complete chunks is not reported. -/
theorem State.stuckReport_unheard {r : Nat} {m : RegionNo × Group}
    (hm : m.2.own = r → ∀ e, (s.reg m.1).sending key = some e → s.stuck m.1 e = false ∧ e.2.cf ≠ 1)
    (hr : Tab.has (Tab.getD s.losses key : Loss).heard r = false) :
    Tab.has (Tab.getD (s.stuckReport key m).losses key : Loss).heard r = false := by
  rcases s.stuckReport_cases (key := key) m with h | ⟨-, e, hsending, hstuck, h⟩ <;> rw [h]
  · exact hr
  · have hne : r ≠ m.2.own := fun hown => by
      obtain ⟨hfree, hcf⟩ := hm hown.symm e hsending
      rw [hfree] at hstuck
      exact hstuck.elim Bool.false_ne_true hcf
    rw [State.loss_reportLoss, Tab.has]
    exact (congrArg Option.isSome (Tab.get_set_ne _ _ _ _ hne)).trans hr

theorem State.stuckReports_spec (ms : List (RegionNo × Group)) (s : State) : State.HearsMore key s (ms.foldl (State.stuckReport key) s)
    ∧ ∀ r, (∀ m ∈ ms, m.2.own = r → ∀ e, (s.reg m.1).sending key = some e → s.stuck m.1 e = false ∧ e.2.cf ≠ 1) →
      Tab.has (Tab.getD s.losses key : Loss).heard r = false →
      Tab.has (Tab.getD (ms.foldl (State.stuckReport key) s).losses key : Loss).heard r = false := by
  induction ms generalizing s with
  | nil => exact ⟨.refl key s, fun _ _ hr => hr⟩
  | cons m ms ih =>
    have hstep := State.HearsMore.stuckReport s key m
    obtain ⟨hrest, hunheard⟩ := ih (s.stuckReport key m)
    refine ⟨hstep.trans hrest, fun r hms hr => hunheard r (fun m' hm' hown e he => ?_)
      (State.stuckReport_unheard (hms m List.mem_cons_self) hr)⟩
    rw [State.reg_of_regions hstep.regions] at he
    have hfree := hms m' (List.mem_cons_of_mem _ hm') hown e he
    rwa [State.stuck, State.core_of_regions hstep.regions, State.reg_of_regions hstep.regions]

end

/-! ### A loss with no `nsend` under way -/

section
variable {s : State} {key : Nat}

/-- The group of a member as it is once the loss is settled. -/
def State.loseAt (key : Nat) (s : State) (m : RegionNo × Group) : State :=
  (s.setReg m.1 ((s.reg m.1).dropGroup key)).updGroup m.1 key Group.lose

theorem State.sender_loseAt (s : State) (key : Nat) (m : RegionNo × Group) (g : RegionNo) : (s.loseAt key m).sender g key = s.sender g key := by
  unfold State.loseAt State.updGroup State.sender
  by_cases hg : g = m.1
  · subst hg
    rw [State.reg_setReg_self, State.reg_setReg_self]
    rfl
  · rw [State.reg_setReg_ne _ _ _ _ hg, State.reg_setReg_ne _ _ _ _ hg]

theorem State.groups_loseAt_self (s : State) (key : Nat) (m : RegionNo × Group) :
    ((s.loseAt key m).reg m.1).groups = Tab.upd (s.reg m.1).groups key Group.lose := by
  unfold State.loseAt State.updGroup
  rw [State.reg_setReg_self, State.reg_setReg_self]
  rfl

theorem State.groups_loseAt_ne {m : RegionNo × Group} {g : RegionNo} (h : g ≠ m.1) : ((s.loseAt key m).reg g).groups = (s.reg g).groups := by
  unfold State.loseAt State.updGroup
  rw [State.reg_setReg_ne _ _ _ _ h, State.reg_setReg_ne _ _ _ _ h]

/-- Every member named has lost, and keeps its table. -/
theorem State.foldl_loseAt (ms : List (RegionNo × Group)) {s : State} {g : RegionNo} {x : Group} (hx : Tab.get (s.reg g).groups key = some x) :
    ∃ y, Tab.get ((ms.foldl (State.loseAt key) s).reg g).groups key = some y ∧ y.table = x.table
      ∧ (x.failed = true ∨ g ∈ ms.map Prod.fst → y.failed = true) := by
  induction ms generalizing s x with
  | nil => exact ⟨x, hx, rfl, fun h => h.elim id fun hmem => nomatch hmem⟩
  | cons m ms ih =>
    by_cases hg : g = m.1
    · have hlost : Tab.get ((s.loseAt key m).reg g).groups key = some x.lose := by
        subst hg
        rw [State.groups_loseAt_self, Tab.get_upd_self, Tab.getD, hx]
        rfl
      obtain ⟨y, hy, htable, hfailed⟩ := ih hlost
      exact ⟨y, hy, htable, fun _ => hfailed (.inl rfl)⟩
    · obtain ⟨y, hy, htable, hfailed⟩ := ih (s := s.loseAt key m) (by rw [State.groups_loseAt_ne hg]; exact hx)
      refine ⟨y, hy, htable, fun h => hfailed (h.imp_right fun hmem => ?_)⟩
      exact (List.mem_cons.1 hmem).resolve_left hg

end

section
variable {s : State} {key : Nat}

/-- With no `nsend` of the members under way, what settles the loss at each of them is that. -/
theorem State.foldl_settles {f : State → RegionNo × Group → State} (hf : ∀ t m, t.sender m.1 key = none → f t m = t.loseAt key m)
    {ms : List (RegionNo × Group)} {s : State} (hidle : ∀ m ∈ ms, s.sender m.1 key = none) :
    ms.foldl f s = ms.foldl (State.loseAt key) s := by
  induction ms generalizing s with
  | nil => rfl
  | cons m ms ih =>
    rw [List.foldl_cons, List.foldl_cons, hf s m (hidle m List.mem_cons_self)]
    exact ih fun m' hm' => by rw [State.sender_loseAt, hidle m' (List.mem_cons_of_mem _ hm')]

/-- The members of a package among which one rank is lost, none with an `nsend` under way, and no other rank elsewhere. -/
structure State.LosesIdle (s : State) (key rank : Nat) : Prop where
  idle   : ∀ m ∈ s.members key, s.sender m.1 key = none
  inside : ∀ m ∈ s.members key, ∀ i < m.2.table.length, i ≠ rank → routeKind (m.2.table.getD i 0) ≠ 0

theorem State.sending_idle {g : RegionNo} (h : s.sender g key = none) : (s.reg g).sending key = none := by
  rw [Region.sending, show (s.reg g).sender key = none from h]
  rfl

theorem State.LosesIdle.of_regions {t : State} {rank : Nat} (h : s.LosesIdle key rank) (hregs : t.regions = s.regions) :
    t.LosesIdle key rank := by
  obtain ⟨hidle, hinside⟩ := h
  refine ⟨fun m hm => ?_, fun m hm => hinside m (by rwa [State.members_of_regions hregs] at hm)⟩
  rw [State.members_of_regions hregs] at hm
  rw [State.sender, State.reg_of_regions hregs]
  exact hidle m hm

section
variable {rank : Nat} (h : s.LosesIdle key rank)
include h

theorem State.LosesIdle.stuckReports : s.stuckReports key = s := by
  rw [State.stuckReports_eq]
  refine foldl_unchanged fun m hm => ?_
  refine s.stuckReport_cases (key := key) m |>.resolve_right fun ⟨_, e, hsending, _⟩ => ?_
  rw [State.sending_idle (h.idle m hm)] at hsending
  cases hsending

theorem State.LosesIdle.lossAwaits : s.lossAwaits key { gone := [rank] } = [] := by
  refine List.filter_eq_nil_iff.2 fun r _ hawaited => ?_
  rw [Bool.and_eq_true, Bool.and_eq_true] at hawaited
  obtain ⟨⟨hhere, -⟩, hreach⟩ := hawaited
  have hne : r ≠ rank := by simpa using hhere
  split at hreach
  · next m hm =>
    rw [State.sending_idle (h.idle m (List.mem_of_find?_eq_some hm))] at hreach
    cases hreach
  · obtain ⟨m, hm, hroute⟩ := List.any_eq_true.1 hreach
    simp only [Bool.and_eq_true, decide_eq_true_eq, beq_iff_eq] at hroute
    obtain ⟨⟨hlt, hkind⟩, -⟩ := hroute
    exact h.inside m hm r hlt hne hkind

theorem State.LosesIdle.settles (hloss : Tab.get s.losses key = some { gone := [rank] }) : s.settleLoss key
    = State.closeFaults { (s.members key).foldl (State.loseAt key) s with
        losses := Tab.erase ((s.members key).foldl (State.loseAt key) s).losses key } := by
  have hhas : Tab.has s.losses key = true := by rw [Tab.has, hloss]; rfl
  have hget : (Tab.getD s.losses key : Loss) = { gone := [rank] } := by rw [Tab.getD, hloss]; rfl
  simp only [State.settleLoss, hhas, Bool.not_true, Bool.false_eq_true, if_false, h.stuckReports, hget, h.lossAwaits, List.isEmpty_nil]
  rw [State.foldl_settles (fun t m hidle => ?_) h.idle]
  simp only [hidle]
  rfl

/-- The loss is announced where it was not known: every member has lost, and the loss is settled. -/
theorem State.LosesIdle.noteLoss (hsome : s.members key ≠ []) (hnew : Tab.has s.losses key = false)
    (hothers : ∀ m ∈ s.members key, m.2.own ≠ rank) : Tab.has (s.noteLoss key false [rank]).losses key = false
    ∧ ∀ m ∈ s.members key, (Tab.get ((s.noteLoss key false [rank]).reg m.1).groups key).map (fun x => (x.failed, x.table))
        = some (true, m.2.table) := by
  have hmembers : (s.members key).isEmpty = false := List.isEmpty_eq_false_iff.2 hsome
  have hnone : Tab.get s.losses key = none := by simpa [Tab.has] using hnew
  let s1 : State := { s with losses := Tab.set s.losses key { gone := [rank] } }
  have hnoted : (s.members key).foldl (fun s m => if !(List.contains [rank] m.2.own) then s else match s.sender m.1 key with
      | some (id, _) => s.failCmd m.1 id Cause.collMemberLost
      | none => s) s1 = s1 := by
    refine foldl_unchanged fun m hm => if_pos ?_
    simpa using hothers m hm
  have hidle : s1.closeFaults.LosesIdle key rank := h.of_regions rfl
  have hsettles : s.noteLoss key false [rank] = s1.closeFaults.settleLoss key := by
    simp only [State.noteLoss, hmembers, Bool.false_eq_true, if_false, hnone]
    exact congrArg (fun t => State.settleLoss (State.closeFaults t) key) hnoted
  rw [hsettles, hidle.settles (Tab.get_set_self ..)]
  refine ⟨Tab.has_erase .., fun m hm => ?_⟩
  obtain ⟨hgroup, -⟩ := State.mem_members hm
  obtain ⟨y, hy, htable, hfailed⟩ := State.foldl_loseAt (s1.closeFaults.members key) (s := s1.closeFaults) (Region.get_of_group hgroup).1
  have hlost : y.failed = true := hfailed (.inr (List.mem_map_of_mem hm))
  refine (congrArg (Option.map _) hy).trans ?_
  rw [Option.map_some, hlost, htable]

end

/-! ### A report that does not complete the loss -/

/-- A member whose `nsend` can complete chunks, and has still to report. -/
structure State.AwaitsMember (s : State) (key : Nat) (x : Loss) (m : RegionNo × Group) : Prop where
  member  : m ∈ s.members key
  alone   : ∀ q ∈ s.members key, q.2.own = m.2.own → q = m
  rank    : m.2.own < m.2.table.length
  kept    : m.2.own ∉ x.gone
  unheard : Tab.has x.heard m.2.own = false
  sends   : ∃ e, (s.reg m.1).sending key = some e ∧ s.stuck m.1 e = false ∧ e.2.cf ≠ 1

section
variable {x : Loss} {m : RegionNo × Group} (h : s.AwaitsMember key x m)
include h

theorem State.AwaitsMember.awaited : m.2.own ∈ s.lossAwaits key x := by
  obtain ⟨hmember, halone, hrank, hkept, hunheard, e, hsending, -, -⟩ := h
  refine List.mem_filter.2 ⟨List.mem_range.2 (Nat.lt_of_lt_of_le hrank ?_), ?_⟩
  · exact le_foldl_max (List.mem_map_of_mem (f := fun m : RegionNo × Group => m.2.table.length) hmember) 0
  · obtain ⟨q, hq⟩ : ∃ q, (s.members key).find? (fun q => q.2.own == m.2.own) = some q :=
      Option.isSome_iff_exists.1 (List.find?_isSome.2 ⟨m, hmember, beq_self_eq_true _⟩)
    have hown : q.2.own = m.2.own := by simpa using List.find?_some hq
    have hqm : q = m := halone q (List.mem_of_find?_eq_some hq) hown
    simp [hkept, hunheard, hq, hqm, hsending]

/-- The loss waits for that member: it is not settled yet, and what has been heard stands. -/
theorem State.AwaitsMember.waits (hloss : Tab.get s.losses key = some x) : State.HearsMore key s (s.settleLoss key) := by
  have hhas : Tab.has s.losses key = true := by rw [Tab.has, hloss]; rfl
  have hget : (Tab.getD s.losses key : Loss) = x := by rw [Tab.getD, hloss]; rfl
  obtain ⟨hmore, hunheard⟩ := State.stuckReports_spec (s.members key) s (key := key)
  rw [← State.stuckReports_eq] at hmore hunheard
  have hstill : (s.stuckReports key).AwaitsMember key (Tab.getD (s.stuckReports key).losses key) m := by
    obtain ⟨hmember, halone, hrank, hkept, hnew, e, hsending, hfree, hcf⟩ := h
    have hreg := State.reg_of_regions hmore.regions
    refine ⟨?_, ?_, hrank, ?_, hunheard _ (fun q hq hown e' he' => ?_) (by rwa [hget]), e, ?_, ?_, hcf⟩
    · rwa [State.members_of_regions hmore.regions]
    · rwa [State.members_of_regions hmore.regions]
    · rwa [hmore.gone, hget]
    · obtain rfl := halone q hq hown
      obtain rfl : e = e' := Option.some.inj (hsending.symm.trans he')
      exact ⟨hfree, hcf⟩
    · rwa [hreg]
    · rwa [State.stuck, State.core_of_regions hmore.regions, hreg]
  have hsome : ((s.stuckReports key).lossAwaits key (Tab.getD (s.stuckReports key).losses key)).isEmpty = false :=
    List.isEmpty_eq_false_iff.2 (List.ne_nil_of_mem hstill.awaited)
  have hheld : s.settleLoss key = s.stuckReports key := by
    simp only [State.settleLoss, hhas, Bool.not_true, Bool.false_eq_true, if_false, hsome, Bool.not_false, if_true]
  rwa [hheld]

end

end

section
variable {s : State} {cid : BitVec 12} {grp rank : BitVec 16} {l : LossMsg}

theorem execMemberLoss_unknown (hnone : l.chunks = []) (hmembers : s.members (grpKey cid.toNat grp.toNat) = []) :
    execMemberLoss cid grp rank l s = .next s := by
  simp [execMemberLoss, hnone, State.noteLoss, hmembers]

theorem execMemberLoss_announces (hnone : l.chunks = []) (hlost : l.dis = false) :
    execMemberLoss cid grp rank l s = .next (s.noteLoss (grpKey cid.toNat grp.toNat) false [rank.toNat]) := by
  simp [execMemberLoss, hnone, hlost]

/-- A rank's report where another is still awaited: the lowest chunk that it has named is kept. -/
theorem execMemberLoss_hears {key c : Nat} (hkey : grpKey cid.toNat grp.toNat = key) (hmin : (l.chunks.map BitVec.toNat).min? = some c) {x : Loss}
    (hloss : Tab.get s.losses key = some x) {m : RegionNo × Group} (hother : m.2.own ≠ rank.toNat) (h : s.AwaitsMember key x m) :
    ∃ t, execMemberLoss cid grp rank l s = .next t
      ∧ Tab.get (Tab.getD t.losses key : Loss).heard rank.toNat = some (min c ((Tab.get x.heard rank.toNat).getD c)) := by
  have hhas : Tab.has s.losses key = true := by rw [Tab.has, hloss]; rfl
  let s1 : State := { s with losses := s.losses.map (fun (e : Nat × Loss) => if e.1 == key then (e.1, e.2.hear rank.toNat c) else e) }
  have hloss1 : Tab.get s1.losses key = some (x.hear rank.toNat c) := by
    rw [show s1.losses = _ from rfl, Tab.get_map_at s.losses key (fun l => l.hear rank.toNat c), hloss]
    rfl
  have hget1 : (Tab.getD s1.losses key : Loss) = x.hear rank.toNat c := by rw [Tab.getD, hloss1]; rfl
  have h1 : s1.AwaitsMember key (x.hear rank.toNat c) m := by
    obtain ⟨hmember, halone, hrank, hkept, hunheard, hsends⟩ := h
    refine ⟨hmember, halone, hrank, hkept, ?_, hsends⟩
    rw [Tab.has] at hunheard ⊢
    exact (congrArg Option.isSome (Tab.get_set_ne _ _ _ _ hother)).trans hunheard
  have hheard : Tab.get (x.hear rank.toNat c).heard rank.toNat = some (min c ((Tab.get x.heard rank.toNat).getD c)) := Tab.get_set_self ..
  have hmore := h1.waits hloss1
  refine ⟨s1.settleLoss key, ?_, ?_⟩
  · simp only [execMemberLoss, hkey, hmin, hhas, if_true]
    rfl
  · rw [hmore.heard rank.toNat (by rw [hget1, Tab.has, hheard]; rfl), hget1, hheard]

end

end Sys2Proof.Machine

/-! ## Voing tokens, acknowledgements and write completions (01 R32; 09 R235; 10 R265) -/

namespace Sys2Proof.Machine

/-! ### Tokens of a Voing channel -/

/-- The port record that names a Voing channel of a link (10 R265). -/
def EdgePort.namesVoing (link : BitVec 4) (ch : Byte) (e : Nat × EdgePort) : Bool :=
  e.2.kind == 3 && e.2.arg.toNat % 16 == link.toNat && e.2.arg.toNat / 256 % 256 == ch.toNat

/-- The port that names a Voing channel, with its region. -/
def State.voingPort (s : State) (link : BitVec 4) (ch : Byte) : Option (RegionNo × Nat) :=
  s.regions.findSome? (fun r => (r.2.core.ports.find? (EdgePort.namesVoing link ch)).map (fun e => (BitVec.ofNat 5 r.1, e.1)))

/-- A port with no armed counter counts nothing. -/
theorem State.countPort_unarmed {s : State} {g : RegionNo} {p : Nat} {e : EdgePort} (hport : Tab.get (s.core g).ports p = some e)
    (htok : e.tokArm = []) (hmark : e.markArm = []) (t : TokKind) : s.countPort g p t = s.stamp g := by
  have hget : (Tab.getD (s.core g).ports p : EdgePort) = e := by rw [Tab.getD, hport]; rfl
  unfold State.countPort
  rw [hget]
  cases t <;> simp only [htok, hmark] <;> rfl

section
variable {s : State} {link : BitVec 4} {ch : Byte} {tok : Token} {q : RegionNo} {p : Nat} (hhome : s.voingPort link ch = some (q, p))
include hhome

/-- A token of a reserved kind is discarded, and reported by its port. -/
theorem execVoingTokenReceive_reserved (hkind : tok.kind = .reserved6 ∨ tok.kind = .reserved7) : ∃ f,
    execVoingTokenReceive link ch tok s = .next (s.record f)
    ∧ f.cause = Cause.uncorrectable ∧ f.rep = BitVec.ofNat 16 (0x8100 + p) ∧ f.fatal = true := by
  unfold State.voingPort EdgePort.namesVoing at hhome
  have hreserved : (tok.kind == .reserved6 || tok.kind == .reserved7) = true := by rcases hkind with h | h <;> rw [h] <;> rfl
  simp only [execVoingTokenReceive, hreserved, if_true, hhome]
  exact ⟨_, rfl, rfl, rfl, rfl⟩

section
variable (h6 : tok.kind ≠ .reserved6) (h7 : tok.kind ≠ .reserved7)
include h6 h7

/-- A region whose clock is off, or is being turned off, is called by a token. -/
theorem execVoingTokenReceive_calls (hgated : (s.reg q).clockGated = true ∨ (s.reg q).gating ≠ none) :
    execVoingTokenReceive link ch tok s = .next (s.setReg q { s.reg q with called := true }) := by
  unfold State.voingPort EdgePort.namesVoing at hhome
  have hgood : (tok.kind == .reserved6 || tok.kind == .reserved7) = false := by simp [h6, h7]
  have hsleeps : ((s.reg q).clockGated || (s.reg q).gating.isSome) = true := by
    rw [Bool.or_eq_true, Option.isSome_iff_ne_none]
    exact hgated
  simp only [execVoingTokenReceive, hgood, hhome, hsleeps, Bool.false_eq_true, if_false, if_true]

/-- The token enters at the port that names its channel, with the context of the channel behind it. -/
theorem execVoingTokenReceive_enters {n : Nat} {c : Chan} {e : EdgePort}
    (hchan : (s.core q).chans.find? (fun e => dSRC e.2.desc == 256 + p && (s.core q).chanActive e.1) = some (n, c))
    (hport : Tab.get (s.core q).ports p = some e) (htok : e.tokArm = []) (hmark : e.markArm = []) (hrmark : c.rmark = []) (hjout : c.jout = [])
    (htakes : c.takes tok = true) (hmoves : s.portMoves q c.desc = true) (hclock : (s.reg q).clockGated = false) (hgating : (s.reg q).gating = none) :
    execVoingTokenReceive link ch tok s = .next ((s.updChan q n (fun c => c.place n s.tick { tok with ctx := dCTX c.desc })).stamp q) := by
  unfold State.voingPort EdgePort.namesVoing at hhome
  have hgood : (tok.kind == .reserved6 || tok.kind == .reserved7) = false := by simp [h6, h7]
  let place (c : Chan) : Chan := c.place n s.tick { tok with ctx := dCTX c.desc }
  have hcount := State.countPort_unarmed (s := s.updChan q n place) (by rw [State.ports_updChan]; exact hport) htok hmark tok.kind
  simp only [execVoingTokenReceive, hgood, hhome, hclock, hgating, hchan, hrmark, hjout, htakes, hmoves, List.isEmpty_nil, Option.isSome_none,
    Bool.and_self, Bool.or_self, Bool.false_eq_true, if_false, if_true]
  exact congrArg _ hcount

end

end

/-! ### Acknowledgements -/

section
variable {s : State} {link : BitVec 4} {who : Option (RegionNo × Nat)} {rest : List (Option (RegionNo × Nat) × Bool)}

theorem execVoingAcknowledgement_token (hoff : (Tab.getD s.links link.toNat : Link).unacked = (who, true) :: rest) :
    let l : Link := Tab.getD s.links link.toNat
    execVoingAcknowledgement link s
      = .next { s with links := Tab.set s.links link.toNat { l with outTok := l.outTok.drop 1, unacked := rest } } := by
  simp only [execVoingAcknowledgement, hoff]

theorem execVoingAcknowledgement_packet (hoff : (Tab.getD s.links link.toNat : Link).unacked = (who, false) :: rest) :
    let l : Link := Tab.getD s.links link.toNat
    execVoingAcknowledgement link s
      = .next { s with links := Tab.set s.links link.toNat { l with outPk := l.outPk.drop 1, unacked := rest } } := by
  simp only [execVoingAcknowledgement, hoff]

theorem execVoingAcknowledgement_stray (hoff : (Tab.getD s.links link.toNat : Link).unacked = []) :
    execVoingAcknowledgement link s = .next s := by
  simp only [execVoingAcknowledgement, hoff]

end

/-! ### Write completions -/

/-- The oldest write of the line is no longer owed. -/
theorem execCxlWriteCompletion_oldest {s : State} {line : Nat} {before rest : List (Nat × Option (RegionNo × Nat))} {who : Option (RegionNo × Nat)}
    (howed : s.cxl = before ++ (line, who) :: rest) (hfirst : ∀ e ∈ before, e.1 ≠ line) :
    execCxlWriteCompletion line s = .next { s with cxl := before ++ rest } := by
  have hcxl : s.cxl.eraseP (fun e => e.1 == line) = before ++ rest := by
    rw [howed, List.eraseP_append_right _ fun e he => by simpa using hfirst e he, List.eraseP_cons_of_pos (by exact beq_self_eq_true line)]
  rw [execCxlWriteCompletion, hcxl]

/-! ### What arrives at a collective unit -/

section
variable {s : State} {g : RegionNo} {a : Arrival} {key : Nat} {gr : Group} (h : s.FirstPacket g a key gr)
include h

/-- How the first packet of a unit leaves once every line is written. -/
theorem execCollectiveHop_written {x : CtxNo} (hplain : a.pk.plan = false) (hop : a.pk.op0 = 3 ∨ a.pk.op0 = 4) (hidle : s.sender g key = none)
    (hhere : (s.core g).resident a.ctxid = some x) (hparked : a.parked = none) (hfree : s.routeHeld a.pk.route0 = false)
    (hdone : ∀ e ∈ writeLines a.pk.daddr.toNat a.pk.pay, ∃ q, a.io.find? e.same = some q ∧ q.got ≠ none) :
    execCollectiveHop g none s = .next ((State.hopLeaves g a key s).setReg g
      { (State.hopLeaves g a key s).reg g with arrivals := ((State.hopLeaves g a key s).reg g).arrivals.eraseIdx 0 }) :=
  execCollectiveHop_taken h ((((State.hop_by_operation h).2 hplain).2.2 hop).trans (State.hopWrite_leaves hidle hhere hparked hfree hdone))

end

/-- Settles O39: each message by the equation of its stage; the first packet of a unit by its operation, and a loss by what it leaves known. -/
theorem packetsAndMessagesAtTheUnits : Obligations.PacketsAndMessagesAtTheUnits := by
  unfold Obligations.PacketsAndMessagesAtTheUnits
  intro s g cid grp key r
  refine ⟨?link, ?full, ?first, ?pause, ?report, ?late, ?resume, ?loss, ?voing, ?acknowledged, ?completed⟩
  case link => exact fun link p hfree => ⟨fun ctxid hctx => execCollectiveHop_joins hfree hctx, fun hctx => execCollectiveHop_holds hfree hctx⟩
  case full => exact fun link p q hheld => execCollectiveHop_full hheld
  case first =>
    intro a rest gr hfreed hwhole hfirst p k es hops hfresh hgroup hlive hrsvd hnent hroute hop hfree hparked
    have h : s.FirstPacket g a k gr := ⟨hfreed, hwhole, ⟨rest, hfirst⟩, rfl, hfresh, hgroup, hlive, hrsvd, hnent, hroute, hop⟩
    obtain ⟨hplan, hplain⟩ := State.hop_by_operation h
    refine ⟨fun hp hop => ?passes, fun hp hop => ⟨fun hnone => ?waits, fun q hq hred hfmt hlen hlow => ?joins⟩,
      fun hp hidle => ⟨fun hnone => ?planWaits, fun q hq hred hfmt hlen hlow => ?planJoins⟩, fun e hp hsending hcf hwrong => ?disagrees,
      fun hp hop hidle x hhere => ⟨fun e pl hone hnew hcls hbits hpl => ?starts, fun e q bs hone hold hundone hwr hbank hclean => ?performs,
        fun hdone => ?leaves⟩⟩
    case passes => exact execCollectiveHop_taken h ((hplain hp).1 hop hfree)
    case waits =>
      exact execCollectiveHop_taken h (((hplain hp).2.1 hop).1 (List.find?_eq_none.2 (List.any_eq_false.1 hnone)))
    case joins =>
      exact execCollectiveHop_taken h ((((hplain hp).2.1 hop).2 q hq).trans (State.hopJoin_lower hred hfmt hlen hlow hfree))
    case planWaits => exact execCollectiveHop_taken h ((hplan hp).trans (State.hopPlan_waits hidle hnone))
    case planJoins =>
      exact execCollectiveHop_taken h ((hplan hp).trans ((State.hopPlan_joins hidle hq).trans (State.hopJoin_lower hred hfmt hlen hlow hfree)))
    case disagrees => exact execCollectiveHop_taken h ((hplan hp).trans (State.hopPlan_disagrees hsending hcf hwrong))
    case starts =>
      exact execCollectiveHop_acted h (((hplain hp).2.2 hop).trans (State.hopWrite_starts hidle hhere hparked hfree hone hnew hcls hbits hpl))
    case performs =>
      exact execCollectiveHop_acted h
        (((hplain hp).2.2 hop).trans (State.hopWrite_performs hidle hhere hparked hfree hone hold hundone hwr hbank hclean))
    case leaves =>
      have hleaves := execCollectiveHop_written h hp hop hidle hhere hparked hfree hdone
      unfold State.hopLeaves at hleaves
      constructor <;> intro hop <;> rw [hop] at hleaves <;> exact hleaves
  case pause =>
    intro gr p hgroup hidle hasker hswitching
    obtain ⟨t, way, rs, asker, hnext, hget, hgang⟩ := execGroupPauseReceive_idle hgroup p hidle
    refine ⟨t, hnext, fun hpaused => ?_, fun q hpaused => ?_, hgang⟩ <;>
      rw [hget] <;> simp only [Group.takePause, hpaused, Option.map_some]
  case report =>
    intro gr rank hgroup hidle hswitching
    obtain ⟨t, hnext, hget⟩ := execGroupPauseReport_switching hgroup rank hidle hswitching
    refine ⟨t, hnext, ?_⟩
    rw [hget]
    simp only [Option.map_some, List.contains_iff_mem]
  case late =>
    intro gr hgroup hsaved
    obtain ⟨t, hnext, late, hlate, hget⟩ := execGroupResumeReceive_late hgroup hsaved
    refine ⟨t, hnext, ?_⟩
    rw [hget]
    simp only [Option.map_some, hlate, decide_false]
  case resume =>
    intro gr hgroup hhere
    obtain ⟨t, rs, asker, hnext, hget⟩ := execGroupResumeReceive_ends hgroup hhere
    exact ⟨t, hnext, congrArg _ hget⟩
  case loss =>
    refine fun rank l => ⟨fun hnone hmembers => execMemberLoss_unknown hnone hmembers, fun hnone hlost hnew hsome hmembers => ?_,
      fun x c m e hmin hloss hmember halone hrank hother hkept hunheard hsending hfree hcf =>
        execMemberLoss_hears rfl hmin hloss hother ⟨hmember, halone, hrank, hkept, hunheard, e, hsending, hfree, hcf⟩⟩
    have hidle : s.LosesIdle key rank.toNat := ⟨fun m hm => (hmembers m hm).2.1, fun m hm => (hmembers m hm).2.2⟩
    obtain ⟨hsettled, hfailed⟩ := hidle.noteLoss hsome hnew fun m hm => (hmembers m hm).1
    exact ⟨_, execMemberLoss_announces hnone hlost, hsettled, hfailed⟩
  case voing =>
    intro link ch tok q p n e c names hhome
    exact ⟨fun h6 h7 hchan hport htok hmark hrmark hjout htakes hmoves hclock hgating =>
        execVoingTokenReceive_enters hhome h6 h7 hchan hport htok hmark hrmark hjout htakes hmoves hclock hgating,
      fun h6 h7 hgated => execVoingTokenReceive_calls hhome h6 h7 hgated, fun hkind => execVoingTokenReceive_reserved hhome hkind⟩
  case acknowledged =>
    exact fun link => ⟨fun who rest hoff => execVoingAcknowledgement_token hoff, fun who rest hoff => execVoingAcknowledgement_packet hoff,
      fun hoff => execVoingAcknowledgement_stray hoff⟩
  case completed => exact fun line who before rest howed hfirst => execCxlWriteCompletion_oldest howed hfirst

end Sys2Proof.Machine

/-! ## Drawer space: the commands at the region's unit (11 R267, R277 to R281) -/

namespace Sys2Proof

theorem Tab.get_of_absent {α : Type} {t : Tab α} {n : Nat} (h : Tab.has t n = false) : Tab.get t n = none :=
  Option.isNone_iff_eq_none.1 (Option.isSome_eq_false_iff.1 h)

theorem Tab.getD_erase {α : Type} [Inhabited α] (t : Tab α) (n : Nat) : Tab.getD (Tab.erase t n) n = default := by
  rw [Tab.getD, Tab.get_of_absent (Tab.has_erase t n), Option.getD_none]

end Sys2Proof

namespace Sys2Proof.Machine

/-! ### Slices changed -/

section
variable {s t : State}

theorem State.slice_updSlice_self (s : State) (n : Nat) (f : Slice → Slice) : (s.updSlice n f).slice n = f (s.slice n) := Tab.getD_upd_self ..

theorem State.slice_updSlice_ne (s : State) {n m : Nat} (f : Slice → Slice) (h : m ≠ n) : (s.updSlice n f).slice m = s.slice m :=
  Tab.getD_upd_ne _ _ _ _ h

/-- What a change leaves of a slice is as before at every slice, the changed one with it. -/
theorem State.slice_updSlice_kept {α : Type} (part : Slice → α) (s : State) (n m : Nat) {f : Slice → Slice} (h : ∀ l, part (f l) = part l) :
    part ((s.updSlice n f).slice m) = part (s.slice m) := by
  by_cases hm : m = n
  · rw [hm, State.slice_updSlice_self, h]
  · rw [State.slice_updSlice_ne s f hm]

theorem State.InRegions.slice (h : s.InRegions t) (n : Nat) : t.slice n = s.slice n := by
  obtain ⟨rs, rfl⟩ := h
  rfl

theorem State.InRegions.drawers (h : s.InRegions t) : t.drawers = s.drawers := by
  obtain ⟨rs, rfl⟩ := h
  rfl

/-- One change at all 128 slices: how live marks and sweeps are sent (11 R278, R279). -/
def State.updSlices (s : State) (f : Slice → Slice) : State := (List.range 128).foldl (fun s n => s.updSlice n f) s

theorem State.slice_foldl_updSlice (s : State) (f : Slice → Slice) (n k : Nat) :
    ((List.range k).foldl (fun s n => s.updSlice n f) s).slice n = if n < k then f (s.slice n) else s.slice n := by
  induction k with
  | zero => rfl
  | succ k ih =>
    rw [List.range_succ, List.foldl_append, List.foldl_cons, List.foldl_nil]
    by_cases hn : n = k
    · subst hn
      rw [State.slice_updSlice_self, ih, if_neg (Nat.lt_irrefl n), if_pos n.lt_succ_self]
    · rw [State.slice_updSlice_ne _ _ hn, ih]
      simp only [show n < k ↔ n < k + 1 by omega]

theorem State.slice_updSlices (s : State) (f : Slice → Slice) {n : Nat} (h : n < 128) : (s.updSlices f).slice n = f (s.slice n) :=
  (s.slice_foldl_updSlice f n 128).trans (if_pos h)

theorem State.updSlices_within (s : State) (f : Slice → Slice) : ∃ ls, s.updSlices f = { s with slices := ls } := by
  unfold State.updSlices
  induction List.range 128 generalizing s with
  | nil => exact ⟨_, rfl⟩
  | cons n ns ih =>
    obtain ⟨ls, hls⟩ := ih (s.updSlice n f)
    exact ⟨ls, hls⟩

theorem State.drawers_updSlices (s : State) (f : Slice → Slice) : (s.updSlices f).drawers = s.drawers := by
  obtain ⟨ls, h⟩ := s.updSlices_within f
  rw [h]

theorem State.regions_updSlices (s : State) (f : Slice → Slice) : (s.updSlices f).regions = s.regions := by
  obtain ⟨ls, h⟩ := s.updSlices_within f
  rw [h]

/-! ### A Drawer at its anchor (11 R267, R278) -/

variable {key cap : Nat} {d : Drawer}

theorem State.anchorLive_of_get (h : Tab.get s.drawers key = some d) : s.anchorLive key = !d.dying := by
  rw [State.anchorLive, h]

theorem State.anchorLive_absent (h : Tab.has s.drawers key = false) : s.anchorLive key = false := by
  rw [State.anchorLive, Tab.get_of_absent h]

theorem State.drawerBusy_of_get (h : Tab.get s.drawers key = some d) : s.drawerBusy key = (d.owed != 0) := by
  rw [State.drawerBusy, h]

theorem State.drawerBusy_absent (h : Tab.has s.drawers key = false) : s.drawerBusy key = false := by
  rw [State.drawerBusy, Tab.get_of_absent h]

theorem State.createFault_known (h : Tab.has s.drawers key = true) : s.createFault key cap = some Cause.cmdInvalid := by
  simp only [State.createFault, h, Bool.true_or, if_true]

section
variable (hnew : Tab.has s.drawers key = false) (hpos : 1 ≤ cap) (hcap : cap ≤ 524288)
include hnew hpos hcap

theorem State.createFault_none (hroom : s.drawers.length < 4096) (hunits : s.drawerUnits + cap ≤ 524288) : s.createFault key cap = none := by
  simp [State.createFault, hnew, hroom, hunits, show cap ≠ 0 by omega, Nat.not_lt.2 hcap]

theorem State.createFault_full (hunits : 524288 < s.drawerUnits + cap) : s.createFault key cap = some Cause.outOfMemory := by
  simp [State.createFault, hnew, hunits, show cap ≠ 0 by omega, Nat.not_lt.2 hcap]

end

/-- The anchor records a new Drawer's capacity, of which nothing is taken. -/
def Slice.recordDrawer (l : Slice) (key cap : Nat) : Slice := { l with cap := Tab.set l.cap key cap, count := Tab.set l.count key 0 }

/-- A live mark is sent to a slice, or a sweep. -/
def Slice.sendMark (key : Nat) (l : Slice) : Slice := { l with inLive := l.inLive ++ [key] }
def Slice.sendSweep (key : Nat) (l : Slice) : Slice := { l with inSweep := l.inSweep ++ [key] }

theorem anchorSlice_lt (did : Nat) : anchorSlice did < 128 := Nat.mod_lt _ (by decide)

/-- What a creation leaves at the anchor and at every slice. -/
theorem State.createDrawer_spec (s : State) (ctxid did cap : Nat) (cmd : Option (RegionNo × Nat)) (host : Option Nat) :
    let key := drawerKey ctxid did
    let t := s.createDrawer ctxid did cap cmd host
    Tab.get t.drawers key = some { cap := cap, inc := s.tick, owed := 128, cmd := cmd, host := host }
    ∧ Tab.get (t.slice (anchorSlice did)).cap key = some cap ∧ Tab.get (t.slice (anchorSlice did)).count key = some 0
    ∧ (∀ n < 128, (t.slice n).inLive = (s.slice n).inLive ++ [key]) ∧ t.regions = s.regions := by
  intro key t
  have ht : ∃ u : State, u.slices = s.slices ∧ u.regions = s.regions
      ∧ u.drawers = Tab.set s.drawers key { cap := cap, inc := s.tick, owed := 128, cmd := cmd, host := host }
      ∧ t = (u.updSlice (anchorSlice did) (·.recordDrawer key cap)).updSlices (Slice.sendMark key) :=
    ⟨{ s with drawers := Tab.set s.drawers key { cap := cap, inc := s.tick, owed := 128, cmd := cmd, host := host } }, rfl, rfl, rfl, rfl⟩
  obtain ⟨u, hslices, hregions, hdrawers, ht⟩ := ht
  have hslice (n : Nat) : u.slice n = s.slice n := by rw [State.slice, State.slice, hslices]
  have hanchor : t.slice (anchorSlice did) = Slice.sendMark key ((s.slice (anchorSlice did)).recordDrawer key cap) := by
    rw [ht, State.slice_updSlices _ _ (anchorSlice_lt did), State.slice_updSlice_self, hslice]
  refine ⟨?_, ?_, ?_, fun n hn => ?_, ?_⟩
  · rw [ht, State.drawers_updSlices]
    exact (congrArg (Tab.get · key) hdrawers).trans (Tab.get_set_self ..)
  · rw [hanchor]
    exact Tab.get_set_self ..
  · rw [hanchor]
    exact Tab.get_set_self ..
  · have hkept : ((u.updSlice (anchorSlice did) (·.recordDrawer key cap)).slice n).inLive = (s.slice n).inLive :=
      (State.slice_updSlice_kept Slice.inLive u _ n (f := (·.recordDrawer key cap)) fun _ => rfl).trans (by rw [hslice])
    rw [ht, State.slice_updSlices _ _ hn]
    exact congrArg (· ++ [key]) hkept
  · rw [ht, State.regions_updSlices]
    exact hregions

/-- A parked deposit of a Drawer. -/
def DReq.depositOf (key : Nat) (q : DReq) : Bool := q.kind == 0 && q.key == key

/-- The anchor marks a Drawer not live for a `ddestroy`, and drops the deposits parked for it (11 R279). -/
def State.dieDrawer (s : State) (key a : Nat) (cmd : RegionNo × Nat) : State :=
  { s.updSlice a (fun l => { l with parked := l.parked.filter (fun q => !q.depositOf key) }) with
    drawers := Tab.upd s.drawers key (fun d => { d with dying := true, owed := 128, cmd := some cmd, host := none }) }

theorem State.drawer_dieDrawer (h : Tab.get s.drawers key = some d) (a : Nat) (cmd : RegionNo × Nat) :
    Tab.get (s.dieDrawer key a cmd).drawers key = some { d with dying := true, owed := 128, cmd := some cmd, host := none } := by
  have hd : (Tab.getD s.drawers key : Drawer) = d := by rw [Tab.getD, h, Option.getD_some]
  rw [State.dieDrawer, Tab.get_upd_self, hd]

theorem State.inSweep_dieDrawer (s : State) (key a : Nat) (cmd : RegionNo × Nat) (n : Nat) :
    ((s.dieDrawer key a cmd).slice n).inSweep = (s.slice n).inSweep :=
  State.slice_updSlice_kept Slice.inSweep s a n
    (f := fun l => { l with parked := l.parked.filter (fun q => !q.depositOf key) }) fun _ => rfl

end

/-! ### Creating and destroying by command (11 R278, R279) -/

/-- A stage of a resident command that ends does not end the command. -/
theorem State.done_progress {s : State} {g : RegionNo} {id : Nat} (hhere : Tab.has (s.core g).cmds id = true) (f : Prog → Prog) :
    ((s.progress g id f).cmd g id).done = (s.cmd g id).done := by
  have hstamp : Tab.has ((s.stamp g).core g).cmds id = true := by rwa [State.core_stamp]
  rw [State.progress, State.cmd_updCmd hstamp, State.cmd_resident hstamp, State.core_stamp, ← State.cmd_resident hhere]

section
variable {s : State} {g : RegionNo} {id : Nat} {m : Cmd} (h : Claims.Runs s g id m) (hstage : m.prog.stage = 0) (c : Frame)
include h hstage

section
variable (hgo : (s.drawerBusy (drawerKey m.ctxid c.handle.toNat) && !s.anchorLive (drawerKey m.ctxid c.handle.toNat)) = false)
include hgo

theorem execDcreate_starts (hfault : s.createFault (drawerKey m.ctxid c.handle.toNat) (c.w0.toNat % 2 ^ 20) = none) :
    execDcreate c s = .next ((s.progress g id (fun p => { p with stage := 1 })).createDrawer m.ctxid c.handle.toNat (c.w0.toNat % 2 ^ 20)
      (some (g, id)) none) := by
  simp only [execDcreate, State.runCmd_of_runs h, hstage, hgo, hfault, bne_self_eq_false, Bool.or_self, Bool.false_eq_true, if_false]

theorem execDcreate_fails {e : Byte} (hfault : s.createFault (drawerKey m.ctxid c.handle.toNat) (c.w0.toNat % 2 ^ 20) = some e) :
    execDcreate c s = .next (s.failCmd g id e) := by
  simp only [execDcreate, State.runCmd_of_runs h, hstage, hgo, hfault, bne_self_eq_false, Bool.or_self, Bool.false_eq_true, if_false]

end

theorem execDdestroy_unknown (hdead : s.anchorLive (drawerKey m.ctxid c.handle.toNat) = false) :
    execDdestroy c s = .next (s.failCmd g id Cause.cmdInvalid) := by
  simp only [execDdestroy, State.runCmd_of_runs h, hstage, hdead, bne_self_eq_false, Bool.not_false, Bool.false_eq_true, if_false, if_true]

/-- A live Drawer with no parked deposit is dying, and a sweep is on its way to every slice. -/
theorem execDdestroy_starts {d : Drawer} (hget : Tab.get s.drawers (drawerKey m.ctxid c.handle.toNat) = some d) (hlive : d.dying = false)
    (howed : d.owed = 0)
    (hparked : ∀ q ∈ (s.slice (anchorSlice c.handle.toNat)).parked, q.kind = 0 → q.key ≠ drawerKey m.ctxid c.handle.toNat) :
    ∃ t, execDdestroy c s = .next t
      ∧ Tab.get t.drawers (drawerKey m.ctxid c.handle.toNat) = some { d with dying := true, owed := 128, cmd := some (g, id), host := none }
      ∧ (∀ n < 128, (t.slice n).inSweep = (s.slice n).inSweep ++ [drawerKey m.ctxid c.handle.toNat]) ∧ (t.cmd g id).done = false := by
  let key := drawerKey m.ctxid c.handle.toNat
  let a := anchorSlice c.handle.toNat
  let t := (s.dieDrawer key a (g, id)).progress g id (fun p => { p with stage := 1 })
  have hnone : (s.slice a).parked.filter (DReq.depositOf key) = [] := List.filter_eq_nil_iff.2 fun q hq hmine => by
    obtain ⟨hkind, hkey⟩ := Bool.and_eq_true_iff.1 hmine
    exact hparked q hq (beq_iff_eq.1 hkind) (beq_iff_eq.1 hkey)
  have hkept : (s.dieDrawer key a (g, id)).InRegions t := .progress ..
  have hlive' : s.anchorLive key = true := by rw [State.anchorLive_of_get hget, hlive, Bool.not_false]
  have hidle : s.drawerBusy key = false := by rw [State.drawerBusy_of_get hget, howed, bne_self_eq_false]
  refine ⟨t.updSlices (Slice.sendSweep key), ?_, ?_, fun n hn => ?_, ?_⟩
  · unfold DReq.depositOf at hnone
    simp only [execDdestroy, State.runCmd_of_runs h, hstage, key, a] at hnone hlive' hidle ⊢
    simp only [hlive', hidle, hnone, bne_self_eq_false, Bool.not_true, Bool.false_eq_true, if_false, List.foldl_nil]
    rfl
  · rw [State.drawers_updSlices, hkept.drawers]
    exact State.drawer_dieDrawer hget ..
  · rw [State.slice_updSlices _ _ hn, hkept.slice]
    exact congrArg (· ++ [key]) (State.inSweep_dieDrawer ..)
  · obtain ⟨-, hcmd, hhere, ⟨-, hdone, -⟩, -⟩ := h
    have hhere' : Tab.has ((s.dieDrawer key a (g, id)).core g).cmds id = true := hhere
    rw [State.cmd_of_regions (State.regions_updSlices ..), State.done_progress hhere', State.cmd_of_regions (s := s) (t := s.dieDrawer ..) rfl,
      hcmd, hdone]

end

/-! ### Deposits, copies and takes by command (11 R280) -/

/-- The request that a `ddeposit` sends to the anchor: its tuple is the record's. -/
def depositRequest (g : RegionNo) (id ctxid : Nat) (c : Frame) (bs : List Byte) : DReq :=
  { did := c.handle.toNat, ctxid := ctxid, g := g, cmd := id, nowait := c.cf.getLsbD 0, n := 1 + c.w0.toNat % 16,
    tuple := { f := words8 bs 0, pay := bs.drop 32, plu := c.w0.toNat % 16 } }

/-- The request that a copy or take sends to its home slice: the modes of its frame, the values and masks of its block. -/
def matchRequest (kind : Nat) (g : RegionNo) (id ctxid : Nat) (c : Frame) (bs : List Byte) : DReq :=
  { kind := kind, did := c.handle.toNat, ctxid := ctxid, g := g, cmd := id, nowait := c.cf.getLsbD 0, modes := c.w0.toNat % 65536,
    maxp := c.w0.toNat / 65536 % 16, v := words8 bs 0, m := words8 bs 32 }

section
variable {s s1 s2 : State} {g : RegionNo} {id : Nat} {m : Cmd} (h : Claims.Runs s g id m) (c : Frame) (kind : Nat)
include h

theorem execDdeposit_asks {bs : List Byte} (hstage : m.prog.stage = 0) (haddr : structFault (frameAddr c) 32 = none)
    (hread : s.eRead g id m (frameAddr c) (32 + 32 * (c.w0.toNat % 16)) = (s1, .ok bs)) :
    execDdeposit c s = .next ((s1.progress g id (fun p => { p with stage := 2 })).updSlice (anchorSlice c.handle.toNat) (fun l =>
      { l with inRes := l.inRes ++ [depositRequest g id m.ctxid c bs] })) := by
  simp only [execDdeposit, State.runCmd_of_runs h, hstage, haddr, hread, bne_self_eq_false, Bool.false_eq_true, if_false, depositRequest]

theorem State.drawerAsk_asks {bs : List Byte} (hstage : m.prog.stage = 0) (haddr : structFault (frameAddr c) 64 = none)
    (hpattern : patternBad (c.w0.toNat % 65536) = false) (hread : s.eRead g id m (frameAddr c) 64 = (s1, .ok bs))
    (hcheck : s1.eCheck g id m (frameAddr c + 64) (32 + 32 * (c.w0.toNat / 65536 % 16)) = (s2, .ok ())) :
    s.drawerAsk c kind = .next ((s2.progress g id (fun p => { p with stage := 2 })).updSlice
      (homeSlice c.handle.toNat ((words8 bs 0).getD 0 0).toNat) (fun l =>
        { l with inMat := l.inMat ++ [matchRequest kind g id m.ctxid c bs] })) := by
  have hnone : lowest [((structFault (frameAddr c) 64).isSome, (structFault (frameAddr c) 64).getD 0),
      (patternBad (c.w0.toNat % 65536), Cause.drawerPattern)] = none := lowest_none (by rw [haddr]; rfl) hpattern _ _
  simp only [State.drawerAsk, State.runCmd_of_runs h, hstage, hnone, hread, hcheck, bne_self_eq_false, Nat.reduceBEq, Bool.false_eq_true, if_false,
    matchRequest]

theorem State.drawerAsk_badPattern (hstage : m.prog.stage = 0) (haddr : structFault (frameAddr c) 64 = none)
    (hpattern : patternBad (c.w0.toNat % 65536) = true) : s.drawerAsk c kind = .next (s.failCmd g id Cause.drawerPattern) := by
  have hcause : lowest [((structFault (frameAddr c) 64).isSome, (structFault (frameAddr c) 64).getD 0),
      (patternBad (c.w0.toNat % 65536), Cause.drawerPattern)] = some Cause.drawerPattern := by rw [haddr, hpattern]; rfl
  simp only [State.drawerAsk, State.runCmd_of_runs h, hstage, hcause, bne_self_eq_false, Nat.reduceBEq, Bool.false_eq_true, if_false]

/-- A tuple held in the unit, once written, ends the command with the VALUE that came with it. -/
theorem State.drawerAsk_delivers (hstage : m.prog.stage = 3) (hcheck : s.eCheck g id m (frameAddr c + 64) m.prog.hdr.length = (s1, .ok ()))
    (hwrite : s1.eWrite g id m (frameAddr c + 64) m.prog.hdr = (s2, .ok ())) : s.drawerAsk c kind = .next (s2.endCmd g id 0 m.prog.a) := by
  refine (State.runCmd_of_runs h _).trans (congrArg _ ((if_pos (beq_iff_eq.2 hstage)).trans ?_))
  simp only [hcheck, hwrite]

end

/-- Settles O40: each command by the equation of its stage, and a creation or destruction by what it leaves at the anchor and the slices. -/
theorem drawerCommandsAskTheirSlices : Obligations.DrawerCommandsAskTheirSlices := by
  unfold Obligations.DrawerCommandsAskTheirSlices
  intro s g id m c runs did key cap a anchor
  have idle (hnew : Tab.has s.drawers key = false) : (s.drawerBusy key && !s.anchorLive key) = false := by
    rw [State.drawerBusy_absent hnew, Bool.false_and]
  refine ⟨?creates, ?live, ?full, ?destroys, ?unknown, ?deposits, ?asks⟩
  case creates =>
    intro hstage hnew hpos hcap hroom hunits h
    have hkept : s.InRegions (s.progress g id (fun p => { p with stage := 1 })) := .progress ..
    obtain ⟨hdrawer, hanchorCap, hcount, hmarks, hregions⟩ :=
      (s.progress g id (fun p => { p with stage := 1 })).createDrawer_spec m.ctxid did cap (some (g, id)) none
    refine ⟨_, execDcreate_starts h hstage c (idle hnew) (State.createFault_none hnew hpos hcap hroom hunits), ?_, hanchorCap, hcount,
      fun n hn => ?_, ?_⟩
    · rw [← State.tick_of_inRegions hkept]
      exact hdrawer
    · rw [← hkept.slice n]
      exact hmarks n hn
    · obtain ⟨-, hcmd, hhere, ⟨-, hdone, -⟩, -⟩ := h
      rw [State.cmd_of_regions hregions, State.done_progress hhere, hcmd, hdone]
  case live =>
    intro hstage d hget hlive h
    have hknown : Tab.has s.drawers key = true := by rw [Tab.has, hget, Option.isSome_some]
    exact execDcreate_fails h hstage c (by rw [State.anchorLive_of_get hget, hlive, Bool.not_false, Bool.not_true, Bool.and_false])
      (State.createFault_known hknown)
  case full =>
    intro hstage hnew hpos hcap hunits h
    exact execDcreate_fails h hstage c (idle hnew) (State.createFault_full hnew hpos hcap hunits)
  case destroys => exact fun d hstage hget hlive howed hparked h => execDdestroy_starts h hstage c hget hlive howed hparked
  case unknown => exact fun hstage hnone h => execDdestroy_unknown h hstage c (State.anchorLive_absent hnone)
  case deposits => exact fun s1 bs hstage haddr hread h => execDdeposit_asks h c hstage haddr hread
  case asks =>
    intro i kind hi modes maxp
    have hexec : exec i s = s.drawerAsk c kind := by
      simp only [List.mem_cons, Prod.mk.injEq, List.not_mem_nil, or_false] at hi
      obtain ⟨rfl, rfl⟩ | ⟨rfl, rfl⟩ := hi <;> rfl
    exact ⟨fun s1 s2 bs hstage haddr hpattern hread hcheck h => hexec.trans (State.drawerAsk_asks h c kind hstage haddr hpattern hread hcheck),
      fun hstage haddr hpattern h => hexec.trans (State.drawerAsk_badPattern h c kind hstage haddr hpattern),
      fun s1 s2 hstage hcheck hwrite h => hexec.trans (State.drawerAsk_delivers h c kind hstage hcheck hwrite)⟩

end Sys2Proof.Machine

/-! ## Drawer space: what the slices do (11 R273 to R276, R279) -/

namespace Sys2Proof.Machine

section
variable {s : State} {n : BitVec 7} {i : Nat}

/-! ### The anchor (11 R273) -/

/-- A deposit of a Drawer stands parked at its anchor. -/
def Slice.stuck (l : Slice) (key : Nat) : Bool := l.parked.any (fun p => p.kind == 0 && p.key == key)

/-- A deposit fits: none of its Drawer is parked before it, and its units are free. -/
def Slice.fits (l : Slice) (q : DReq) : Prop := l.stuck q.key = false ∧ Tab.getD l.count q.key + q.n ≤ Tab.getD l.cap q.key

theorem Slice.fits_iff (l : Slice) (q : DReq) :
    (!(l.parked.any (fun p => p.kind == 0 && p.key == q.key)) && Tab.getD l.count q.key + q.n ≤ Tab.getD l.cap q.key) = true ↔ l.fits q := by
  rw [Bool.and_eq_true, Bool.not_eq_true', decide_eq_true_iff]
  rfl

section
variable {q : DReq} (hq : (s.slice n.toNat).inRes[i]? = some q)
include hq

theorem execAnchorReserve_dead (hdead : s.anchorLive q.key = false) :
    execAnchorReserve n i s
      = .next ((s.updSlice n.toNat (fun l => { l with inRes := l.inRes.eraseIdx i })).drawerEnd q Cause.cmdInvalid 0) := by
  have hdead' : (s.updSlice n.toNat (fun l => { l with inRes := l.inRes.eraseIdx i })).anchorLive q.key = false := hdead
  simp only [execAnchorReserve, hq, hdead', Bool.not_false, if_true]

/-- What a live Drawer's anchor answers a deposit. -/
theorem execAnchorReserve_live (hlive : s.anchorLive q.key = true) :
    let s1 := s.updSlice n.toNat (fun l => { l with inRes := l.inRes.eraseIdx i })
    let count := Tab.getD (s.slice n.toNat).count q.key
    ((s.slice n.toNat).fits q → execAnchorReserve n i s
      = .next ((s1.updSlice n.toNat (fun l => { l with count := Tab.set l.count q.key (count + q.n) })).sendDeposit q))
    ∧ (¬ (s.slice n.toNat).fits q → execAnchorReserve n i s
      = if q.nowait then .next (s1.drawerEnd q Cause.drawerFull 0) else .next (s1.drawerPark n.toNat q)) := by
  intro s1 count
  have hlive' : (!s1.anchorLive q.key) = false := by rw [Bool.not_eq_false', ← hlive]; rfl
  simp only [execAnchorReserve, hq, ← Slice.fits_iff]
  rw [if_neg (Bool.not_eq_true _ ▸ hlive')]
  exact ⟨fun hfits => if_pos hfits, fun hfull => if_neg hfull⟩

end

section
variable {q : DReq} (hq : (s.slice n.toNat).inRet[i]? = some q)
include hq

/-- Units returned to the creation they were taken from are free, and parked deposits follow. -/
theorem execAnchorReturn_counts {d : Drawer} (hget : Tab.get s.drawers q.key = some d) (hinc : d.inc = q.inc) :
    let s1 := s.updSlice n.toNat (fun l => { l with inRet := l.inRet.eraseIdx i })
    let s2 := s1.updSlice n.toNat (fun l => { l with count := Tab.upd l.count q.key (· - q.n) })
    execAnchorReturn n i s
      = .next (if s.anchorLive q.key then State.grantParked n.toNat q.key ((s.slice n.toNat).parked.length + 1) s2 else s2) := by
  intro s1 s2
  have hcounts : (!(Tab.get s1.drawers q.key).any (fun d => d.inc == q.inc)) = false := by
    rw [show Tab.get s1.drawers q.key = some d from hget, Option.any_some, hinc, beq_self_eq_true, Bool.not_true]
  simp only [execAnchorReturn, hq]
  exact if_neg (Bool.not_eq_true _ ▸ hcounts)

/-- Units of an earlier creation of the id free nothing. -/
theorem execAnchorReturn_stale (hold : ∀ d, Tab.get s.drawers q.key = some d → d.inc ≠ q.inc) :
    execAnchorReturn n i s = .next (s.updSlice n.toNat (fun l => { l with inRet := l.inRet.eraseIdx i })) := by
  have hstale : (!(Tab.get s.drawers q.key).any (fun d => d.inc == q.inc)) = true := by
    cases hget : Tab.get s.drawers q.key with
    | none => rfl
    | some d => simpa using hold d hget
  simp only [execAnchorReturn, hq]
  exact if_pos hstale

end

/-! ### Deposits at the home slice (11 R273, R279) -/

/-- A deposit that none of the parked copies and takes of its Drawer matches is left. -/
theorem State.scanParked_unmatched {t : Tuple} {key : Nat} (n : Nat) (s : State) {ps : List DReq}
    (h : ∀ p ∈ ps, p.kind = 0 ∨ p.key ≠ key ∨ p.matches t = false) : State.scanParked n t key ps s = (s, false) := by
  induction ps with
  | nil => rfl
  | cons p ps ih =>
    have hskip : (p.kind == 0 || p.key != key || !p.matches t) = true := by
      rcases h p List.mem_cons_self with h | h | h <;> simp [h]
    rw [State.scanParked, if_pos hskip]
    exact ih fun q hq => h q (List.mem_cons_of_mem _ hq)

/-- The first take in park order has the tuple, and its units go back to the anchor. -/
theorem State.scanParked_take {t : Tuple} {p : DReq} (n : Nat) (s : State) (rest : List DReq) (hkind : p.kind = 2) (hmatch : p.matches t = true) :
    State.scanParked n t p.key (p :: rest) s
      = (((s.updSlice n (fun l => { l with parked := l.parked.erase p })).drawerDeliver p t n).sendReturn n p (1 + t.plu), true) := by
  simp [State.scanParked, hkind, hmatch]

section
variable {q : DReq} (hq : (s.slice n.toNat).inDep[i]? = some q)
include hq

theorem execHomeDeposit_swept (hgone : Tab.get (s.slice n.toNat).live q.key ≠ some q.inc) :
    execHomeDeposit n i s
      = .next ((s.updSlice n.toNat (fun l => { l with inDep := l.inDep.eraseIdx i })).drawerEnd q Cause.cmdInvalid 0) := by
  simp only [execHomeDeposit, hq, bne_iff_ne.2 hgone, if_true]

section
variable (hlive : Tab.get (s.slice n.toNat).live q.key = some q.inc)
include hlive

/-- A deposit takes its seq; with no parked copy or take that matches, its tuple goes to the tail of the bag. -/
theorem execHomeDeposit_stores :
    let t := { q.tuple with seq := Tab.getD (s.slice n.toNat).seqs q.key }
    let s1 := s.updSlice n.toNat (fun l => { l with inDep := l.inDep.eraseIdx i })
    let s2 := s1.updSlice n.toNat (fun l => { l with seqs := Tab.set l.seqs q.key ((t.seq + 1) % 2 ^ 64) })
    (∀ p ∈ (s.slice n.toNat).parked, p.kind = 0 ∨ p.key ≠ q.key ∨ p.matches t = false) →
    execHomeDeposit n i s = .next ((s2.updSlice n.toNat (fun l => { l with bags := Tab.upd l.bags q.key (· ++ [t]) })).drawerEnd q 0 n.toNat) := by
  intro t s1 s2 hnone
  have hscan := State.scanParked_unmatched n.toNat s2 hnone
  simp only [s2, s1, t] at hscan ⊢
  simp only [execHomeDeposit, hq, hlive, bne_self_eq_false, Bool.false_eq_true, if_false, hscan]

/-- A deposit takes its seq; a matching take that is first in park order has its tuple, and nothing is stored. -/
theorem execHomeDeposit_taken {p : DReq} {rest : List DReq} (hfirst : (s.slice n.toNat).parked = p :: rest) (hkind : p.kind = 2)
    (hkey : p.key = q.key) :
    let t := { q.tuple with seq := Tab.getD (s.slice n.toNat).seqs q.key }
    let s1 := s.updSlice n.toNat (fun l => { l with inDep := l.inDep.eraseIdx i })
    let s2 := s1.updSlice n.toNat (fun l => { l with seqs := Tab.set l.seqs q.key ((t.seq + 1) % 2 ^ 64) })
    p.matches t = true → execHomeDeposit n i s = .next ((((s2.updSlice n.toNat (fun l => { l with parked := l.parked.erase p })).drawerDeliver
      p t n.toNat).sendReturn n.toNat p (1 + t.plu)).drawerEnd q 0 n.toNat) := by
  intro t s1 s2 hmatch
  have hscan := State.scanParked_take n.toNat s2 rest hkind hmatch
  simp only [s2, s1, t, hkey] at hscan ⊢
  simp only [execHomeDeposit, hq, hlive, bne_self_eq_false, Bool.false_eq_true, if_false, hfirst, hscan, if_true]

end

end

/-! ### Copies and takes at the home slice (11 R274) -/

section
variable {q : DReq} (hq : (s.slice n.toNat).inMat[i]? = some q)
include hq

theorem execHomeMatch_unknown (hnone : Tab.has (s.slice n.toNat).live q.key = false) :
    execHomeMatch n i s
      = .next ((s.updSlice n.toNat (fun l => { l with inMat := l.inMat.eraseIdx i })).drawerEnd q Cause.cmdInvalid 0) := by
  simp only [execHomeMatch, hq, hnone, Bool.not_false, if_true]

section
variable (hlive : Tab.has (s.slice n.toNat).live q.key = true)
include hlive

/-- The first tuple of the bag that matches serves the request, and a take removes it. -/
theorem execHomeMatch_serves {t : Tuple} (hfind : (Tab.getD (s.slice n.toNat).bags q.key : List Tuple).find? q.matches = some t) :
    let u := (s.updSlice n.toNat (fun l => { l with inMat := l.inMat.eraseIdx i })).drawerDeliver q t n.toNat
    execHomeMatch n i s = if q.kind = 2 then .next ((u.updSlice n.toNat (fun l =>
      { l with bags := Tab.set l.bags q.key ((Tab.getD (s.slice n.toNat).bags q.key : List Tuple).erase t) })).sendReturn n.toNat q (1 + t.plu))
      else .next u := by
  simp only [execHomeMatch, hq, hlive, hfind, Bool.not_true, Bool.false_eq_true, if_false, beq_iff_eq]

/-- A request that no tuple matches is answered when it does not wait, and parked when it does. -/
theorem execHomeMatch_unmatched (hnone : (Tab.getD (s.slice n.toNat).bags q.key : List Tuple).any q.matches = false) :
    let s1 := s.updSlice n.toNat (fun l => { l with inMat := l.inMat.eraseIdx i })
    execHomeMatch n i s = if q.nowait then .next (s1.drawerEnd q 0 0) else .next (s1.drawerPark n.toNat q) := by
  have hfind : (Tab.getD (s.slice n.toNat).bags q.key : List Tuple).find? q.matches = none := List.find?_eq_none.2 (List.any_eq_false.1 hnone)
  simp only [execHomeMatch, hq, hlive, hfind, Bool.not_true, Bool.false_eq_true, if_false]

end

end

/-! ### Live marks and sweeps (11 R278, R279) -/

/-- A slice swept of a Drawer: its live mark, its bag and its seq go, with the copies and takes parked for it. -/
def Slice.swept (l : Slice) (i key : Nat) : Slice :=
  { l with inSweep := l.inSweep.eraseIdx i, live := Tab.erase l.live key, bags := Tab.erase l.bags key, seqs := Tab.erase l.seqs key,
           parked := l.parked.filter (fun q => !(q.kind != 0 && q.key == key)) }

/-- The anchor's record of a Drawer goes. -/
def Slice.dropRecord (l : Slice) (key : Nat) : Slice := { l with cap := Tab.erase l.cap key, count := Tab.erase l.count key }

/-- A Drawer that every slice has swept is gone, and its anchor's record with it (11 R279). -/
def State.buryDrawer (s : State) (key : Nat) : State :=
  ({ s with drawers := Tab.erase s.drawers key }).updSlice (anchorSlice (key % 65536)) (·.dropRecord key)

theorem State.slice_buryDrawer (s : State) (key m : Nat) : ((s.buryDrawer key).slice m).live = (s.slice m).live
    ∧ ((s.buryDrawer key).slice m).bags = (s.slice m).bags :=
  ⟨State.slice_updSlice_kept Slice.live _ _ m (f := (·.dropRecord key)) fun _ => rfl,
    State.slice_updSlice_kept Slice.bags _ _ m (f := (·.dropRecord key)) fun _ => rfl⟩

section
variable {key : Nat} {d : Drawer} (hget : Tab.get s.drawers key = some d)
include hget

/-- A slice takes a live mark of the creation as it is now; the last one completes the command that awaits it. -/
theorem execDrawerLiveMark_takes (hmark : (s.slice n.toNat).inLive[i]? = some key) :
    let s1 := s.updSlice n.toNat (fun l => { l with inLive := l.inLive.eraseIdx i, live := Tab.set l.live key d.inc })
    let s2 : State := { s1 with drawers := Tab.set s.drawers key { d with owed := d.owed - 1 } }
    (d.owed ≠ 1 → execDrawerLiveMark n i s = .next s2)
    ∧ (∀ g id, d.owed = 1 → d.cmd = some (g, id) → d.host = none → execDrawerLiveMark n i s = .next (s2.endCmd g id 0 d.cap)) := by
  intro s1 s2
  refine ⟨fun howed => ?_, fun g id howed hcmd hhost => ?_⟩
  · simp only [execDrawerLiveMark, hmark, hget, bne_iff_ne.2 howed, if_true]
    rfl
  · simp only [execDrawerLiveMark, hmark, hget, howed, hcmd, hhost, bne_self_eq_false, Bool.false_eq_true, if_false, s2, s1]
    rfl

section
variable (hsweep : (s.slice n.toNat).inSweep[i]? = some key) (hparked : ∀ q ∈ (s.slice n.toNat).parked, q.kind ≠ 0 → q.key ≠ key)
include hsweep hparked

theorem execDrawerSweep_sweeps :
    let s1 := s.updSlice n.toNat (·.swept i key)
    (d.owed ≠ 1 → execDrawerSweep n i s = .next { s1 with drawers := Tab.set s.drawers key { d with owed := d.owed - 1 } })
    ∧ (d.owed = 1 → ∃ t, execDrawerSweep n i s = .next t ∧ (s1.buryDrawer key).InRegions t) := by
  intro s1
  have hnone : (s.slice n.toNat).parked.filter (fun q => q.kind != 0 && q.key == key) = [] := List.filter_eq_nil_iff.2 fun q hq hmine => by
    obtain ⟨hkind, hkey⟩ := Bool.and_eq_true_iff.1 hmine
    exact hparked q hq (bne_iff_ne.1 hkind) (beq_iff_eq.1 hkey)
  have hget' : Tab.get (s.updSlice n.toNat (·.swept i key)).drawers key = some d := hget
  unfold Slice.swept at hget'
  refine ⟨fun howed => ?_, fun howed => ?_⟩
  · simp only [execDrawerSweep, hsweep, hnone, List.foldl_nil, hget', bne_iff_ne.2 howed, if_true]
    rfl
  · simp only [execDrawerSweep, hsweep, hnone, List.foldl_nil, hget', howed, bne_self_eq_false, Bool.false_eq_true, if_false]
    rcases hcmd : d.cmd with _ | ⟨g, id⟩
    · exact ⟨_, rfl, .refl _⟩
    · exact ⟨_, rfl, .endCmd ..⟩

/-- After a sweep nothing of the Drawer is in the slice, and after the last nothing of it is in the package. -/
theorem execDrawerSweep_leaves : ∃ t, execDrawerSweep n i s = .next t ∧ Tab.has (t.slice n.toNat).live key = false
    ∧ (Tab.getD (t.slice n.toNat).bags key : List Tuple) = [] ∧ (d.owed = 1 → Tab.has t.drawers key = false)
    ∧ (d.owed ≠ 1 → Tab.get t.drawers key = some { d with owed := d.owed - 1 }) := by
  obtain ⟨hgoes, hlast⟩ := execDrawerSweep_sweeps hget hsweep hparked
  have hswept : (s.updSlice n.toNat (·.swept i key)).slice n.toNat = (s.slice n.toNat).swept i key := State.slice_updSlice_self ..
  have hlive : Tab.has ((s.updSlice n.toNat (·.swept i key)).slice n.toNat).live key = false := by
    rw [hswept]
    exact Tab.has_erase ..
  have hbag : (Tab.getD ((s.updSlice n.toNat (·.swept i key)).slice n.toNat).bags key : List Tuple) = [] := by
    rw [hswept]
    exact Tab.getD_erase ..
  by_cases howed : d.owed = 1
  · obtain ⟨t, hnext, hkept⟩ := hlast howed
    obtain ⟨hlive', hbags'⟩ := State.slice_buryDrawer (s.updSlice n.toNat (·.swept i key)) key n.toNat
    refine ⟨t, hnext, ?_, ?_, fun _ => ?_, fun hmore => absurd howed hmore⟩
    · rwa [hkept.slice, hlive']
    · rwa [hkept.slice, hbags']
    · rw [hkept.drawers]
      exact Tab.has_erase ..
  · exact ⟨_, hgoes howed, hlive, hbag, fun hone => absurd hone howed, fun _ => Tab.get_set_self ..⟩

end

end

/-! ### Requests sent again (11 R276) -/

theorem execDrawerResend_sends {g : RegionNo} {m : Nat} {q : DReq} (hq : (s.reg g).resend[i]? = some (m, q)) :
    execDrawerResend g i s = .next ((s.setReg g { s.reg g with resend := (s.reg g).resend.eraseIdx i }).updSlice m (fun l =>
      if q.kind = 0 then { l with inRes := l.inRes ++ [q] } else { l with inMat := l.inMat ++ [q] })) := by
  simp only [execDrawerResend, hq, beq_iff_eq]

end

/-- Settles O41: each request, mark and sweep by the equation of what its slice answers. -/
theorem slicesServeInOrder : Obligations.SlicesServeInOrder := by
  unfold Obligations.SlicesServeInOrder
  intro s n i l out
  refine ⟨?reserves, ?returns, ?deposits, ?requests, ?unknown, ?marks, ?sweeps, ?resends⟩
  case reserves =>
    intro q hq s1 stuck count fits does
    refine ⟨fun hdead => execAnchorReserve_dead hq hdead, fun hlive => (execAnchorReserve_live hq hlive).1, fun hlive hfull hnow => ?_,
      fun hlive hfull hwait => ?_⟩
    · exact ((execAnchorReserve_live hq hlive).2 hfull).trans (if_pos hnow)
    · exact ((execAnchorReserve_live hq hlive).2 hfull).trans (if_neg (Bool.not_eq_true _ ▸ hwait))
  case returns => exact fun q hq => ⟨fun d hget hinc => execAnchorReturn_counts hq hget hinc, fun hold => execAnchorReturn_stale hq hold⟩
  case deposits =>
    intro q hq s1 t s2 does
    exact ⟨fun hgone => execHomeDeposit_swept hq hgone, fun hlive hnone => execHomeDeposit_stores hq hlive hnone,
      fun p rest hlive hfirst hkind hkey hmatch => execHomeDeposit_taken hq hlive hfirst hkind hkey hmatch⟩
  case requests =>
    intro q hq hlive s1 bag does
    refine ⟨fun t hfind hkind => ?_, fun t hfind hkind => ?_, fun hnone hnow => ?_, fun hnone hwait => ?_⟩
    · exact (execHomeMatch_serves hq hlive hfind).trans (if_neg (by rw [hkind]; decide))
    · exact (execHomeMatch_serves hq hlive hfind).trans (if_pos hkind)
    · exact (execHomeMatch_unmatched hq hlive hnone).trans (if_pos hnow)
    · exact (execHomeMatch_unmatched hq hlive hnone).trans (if_neg (Bool.not_eq_true _ ▸ hwait))
  case unknown => exact fun q hq hnone => execHomeMatch_unknown hq hnone
  case marks => exact fun key d hmark hget => execDrawerLiveMark_takes hget hmark
  case sweeps => exact fun key d hsweep hget hparked => execDrawerSweep_leaves hget hsweep hparked
  case resends => exact fun g m q hq => execDrawerResend_sends hq

end Sys2Proof.Machine

/-! ## The chain walker (14 R286 to R298; log 94) -/

namespace Sys2Proof.Machine

/-! ### The stages of a chain command -/

section
variable {s : State} {g : RegionNo} {id : Nat} {m : Cmd} (h : Claims.Runs s g id m) (c : Frame) (j0 : Nat)
include h

theorem State.chainRun_begins (hstage : m.prog.stage = 0) : s.chainRun c j0 = .next (s.chainBegin g id m (frameAddr c) j0) := by
  simp only [State.chainRun, State.runCmd_of_runs h, hstage]

theorem State.chainRun_before (hstage : m.prog.stage = 4) : s.chainRun c j0 = .next (s.chainBefore g id m (frameAddr c) j0) := by
  simp only [State.chainRun, State.runCmd_of_runs h, hstage]

theorem State.chainRun_steps (hstage : m.prog.stage = 2) : s.chainRun c j0 = .next (s.chainStep g id m j0) := by
  simp only [State.chainRun, State.runCmd_of_runs h, hstage]

theorem State.chainRun_status (hstage : m.prog.stage = 3) : s.chainRun c j0 = .next (s.chainStatus g id m (frameAddr c)) := by
  simp only [State.chainRun, State.runCmd_of_runs h, hstage]

end

/-- The two commands are the walker's steps, each from its first step (14 R297). -/
theorem exec_chain {c : Frame} {i : Instr} {j0 : Nat} (hi : (i, j0) ∈ [(Instr.chainrun c, 0), (.chainstep c, c.w0.toNat % 65536)]) (s : State) :
    exec i s = s.chainRun c j0 := by
  simp only [List.mem_cons, List.not_mem_nil, or_false, Prod.mk.injEq] at hi
  obtain ⟨rfl, rfl⟩ | ⟨rfl, rfl⟩ := hi <;> rfl

/-! ### The header and the earlier descriptors (14 R291, R298) -/

section
variable {s s1 : State} {g : RegionNo} {id : Nat} {m : Cmd} {a j0 : Nat} {bs : List Byte}

theorem State.chainBegin_reads (haddr : structFault a 64 = none)
    (hread : (s.updCmd g id (fun c => { c with prog := { c.prog with chunk := j0 } })).eRead g id m a 64 = (s1, .ok bs)) :
    s.chainBegin g id m a j0 = if (Chain.of bs).ok (s1.grant g m.x).acc j0 = true then s1.progress g id (fun p =>
        { p with stage := if j0 = 0 then 1 else 4, hdr := bs, chunk := 0, a := (Chain.of bs).r0, b := 0, c := 0 })
      else s1.failCmd g id Cause.cmdInvalid := by
  simp only [State.chainBegin, haddr, hread, beq_iff_eq]
  cases (Chain.of bs).ok (s1.grant g m.x).acc j0 <;> rfl

/-- An earlier descriptor fails by order 1 or order 3 of R291 alone (14 R298). -/
def ChainStep.earlierBad (t : ChainStep) (cb r : Nat) : Prop := t.formOk cb = false ∨ (t.kind = 0 ∧ r % t.d ≠ 0)

theorem ChainStep.earlierBad_iff (t : ChainStep) (cb r : Nat) : (!t.formOk cb || (t.kind == 0 && r % t.d != 0)) = true ↔ t.earlierBad cb r := by
  simp [ChainStep.earlierBad]

section
variable {t : ChainStep} (hread : s.eRead g id m (a + 64 + 16 * m.prog.chunk) 16 = (s1, .ok bs)) (ht : ChainStep.of (word8 bs 0) (word8 bs 1) = t)
include hread ht

theorem State.chainBefore_stops (hbad : t.earlierBad (Chain.of m.prog.hdr).cb m.prog.a) :
    s.chainBefore g id m a j0 = s1.chainStop g id Cause.cmdInvalid m.prog.chunk 0 := by
  simp only [State.chainBefore, hread, ht, (ChainStep.earlierBad_iff ..).2 hbad, if_true]

theorem State.chainBefore_advances (hgood : ¬ t.earlierBad (Chain.of m.prog.hdr).cb m.prog.a) :
    s.chainBefore g id m a j0 = s1.progress g id (fun p =>
      { p with stage := if m.prog.chunk + 1 = j0 then 1 else 4, chunk := m.prog.chunk + 1, a := t.rows m.prog.a,
               c := if t.kind = 3 then p.c else p.c + 1 }) := by
  have hok := (ChainStep.earlierBad_iff t (Chain.of m.prog.hdr).cb m.prog.a).not.2 hgood
  simp only [State.chainBefore, hread, ht, if_neg hok, beq_iff_eq]

end

end

/-! ### The start of a step (14 R291; 06 R181) -/

theorem execChainStepStart_reads {s s1 : State} {g : RegionNo} {id : Nat} {m : Cmd} {bs : List Byte} (h : Claims.Runs s g id m)
    (hcode : m.code = 0x70 ∨ m.code = 0x71) (hstage : m.prog.stage = 1) (hfree : (s.core g).nodesBusy m = false)
    (hread : s.eRead g id m (frameAddr (frameFields m.w) + 64 + 16 * m.prog.chunk) 16 = (s1, .ok bs)) :
    let t := ChainStep.of (word8 bs 0) (word8 bs 1)
    let bin := ((s1.thread g m.x).bond (BitVec.ofNat 4 t.bin)).toNat
    let bout := ((s1.thread g m.x).bond (BitVec.ofNat 4 t.bout)).toNat
    let chi := if m.prog.b = 0 then none else some m.prog.b
    let check := t.check (Chain.of m.prog.hdr) m.prog.c m.prog.a chi bin bout
    (∀ e need, check = some (e, need) → execChainStepStart g id s = .next (s1.chainStop g id e m.prog.chunk need))
    ∧ (check = none → execChainStepStart g id s = .next (s1.progress g id (fun p =>
        { p with stage := 2, tab := [word8 bs 0, word8 bs 1, chi.getD bin, if t.kind ≤ 1 then bout else chi.getD bin] }))) := by
  obtain ⟨-, hcmd, hhere, ⟨hstarted, hdone, hparked⟩, hon⟩ := h
  have hchain : (m.code == 0x70 || m.code == 0x71) = true := by simpa using hcode
  have hgo : (!(Tab.has (s.reg g).core.cmds id) || !(m.code == 0x70 || m.code == 0x71) || !m.running || m.parked.isSome || m.prog.stage != 1
      || !(s.reg g).runs || (s.reg g).core.nodesBusy m) = false := by
    rw [show Tab.has (s.reg g).core.cmds id = true from hhere, show (s.reg g).core.nodesBusy m = false from hfree, hchain, hparked, hstage, hon,
      Cmd.running, hstarted, hdone]
    rfl
  intro t bin bout chi check
  refine ⟨fun e need hbad => ?_, fun hok => ?_⟩
  · simp only [check, t, bin, bout, chi] at hbad
    simp only [execChainStepStart, hcmd, hgo, Bool.false_eq_true, if_false, hread, beq_iff_eq, hbad]
  · simp only [check, t, bin, bout, chi] at hok
    simp only [execChainStepStart, hcmd, hgo, Bool.false_eq_true, if_false, hread, beq_iff_eq, hok, t, bin, bout, chi]

/-! ### The accesses of a step (14 R290, R293, R295; 09 R229; log 94) -/

/-- What a command's step has read so far, zeros where a read has not performed. -/
def Cmd.stepBytes (m : Cmd) : List Byte :=
  m.stepRun.reads.flatMap (fun e => ((m.prog.find e).bind (·.got)).getD (List.replicate e.n 0))

/-- Its writes: the lines of what it computes. -/
def Cmd.stepWrites (m : Cmd) : List EAcc := (writeLines m.stepRun.dst (m.stepRun.out m.stepBytes)).map (fun e => { e with tag := 3 })

/-- A read may be taken up, as may a write once the reads that its bytes depend on have performed (log 94). -/
def Cmd.stepMay (m : Cmd) (e : EAcc) : Bool :=
  e.wr.isNone || (m.prog.find e).isSome || m.stepRun.reads.all (fun q => m.prog.did q || !m.stepRun.feeds q e)

/-- The accesses that a command's step may take up next. -/
def Cmd.stepDue (m : Cmd) : List EAcc := (m.stepRun.reads ++ m.stepWrites).filter (fun e => !m.prog.did e && m.stepMay e)

section
variable {s t : State} {g : RegionNo} {id : Nat} {m : Cmd} {e q : EAcc}

section
variable {start : State → EAcc → State × Except Stop EAcc}

theorem State.ioOne_starts (hcmd : s.cmd g id = m) (hnew : m.prog.find e = none) (hstart : start s e = (t, .ok q)) :
    s.ioOne g id start e = (t.updIo g id (fun io => io ++ [q]), .hold) := by
  simp only [State.ioOne, hcmd, hnew, State.ioStart, hstart]

section
variable (hcmd : s.cmd g id = m) (hold : m.prog.find e = some q) (hbank : q.pl.bank = true)
include hcmd hold hbank

theorem State.ioOne_reads (hwr : e.wr = none) (hclean : s.spoiled q.pl q.n false = false) : s.ioOne g id start e
    = ((s.ownCxl s.cxl.length (g, m.kernel)).updIo g id (ioGot { q with wr := none } (s.readPlace q.pl q.n)), .hold) := by
  have hread := State.ioPerform_reads (s := s) (g := g) (id := id) (q := { q with wr := none }) hbank rfl hclean
  rw [hcmd] at hread
  simp only [State.ioOne, hcmd, hold, hwr, hread]

theorem State.ioOne_writes {bs : List Byte} (hwr : e.wr = some bs) (hclean : s.spoiled q.pl q.n true = false) : s.ioOne g id start e
    = (((s.writePlace q.pl bs).ownCxl s.cxl.length (g, m.kernel)).updIo g id (ioGot { q with wr := some bs } []), .hold) := by
  have hwrite := State.ioPerform_writes (s := s) (g := g) (id := id) (q := { q with wr := some bs }) hbank rfl hclean
  rw [hcmd] at hwrite
  simp only [State.ioOne, hcmd, hold, hwr, hwrite]

end

end

variable {j0 : Nat} (hbook : m.stepRun.book = 32 → structFault m.stepRun.cb 32 = none)
include hbook

/-- A codebook that is read stands at a good address. -/
theorem Cmd.bookFault_none : (if m.stepRun.book == 0 then none else structFault m.stepRun.cb 32) = none := by
  by_cases hnone : m.stepRun.book = 0
  · exact if_pos (beq_iff_eq.2 hnone)
  · have hreads : m.stepRun.book = 32 := by
      unfold StepRun.book at hnone ⊢
      split at hnone
      · next h => exact if_pos h
      · exact absurd rfl hnone
    exact (if_neg (by simpa using hnone)).trans (hbook hreads)

/-- The one access that may be taken up acts. -/
theorem State.chainStep_acts (hone : m.stepDue = [e])
    (hact : s.ioOne g id (fun s e => s.engStart g (.command g id) m e) e = (t, .hold)) : s.chainStep g id m j0 = t := by
  simp only [Cmd.stepDue, Cmd.stepWrites, Cmd.stepBytes, Cmd.stepMay] at hone
  simp only [State.chainStep, Cmd.bookFault_none hbook, hone, List.length_nil, Nat.zero_add, State.pick_one, List.getD_cons_zero, hact,
    State.chainAccess]

/-- With every access performed the next step is due, or after the last one the status words (14 R292, R295). -/
theorem State.chainStep_advances (hnone : m.stepDue = []) :
    let p := m.stepRun
    let s' := s.progress g id (fun q => { q with stage := 1, chunk := m.prog.chunk + 1, a := p.t.rows p.r, b := p.y,
                                                 c := if p.t.kind = 3 then m.prog.c else m.prog.c + 1, tab := [] })
    s.chainStep g id m j0
      = if (Chain.of m.prog.hdr).nstep ≤ m.prog.chunk + 1 then s'.chainStop g id 0 ((Chain.of m.prog.hdr).nstep - j0) 0 else s' := by
  simp only [Cmd.stepDue, Cmd.stepWrites, Cmd.stepBytes, Cmd.stepMay] at hnone
  simp only [State.chainStep, Cmd.bookFault_none hbook, hnone]
  simp only [beq_iff_eq, ge_iff_le]

end

/-! ### The status words (14 R286, R292, R294) -/

theorem State.chainStatus_written {s s1 : State} {g : RegionNo} {id : Nat} {m : Cmd} {a : Nat}
    (hwrite : s.eWrite g id m (a + 48) (natToBytes 8 (m.prog.chunk * 2 ^ 48 + m.prog.tab.getD 0 0 * 2 ^ 40 + m.prog.a % 2 ^ 32)
      ++ natToBytes 8 (m.prog.tab.getD 2 0 % 2 ^ 64)) = (s1, .ok ())) :
    s.chainStatus g id m a = s1.endCmd g id (BitVec.ofNat 8 (m.prog.tab.getD 0 0)) (m.prog.tab.getD 1 0) := by
  simp only [State.chainStatus, hwrite]

/-- Settles O42: each stage of a chain command by its equation; in a step, what of its accesses may be taken up decides. -/
theorem chainWalker : Obligations.ChainWalker := by
  unfold Obligations.ChainWalker
  intro s g id m c i j0 hi hruns does a h j st r n x x'
  have hexec := exec_chain hi s
  refine ⟨?header, ?earlier, ?start, ?step, ?status⟩
  case header =>
    intro s2 hb hstage haddr s1 hread
    have hstep := hexec.trans (State.chainRun_begins hruns c j0 hstage)
    rw [State.chainBegin_reads haddr hread] at hstep
    exact ⟨fun hbad => hstep.trans (congrArg _ (if_neg (Bool.eq_false_iff.1 hbad))), fun hok => hstep.trans (congrArg _ (if_pos hok))⟩
  case earlier =>
    intro s1 bs hstage hread t bad
    have hstep := hexec.trans (State.chainRun_before hruns c j0 hstage)
    exact ⟨fun hbad => hstep.trans (congrArg _ (State.chainBefore_stops hread rfl hbad)),
      fun hgood => hstep.trans (congrArg _ (State.chainBefore_advances hread rfl hgood))⟩
  case start =>
    intro hstage hcode s1 bs hfree hread t bin bout chi
    exact execChainStepStart_reads hruns hcode hstage hfree hread
  case step =>
    intro hstage size book as_ reads bs out writes due has hbook
    have hstep := hexec.trans (State.chainRun_steps hruns c j0 hstage)
    have hsize : m.stepRun.book = book := by
      simp only [StepRun.book, Bool.and_eq_true, beq_iff_eq]
      rfl
    have hreads : m.stepRun.reads = reads := by
      rw [StepRun.reads, hsize]
      rfl
    have hout : m.stepRun.out bs = out := by
      simp only [StepRun.out, hsize, beq_iff_eq]
      rfl
    have hdst : m.stepRun.dst = if st.kind = 3 then st.addr else h.target n := by
      simp only [Cmd.stepRun, beq_iff_eq]
      rfl
    have hdue : due = m.stepDue := by
      rw [Cmd.stepDue, Cmd.stepWrites, Cmd.stepBytes, hdst, hreads, hout]
      simp only [Cmd.stepMay, hreads]
      rfl
    have hcb : m.stepRun.book = 32 → structFault m.stepRun.cb 32 = none := fun hread => hbook (hsize.symm.trans hread)
    rw [hdue]
    refine ⟨fun e hone hcls hbits => ?acts, fun hnone => hstep.trans (congrArg _ (State.chainStep_advances hcb hnone))⟩
    have hacts {t : State} (hact : s.ioOne g id (fun s e => s.engStart g (.command g id) m e) e = (t, .hold)) : does t :=
      hstep.trans (congrArg _ (State.chainStep_acts hcb hone hact))
    refine ⟨fun pl hnew hpl => hacts (State.ioOne_starts hruns.cmd hnew (State.engStart_bank hcls hbits hpl)),
      fun q hold hbank hclean => ⟨fun hwr => hacts ?reads, fun d hwr => hacts ?writes⟩⟩
    case reads => exact State.ioOne_reads hruns.cmd hold hbank hwr (by rwa [hwr] at hclean)
    case writes => exact State.ioOne_writes hruns.cmd hold hbank hwr (by rwa [hwr] at hclean)
  case status =>
    intro s1 hstage cause hwrite
    exact (hexec.trans (State.chainRun_status hruns c j0 hstage)).trans (congrArg _ (State.chainStatus_written hwrite))

end Sys2Proof.Machine

/-! ## Memory in canonical form (log 2) -/

namespace Sys2Proof.Machine

/-- The memory of a state in canonical form: addresses rise and no entry equals what an unlisted address reads as. -/
def State.Canonical (s : State) : Prop := s.mem.wf = true ∧ s.banks.wf = true

/-- An outcome that leaves the memory in canonical form. -/
def Out.Canonical (o : Out) : Prop := ∀ t, o = .next t → t.Canonical

theorem State.Canonical.fst {α : Type} {p : State × α} {t : State} {r : α} (e : p = (t, r)) (h : p.1.Canonical) : t.Canonical := by
  subst e; exact h

theorem State.Canonical.snd {α : Type} {p : α × State} {t : State} {r : α} (e : p = (r, t)) (h : p.2.Canonical) : t.Canonical := by
  subst e; exact h

theorem State.Canonical.ite {c : Prop} [Decidable c] {a b : State} (ha : a.Canonical) (hb : b.Canonical) :
    (if c then a else b).Canonical := by
  split <;> assumption

theorem State.Canonical.iteFst {α : Type} {c : Prop} [Decidable c] {a b : State × α} (ha : a.1.Canonical) (hb : b.1.Canonical) :
    (if c then a else b).1.Canonical := by
  split <;> assumption

theorem State.Canonical.foldl {β : Type} {f : State → β → State} {l : List β} {s : State} (hs : s.Canonical)
    (hf : ∀ s b, s.Canonical → (f s b).Canonical) : (l.foldl f s).Canonical := by
  induction l generalizing s with
  | nil => exact hs
  | cons b l ih => exact ih (hf s b hs)

theorem Out.Canonical.next {s : State} (hs : s.Canonical) : Out.Canonical (.next s) := fun _ e => Host.Outcome.next.inj e ▸ hs

theorem Out.Canonical.fault {f : Fault} : Out.Canonical (.fault f) := fun _ e => by cases e

theorem Out.Canonical.ite {c : Prop} [Decidable c] {a b : Out} (ha : a.Canonical) (hb : b.Canonical) :
    Out.Canonical (if c then a else b) := by
  split <;> assumption

/-! ### Parts of the state -/

theorem State.Canonical.setReg {s : State} {g : RegionNo} {r : Region} (hs : s.Canonical) : (s.setReg g r).Canonical := hs

theorem State.Canonical.updCore {s : State} {g : RegionNo} {f : Core → Core} (hs : s.Canonical) : (s.updCore g f).Canonical := hs

theorem State.Canonical.stamp {s : State} {g : RegionNo} (hs : s.Canonical) : (s.stamp g).Canonical := hs

theorem State.Canonical.updCell {s : State} {g : RegionNo} {c : CellNo} {f : Cell → Cell} (hs : s.Canonical) :
    (s.updCell g c f).Canonical := hs

theorem State.Canonical.updSlot {s : State} {l : SlotLoc} {f : Slot → Slot} (hs : s.Canonical) : (s.updSlot l f).Canonical := hs

theorem State.Canonical.updThread {s : State} {g : RegionNo} {x : CtxNo} {f : Thread → Thread} (hs : s.Canonical) :
    (s.updThread g x f).Canonical := hs

theorem State.Canonical.updCmd {s : State} {g : RegionNo} {id : Nat} {f : Cmd → Cmd} (hs : s.Canonical) : (s.updCmd g id f).Canonical :=
  .ite (.updCore hs) (.ite hs (.setReg hs))

theorem State.Canonical.updChan {s : State} {g : RegionNo} {n : Nat} {f : Chan → Chan} (hs : s.Canonical) : (s.updChan g n f).Canonical :=
  hs

theorem State.Canonical.updPort {s : State} {g : RegionNo} {p : Nat} {f : EdgePort → EdgePort} (hs : s.Canonical) :
    (s.updPort g p f).Canonical := hs

theorem State.Canonical.updSched {s : State} {g : RegionNo} {x : CtxNo} {f : Sched → Sched} (hs : s.Canonical) :
    (s.updSched g x f).Canonical := hs

theorem State.Canonical.setGen {s : State} {g : RegionNo} {c : CellNo} {v : BitVec 16} (hs : s.Canonical) : (s.setGen g c v).Canonical := hs

theorem State.Canonical.dropStale {s : State} (hs : s.Canonical) : s.dropStale.Canonical := hs

theorem State.Canonical.free {s : State} {w : Nat} (hs : s.Canonical) : (s.free w).2.Canonical := hs

theorem State.Canonical.pick {s : State} {n : Nat} (hs : s.Canonical) : (s.pick n).2.Canonical := by
  unfold State.pick
  split
  · exact hs
  · split
    · next e => exact .snd e (.free hs)

theorem State.Canonical.updTh {s : State} {w : Who} {f : Thread → Thread} (hs : s.Canonical) : (s.updTh w f).Canonical := by
  unfold State.updTh
  split
  · exact .updThread hs
  · exact .setReg hs

theorem State.Canonical.report {s : State} {g : RegionNo} {r : Report} (hs : s.Canonical) : (s.report g r).Canonical := hs

theorem State.Canonical.record {s : State} {r : Report} (hs : s.Canonical) : (s.record r).Canonical := hs

theorem State.Canonical.cellFault {s : State} {l : SlotLoc} {cause : Byte} {addr : Nat} {wr : Bool} (hs : s.Canonical) :
    (s.cellFault l cause addr wr).Canonical := hs

theorem State.Canonical.portFault {s : State} {g : RegionNo} {p : Nat} {x : CtxNo} {cause : Byte} {addr : Nat} (hs : s.Canonical) :
    (s.portFault g p x cause addr).Canonical := hs

theorem State.Canonical.updKernel {s : State} {n : Nat} {f : Kernel → Kernel} (hs : s.Canonical) : (s.updKernel n f).Canonical := by
  unfold State.updKernel
  split <;> exact hs

theorem State.Canonical.stopThread {s : State} {g : RegionNo} {x : CtxNo} {cause : Byte} {val : W64} (hs : s.Canonical) :
    (s.stopThread g x cause val).Canonical := .record (.updKernel (.updThread (.updCore hs)))

theorem State.Canonical.trapEntry {s : State} {g : RegionNo} {x : CtxNo} {cause : Byte} {val pc : W64} (hs : s.Canonical) :
    (s.trapEntry g x cause val pc).Canonical := .ite hs (.ite (.stopThread hs) (.updThread hs))

theorem State.Canonical.microStop {s : State} {g : RegionNo} (hs : s.Canonical) : (s.microStop g).Canonical := hs

theorem State.Canonical.trap {s : State} {w : Who} {cause : Byte} {val pc : W64} (hs : s.Canonical) : (s.trap w cause val pc).Canonical := by
  unfold State.trap
  split
  · exact .trapEntry hs
  · exact .microStop hs

/-! ### Translation -/

theorem State.Canonical.writeLine {s : State} {key : Option (BitVec 512)} {pa : Nat} {bs : List Byte} (hs : s.Canonical) :
    (s.writeLine key pa bs).Canonical := 
  .ite ⟨Memory.wf_writeN hs.1 _ _, hs.2⟩ ⟨Memory.wf_writeN (Memory.wf_writeN hs.1 _ _) _ _, hs.2⟩

theorem State.Canonical.writeKeyed {s : State} {key : Option (BitVec 512)} {n pa : Nat} {bs : List Byte} (hs : s.Canonical) :
    (s.writeKeyed key n pa bs).Canonical := by
  induction n generalizing s pa bs with
  | zero => exact hs
  | succ n ih => exact .ite hs (ih (.writeLine hs))

theorem State.Canonical.writePlace {s : State} {pl : Place} {bs : List Byte} (hs : s.Canonical) : (s.writePlace pl bs).Canonical :=
  .ite ⟨hs.1, Memory.wf_writeN hs.2 _ _⟩ (.writeKeyed (.ite hs hs))

theorem State.Canonical.ownCxl {s : State} {n : Nat} {who : RegionNo × Nat} (hs : s.Canonical) : (s.ownCxl n who).Canonical := hs

theorem State.Canonical.frameCheck {s t : State} {f : Nat} {pl : Place} {wr : Bool} (hs : s.Canonical) (e : s.frameCheck f pl wr = .ok t) :
    t.Canonical := by
  unfold State.frameCheck at e
  extract_lets fr entry attrs at e
  split at e
  · exact Except.ok.inj e ▸ hs
  split at e
  · cases e
  split at e
  · exact Except.ok.inj e ▸ hs
  split at e
  · cases e
  · exact Except.ok.inj e ▸ hs

theorem State.Canonical.guestPlace {s : State} {f gpa : Nat} {q : XReq} (hs : s.Canonical) : (s.guestPlace f gpa q).1.Canonical := by
  unfold State.guestPlace
  split
  · exact hs
  · split
    · exact hs
    · next e => exact .frameCheck hs e

theorem State.Canonical.readGuest8 {s : State} {f gpa : Nat} (hs : s.Canonical) : (s.readGuest8 f gpa).1.Canonical := by
  unfold State.readGuest8
  split
  · next e => exact .fst e (.guestPlace hs)
  · next e => exact .fst e (.guestPlace hs)
  · next e => exact .iteFst (.fst e (.guestPlace hs)) (.fst e (.guestPlace hs))

theorem State.Canonical.walk {ε : Type} {s2 : Bool} {rd : State → Nat → State × Except ε Nat} {inp table level : Nat} {s : State}
    (hs : s.Canonical) (hrd : ∀ s a, s.Canonical → (rd s a).1.Canonical) : (walk s2 rd inp table level s).1.Canonical := by
  induction level using Nat.strongRecOn generalizing s table with
  | ind level ih =>
    rw [Machine.walk.eq_def]
    dsimp only
    split
    · next e => exact .fst e (hrd s _ hs)
    next e =>
    have ht := State.Canonical.fst e (hrd s _ hs)
    split
    · exact ht
    split
    · split
      · exact ht
      split
      · next e => exact .fst e (hrd _ _ ht)
      · next e =>
        have hu := State.Canonical.fst e (hrd _ _ ht)
        split <;> exact hu
    · split
      · exact ht
      · exact ih _ (Nat.lt_succ_self _) ht

theorem State.Canonical.walkBoth {s : State} {ctxid va : Nat} {q : XReq} (hs : s.Canonical) : (s.walkBoth ctxid va q).1.Canonical := by
  unfold State.walkBoth
  extract_lets c
  have hwalk : (Machine.walk false (fun s a => s.readGuest8 c.func a) va c.root 4 s).1.Canonical := .walk hs fun _ _ h => .readGuest8 h
  split
  · next e => exact .fst e hwalk
  · next e => exact .fst e hwalk
  · next e => exact .fst e hwalk
  · next e =>
    have ht := State.Canonical.fst e hwalk
    extract_lets w1
    split
    · exact ht
    · split <;> next e => exact .fst e (.guestPlace ht)

theorem State.Canonical.forgetPage {s : State} {g : RegionNo} {ctxid page : Nat} (hs : s.Canonical) :
    (s.forgetPage g ctxid page).Canonical := hs

theorem State.Canonical.walked {g : RegionNo} {ctxid va : Nat} {q : XReq} {s : State} (hs : s.Canonical) :
    (State.translate.walked g ctxid va q s).1.Canonical := by
  unfold State.translate.walked
  split
  · next e => exact .forgetPage (.fst e (.walkBoth hs))
  · next e => exact .fst e (.walkBoth hs)
  · next e => exact .setReg (.forgetPage (.fst e (.walkBoth hs)))

theorem State.Canonical.translate {s : State} {g : RegionNo} {ctxid va : Nat} {q : XReq} (hs : s.Canonical) :
    (s.translate g ctxid va q).1.Canonical := by
  unfold State.translate
  split
  next e =>
  have ht := State.Canonical.snd e (.free hs)
  extract_lets page
  split
  · extract_lets r
    split
    · exact .walked ht
    · split
      · next e => exact .frameCheck ht e
      · exact .forgetPage ht
  · exact .walked ht

theorem State.Canonical.dropTlb {s : State} {p : Tlb → Bool} (hs : s.Canonical) : (s.dropTlb p).Canonical := hs

theorem State.Canonical.readFunc {s : State} {f gpa n : Nat} (hs : s.Canonical) : (s.readFunc f gpa n).1.Canonical := by
  induction n generalizing s gpa with
  | zero => exact hs
  | succ n ih =>
    unfold State.readFunc
    split
    · next e => exact .fst e (.guestPlace hs)
    · next e => exact .fst e (.guestPlace hs)
    · next e =>
      have ht := State.Canonical.fst e (.guestPlace hs)
      split
      · exact ht
      · split <;> next e' => exact .fst e' (ih ht)

theorem State.Canonical.writeFunc {s : State} {own : Bool} {f gpa : Nat} {bs : List Byte} (hs : s.Canonical) :
    (s.writeFunc own f gpa bs).Canonical := by
  induction bs generalizing s gpa with
  | nil => exact hs
  | cons b bs ih =>
    unfold State.writeFunc
    split
    · exact ih hs
    · split
      · exact ih hs
      · next e => exact ih (.writePlace (.frameCheck hs e))

theorem State.Canonical.claim {s : State} {who : Agent} {pl : Place} {va : Nat} {wr : Bool} (hs : s.Canonical) :
    (s.claim who pl va wr).Canonical := .ite hs hs

theorem State.Canonical.ownFunc {s : State} {who : Agent} {f gpa n : Nat} {wr : Bool} {go : State → State}
    (hs : s.Canonical) (hgo : ∀ t, t.Canonical → (go t).Canonical) : (s.ownFunc who f gpa n wr go).Canonical := by
  unfold State.ownFunc
  split
  · exact .claim hs
  · exact hgo _ hs

/-! ### Accesses and faults -/

theorem State.Canonical.updAcc {s : State} {g : RegionNo} {id : Nat} {f : Acc → Acc} (hs : s.Canonical) : (s.updAcc g id f).Canonical := hs

theorem State.Canonical.dropAcc {s : State} {g : RegionNo} {id : Nat} (hs : s.Canonical) : (s.dropAcc g id).Canonical := hs

theorem State.Canonical.parkAcc {s : State} {g : RegionNo} {id : Nat} {f : XFault} {addr : Nat} (hs : s.Canonical) :
    (s.parkAcc g id f addr).Canonical := by
  unfold State.parkAcc
  split
  · exact hs
  · exact .report (.updAcc (.forgetPage hs))

theorem State.Canonical.failAcc {s : State} {g : RegionNo} {id : Nat} {cause : Byte} (hs : s.Canonical) :
    (s.failAcc g id cause).Canonical := by
  unfold State.failAcc
  split
  · exact hs
  · split
    · exact .cellFault (.updAcc hs)
    · exact .updAcc hs

theorem State.Canonical.threadFatal {s : State} {g : RegionNo} {x : CtxNo} {id addr : Nat} {wr : Bool} (hs : s.Canonical) :
    (s.threadFatal g x id addr wr).Canonical := hs

theorem State.Canonical.uncorrectable {s : State} {g : RegionNo} {a : Acc} (hs : s.Canonical) : (s.uncorrectable g a).Canonical := by
  unfold State.uncorrectable
  split
  · exact .failAcc hs
  · exact .threadFatal (.dropAcc hs)

theorem State.Canonical.releaseNodes {s : State} {g : RegionNo} {id : Nat} (hs : s.Canonical) : (s.releaseNodes g id).Canonical := by
  unfold State.releaseNodes
  split
  · exact .updCore hs
  · exact .ite (.setReg hs) hs

theorem State.Canonical.endCmd {s : State} {g : RegionNo} {id : Nat} {cause : Byte} {value : Nat} (hs : s.Canonical) :
    (s.endCmd g id cause value).Canonical := .updCmd (.releaseNodes hs)

theorem State.Canonical.endCmdFree {s : State} {g : RegionNo} {id : Nat} {cause : Byte} (hs : s.Canonical) :
    (s.endCmdFree g id cause).Canonical := .endCmd hs

theorem State.Canonical.failCmd {s : State} {g : RegionNo} {id : Nat} {cause : Byte} (hs : s.Canonical) :
    (s.failCmd g id cause).Canonical := by
  unfold State.failCmd
  split
  · exact .endCmd hs
  · exact .endCmdFree hs

theorem State.Canonical.parkCmd {s : State} {g : RegionNo} {id : Nat} {f : XFault} {addr aux : Nat} {wr : Bool} (hs : s.Canonical) :
    (s.parkCmd g id f addr aux wr).Canonical := .report (.updCmd (.forgetPage hs))

theorem State.Canonical.waitCmd {s : State} {g : RegionNo} {id kind obj agent : Nat} (hs : s.Canonical) :
    (s.waitCmd g id kind obj agent).Canonical := .updCmd hs

theorem State.Canonical.joinAcc {s : State} {g : RegionNo} {a : Acc} (hs : s.Canonical) : (s.joinAcc g a).Canonical := hs

theorem State.Canonical.walkAcc {s : State} {g : RegionNo} {a : Acc} {va : Nat} (hs : s.Canonical) : (s.walkAcc g a va).Canonical := by
  unfold State.walkAcc
  split
  next e =>
  have ht := State.Canonical.fst e (.translate hs)
  split
  · exact .updAcc ht
  · exact .parkAcc ht
  · exact .claim (.updAcc ht)

theorem State.Canonical.startOrdinary {s : State} {g : RegionNo} {a : Acc} (hs : s.Canonical) : (s.startOrdinary g a).Canonical :=
  .walkAcc (.joinAcc hs)

theorem State.Canonical.walkAnew {s : State} {g : RegionNo} {a : Acc} {va : Nat} (hs : s.Canonical) : (s.walkAnew g a va).Canonical :=
  .walkAcc (.forgetPage hs)

theorem State.Canonical.releaseAcc {s : State} {g : RegionNo} {a : Acc} (hs : s.Canonical) : (s.releaseAcc g a).Canonical := by
  unfold State.releaseAcc
  split
  · exact .walkAnew hs
  · exact hs

theorem State.Canonical.restartAcc {s : State} {g : RegionNo} {a : Acc} (hs : s.Canonical) : (s.restartAcc g a).Canonical :=
  .ite (.updAcc hs) (.ite (.walkAcc hs) (.updAcc hs))

theorem State.Canonical.closeFaults {s : State} (hs : s.Canonical) : s.closeFaults.Canonical := hs

/-! ### Streams -/

theorem State.Canonical.setScb {s : State} {k : Nat} {b : Scb} (hs : s.Canonical) : (s.setScb k b).Canonical := hs

theorem State.Canonical.askDone {s : State} {k : Nat} {who : Asker} {slot : Nat} (hs : s.Canonical) : (s.askDone k who slot).Canonical := by
  unfold State.askDone
  split
  · exact .updAcc hs
  · exact .endCmd hs
  · exact .updPort hs
  · exact hs

theorem State.Canonical.failPort {s : State} {g : RegionNo} {p : Nat} {cause : Byte} {addr : Nat} (hs : s.Canonical) :
    (s.failPort g p cause addr).Canonical := hs

theorem State.Canonical.askFail {s : State} {k : Nat} {w : Asker × Nat × Nat} {cause : Option Byte} (hs : s.Canonical) :
    (s.askFail k w cause).Canonical := by
  unfold State.askFail
  split
  · exact .failAcc hs
  · exact .failCmd hs
  · exact .failPort hs
  · exact hs

theorem State.Canonical.putScb {s : State} {k : Nat} {b : Scb} (hs : s.Canonical) : (s.putScb k b).Canonical := by
  unfold State.putScb
  refine .foldl (.setScb hs) fun _ _ h => ?_
  split
  · exact .failAcc h
  · exact .ite h (.failCmd h)
  · exact .failPort h
  · exact h

theorem State.Canonical.askLater {s : State} {k : Nat} {w : Asker × Nat × Nat} (hs : s.Canonical) : (s.askLater k w).Canonical := hs

theorem State.Canonical.askOnce {s : State} {k : Nat} {w : Asker × Nat × Nat} (hs : s.Canonical) : (s.askOnce k w).Canonical := by
  unfold State.askOnce
  split
  · exact .askDone (.putScb hs)
  · exact .askFail hs
  · exact .askFail hs
  · exact .askLater hs

theorem State.Canonical.askSettle {s : State} {k n : Nat} (hs : s.Canonical) : (State.askSettle k n s).Canonical := by
  induction n generalizing s with
  | zero => exact hs
  | succ n ih =>
    unfold State.askSettle
    dsimp only
    split
    · exact hs
    · exact ih (.askOnce (.setScb hs))

theorem State.Canonical.changeScb {s : State} {k : Nat} {b : Scb} (hs : s.Canonical) : (s.changeScb k b).Canonical :=
  .askSettle (.putScb hs)

theorem State.Canonical.askStream {s : State} {k : Nat} {who : Asker} {o slot : Nat} (hs : s.Canonical) :
    (s.askStream k who o slot).Canonical := .askSettle (.ite (.askLater hs) (.askOnce hs))

theorem State.Canonical.noteWait {s : State} {k : Nat} {who : SWho} {off n : Nat} {wr : Bool} {kind : Nat} (hs : s.Canonical) :
    (s.noteWait k who off n wr kind).Canonical := .ite (.setScb hs) (.setScb hs)

theorem State.Canonical.clearWait {s : State} {k : Nat} {who : SWho} (hs : s.Canonical) : (s.clearWait k who).Canonical := hs

theorem State.Canonical.clearOne {s : State} {k : Nat} {who : SWho} {off : Nat} {wr : Bool} (hs : s.Canonical) :
    (s.clearOne k who off wr).Canonical := hs

theorem State.Canonical.ringPlace {s : State} {g : RegionNo} {ctxid : Nat} {b : Scb} {ring : Nat} {wr : Bool} (hs : s.Canonical) :
    (s.ringPlace g ctxid b ring wr).1.Canonical := .iteFst hs (.translate hs)

theorem State.Canonical.closeStreams {s : State} {ctxid : Nat} (hs : s.Canonical) : (s.closeStreams ctxid).Canonical :=
  .foldl hs (fun _ _ h => .changeScb h)

/-! ### Firings -/

theorem State.Canonical.pull {s : State} {g : RegionNo} {x : CtxNo} {p : Src} (hs : s.Canonical) : (s.pull g x p).Canonical := by
  unfold State.pull
  split
  · exact .updSlot (.stamp hs)
  · exact .updChan (.stamp hs)

theorem State.Canonical.issued {s : State} {l : SlotLoc} (hs : s.Canonical) : (s.issued l).Canonical := hs

theorem State.Canonical.pullAll {s : State} {l : SlotLoc} {ps : List (BitVec 2)} (hs : s.Canonical) : (s.pullAll l ps).Canonical := by
  unfold State.pullAll
  refine .foldl (.issued hs) fun _ _ h => ?_
  split
  · exact .pull h
  · exact h

theorem State.Canonical.fireFault {s : State} {l : SlotLoc} {ps : List (BitVec 2)} {cause : Byte} {addr : Nat} {wr : Bool}
    (hs : s.Canonical) : (s.fireFault l ps cause addr wr).Canonical := .cellFault (.updSlot (.pullAll hs))

theorem State.Canonical.launchFlight {s : State} {l : SlotLoc} {w : SlotWord} {o : FireOut} {tok : Token} (hs : s.Canonical) :
    (s.launchFlight l w o tok).Canonical := hs

/-! ### Control firings -/

theorem State.Canonical.moveFlight {s : State} {l : SlotLoc} {w : SlotWord} {t : Token} {to0 to1 : Bool} (hs : s.Canonical) :
    (s.moveFlight l w t to0 to1).Canonical := hs

theorem Out.Canonical.fireCopy {s : State} {op : BitVec 9} {w : SlotWord} (hs : s.Canonical) : Out.Canonical (s.fireCopy op w) := by
  unfold State.fireCopy
  split
  · exact .fault
  · refine .ite (.next hs) ?_
    split
    · exact .next hs
    · exact .ite (.next (.fireFault hs)) (.next (.moveFlight (.pullAll hs)))

theorem Out.Canonical.fireChoice {s : State} {op : BitVec 9} {w : SlotWord} {send : Bool → Bool × Bool} (hs : s.Canonical) :
    Out.Canonical (s.fireChoice op w send) := by
  unfold State.fireChoice
  split
  · exact .fault
  · refine .ite (.next hs) ?_
    split
    · exact .ite (.next hs) (.ite (.next (.fireFault hs)) (.next (.moveFlight (.pullAll hs))))
    · exact .next hs

theorem Out.Canonical.merge {w : SlotWord} {s : State} (hs : s.Canonical) : Out.Canonical (execMerge w s) := by
  unfold execMerge
  split
  · exact .fault
  · refine .ite (.next hs) ?_
    split
    · exact .ite (.next (.fireFault hs)) (.next (.moveFlight (.pullAll hs)))
    · split
      · exact .ite (.next (.fireFault hs)) (.next (.moveFlight (.pullAll hs)))
      · exact .next hs

theorem State.Canonical.iterEmit {s : State} {l : SlotLoc} {w : SlotWord} {q : IterSeq} (hs : s.Canonical) : (s.iterEmit l w q).Canonical :=
  hs

theorem Out.Canonical.iter {w : SlotWord} {s : State} (hs : s.Canonical) : Out.Canonical (execIter w s) := by
  unfold execIter
  split
  · exact .fault
  · refine .ite (.next hs) ?_
    split
    · exact .next hs
    · exact .ite (.next (.fireFault hs)) (.ite (.next (.updSlot (.pullAll hs))) (.next (.iterEmit (.pullAll hs))))

theorem Out.Canonical.iterNextValue {l : SlotLoc} {s : State} (hs : s.Canonical) : Out.Canonical (execIterNextValue l s) := by
  unfold execIterNextValue
  dsimp only
  split
  · exact .ite (.next (.iterEmit (.issued hs))) (.next hs)
  · exact .next hs

theorem Out.Canonical.tid {w : SlotWord} {s : State} (hs : s.Canonical) : Out.Canonical (execTid w s) := by
  unfold execTid
  split
  · exact .fault
  · split
    · exact .next (.updSlot (.launchFlight (.issued hs)))
    · exact .next hs

theorem Out.Canonical.mark {w : SlotWord} {s : State} (hs : s.Canonical) : Out.Canonical (execMark w s) := by
  unfold execMark
  split
  · exact .fault
  · refine .ite (.next hs) ?_
    split
    · exact .next hs
    · exact .ite (.next (.fireFault hs)) (.next (.updSlot (.pullAll hs)))

theorem Out.Canonical.markerJoin {l : SlotLoc} {s : State} (hs : s.Canonical) : Out.Canonical (execMarkerJoin l s) := by
  unfold execMarkerJoin
  refine .ite (.next hs) ?_
  split
  · exact .next hs
  · exact .next (.updSlot (.pullAll hs))

theorem Out.Canonical.statefulRelease {l : SlotLoc} {s : State} (hs : s.Canonical) : Out.Canonical (execStatefulRelease l s) := by
  unfold execStatefulRelease
  refine .ite (.next hs) ?_
  split
  · exact .next hs
  · exact .next (.updSlot (.updCell (.pullAll hs)))

theorem Out.Canonical.resultWrite {g : RegionNo} {cell : CellNo} {seq : Nat} {s : State} (hs : s.Canonical) :
    Out.Canonical (execResultWrite g cell seq s) := by
  unfold execResultWrite
  dsimp only
  split
  · exact .next hs
  · exact .next (.updSlot (.updCell (.stamp hs)))

/-! ### Memory firings -/

theorem State.Canonical.startAcc {s : State} {l : SlotLoc} {w : SlotWord} {a : Acc} {round : Byte} {p : Bool} (hs : s.Canonical) :
    (s.startAcc l w a round p).Canonical := by
  unfold State.startAcc
  dsimp only
  split
  · exact .joinAcc (.updSlot hs)
  · exact .ite (.joinAcc (.updSlot hs)) (.startOrdinary (.updSlot hs))

theorem Out.Canonical.fireAcc {s : State} {op : BitVec 9} {w : SlotWord} {wr : Bool} {room : SlotLoc → Bool}
    {build : SlotLoc → Grant → Opnd → Opnd → Except MemErr Acc} (hs : s.Canonical) : Out.Canonical (s.fireAcc op w wr room build) := by
  unfold State.fireAcc
  split
  · exact .fault
  · refine .ite (.next hs) ?_
    split
    · refine .ite (.next (.fireFault hs)) ?_
      split
      · exact .next (.fireFault hs)
      · exact .next (.startAcc (.pullAll hs))
    · exact .next hs

theorem Out.Canonical.fireMem {s : State} {op : BitVec 9} {w : SlotWord} {wr : Bool}
    {build : SlotLoc → Grant → Opnd → Opnd → Except MemErr Acc} (hs : s.Canonical) : Out.Canonical (s.fireMem op w wr build) := .fireAcc hs

theorem Out.Canonical.own {w : SlotWord} {s : State} (hs : s.Canonical) : Out.Canonical (execOwn w s) := by
  unfold execOwn
  split
  · exact .fault
  · refine .ite (.next hs) ?_
    split
    · refine .ite (.next (.fireFault hs)) ?_
      refine .ite (.next (.fireFault hs)) ?_
      refine .ite (.next (.fireFault hs)) ?_
      split
      · exact .next (.fireFault hs)
      · exact .next (.updSlot (.pullAll hs))
    · exact .next hs

theorem Out.Canonical.isect {w : SlotWord} {s : State} (hs : s.Canonical) : Out.Canonical (execIsect w s) := by
  unfold execIsect
  dsimp only
  split
  · exact .fault
  · split
    · exact .ite (.next (.fireFault hs)) (.ite (.next (.updSlot (.pullAll hs))) (.ite (.next (.pullAll hs)) (.ite (.next (.pullAll hs))
      (.next (.updCell (.pullAll hs))))))
    · exact .next hs

/-! ### Matrix firings -/

theorem State.Canonical.holdMatrix {s : State} {l : SlotLoc} (hs : s.Canonical) : (s.holdMatrix l).Canonical := hs

theorem Out.Canonical.fireTrigger {s : State} {op : BitVec 9} {w : SlotWord} {held : SlotLoc → Bool}
    {effect : SlotLoc → Option (Nat × (Cell → Cell))} (hs : s.Canonical) : Out.Canonical (s.fireTrigger op w held effect) := by
  unfold State.fireTrigger
  split
  · exact .fault
  · refine .ite (.next hs) ?_
    split
    · exact .next hs
    · refine .ite (.next (.holdMatrix hs)) ?_
      refine .ite (.next hs) ?_
      refine .ite (.next (.fireFault hs)) ?_
      split
      · exact .next (.fireFault hs)
      · exact .next (.updSlot (.launchFlight (.updCell (.pullAll hs))))

theorem Out.Canonical.fireNode {s : State} {op : BitVec 9} {w : SlotWord} {wr : Bool} {room : SlotLoc → Bool}
    {build : SlotLoc → Grant → Opnd → Opnd → Except MemErr Acc} (hs : s.Canonical) : Out.Canonical (s.fireNode op w wr room build) := by
  unfold State.fireNode
  split
  · exact .ite (.ite (.next (.holdMatrix hs)) (.next hs)) (.fireAcc hs)
  · exact .fault

theorem Out.Canonical.mdrain {w : SlotWord} {s : State} (hs : s.Canonical) : Out.Canonical (execMdrain w s) := by
  unfold execMdrain
  split
  · exact .fault
  · extract_lets n pair ty c md cb busy
    split
    extract_lets data out
    have hout : Out.Canonical out := .fireNode hs
    clear_value out
    split
    · next t =>
      have ht : t.Canonical := hout t rfl
      refine .ite hout ?_
      extract_lets u
      have hu : u.Canonical := .ite (.setGen ht) ht
      exact .next (.ite (.updCell hu) hu)
    · exact hout

/-! ### Accesses of the cells -/

theorem State.Canonical.waitAcc {s : State} {g : RegionNo} {a : Acc} {kind obj agent : Nat} (hs : s.Canonical) :
    (s.waitAcc g a kind obj agent).Canonical := hs

theorem State.Canonical.admitAcc {s : State} {g : RegionNo} {a : Acc} {ring : Nat} (hs : s.Canonical) : (s.admitAcc g a ring).Canonical :=
  .ite (.updAcc (.updAcc (.clearWait hs))) (.walkAcc (.updAcc (.clearWait hs)))

theorem State.Canonical.tryStream {s : State} {g : RegionNo} {a : Acc} (hs : s.Canonical) : (s.tryStream g a).Canonical := by
  unfold State.tryStream
  dsimp only
  split
  · exact .failAcc (.clearWait hs)
  · exact .waitAcc (.noteWait hs)
  · exact .ite (.waitAcc hs) (.admitAcc hs)

theorem Out.Canonical.streamRead {g : RegionNo} {id : Nat} {s : State} (hs : s.Canonical) : Out.Canonical (execStreamRead g id s) := by
  unfold execStreamRead
  split
  · exact .ite (.next (.tryStream hs)) (.next hs)
  · exact .next hs

theorem Out.Canonical.streamWrite {g : RegionNo} {id : Nat} {s : State} (hs : s.Canonical) : Out.Canonical (execStreamWrite g id s) := by
  unfold execStreamWrite
  split
  · split
    · exact .next (.ite (.tryStream hs) hs)
    · exact .next hs
  · exact .next hs

theorem State.Canonical.performed {s : State} {g : RegionNo} {a : Acc} {val : Nat} (hs : s.Canonical) : (s.performed g a val).Canonical := by
  unfold State.performed
  split
  · exact .updThread (.updAcc (.stamp hs))
  · exact .updAcc (.stamp hs)

theorem State.Canonical.writeResult {s : State} {g : RegionNo} {a : Acc} {v : Line} (hs : s.Canonical) : (s.writeResult g a v).Canonical := by
  unfold State.writeResult
  split
  · exact hs
  · exact .updCell hs

theorem State.Canonical.emitOwn {s : State} {l : SlotLoc} {off new : Nat} (hs : s.Canonical) : (s.emitOwn l off new).Canonical := hs

theorem State.Canonical.doSpill {s : State} {g : RegionNo} {c : CellNo} {x : CtxNo} {n : Nat} {v : Line} {pl : Place} (hs : s.Canonical) :
    (s.doSpill g c x n v pl).Canonical := by
  unfold State.doSpill
  dsimp only
  split
  · exact .updCell hs
  · split
    · exact .updCell hs
    · exact .writePlace hs

theorem State.Canonical.doFill {s : State} {g : RegionNo} {c : CellNo} {x : CtxNo} {n : Nat} {v : Line} (hs : s.Canonical) :
    (s.doFill g c x n v).Canonical := hs

theorem State.Canonical.lineStep {s : State} {g : RegionNo} {a : Acc} {pl : Place} (hs : s.Canonical) : (s.lineStep g a pl).Canonical := by
  unfold State.lineStep
  extract_lets ls
  split
  next e =>
  have ht := State.Canonical.snd e (.pick hs)
  split
  · exact ht
  · extract_lets at_ did
    have hdid (u : State) (bs : List Byte) (hu : u.Canonical) : (did u bs).Canonical := .updAcc hu
    split
    · exact .ite (.uncorrectable ht) (hdid _ _ (.writePlace ht))
    · exact .ite (.uncorrectable ht) (.ite (.failAcc ht) (hdid _ _ ht))

theorem State.Canonical.linesDone {s : State} {g : RegionNo} {a : Acc} (hs : s.Canonical) : (s.linesDone g a).Canonical := by
  unfold State.linesDone
  split
  · exact .ite hs (.performed (.updCell hs))
  · exact .ite hs (.performed (.setReg hs))
  · exact .ite hs (.performed (.writeResult (.updCell hs)))
  · exact .performed (.writeResult hs)
  · exact hs

theorem State.Canonical.byLines {s : State} {g : RegionNo} {a : Acc} {pl : Place} (hs : s.Canonical) : (s.byLines g a pl).Canonical := by
  unfold State.byLines
  dsimp only
  split
  · exact .ite (.linesDone (.lineStep hs)) (.lineStep hs)
  · exact .lineStep hs

theorem State.Canonical.effect {s : State} {g : RegionNo} {a : Acc} {pl : Place} (hs : s.Canonical) : (s.effect g a pl).Canonical := by
  unfold State.effect
  split
  · split
    · exact .performed hs
    · exact .performed (.writeResult hs)
  · exact .ite (.changeScb (.performed (.writePlace hs))) (.performed (.writePlace hs))
  · refine .ite ?_ (.performed (.writeResult (.writePlace hs)))
    split
    · exact .performed (.writeResult (.writePlace hs))
    · exact .ite (.emitOwn (.performed (.writeResult (.writePlace hs)))) hs
  · exact hs
  · exact hs
  · refine .ite (.failAcc hs) ?_
    split
    · exact .waitAcc hs
    · exact .performed (.writeResult (.writePlace hs))
  · exact .ite (.waitAcc hs) (.performed (.writeResult hs))
  · exact .performed (.writeResult (.doFill hs))
  · exact .performed (.writeResult (.doSpill hs))
  · exact .byLines hs
  · exact .byLines hs
  · exact .byLines hs
  · exact .byLines hs
  · exact .ite (.performed (.updCell hs)) (.failAcc hs)

theorem State.Canonical.ask {g : RegionNo} {s : State} {a : Acc} {slot kind : Nat} (hs : s.Canonical) :
    (execAccessPerform.ask g s a slot kind).Canonical := by
  unfold execAccessPerform.ask
  dsimp only
  split
  · exact .ite (.waitAcc (.askStream hs)) (.askStream hs)
  · exact .askStream hs

theorem Out.Canonical.accessPerform {g : RegionNo} {id : Nat} {s : State} (hs : s.Canonical) : Out.Canonical (execAccessPerform g id s) := by
  unfold execAccessPerform
  split
  · exact .next hs
  · split
    · exact .next (.walkAnew hs)
    · refine .ite (.next (.failAcc hs)) ?_
      refine .ite (.next hs) ?_
      refine .ite (.next (.tryStream (.updAcc hs))) ?_
      refine .ite (.next (.uncorrectable hs)) ?_
      refine .ite ?_ (.next (.claim hs))
      refine .next ?_
      split
      · exact .ownCxl (.effect hs)
      · exact .effect hs
    · exact .ite (.next hs) (.next (.ask hs))
    · exact .ite (.next hs) (.next (.ask hs))
    · exact .next hs

theorem Out.Canonical.accessDeliver {g : RegionNo} {id : Nat} {s : State} (hs : s.Canonical) : Out.Canonical (execAccessDeliver g id s) := by
  unfold execAccessDeliver
  split
  · exact .next hs
  · split
    · exact .next (.dropAcc (.ite (.updThread hs) hs))
    · exact .ite (.next hs) (.next (.updSlot (.dropAcc (.stamp hs))))
    · exact .next hs

/-! ### Host commands -/

theorem State.Canonical.updHCmd {s : State} {k : Nat} {f : HCmd → HCmd} (hs : s.Canonical) : (s.updHCmd k f).Canonical := by
  unfold State.updHCmd
  split <;> exact hs

theorem State.Canonical.syncCtrl {s : State} {ctxid : Nat} (hs : s.Canonical) : (s.syncCtrl ctxid).Canonical := by
  unfold State.syncCtrl
  split
  · exact .writeFunc hs
  · exact hs

theorem State.Canonical.syncParam {s : State} {ctxid : Nat} (hs : s.Canonical) : (s.syncParam ctxid).Canonical := by
  unfold State.syncParam
  split
  · exact .ite hs (.syncCtrl hs)
  · exact hs

theorem State.Canonical.updCtx {s : State} {ctxid : Nat} {f : Ctx → Ctx} (hs : s.Canonical) : (s.updCtx ctxid f).Canonical := by
  unfold State.updCtx
  split
  · exact .syncCtrl hs
  · exact hs

theorem State.Canonical.journalPut {s : State} {h : HCmd} {step : Option Nat} (hs : s.Canonical) : (s.journalPut h step).Canonical := by
  unfold State.journalPut
  dsimp only
  split
  · exact .updCtx hs
  · exact hs

theorem State.Canonical.journalTake {s t : State} {k : Nat} {h : HCmd} (hs : s.Canonical) (e : s.journalTake k h = some t) : t.Canonical := by
  unfold State.journalTake at e
  extract_lets waits go at e
  have hgo {c : Option Nat} {o : Option Nat} (e : o.map (go c) = some t) : t.Canonical := by
    obtain ⟨n, -, rfl⟩ := Option.map_eq_some_iff.1 e
    exact .journalPut hs
  split at e
  · cases e
  split at e
  · split at e
    · exact hgo e
    · cases e
  · exact hgo e

theorem State.Canonical.getD {o : Option State} {s : State} (hs : s.Canonical) (ho : ∀ t, o = some t → t.Canonical) : (o.getD s).Canonical := by
  cases o with
  | none => exact hs
  | some t => exact ho t rfl

theorem State.Canonical.hostEffect {s : State} {k : Nat} {cause : Byte} {value : Nat} (hs : s.Canonical) :
    (s.hostEffect k cause value).Canonical := by
  unfold State.hostEffect
  split
  · exact .ite hs (.ite hs (.journalPut hs))
  · exact hs

theorem State.Canonical.hostFail {s : State} {k : Nat} {cause : Byte} (hs : s.Canonical) : (s.hostFail k cause).Canonical := .hostEffect hs

theorem State.Canonical.hostAbort {s : State} {k : Nat} (hs : s.Canonical) : (s.hostAbort k).Canonical := .hostEffect (.updHCmd hs)

theorem State.Canonical.updQueue {s : State} {f q : Nat} {h : HQueue → HQueue} (hs : s.Canonical) : (s.updQueue f q h).Canonical := hs

theorem State.Canonical.complete {s : State} {f q : Nat} {cid : BitVec 16} {cause : Byte} {abrt : Bool} {value : W64} (hs : s.Canonical) :
    (s.complete f q cid cause abrt value).Canonical := .updQueue (.writeFunc hs)

theorem State.Canonical.hostComplete {s : State} {k : Nat} {h : HCmd} (hs : s.Canonical) : (s.hostComplete k h).Canonical := by
  unfold State.hostComplete
  dsimp only
  split
  · split
    · exact .ite (.ite (.complete hs) (.journalPut (.complete hs))) (.ite (.complete hs) (.journalPut (.complete hs)))
    · exact .ite (.complete hs) (.journalPut (.complete hs))
  · exact .ite (.complete hs) (.journalPut (.complete hs))

theorem Out.Canonical.hostOwn {s : State} {k : Nat} {h : HCmd} {go : State → State}
    (hs : s.Canonical) (hgo : ∀ t, t.Canonical → (go t).Canonical) : Out.Canonical (s.hostOwn k h go) := by
  unfold State.hostOwn
  split
  · exact .next (.claim hs)
  · exact .next (hgo _ hs)

theorem State.Canonical.hostUndefined {s : State} {k : Nat} (hs : s.Canonical) : (s.hostUndefined k).Canonical := by
  unfold State.hostUndefined
  split
  · exact hs
  · refine .ite hs ?_
    split
    · exact .claim hs
    · exact .ite (.hostComplete hs) (.ite hs (.hostFail hs))

theorem State.Canonical.hostRun {s : State} {k : Nat} {h : HCmd} (hs : s.Canonical) : (s.hostRun k h).Canonical := .journalPut hs

theorem Out.Canonical.hostStep {s : State} {e : HostEntry} {pre : HCmd → State → Option Byte} {f : Nat → HCmd → State → State}
    (hs : s.Canonical) (hf : ∀ k h t, t.Canonical → (f k h t).Canonical) : Out.Canonical (s.hostStep e pre f) := by
  unfold State.hostStep
  split
  · split
    · exact .next hs
    · refine .ite (.next hs) (.hostOwn hs fun t ht => .ite (.hostComplete ht) (.ite (hf _ _ t ht) (.ite ?_ (.ite ht ?_))))
      · split
        · exact .hostFail ht
        · exact .hostRun ht
      · split
        · exact .hostFail ht
        · exact .getD ht fun _ e => .journalTake ht e
  · exact .fault

/-! ### Register words -/

theorem Out.Canonical.issue {s : State} {regs : List Nat} {f : Who → Thread → State} (hs : s.Canonical) (hf : ∀ x y, (f x y).Canonical) :
    Out.Canonical (s.issue regs f) := by
  unfold State.issue
  split
  · exact .fault
  · exact .ite (.next (hf _ _)) (.next hs)

theorem Out.Canonical.issueProg {s : State} {regs : List Nat} {f : RegionNo → CtxNo → Thread → State}
    (hs : s.Canonical) (hf : ∀ x y z, (f x y z).Canonical) : Out.Canonical (s.issueProg regs f) := by
  unfold State.issueProg
  refine .issue hs fun _ _ => ?_
  split
  · exact hf _ _ _
  · exact .microStop hs

theorem Out.Canonical.setWord {s : State} {d : BitVec 5} {regs : List (BitVec 5)} {f : Thread → W64} (hs : s.Canonical) :
    Out.Canonical (s.setWord d regs f) := .issue hs (fun _ _ => .updTh hs)

theorem State.Canonical.waitTh {s : State} {g : RegionNo} {x : CtxNo} {kind obj agent : Nat} (hs : s.Canonical) :
    (s.waitTh g x kind obj agent).Canonical := hs

theorem Out.Canonical.alu {s : State} {d a b : BitVec 5} {f : W64 → W64 → W64} (hs : s.Canonical) : Out.Canonical (s.alu d a b f) :=
  .setWord hs

theorem Out.Canonical.aluImm {s : State} {d a : BitVec 5} {f : W64 → W64} (hs : s.Canonical) : Out.Canonical (s.aluImm d a f) := .setWord hs

theorem State.Canonical.issueAcc {s : State} {g : RegionNo} {x : CtxNo} {t : Thread} {a : Acc} {va n : Nat} (hs : s.Canonical) :
    (s.issueAcc g x t a va n).Canonical := by
  unfold State.issueAcc
  split
  · exact .trapEntry hs
  · split
    · exact .joinAcc (.updThread hs)
    · exact .ite (.joinAcc (.updThread hs)) (.updThread (.startOrdinary hs))

theorem State.Canonical.microAcc {s : State} {g : RegionNo} {va n : Nat} {wr : Bool} {f : Nat → State}
    (hs : s.Canonical) (hf : ∀ x, (f x).Canonical) : (s.microAcc g va n wr f).Canonical := .ite (.microStop hs) (hf _)

theorem Out.Canonical.loadWord {s : State} {d a : BitVec 5} {off : BitVec 16} {n : Nat} (hs : s.Canonical) :
    Out.Canonical (s.loadWord d a off n) := by
  unfold State.loadWord
  refine .issue hs fun _ _ => ?_
  split
  · exact .issueAcc hs
  · exact .microAcc hs (fun _ => .updTh hs)

theorem Out.Canonical.storeWord {s : State} {a b : BitVec 5} {off : BitVec 16} {n : Nat} (hs : s.Canonical) :
    Out.Canonical (s.storeWord a b off n) := by
  unfold State.storeWord
  refine .issue hs fun _ _ => ?_
  split
  · exact .ite (.waitTh hs) (.issueAcc hs)
  · exact .microAcc hs (fun _ => .updTh (.writePlace hs))

theorem Out.Canonical.branch {s : State} {a b : BitVec 5} {off : BitVec 16} {cond : W64 → W64 → Bool} (hs : s.Canonical) :
    Out.Canonical (s.branch a b off cond) := .issue hs (fun _ _ => .updTh hs)

theorem Out.Canonical.jalr {d a : BitVec 5} {off : BitVec 16} {s : State} (hs : s.Canonical) : Out.Canonical (execJalr d a off s) :=
  .issue hs (fun _ _ => .ite (.trap hs) (.updTh hs))

theorem Out.Canonical.cld {c : BitVec 3} {g : BitVec 5} {n : BitVec 10} {s : State} (hs : s.Canonical) : Out.Canonical (execCld c g n s) :=
  .issueProg hs (fun _ _ _ => .issueAcc hs)

theorem Out.Canonical.cset {c : BitVec 3} {g : BitVec 5} {part : BitVec 3} {s : State} (hs : s.Canonical) :
    Out.Canonical (execCset c g part s) := .issueProg hs (fun _ _ _ => .updThread hs)

theorem Out.Canonical.cget {c : BitVec 3} {g : BitVec 5} {part : BitVec 3} {s : State} (hs : s.Canonical) :
    Out.Canonical (execCget c g part s) := .issueProg hs (fun _ _ _ => .updThread hs)

theorem Out.Canonical.cissue {c : BitVec 3} {port : BitVec 4} {s : State} (hs : s.Canonical) : Out.Canonical (execCissue c port s) := by
  unfold execCissue
  refine .issueProg hs fun _ _ _ => ?_
  refine .ite (.waitTh hs) ?_
  refine .ite hs ?_
  split
  · exact .updThread (.updThread (.updCore hs))
  · exact .trapEntry (.ite (.updThread hs) (.updThread (.updCore hs)))

theorem Out.Canonical.cwait {g : BitVec 5} {port : BitVec 4} {nb : Bool} {s : State} (hs : s.Canonical) :
    Out.Canonical (execCwait g port nb s) := by
  unfold execCwait
  refine .issueProg hs fun _ _ _ => ?_
  split
  · exact .updThread hs
  · exact .ite (.updThread hs) (.waitTh hs)

theorem State.Canonical.bump {s : State} {g : RegionNo} {x : CtxNo} {k : BitVec 4} (hs : s.Canonical) : (s.bump g x k).Canonical := hs

theorem Out.Canonical.kset {k : BitVec 4} {g : BitVec 5} {imm : BitVec 10} {s : State} (hs : s.Canonical) :
    Out.Canonical (execKset k g imm s) := .issueProg hs (fun _ _ _ => .updThread hs)

theorem Out.Canonical.kadd {k : BitVec 4} {g : BitVec 5} {imm : BitVec 10} {s : State} (hs : s.Canonical) :
    Out.Canonical (execKadd k g imm s) := .issueProg hs (fun _ _ _ => .updThread hs)

theorem Out.Canonical.krd {k : BitVec 4} {g : BitVec 5} {s : State} (hs : s.Canonical) : Out.Canonical (execKrd k g s) :=
  .issueProg hs (fun _ _ _ => .updThread hs)

theorem Out.Canonical.kwait {k : BitVec 4} {cond : BitVec 3} {g : BitVec 5} {imm : BitVec 10} {s : State} (hs : s.Canonical) :
    Out.Canonical (execKwait k cond g imm s) := .issueProg hs (fun _ _ _ => .ite (.updThread hs) (.waitTh hs))

theorem Out.Canonical.bdset {b : BitVec 4} {g : BitVec 5} {imm : BitVec 10} {s : State} (hs : s.Canonical) :
    Out.Canonical (execBdset b g imm s) := .issueProg hs (fun _ _ _ => .ite (.updThread hs) (.trapEntry hs))

theorem Out.Canonical.bdrd {b : BitVec 4} {g : BitVec 5} {s : State} (hs : s.Canonical) : Out.Canonical (execBdrd b g s) :=
  .issueProg hs (fun _ _ _ => .updThread hs)

theorem Out.Canonical.bwarr {g : BitVec 5} {s : State} (hs : s.Canonical) : Out.Canonical (execBwarr g s) := by
  unfold execBwarr
  refine .issueProg hs fun _ _ _ => ?_
  split
  · exact .ite (.threadFatal hs) (.ite (.waitTh hs) (.updThread hs))
  · refine .ite (.trapEntry hs) ?_
    refine .ite (.trapEntry hs) ?_
    split
    · exact .trapEntry hs
    · refine .ite (.waitTh hs) ?_
      refine .ite (.threadFatal hs) ?_
      refine .ite (.trapEntry hs) ?_
      split
      · exact .waitTh hs
      · exact .ite (.updThread (.writePlace hs)) (.waitTh (.updThread (.writePlace hs)))

theorem Out.Canonical.phase {g : BitVec 5} {s : State} (hs : s.Canonical) : Out.Canonical (execPhase g s) :=
  .issueProg hs (fun _ _ _ => .ite (.waitTh hs) (.updThread (.updCore hs)))

theorem Out.Canonical.fence {scope : BitVec 4} {s : State} (hs : s.Canonical) : Out.Canonical (execFence scope s) :=
  .issueProg hs (fun _ _ _ => .ite (.updThread hs) hs)

/-! ### System words -/

theorem Out.Canonical.statusWord {s : State} {r : BitVec 4} {g : BitVec 5} {f : Who → Thread → State}
    (hs : s.Canonical) (hf : ∀ x y, (f x y).Canonical) : Out.Canonical (s.statusWord r g f) := by
  unfold State.statusWord
  refine .issue hs fun _ _ => ?_
  split
  · exact .ite (hf _ _) (.microStop hs)
  · exact hf _ _

theorem Out.Canonical.rdst {r : BitVec 4} {g : BitVec 5} {s : State} (hs : s.Canonical) : Out.Canonical (execRdst r g s) :=
  .statusWord hs (fun _ _ => .updTh hs)

theorem State.Canonical.seedGens {s : State} {g : RegionNo} {imm : BitVec 10} {sd : BitVec 16} (hs : s.Canonical) :
    (s.seedGens g imm sd).Canonical := .ite (.foldl hs (fun _ _ h => .setGen h)) (.setGen hs)

theorem Out.Canonical.wrst {r : BitVec 4} {g : BitVec 5} {imm : BitVec 10} {s : State} (hs : s.Canonical) :
    Out.Canonical (execWrst r g imm s) :=
  .statusWord hs (fun _ _ => .updTh (.ite (.syncParam (.ite (.seedGens hs) (.updTh hs))) (.ite (.seedGens hs) (.updTh hs))))

theorem Out.Canonical.trap {code : BitVec 10} {s : State} (hs : s.Canonical) : Out.Canonical (execTrap code s) :=
  .issue hs (fun _ _ => .trap hs)

theorem Out.Canonical.eret {s : State} (hs : s.Canonical) : Out.Canonical (execEret s) := by
  unfold execEret
  refine .issue hs fun _ _ => ?_
  split
  · exact .ite (.updThread hs) (.trapEntry hs)
  · exact .setReg hs

theorem Out.Canonical.brk {s : State} (hs : s.Canonical) : Out.Canonical (execBrk s) := .issue hs (fun _ _ => .ite (.updTh hs) (.trap hs))

theorem Out.Canonical.streamAccessFault {g : RegionNo} {x : CtxNo} {s : State} (hs : s.Canonical) :
    Out.Canonical (execStreamAccessFault g x s) := by
  unfold execStreamAccessFault
  split
  · exact .next hs
  · refine .ite (.next hs) ?_
    refine .next ?_
    split
    · exact .ite (.trapEntry (.updThread (.updThread (.updCore (.foldl hs (fun _ _ h => .ite (.clearWait h) h)))))) (.stopThread (.updThread
      (.updCore (.foldl hs (fun _ _ h => .ite (.clearWait h) h)))))
    · exact .trapEntry (.updThread (.updCore (.foldl hs (fun _ _ h => .ite (.clearWait h) h))))

theorem Out.Canonical.idle {s : State} (hs : s.Canonical) : Out.Canonical (execIdle s) := by
  unfold execIdle
  refine .issueProg hs fun _ _ _ => ?_
  split
  · exact .ite (.ite (.updThread hs) hs) (.waitTh (.updThread hs))
  · exact .waitTh (.updThread hs)

theorem State.Canonical.endThread {s : State} {g : RegionNo} {x : CtxNo} {code : W32} (hs : s.Canonical) :
    (s.endThread g x code).Canonical := .updThread (.updCore (.updKernel hs))

theorem State.Canonical.finish {s : State} {g : RegionNo} {x : CtxNo} {e : Ending} (hs : s.Canonical) : (s.finish g x e).Canonical :=
  .ite (.endThread (.updThread hs)) (.updThread hs)

theorem Out.Canonical.lexit {g : BitVec 5} {s : State} (hs : s.Canonical) : Out.Canonical (execLexit g s) := by
  unfold execLexit
  split
  · exact .next (.finish hs)
  · exact .issueProg hs (fun _ _ _ => .finish (.updThread hs))

theorem Out.Canonical.lkill {s : State} (hs : s.Canonical) : Out.Canonical (execLkill s) := by
  unfold execLkill
  split
  · exact .next (.finish hs)
  · exact .issueProg hs (fun _ _ _ => .finish (.updThread (.updCore hs)))

theorem Out.Canonical.privileged {s : State} {i : Instr} {f : RegionNo → Thread → State}
    (hs : s.Canonical) (hf : ∀ x y, (f x y).Canonical) : Out.Canonical (s.privileged i f) := by
  unfold State.privileged
  refine .issue hs fun _ _ => ?_
  split
  · exact .trapEntry hs
  · exact hf _ _

theorem State.Canonical.microStep {s : State} {g : RegionNo} (hs : s.Canonical) : (s.microStep g).Canonical := hs

theorem Out.Canonical.xinv {x : BitVec 4} {g : BitVec 5} {s : State} (hs : s.Canonical) : Out.Canonical (execXinv x g s) :=
  .privileged hs (fun _ _ => .microStep (.setReg hs))

theorem State.Canonical.freeze {s : State} {g : RegionNo} {x : CtxNo} {on : Bool} (hs : s.Canonical) : (s.freeze g x on).Canonical := hs

theorem Out.Canonical.frz {g : BitVec 5} {s : State} (hs : s.Canonical) : Out.Canonical (execFrz g s) :=
  .privileged hs (fun _ _ => .ite (.microStep (.freeze hs)) (.freeze hs))

theorem Out.Canonical.thaw {g : BitVec 5} {s : State} (hs : s.Canonical) : Out.Canonical (execThaw g s) :=
  .privileged hs (fun _ _ => .microStep (.freeze hs))

theorem Out.Canonical.ftok {g : BitVec 5} {s : State} (hs : s.Canonical) : Out.Canonical (execFtok g s) :=
  .privileged hs (fun _ _ => .ite (.microStop hs) (.ite hs (.microStep (.record hs))))

theorem State.Canonical.serviceProgram {s : State} {g : RegionNo} {r : Report} (hs : s.Canonical) : (s.serviceProgram g r).Canonical :=
  .ite (.setReg (.updCore hs)) (.ite (.setReg (.setReg (.record (.freeze hs)))) (.freeze hs))

theorem Out.Canonical.microprogramRun {g : RegionNo} {s : State} (hs : s.Canonical) : Out.Canonical (execMicroprogramRun g s) := by
  unfold execMicroprogramRun
  refine .ite (.next hs) ?_
  refine .ite (.next (.ite (.serviceProgram hs) hs)) ?_
  split
  · exact .next hs
  · exact .ite (.next hs) (.next (.ite (.serviceProgram (.setReg hs)) (.setReg hs)))

theorem State.Canonical.updDebug {s : State} {g : RegionNo} {x : CtxNo} {f : Core → Core} (hs : s.Canonical) :
    (s.updDebug g x f).Canonical := by
  unfold State.updDebug
  split
  · exact .setReg hs
  · exact .updCore hs

theorem State.Canonical.updDebugThread {s : State} {g : RegionNo} {x : CtxNo} {f : Thread → Thread} (hs : s.Canonical) :
    (s.updDebugThread g x f).Canonical := .updDebug hs

theorem State.Canonical.abandon {s : State} {g : RegionNo} {x : CtxNo} (hs : s.Canonical) : (s.abandon g x).Canonical := by
  unfold State.abandon
  split
  · exact .updDebug hs
  · exact hs

theorem Out.Canonical.debugHalt {g : RegionNo} {x : CtxNo} {s : State} (hs : s.Canonical) : Out.Canonical (execDebugHalt g x s) :=
  .ite (.next hs) (.next (.closeFaults (.updDebugThread (.abandon hs))))

theorem Out.Canonical.debugResume {g : RegionNo} {x : CtxNo} {s : State} (hs : s.Canonical) : Out.Canonical (execDebugResume g x s) :=
  .next (.ite (.updDebugThread hs) hs)

theorem Out.Canonical.debugRegisterWrite {g : RegionNo} {x : CtxNo} {tg : DebugTarget} {v : Line} {s : State} (hs : s.Canonical) :
    Out.Canonical (execDebugRegisterWrite g x tg v s) := by
  unfold execDebugRegisterWrite
  refine .ite (.next hs) ?_
  split
  · exact .next (.updDebugThread hs)
  · exact .next (.updDebugThread hs)
  · exact .next (.updDebugThread hs)
  · exact .next (.updDebugThread hs)
  · exact .next (.updDebugThread hs)
  · exact .next (.updDebugThread hs)
  · exact .next (.updDebugThread hs)
  · exact .next (.updDebugThread hs)
  · exact .next (.updDebugThread hs)
  · exact .next (.updDebugThread hs)
  · exact .next (.updDebugThread hs)
  · exact .next (.updDebug hs)

/-! ### Commands of the units -/

theorem Out.Canonical.runCmd {s : State} {f : RegionNo → Nat → Cmd → State} (hs : s.Canonical) (hf : ∀ x y z, (f x y z).Canonical) :
    Out.Canonical (s.runCmd f) := by
  unfold State.runCmd
  split
  · exact .ite (.next (hf _ _ _)) (.next hs)
  · exact .fault

theorem State.Canonical.progress {s : State} {g : RegionNo} {id : Nat} {f : Prog → Prog} (hs : s.Canonical) :
    (s.progress g id f).Canonical := .updCmd (.stamp hs)

theorem State.Canonical.updIo {s : State} {g : RegionNo} {id : Nat} {f : List EAcc → List EAcc} (hs : s.Canonical) :
    (s.updIo g id f).Canonical := .updCmd (.stamp hs)

theorem State.Canonical.onStop {s : State} {g : RegionNo} {id : Nat} {t : Stop} {aux : Nat} {wr : Bool} (hs : s.Canonical) :
    (s.onStop g id t aux wr).Canonical := by
  unfold State.onStop
  split
  · exact .parkCmd hs
  · exact .failCmd hs
  · exact hs

theorem State.Canonical.engStart {s : State} {g : RegionNo} {who : Agent} {c : Cmd} {e : EAcc} (hs : s.Canonical) :
    (s.engStart g who c e).1.Canonical := by
  unfold State.engStart
  split
  · exact hs
  · refine .iteFst hs ?_
    split
    · next e => exact .fst e (.translate hs)
    · next e => exact .claim (.fst e (.translate hs))
    · next e => exact .fst e (.translate hs)

theorem State.Canonical.ioStart {s : State} {g : RegionNo} {id : Nat} {start : State → EAcc → State × Except Stop EAcc} {e : EAcc}
    (hs : s.Canonical) (hstart : ∀ s e, s.Canonical → (start s e).1.Canonical) : (s.ioStart g id start e).1.Canonical := by
  unfold State.ioStart
  split
  · next eq => exact .fst eq (hstart s e hs)
  · next eq => exact .updIo (.fst eq (hstart s e hs))

theorem State.Canonical.ioEffect {s : State} {e : EAcc} (hs : s.Canonical) : (s.ioEffect e).1.Canonical := by
  unfold State.ioEffect
  split
  · exact hs
  · exact .writePlace hs

theorem State.Canonical.ioPerform {s : State} {g : RegionNo} {id : Nat} {e : EAcc} (hs : s.Canonical) : (s.ioPerform g id e).1.Canonical := by
  unfold State.ioPerform
  split
  · exact .claim hs
  · split
    · exact hs
    · exact .updIo (.ownCxl (.ioEffect hs))

theorem State.Canonical.ioOne {s : State} {g : RegionNo} {id : Nat} {start : State → EAcc → State × Except Stop EAcc} {e : EAcc}
    (hs : s.Canonical) (hstart : ∀ t x, t.Canonical → (start t x).1.Canonical) : (s.ioOne g id start e).1.Canonical := by
  unfold State.ioOne
  split
  · exact .ioStart hs (fun _ _ h => hstart _ _ h)
  · exact .ioPerform hs

theorem State.Canonical.ioAll {s : State} {g : RegionNo} {id : Nat} {start : State → EAcc → State × Except Stop EAcc} {es : List EAcc}
    (hs : s.Canonical) (hstart : ∀ s e, s.Canonical → (start s e).1.Canonical) : (s.ioAll g id start es).1.Canonical := by
  unfold State.ioAll
  extract_lets q
  split
  · exact hs
  · split
    next e =>
    have ht := State.Canonical.snd e (.pick hs)
    split
    next e => exact .fst e (.ioOne ht hstart)

theorem State.Canonical.ioReady {s : State} {g : RegionNo} {id : Nat} {start : State → EAcc → State × Except Stop EAcc} {es : List EAcc}
    (hs : s.Canonical) (hstart : ∀ s e, s.Canonical → (start s e).1.Canonical) : (s.ioReady g id start es).1.Canonical := by
  unfold State.ioReady
  extract_lets q
  split
  · exact hs
  · split
    next e =>
    have ht := State.Canonical.snd e (.pick hs)
    split
    next e => exact .fst e (.ioStart ht hstart)

theorem State.Canonical.eRead {s : State} {g : RegionNo} {id : Nat} {c : Cmd} {a n : Nat} (hs : s.Canonical) :
    (s.eRead g id c a n).1.Canonical := .ioAll hs (fun _ _ h => .engStart h)

theorem State.Canonical.eCheck {s : State} {g : RegionNo} {id : Nat} {c : Cmd} {a n : Nat} (hs : s.Canonical) :
    (s.eCheck g id c a n).1.Canonical := .ioReady hs (fun _ _ h => .engStart h)

theorem State.Canonical.eWrite {s : State} {g : RegionNo} {id : Nat} {c : Cmd} {a : Nat} {bs : List Byte} (hs : s.Canonical) :
    (s.eWrite g id c a bs).1.Canonical := by
  unfold State.eWrite
  split
  · next e => exact .fst e (.ioAll hs (fun _ _ h => .engStart h))
  · next e => exact .fst e (.ioAll hs (fun _ _ h => .engStart h))

theorem State.Canonical.waitElem {s : State} {g : RegionNo} {id : Nat} {c : Cmd} {a n kind : Nat} {wr : Bool} (hs : s.Canonical) :
    (s.waitElem g id c a n kind wr).Canonical := .waitCmd (.noteWait hs)

theorem State.Canonical.clearElems {s : State} {g : RegionNo} {id ctxid : Nat} (hs : s.Canonical) : (s.clearElems g id ctxid).Canonical :=
  hs

theorem State.Canonical.ringStop {s : State} {g : RegionNo} {who : Agent} {ctxid : Nat} {b : Scb} {elem ring : Nat} {wr : Bool}
    (hs : s.Canonical) : (s.ringStop g who ctxid b elem ring wr).1.Canonical := by
  unfold State.ringStop
  split
  · next e => exact .fst e (.ringPlace hs)
  · next e => exact .claim (.fst e (.ringPlace hs))
  · next e => exact .iteFst (.fst e (.ringPlace hs)) (.claim (.fst e (.ringPlace hs)))

theorem State.Canonical.ringAll {s : State} {g : RegionNo} {who : Agent} {ctxid : Nat} {b : Scb} {elem : Nat} {wr : Bool}
    {ps : List (Nat × Nat)} (hs : s.Canonical) : (s.ringAll g who ctxid b elem wr ps).1.Canonical := by
  induction ps generalizing s with
  | nil => exact hs
  | cons p ps ih =>
    unfold State.ringAll
    split
    · next e => exact .fst e (.ringStop hs)
    · next e =>
      have ht := ih (.fst e (.ringStop hs))
      split <;> next e' => exact .fst e' ht

theorem State.Canonical.writePieces {s : State} {ps : List (Place × Nat)} {bs : List Byte} (hs : s.Canonical) :
    (s.writePieces ps bs).Canonical := by
  induction ps generalizing s bs with
  | nil => exact hs
  | cons p ps ih => exact ih (.writePlace hs)

theorem State.Canonical.ringWrite {s : State} {g : RegionNo} {who : Agent} {ctxid : Nat} {b : Scb} {elem off : Nat} {bs : List Byte}
    (hs : s.Canonical) : (s.ringWrite g who ctxid b elem off bs).1.Canonical := by
  unfold State.ringWrite
  dsimp only
  split
  · next e => exact .writePieces (.fst e (.ringAll hs))
  · next e => exact .fst e (.ringAll hs)

theorem State.Canonical.ringStart {s : State} {g : RegionNo} {id : Nat} {c : Cmd} {e : EAcc} (hs : s.Canonical) :
    (s.ringStart g id c e).1.Canonical := by
  unfold State.ringStart
  dsimp only
  split
  · next e => exact .fst e (.ringPlace hs)
  · next e => exact .claim (.fst e (.ringPlace hs))
  · next e => exact .fst e (.ringPlace hs)

theorem State.Canonical.elemStart {s : State} {g : RegionNo} {id : Nat} {c : Cmd} {e : EAcc} (hs : s.Canonical) :
    (s.elemStart g id c e).1.Canonical := by
  unfold State.elemStart
  dsimp only
  split
  · exact hs
  · exact .waitElem hs
  · exact .ringStart (.clearOne hs)

theorem State.Canonical.carryOut {s : State} {g : RegionNo} {id code : Nat} (hs : s.Canonical) : (s.carryOut g id code).Canonical :=
  .ite hs hs

theorem Out.Canonical.commandStart {g : RegionNo} {x : CtxNo} {port : BitVec 4} {s : State} (hs : s.Canonical) :
    Out.Canonical (execCommandStart g x port s) := by
  unfold execCommandStart
  dsimp only
  split
  · exact .next hs
  · exact .ite (.next hs) (.ite (.next (.updThread hs)) (.ite (.next hs) (.ite (.next (.ite (.waitCmd hs) (.ite (.waitCmd hs) hs))) (.next
    (.carryOut (.updCmd (.updThread hs)))))))

theorem Out.Canonical.commandComplete {g : RegionNo} {x : CtxNo} {port : BitVec 4} {s : State} (hs : s.Canonical) :
    Out.Canonical (execCommandComplete g x port s) := by
  unfold execCommandComplete
  dsimp only
  split
  · exact .next hs
  · exact .ite (.next (.updThread (.updCore (.dropStale hs)))) (.next (.updCore (.updThread (.ite (.bump (.updCmd hs)) (.updCmd hs)))))

/-! ### Channels -/

theorem State.Canonical.reportFilter {s : State} {g : RegionNo} {d : W64} (hs : s.Canonical) : (s.reportFilter g d).Canonical :=
  .ite (.cellFault hs) (.portFault hs)

theorem State.Canonical.deliver {s : State} {g : RegionNo} {ch : Nat} {t : Token} (hs : s.Canonical) : (s.deliver g ch t).Canonical := by
  unfold State.deliver
  dsimp only
  split
  · exact .ite (.reportFilter (.updChan (.ite (.setGen hs) hs))) (.updChan (.ite (.setGen hs) hs))
  · exact .updChan hs
  · exact .ite (.reportFilter (.updChan hs)) (.updChan hs)
  · exact .updChan hs

theorem State.Canonical.presentMark {s : State} {g : RegionNo} {ch : Nat} (hs : s.Canonical) : (s.presentMark g ch).Canonical := by
  unfold State.presentMark
  dsimp only
  split
  · exact .ite (.deliver (.updChan hs)) hs
  · exact hs

theorem State.Canonical.arrive {s : State} {g : RegionNo} {ch : Nat} {t : Token} (hs : s.Canonical) : (s.arrive g ch t).Canonical :=
  .ite (.deliver hs) (.ite (.presentMark (.updChan hs)) (.ite (.presentMark (.deliver (.updChan hs))) (.deliver hs)))

theorem State.Canonical.ready {s : State} {g : RegionNo} {loc inp vc : Nat} (hs : s.Canonical) : (s.ready g loc inp vc).1.Canonical := by
  unfold State.ready
  extract_lets k n key
  split
  · exact .updCore hs
  split
  · exact hs
  split
  next e =>
  have ht := State.Canonical.snd e (.free hs)
  split
  · exact ht
  · exact .updCore ht

theorem State.Canonical.flitHop {s : State} {g : RegionNo} {i : Nat} (hs : s.Canonical) : (s.flitHop g i).Canonical := by
  unfold State.flitHop
  dsimp only
  split
  · exact hs
  · refine .ite hs ?_
    split
    · split
      · next e => exact .fst e (.ready hs)
      · next e => exact .updCore (.stamp (.fst e (.ready hs)))
    · refine .ite hs ?_
      split
      · exact .updChan (.updCore (.stamp hs))
      · exact .updChan (.updCore (.stamp hs))
      · exact .ite (.arrive (.updCore (.stamp hs))) (.updCore (.stamp hs))

theorem State.Canonical.flitEnter {s : State} {g : RegionNo} {ch : Nat} (hs : s.Canonical) : (s.flitEnter g ch).Canonical := by
  unfold State.flitEnter
  dsimp only
  split
  · exact hs
  · exact .ite hs (.updCore (.updChan (.stamp hs)))

theorem State.Canonical.flitAck {s : State} {g : RegionNo} {ch : Nat} (hs : s.Canonical) : (s.flitAck g ch).Canonical :=
  .ite hs (.updCore (.updChan (.stamp hs)))

theorem State.Canonical.countPort {s : State} {g : RegionNo} {p : Nat} {t : TokKind} (hs : s.Canonical) : (s.countPort g p t).Canonical :=
  .foldl (.stamp hs) (fun _ _ h => .ite (.bump h) h)

theorem State.Canonical.flitLink {s : State} {g : RegionNo} {ch : Nat} (hs : s.Canonical) : (s.flitLink g ch).Canonical := by
  unfold State.flitLink
  dsimp only
  split
  · exact hs
  · exact .ite hs (.countPort (.updChan (.stamp hs)))

theorem State.Canonical.placeJoined {s : State} {g : RegionNo} {n : Nat} (hs : s.Canonical) : (s.placeJoined g n).Canonical := by
  unfold State.placeJoined
  dsimp only
  split
  · exact hs
  · split
    · exact .updChan hs
    · exact .ite (.countPort (.updChan hs)) hs

theorem Out.Canonical.sourcePortPull {g : RegionNo} {ch : BitVec 7} {s : State} (hs : s.Canonical) :
    Out.Canonical (execSourcePortPull g ch s) := by
  unfold execSourcePortPull
  dsimp only
  refine .ite (.next hs) ?_
  refine .ite (.next (.placeJoined hs)) ?_
  refine .ite (.next hs) ?_
  split
  · split
    · exact .ite (.next (.updChan (.pull hs))) (.next hs)
    · exact .next hs
  · refine .ite (.next hs) ?_
    split
    · exact .next hs
    · split
      · exact .next hs
      · exact .ite (.next hs) (.ite (.next (.updChan (.countPort (.updChan hs)))) (.next (.ite (.portFault (.updChan (.countPort (.updChan
        hs)))) (.updChan (.countPort (.updChan hs))))))

theorem State.Canonical.sweep {s : State} {g : RegionNo} {n : Nat} (hs : s.Canonical) : (s.sweep g n).Canonical := by
  obtain ⟨m, hm⟩ : ∃ m, n - 4096 = m := ⟨_, rfl⟩
  unfold State.sweep
  rw [hm]
  clear hm
  extract_lets k
  split
  · refine .ite hs ?_
    split
    · exact .updCore hs
    · exact hs
  · split
    · split
      · exact .updCore hs
      · exact hs
    · exact hs

theorem Out.Canonical.flitMove {g : RegionNo} {i : Nat} {s : State} (hs : s.Canonical) : Out.Canonical (execFlitMove g i s) := by
  unfold execFlitMove
  refine .next ?_
  split
  · exact .flitEnter hs
  · exact .flitHop hs
  · exact .flitAck hs
  · exact .flitLink hs
  · exact .sweep hs

theorem Out.Canonical.threadTokenEntry {g : RegionNo} {port : BitVec 6} {s : State} (hs : s.Canonical) :
    Out.Canonical (execThreadTokenEntry g port s) := by
  unfold execThreadTokenEntry
  dsimp only
  split
  · exact .next hs
  · exact .ite (.next hs) (.ite (.next (.countPort (.updChan hs))) (.ite (.next (.portFault (.countPort (.updChan hs)))) (.ite (.next hs)
    (.next (.updSched (.countPort (.updChan hs)))))))

theorem State.Canonical.callImages {s : State} {names : Nat × EdgePort → Bool} (hs : s.Canonical) : (s.callImages names).Canonical := hs

theorem Out.Canonical.voingTokenReceive {link : BitVec 4} {ch : Byte} {tok : Token} {s : State} (hs : s.Canonical) :
    Out.Canonical (execVoingTokenReceive link ch tok s) := by
  unfold execVoingTokenReceive
  refine .ite (.next (.record hs)) ?_
  split
  · exact .ite (.next (.callImages hs)) (.next (.ite (.dropStale hs) hs))
  · refine .ite (.next (.setReg hs)) ?_
    split
    · exact .next hs
    · exact .ite (.next (.countPort (.updChan hs))) (.next hs)

theorem Out.Canonical.voingAcknowledgement {link : BitVec 4} {s : State} (hs : s.Canonical) :
    Out.Canonical (execVoingAcknowledgement link s) := by
  unfold execVoingAcknowledgement
  refine .next ?_
  split <;> exact hs

theorem Out.Canonical.probeReturn {g : RegionNo} {ch : BitVec 7} {s : State} (hs : s.Canonical) : Out.Canonical (execProbeReturn g ch s) := by
  unfold execProbeReturn
  dsimp only
  split
  · split
    · exact .ite (.next (.endCmd (.updChan (.stamp hs)))) (.next (.updCmd (.updChan (.stamp hs))))
    · exact .next hs
  · exact .next hs

theorem State.Canonical.placeProbe {s : State} {g : RegionNo} {id n : Nat} (hs : s.Canonical) : (s.placeProbe g id n).Canonical := hs

theorem Out.Canonical.fprobe {c : Frame} {s : State} (hs : s.Canonical) : Out.Canonical (execFprobe c s) :=
  .runCmd hs (fun _ _ _ => .ite hs (.ite (.failCmd hs) (.ite (.endCmd (.foldl hs (fun _ _ h => .placeProbe h))) (.progress (.foldl hs (fun _
    _ h => .placeProbe h))))))

theorem Out.Canonical.rmark {c : Frame} {s : State} (hs : s.Canonical) : Out.Canonical (execRmark c s) :=
  .runCmd hs (fun _ _ _ => .ite (.failCmd hs) (.ite (.endCmd (.updChan hs)) (.ite (.waitCmd (.updCmd (.updChan hs))) hs)))

/-! ### Stream commands -/

theorem State.Canonical.freshPorts {s : State} {ctxid six : Nat} (hs : s.Canonical) : (s.freshPorts ctxid six).Canonical := hs

theorem Out.Canonical.sopen {c : Frame} {s : State} (hs : s.Canonical) : Out.Canonical (execSopen c s) := by
  unfold execSopen
  dsimp only
  refine .runCmd hs fun _ _ _ => ?_
  split
  · exact .failCmd hs
  · exact .endCmd (.freshPorts (.setScb hs))

theorem Out.Canonical.sclose {c : Frame} {s : State} (hs : s.Canonical) : Out.Canonical (execSclose c s) :=
  .runCmd hs (fun _ _ _ => .ite (.failCmd hs) (.ite hs (.endCmd (.changeScb hs))))

theorem State.Canonical.cmdAsk {s : State} {g : RegionNo} {id : Nat} {m : Cmd} {c : Frame} {slot kind : Nat} (hs : s.Canonical) :
    (s.cmdAsk g id m c slot kind).Canonical := .ite hs (.ite (.askStream (.progress hs)) (.waitCmd (.askStream (.progress hs))))

theorem Out.Canonical.spublish {c : Frame} {s : State} (hs : s.Canonical) : Out.Canonical (execSpublish c s) :=
  .runCmd hs (fun _ _ _ => .cmdAsk hs)

theorem Out.Canonical.srelease {c : Frame} {s : State} (hs : s.Canonical) : Out.Canonical (execSrelease c s) :=
  .runCmd hs (fun _ _ _ => .cmdAsk hs)

theorem Out.Canonical.srewind {c : Frame} {s : State} (hs : s.Canonical) : Out.Canonical (execSrewind c s) := by
  unfold execSrewind
  dsimp only
  refine .runCmd hs fun _ _ _ => ?_
  split
  · exact .failCmd hs
  · exact .endCmd (.changeScb hs)

theorem Out.Canonical.sstat {c : Frame} {s : State} (hs : s.Canonical) : Out.Canonical (execSstat c s) := by
  unfold execSstat
  dsimp only
  refine .runCmd hs fun _ _ _ => ?_
  split
  · refine .ite (.endCmd hs) ?_
    split
    · exact .failCmd hs
    · exact .progress hs
  · split
    · next e => exact .endCmd (.fst e (.eWrite hs))
    · next e₁ => exact .onStop (.fst e₁ (.eWrite hs))

theorem Out.Canonical.sbind {c : Frame} {s : State} (hs : s.Canonical) : Out.Canonical (execSbind c s) := by
  unfold execSbind
  refine .runCmd hs fun _ _ _ => ?_
  refine .ite (.failCmd hs) ?_
  split
  · exact .failCmd hs
  · exact .endCmd (.changeScb hs)

theorem State.Canonical.hostAsk {s : State} {key : Nat} {rel : Bool} {o slot : Nat} (hs : s.Canonical) :
    (s.hostAsk key rel o slot).Canonical := .askStream (.setScb hs)

theorem Out.Canonical.hwmWrite {f : BitVec 5} {ap : BitVec 6} {v : W64} {s : State} (hs : s.Canonical) :
    Out.Canonical (execHwmWrite f ap v s) := by
  unfold execHwmWrite
  refine .next ?_
  split
  · exact .hostAsk hs
  · exact hs

theorem Out.Canonical.hrelWrite {f : BitVec 5} {ap : BitVec 6} {v : W64} {s : State} (hs : s.Canonical) :
    Out.Canonical (execHrelWrite f ap v s) := by
  unfold execHrelWrite
  refine .next ?_
  split
  · exact .hostAsk hs
  · exact hs

theorem State.Canonical.hostPlace {s : State} {ctxid : Nat} {b : Scb} {ring : Nat} (hs : s.Canonical) :
    (s.hostPlace ctxid b ring).1.Canonical := by
  unfold State.hostPlace
  split
  next e =>
  have ht := State.Canonical.fst e (.ringPlace hs)
  exact ht

theorem State.Canonical.hostWrite {s : State} {ctxid : Nat} {b : Scb} {ps : List (Nat × Nat)} {bs : List Byte} (hs : s.Canonical) :
    (s.hostWrite ctxid b ps bs).Canonical := by
  induction ps generalizing s bs with
  | nil => exact hs
  | cons p ps ih =>
    unfold State.hostWrite
    split
    · next e => exact ih (.writePlace (.fst e (.hostPlace hs)))
    · next e => exact ih (.fst e (.hostPlace hs))

theorem Out.Canonical.apertureDataWrite {f : BitVec 5} {ap : BitVec 6} {off : Nat} {bytes : List Byte} {s : State} (hs : s.Canonical) :
    Out.Canonical (execApertureDataWrite f ap off bytes s) := by
  unfold execApertureDataWrite
  refine .next ?_
  split
  · exact hs
  · exact .ite hs (.hostWrite hs)

theorem State.Canonical.waitPort {s : State} {g : RegionNo} {p kind obj agent : Nat} (hs : s.Canonical) :
    (s.waitPort g p kind obj agent).Canonical := hs

theorem State.Canonical.parkPort {s : State} {g : RegionNo} {p : Nat} {x : CtxNo} {f : XFault} {addr aux : Nat} {wr : Bool}
    (hs : s.Canonical) : (s.parkPort g p x f addr aux wr).Canonical := hs

theorem State.Canonical.stopPort {s : State} {g : RegionNo} {p : Nat} {x : CtxNo} {t : Stop} {wr : Bool} (hs : s.Canonical) :
    (s.stopPort g p x t wr).Canonical := by
  unfold State.stopPort
  split
  · exact .parkPort hs
  · exact .failPort hs
  · exact hs

theorem State.Canonical.ringOne {s : State} {g : RegionNo} {who : Agent} {b : Scb} {w : PortAcc} {elem : Nat} {e : EAcc}
    (hs : s.Canonical) : (s.ringOne g who b w elem e).1.Canonical := by
  unfold State.ringOne
  extract_lets ring
  split
  · split
    · next e => exact .fst e (.ringPlace hs)
    · next e => exact .claim (.fst e (.ringPlace hs))
    · next e => exact .fst e (.ringPlace hs)
  · split
    · exact .claim hs
    · split
      · exact hs
      · split
        next e => exact .fst e (.ioEffect hs)

theorem State.Canonical.portLine {s : State} {g : RegionNo} {p : Nat} {x : CtxNo} {who : Agent} {key : Nat} {w : PortAcc}
    {es : List EAcc} {wr : Bool} (hs : s.Canonical) : (s.portLine g p x who key w es wr).Canonical := by
  unfold State.portLine
  dsimp only
  refine .ite (.waitPort (.noteWait hs)) ?_
  split
  · exact .pick hs
  · split
    · next e => exact .stopPort (.fst e (.ringOne (.pick hs)))
    · next e => exact .updPort (.stamp (.fst e (.ringOne (.pick hs))))

theorem Out.Canonical.edgePortStreamRead {g : RegionNo} {port : BitVec 6} {s : State} (hs : s.Canonical) :
    Out.Canonical (execEdgePortStreamRead g port s) := by
  unfold execEdgePortStreamRead
  dsimp only
  refine .ite (.next hs) ?_
  split
  · exact .next hs
  · split
    · exact .next (.waitPort hs)
    · exact .next (.updPort hs)
    · exact .ite (.next (.failPort hs)) (.ite (.next (.updPort hs)) (.ite (.next (.portLine hs)) (.ite (.next (.countPort (.updChan
      (.updPort (.setScb hs))))) (.next hs))))
    · split
      · refine .ite ?_ (.next (.waitPort hs))
        refine .ite (.ite (.next (.updPort (.countPort (.updChan hs)))) (.next hs)) ?_
        refine .ite ?_ (.next hs)
        refine .next ?_
        split
        · exact .failPort hs
        · exact .waitPort hs
        · exact .updPort (.stamp hs)
      · refine .ite ?_ (.next hs)
        refine .next ?_
        split
        · exact .failPort hs
        · exact .waitPort hs
        · exact .updPort (.stamp hs)

theorem State.Canonical.portPull {s : State} {g : RegionNo} {p n : Nat} {t : TokKind} (hs : s.Canonical) : (s.portPull g p n t).Canonical :=
  .countPort (.updPort (.updChan hs))

theorem Out.Canonical.edgePortStreamWrite {g : RegionNo} {port : BitVec 6} {s : State} (hs : s.Canonical) :
    Out.Canonical (execEdgePortStreamWrite g port s) := by
  unfold execEdgePortStreamWrite
  dsimp only
  split
  · exact .next hs
  · refine .ite (.next hs) ?_
    refine .ite (.next (.portFault (.portPull hs))) ?_
    split
    · refine .ite (.next (.failPort hs)) ?_
      split
      · exact .ite (.next (.ite hs (.portLine hs))) (.next (.portPull (.updPort (.ite (.changeScb (.clearWait (.ite hs (.portLine hs))))
        (.clearWait (.ite hs (.portLine hs)))))))
      · exact .next (.ite hs (.portLine hs))
    · split
      · exact .next (.failPort (.updPort hs))
      · exact .next (.waitPort (.noteWait (.updPort hs)))
      · exact .ite (.next (.waitPort (.updPort hs))) (.next (.updPort (.stamp (.clearWait (.updPort hs)))))

theorem Out.Canonical.edgePortMarkerPublish {g : RegionNo} {port : BitVec 6} {s : State} (hs : s.Canonical) :
    Out.Canonical (execEdgePortMarkerPublish g port s) := by
  unfold execEdgePortMarkerPublish
  dsimp only
  split
  · exact .next hs
  · refine .ite (.next hs) ?_
    refine .ite (.next (.portPull (.updPort hs))) ?_
    split
    · exact .next (.waitPort (.askStream (.updPort hs)))
    · exact .next (.portPull (.updPort (.askStream (.updPort hs))))
    · exact .next (.askStream (.updPort hs))

/-! ### Copies -/

theorem State.Canonical.copyStart {s : State} {g : RegionNo} {id : Nat} {m : Cmd} {d : CopyDesc} {e : EAcc} (hs : s.Canonical) :
    (s.copyStart g id m d e).1.Canonical := .iteFst hs (.iteFst (.engStart hs) (.iteFst (.ringStart hs) (.elemStart hs)))

theorem State.Canonical.copyRead {s : State} {g : RegionNo} {id : Nat} {m : Cmd} {d : CopyDesc} {e : EAcc} (hs : s.Canonical) :
    (s.copyRead g id m d e).1.Canonical := by
  unfold State.copyRead
  split
  · exact .ioStart hs (fun _ _ h => .copyStart h)
  · exact .iteFst hs (.ioPerform hs)

theorem State.Canonical.elemWrite {s : State} {g : RegionNo} {id : Nat} {m : Cmd} {es : List EAcc} {q : EAcc} (hs : s.Canonical) :
    (s.elemWrite g id m es q).1.Canonical := by
  unfold State.elemWrite
  extract_lets a o n k b last go
  have hgo : (go s).1.Canonical := by
    dsimp only [go]
    split
    · exact .waitElem hs
    · have ht : ((s.clearOne k (.cmd g id) o true).ioPerform g id q).1.Canonical := .ioPerform (.clearOne hs)
      exact .ite (.changeScb ht) ht
  split
  · exact hs
  split
  · exact hgo
  split
  · exact hs
  · exact .waitElem hs
  · split
    · exact .waitCmd hs
    · exact hgo

theorem State.Canonical.copyStop {s : State} {g : RegionNo} {id : Nat} {t : Stop} {wr : Bool} (hs : s.Canonical) :
    (s.copyStop g id t wr).Canonical := by
  unfold State.copyStop
  refine .onStop ?_
  split
  · exact .clearElems hs
  · exact hs

theorem State.Canonical.copyBegin {s : State} {g : RegionNo} {id : Nat} {m : Cmd} {c : Frame} (hs : s.Canonical) :
    (s.copyBegin g id m c).Canonical := by
  generalize hf : @State.copyBegin = f
  delta State.copyBegin at hf
  subst hf
  beta_reduce
  extract_lets +onlyGivenNames a
  split
  · exact .failCmd hs
  · split
    · next e => exact .onStop (.fst e (.eRead hs))
    · next e =>
      have ht := State.Canonical.fst e (.eRead hs)
      split
      · next e => exact .onStop (.fst e (.eRead ht))
      · next e =>
        have hu := State.Canonical.fst e (.eRead ht)
        extract_lets +onlyGivenNames h
        split
        · exact .failCmd hu
        · exact .progress hu

theorem State.Canonical.copyTable {s : State} {g : RegionNo} {id : Nat} {m : Cmd} (hs : s.Canonical) : (s.copyTable g id m).Canonical := by
  unfold State.copyTable
  dsimp only
  split
  · split
    · next e => exact .onStop (.fst e (.eRead hs))
    · next e => exact .progress (.progress (.fst e (.eRead hs)))
  · refine .ite ?_ (.progress hs)
    refine .ite (.progress hs) ?_
    split
    · next e => exact .onStop (.fst e (.eRead hs))
    · next e => exact .progress (.fst e (.eRead hs))

theorem State.Canonical.copyOut {s : State} {g : RegionNo} {id : Nat} {m : Cmd} {c : Frame} {d : CopyDesc} {lo n : Nat}
    (hs : s.Canonical) : (s.copyOut g id m c d lo n).Canonical := by
  unfold State.copyOut
  extract_lets +onlyGivenNames ws es stream fresh ask wide
  clear_value ask
  split
  · exact .copyStop hs
  · split
    · exact .waitElem hs
    · extract_lets +onlyGivenNames adm
      split
      · next e => exact .copyStop (.fst e (.ioReady hs fun _ _ h => .copyStart h))
      · next e =>
        have ht := State.Canonical.fst e (.ioReady hs fun _ _ h => .copyStart h)
        extract_lets +onlyGivenNames qs
        split
        · exact .claim ht
        · split
          · exact .updCmd (.clearElems ht)
          · split
            · exact .updCmd (.stamp ht)
            · split
              next e =>
              have hu := State.Canonical.snd e (.pick ht)
              extract_lets +onlyGivenNames q
              split
              next e =>
              refine .copyStop (.fst e ?_)
              split
              · exact .elemWrite hu
              · exact .ioPerform hu

theorem State.Canonical.copyChunk {s : State} {g : RegionNo} {id : Nat} {m : Cmd} {c : Frame} (hs : s.Canonical) :
    (s.copyChunk g id m c).Canonical := by
  unfold State.copyChunk
  extract_lets d per lo n reads read now ahead
  have hread (t : State) (e : EAcc) (ht : t.Canonical) : (read t e).Canonical := by
    dsimp only [read]
    refine .ite (.copyStop (.copyRead ht)) ?_
    split
    · exact .ite (.copyRead ht) ht
    · exact ht
  split
  · exact .progress hs
  · split
    next e =>
    have ht := State.Canonical.snd e (.pick hs)
    split
    · exact hread _ _ ht
    · exact .copyOut ht

theorem State.Canonical.copyEnd {s : State} {g : RegionNo} {id : Nat} {m : Cmd} (hs : s.Canonical) : (s.copyEnd g id m).Canonical :=
  .ite hs (.ite (.endCmdFree hs) (.endCmd hs))

theorem Out.Canonical.copyStep {s : State} {c : Frame} (hs : s.Canonical) : Out.Canonical (s.copyStep c) := by
  unfold State.copyStep
  refine .runCmd hs fun _ _ _ => ?_
  split
  · exact .copyBegin hs
  · exact .copyTable hs
  · exact .copyChunk hs
  · exact .copyEnd hs

theorem Out.Canonical.barrierCount {g : RegionNo} {id : Nat} {s : State} (hs : s.Canonical) : Out.Canonical (execBarrierCount g id s) := by
  unfold execBarrierCount
  refine .ite (.next hs) ?_
  split
  · exact .next (.failCmd hs)
  · refine .ite (.next (.failCmd hs)) ?_
    refine .next (.updCmd ?_)
    split
    · exact .writePlace hs
    · exact hs

theorem Out.Canonical.binit {c : Frame} {s : State} (hs : s.Canonical) : Out.Canonical (execBinit c s) := by
  unfold execBinit
  refine .runCmd hs fun _ _ _ => ?_
  split
  · exact .failCmd hs
  · exact .ite (.failCmd hs) (.ite (.failCmd hs) (.endCmd (.writePlace hs)))

theorem Out.Canonical.karm {c : Frame} {s : State} (hs : s.Canonical) : Out.Canonical (execKarm c s) :=
  .runCmd hs (fun _ _ _ => .endCmd (.updPort hs))

/-! ### Collectives -/

theorem State.Canonical.updGroup {s : State} {g : RegionNo} {key : Nat} {f : Group → Group} (hs : s.Canonical) :
    (s.updGroup g key f).Canonical := hs

theorem Out.Canonical.ngroup {c : Frame} {s : State} (hs : s.Canonical) : Out.Canonical (execNgroup c s) := by
  unfold execNgroup
  refine .runCmd hs fun _ _ _ => ?_
  refine .ite (.ite (.failCmd hs) (.endCmd (.updGroup hs))) ?_
  refine .ite (.failCmd hs) ?_
  split
  · exact .failCmd hs
  · split
    · next e => exact .onStop (.fst e (.eRead hs))
    · next e => exact .ite (.failCmd (.fst e (.eRead hs))) (.endCmd (.updGroup (.fst e (.eRead hs))))

theorem State.Canonical.failGroup {s : State} {g : RegionNo} {key : Nat} {cause : Byte} (hs : s.Canonical) :
    (s.failGroup g key cause).Canonical := by
  unfold State.failGroup
  refine .closeFaults ?_
  refine .setReg ?_
  split
  · exact .failCmd hs
  · exact hs

theorem State.Canonical.say {s : State} {n : Nat} {m : Nat × Nat × Nat} (hs : s.Canonical) : (s.say n m).Canonical := hs

theorem State.Canonical.sayGroup {s : State} {key kind value : Nat} (hs : s.Canonical) : (s.sayGroup key kind value).Canonical :=
  .foldl hs (fun _ _ h => .say h)

theorem State.Canonical.reportLoss {s : State} {key rank chunk : Nat} (hs : s.Canonical) : (s.reportLoss key rank chunk).Canonical :=
  .sayGroup hs

theorem State.Canonical.stuckReports {s : State} {key : Nat} (hs : s.Canonical) : (s.stuckReports key).Canonical := by
  unfold State.stuckReports
  refine .foldl hs fun _ _ h => ?_
  refine .ite h ?_
  split
  · exact .ite (.reportLoss h) h
  · exact h

theorem State.Canonical.settleLoss {s : State} {key : Nat} (hs : s.Canonical) : (s.settleLoss key).Canonical := by
  unfold State.settleLoss
  dsimp only
  refine .ite hs ?_
  refine .ite (.stuckReports hs) ?_
  refine .closeFaults ?_
  refine .foldl (.stuckReports hs) fun _ _ h => ?_
  split
  · refine .setReg ?_
    split
    · exact .endCmd h
    · exact h
  · refine .updGroup ?_
    refine .setReg ?_
    split
    · exact .endCmd h
    · exact h

theorem State.Canonical.settleLosses {s : State} (hs : s.Canonical) : s.settleLosses.Canonical := .foldl hs (fun _ _ h => .settleLoss h)

theorem State.Canonical.noteLoss {s : State} {key : Nat} {dis : Bool} {gone : List Nat} (hs : s.Canonical) :
    (s.noteLoss key dis gone).Canonical := by
  unfold State.noteLoss
  refine .ite hs ?_
  refine .settleLoss ?_
  refine .closeFaults ?_
  refine .foldl hs fun _ _ h => ?_
  refine .ite h ?_
  split
  · exact .failCmd h
  · exact h

theorem State.Canonical.loseGroup {s : State} {key : Nat} {dis : Bool} {gone : List Nat} (hs : s.Canonical) :
    (s.loseGroup key dis gone).Canonical := .noteLoss (.ite (.sayGroup hs) (.foldl hs (fun _ _ h => .sayGroup h)))

theorem Out.Canonical.memberLoss {cid : BitVec 12} {grp rank : BitVec 16} {reports : LossMsg} {s : State} (hs : s.Canonical) :
    Out.Canonical (execMemberLoss cid grp rank reports s) := by
  unfold execMemberLoss
  split
  · exact .next (.noteLoss hs)
  · exact .next (.settleLoss (.ite hs (.noteLoss hs)))

theorem State.Canonical.sendPk {s : State} {g : RegionNo} {ctxid : Nat} {p : Packet} {route : BitVec 16} (hs : s.Canonical) :
    (s.sendPk g ctxid p route).1.Canonical := by
  unfold State.sendPk
  split
  · exact .iteFst hs hs
  · exact .setReg hs
  · exact .setReg hs
  · exact hs

theorem State.Canonical.leftHop {s : State} {g : RegionNo} {cmd : Option Nat} (hs : s.Canonical) : (s.leftHop g cmd).Canonical := by
  unfold State.leftHop
  split
  · exact .endCmd hs
  · exact hs

theorem State.Canonical.passOn {s : State} {g : RegionNo} {ctxid key : Nat} {p : Packet} {cmd : Option Nat} (hs : s.Canonical) :
    (s.passOn g ctxid key p cmd).Canonical := by
  unfold State.passOn
  split
  · next e => exact .leftHop (.fst e (.sendPk hs))
  · next e =>
    have ht := State.Canonical.fst e (.sendPk hs)
    exact .ite (.leftHop ht) (.loseGroup ht)

theorem State.Canonical.updArrival {s : State} {g : RegionNo} {i : Nat} {f : List EAcc → List EAcc} (hs : s.Canonical) :
    (s.updArrival g i f).Canonical := hs

theorem State.Canonical.parkHop {s : State} {g : RegionNo} {i : Nat} {f : XFault} {addr : Nat} (hs : s.Canonical) :
    (s.parkHop g i f addr).Canonical := by
  unfold State.parkHop
  dsimp only
  split
  · exact hs
  · exact .report (.setReg (.forgetPage hs))

theorem State.Canonical.hopStart {s : State} {g : RegionNo} {i : Nat} {c : Cmd} {snd : Option (Nat × Cmd)} {key : Nat} {e : EAcc}
    (hs : s.Canonical) : (s.hopStart g i c snd key e).1.Canonical := by
  unfold State.hopStart
  split
  · next e => exact .updArrival (.fst e (.engStart hs))
  · next e => exact .failGroup (.fst e (.engStart hs))
  · next e₁ => exact .fst e₁ (.engStart hs)
  · next e₂ =>
      split
      · exact .parkCmd (.fst e₂ (.engStart hs))
      · exact .parkHop (.fst e₂ (.engStart hs))

theorem State.Canonical.hopPerform {s : State} {g : RegionNo} {i : Nat} {snd : Option (Nat × Cmd)} {key : Nat} {e : EAcc}
    (hs : s.Canonical) : (s.hopPerform g i snd key e).1.Canonical := by
  unfold State.hopPerform
  split
  · exact .claim hs
  · split
    · exact .failGroup hs
    · extract_lets n
      split
      next e' =>
      have ht := State.Canonical.fst e' (.ioEffect hs)
      refine .updArrival ?_
      split
      · exact .ownCxl ht
      · exact ht

theorem State.Canonical.hopWrite {s : State} {g : RegionNo} {i : Nat} {a : Arrival} {key : Nat} {done : State → State}
    (hs : s.Canonical) (hdone : ∀ s, s.Canonical → (done s).Canonical) : (s.hopWrite g i a key done).1.Canonical := by
  unfold State.hopWrite
  extract_lets p snd c reduces es at_ n
  clear_value c reduces snd
  split
  · exact hs
  split
  · split
    next e => exact .hopStart (.snd e (.pick hs))
  split
  · split
    next e =>
    have ht := State.Canonical.snd e (.pick hs)
    extract_lets e
    exact .hopPerform ht
  split
  · split
    · exact hdone _ (.updCmd hs)
    · exact hdone _ hs
  · exact hdone _ hs

theorem State.Canonical.hopJoin {s : State} {g : RegionNo} {ctxid key : Nat} {p : Packet} {cmd : Option Nat} {q : Contrib}
    (hs : s.Canonical) : (s.hopJoin g ctxid key p cmd q).1.Canonical := by
  unfold State.hopJoin
  extract_lets r s'
  have ht : s'.Canonical := .setReg hs
  split
  split
  · exact .failGroup ht
  · split
    · exact hs
    · exact .passOn (.leftHop ht)

theorem State.Canonical.hopPlan {s : State} {g : RegionNo} {ctxid key : Nat} {gr : Group} {p : Packet} (hs : s.Canonical) :
    (s.hopPlan g ctxid key gr p).1.Canonical := by
  unfold State.hopPlan
  refine .iteFst (.loseGroup hs) ?_
  split
  · exact .hopJoin hs
  · exact .setReg hs

theorem State.Canonical.hop {s : State} {g : RegionNo} {i : Nat} {a : Arrival} (hs : s.Canonical) : (s.hop g i a).1.Canonical := by
  unfold State.hop
  extract_lets +onlyGivenNames p key r
  refine .iteFst (.dropStale hs) ?_
  split
  · exact hs
  · refine .iteFst (.iteFst hs (.dropStale hs)) (.iteFst (.failGroup hs) (.iteFst (.hopPlan hs) ?_))
    split
    · exact .iteFst hs (.passOn hs)
    · split
      · exact .setReg hs
      · exact .hopJoin hs
    · split
      · exact .setReg hs
      · exact .hopJoin hs
    · exact .hopWrite hs fun _ h => .ite (.passOn h) (.leftHop h)

theorem State.Canonical.hopScan {s : State} {g : RegionNo} {i : Nat} {as : List Arrival} {ahead : List Nat} {blocked : List (Option RegionNo)}
    (hs : s.Canonical) : (s.hopScan g i as ahead blocked).Canonical := by
  induction as generalizing s i ahead blocked with
  | nil => exact hs
  | cons a as ih =>
    unfold State.hopScan
    refine .ite (ih hs) (.ite (ih hs) ?_)
    split
    · next e => exact .setReg (.fst e (.hop hs))
    · next e => exact .fst e (.hop hs)
    · next e => exact ih (.fst e (.hop hs))

theorem State.Canonical.joinPk {s : State} {g : RegionNo} {ctxid : Nat} {p : Packet} (hs : s.Canonical) : (s.joinPk g ctxid p).Canonical :=
  hs

theorem State.Canonical.setHeldPk {s : State} {link : Nat} {p : Option (RegionNo × Packet × Nat)} (hs : s.Canonical) :
    (s.setHeldPk link p).Canonical := hs

theorem Out.Canonical.collectiveHop {g : RegionNo} {arrival : Option (BitVec 4 × Packet)} {s : State} (hs : s.Canonical) :
    Out.Canonical (execCollectiveHop g arrival s) := by
  unfold execCollectiveHop
  split
  · refine .ite (.next hs) ?_
    split
    · exact .next (.joinPk hs)
    · exact .next (.setHeldPk hs)
  · split
    · exact .next (.joinPk (.setHeldPk hs))
    · exact .next (.hopScan (.settleLosses hs))

theorem State.Canonical.tellGroup {s : State} {g : RegionNo} {key kind value : Nat} {gr : Group} (hs : s.Canonical) :
    (s.tellGroup g key kind value gr).Canonical := .foldl (.setReg hs) (fun _ _ h => .ite h (.ite (.setReg h) (.say h)))

theorem State.Canonical.sendReport {s : State} {g : RegionNo} {key : Nat} {gr : Group} {way : Nat} (hs : s.Canonical) :
    (s.sendReport g key gr way).Canonical :=
  .ite (.foldl (.ite (.foldl hs (fun _ _ h => .setReg h)) hs) (fun _ _ h => .say h)) (.ite (.foldl hs (fun _ _ h => .setReg h)) hs)

theorem State.Canonical.addReport {s : State} {g : RegionNo} {key rank : Nat} (hs : s.Canonical) : (s.addReport g key rank).Canonical := by
  unfold State.addReport
  dsimp only
  split
  · exact hs
  · refine .ite hs ?_
    split
    · exact .ite (.endCmd (.updGroup (.updGroup hs))) (.updGroup hs)
    · exact .updGroup hs

theorem State.Canonical.pauseReport {s : State} {g : RegionNo} {key : Nat} (hs : s.Canonical) : (s.pauseReport g key).Canonical := by
  unfold State.pauseReport
  split
  · exact hs
  · exact .ite hs (.sendReport (.ite (.addReport (.updGroup hs)) (.updGroup hs)))

theorem State.Canonical.beginPause {s : State} {g : RegionNo} {key : Nat} {gr : Group} (hs : s.Canonical) :
    (s.beginPause g key gr).1.Canonical := .pauseReport (.tellGroup (.updGroup hs))

theorem Out.Canonical.npause {c : Frame} {s : State} (hs : s.Canonical) : Out.Canonical (execNpause c s) := by
  unfold execNpause
  dsimp only
  refine .runCmd hs fun _ _ _ => ?_
  split
  · exact .endCmd hs
  · refine .ite (.pauseReport hs) ?_
    split
    · exact .endCmd hs
    · exact .ite hs (.beginPause (.updGroup (.progress hs)))

theorem State.Canonical.beginResume {s : State} {g : RegionNo} {key : Nat} {gr : Group} (hs : s.Canonical) :
    (s.beginResume g key gr).Canonical := .pauseReport (.tellGroup (.updGroup hs))

theorem Out.Canonical.nresume {c : Frame} {s : State} (hs : s.Canonical) : Out.Canonical (execNresume c s) := by
  unfold execNresume
  dsimp only
  refine .runCmd hs fun _ _ _ => ?_
  split
  · exact .endCmd hs
  · refine .ite hs ?_
    split
    · exact .endCmd hs
    · exact .ite hs (.beginResume (.updGroup (.progress hs)))

theorem State.Canonical.takeMsg {s : State} {g : RegionNo} {msg : Nat × Nat × Nat} (hs : s.Canonical) : (s.takeMsg g msg).Canonical := hs

theorem Out.Canonical.groupPauseReceive {g : RegionNo} {cid : BitVec 12} {grp : BitVec 16} {p : PauseMsg} {s : State} (hs : s.Canonical) :
    Out.Canonical (execGroupPauseReceive g cid grp p s) := by
  unfold execGroupPauseReceive
  dsimp only
  split
  · exact .next hs
  · exact .next (.pauseReport (.ite (.setReg (.updGroup (.takeMsg hs))) (.updGroup (.takeMsg hs))))

theorem Out.Canonical.groupResumeReceive {g : RegionNo} {cid : BitVec 12} {grp : BitVec 16} {s : State} (hs : s.Canonical) :
    Out.Canonical (execGroupResumeReceive g cid grp s) := by
  unfold execGroupResumeReceive
  dsimp only
  split
  · exact .next hs
  · exact .ite (.next (.updGroup (.takeMsg hs))) (.next (.pauseReport (.updGroup (.takeMsg hs))))

theorem State.Canonical.resumeRestored {s : State} {g : RegionNo} {key : Nat} {x : Group} (hs : s.Canonical) :
    (s.resumeRestored g key x).Canonical := .ite (.beginResume hs) (.ite (.pauseReport (.updGroup hs)) hs)

theorem State.Canonical.rawSend {s : State} {g : RegionNo} {id : Nat} {m : Cmd} {a : Nat} (hs : s.Canonical) :
    (s.rawSend g id m a).Canonical := by
  unfold State.rawSend
  refine .ite (.waitCmd hs) ?_
  split
  · exact .failCmd hs
  · split
    · next e => exact .onStop (.fst e (.eRead hs))
    · next e =>
        refine .ite (.failCmd (.fst e (.eRead hs))) ?_
        split
        · next e₁ => exact .onStop (.fst e₁ (.eRead (.fst e (.eRead hs))))
        · next e₁ => exact .setReg (.progress (.fst e₁ (.eRead (.fst e (.eRead hs)))))

theorem State.Canonical.reduceBegin {s : State} {g : RegionNo} {id : Nat} {m : Cmd} {a key : Nat} (hs : s.Canonical) :
    (s.reduceBegin g id m a key).Canonical := by
  unfold State.reduceBegin
  dsimp only
  split
  · exact .failCmd hs
  · split
    · next e => exact .onStop (.fst e (.eRead hs))
    · next e =>
        split
        · exact .failCmd (.progress (.fst e (.eRead hs)))
        · exact .ite (.loseGroup (.updGroup (.progress (.progress (.fst e (.eRead hs)))))) (.updGroup (.progress (.progress (.fst e (.eRead
          hs)))))

theorem State.Canonical.chunkIo {s : State} {g : RegionNo} {id : Nat} {wr : Bool} {f : Prog → Prog} (hs : s.Canonical) :
    (s.chunkIo g id wr f).Canonical := .updCmd (.stamp hs)

theorem State.Canonical.startChunk {s : State} {g : RegionNo} {id : Nat} {m : Cmd} {key : Nat} {gr : Group} {d : Reduce}
    (hs : s.Canonical) : (s.startChunk g id m key gr d).Canonical := by
  unfold State.startChunk
  dsimp only
  split
  · next e => exact .onStop (.fst e (.eRead hs))
  · next e =>
      exact .ite (.fst e (.eRead hs)) (.ite (.foldl (.chunkIo (.updGroup (.fst e (.eRead hs)))) (fun _ _ h => .sendPk h)) (.loseGroup
        (.foldl (.chunkIo (.updGroup (.fst e (.eRead hs)))) (fun _ _ h => .sendPk h))))

theorem State.Canonical.finishChunk {s : State} {g : RegionNo} {id : Nat} {m : Cmd} {key : Nat} {d : Reduce} {pay : List Byte}
    (hs : s.Canonical) : (s.finishChunk g id m key d pay).Canonical := by
  unfold State.finishChunk
  dsimp only
  split
  · next e => exact .onStop (.fst e (.eCheck hs))
  · next e₁ =>
      split
      · next e₂ => exact .onStop (.fst e₂ (.eWrite (.fst e₁ (.eCheck hs))))
      · next e₃ => exact .pauseReport (.chunkIo (.setReg (.fst e₃ (.eWrite (.fst e₁ (.eCheck hs))))))

theorem State.Canonical.lossStep {s : State} {g : RegionNo} {id : Nat} {m : Cmd} {key : Nat} {gr : Group} (hs : s.Canonical) :
    (s.lossStep g id m key gr).Canonical := by
  unfold State.lossStep
  refine .ite (.settleLoss hs) ?_
  split
  · exact .finishChunk hs
  · exact .ite hs (.settleLoss (.reportLoss hs))

theorem State.Canonical.reduceStep {s : State} {g : RegionNo} {id : Nat} {m : Cmd} {key : Nat} {gr : Group} (hs : s.Canonical) :
    (s.reduceStep g id m key gr).Canonical := by
  unfold State.reduceStep
  refine .ite (.pauseReport (.endCmd hs)) ?_
  split
  · exact .finishChunk hs
  · exact .ite (.startChunk hs) (.waitCmd (.pauseReport hs))

theorem Out.Canonical.nsend {c : Frame} {s : State} (hs : s.Canonical) : Out.Canonical (execNsend c s) := by
  unfold execNsend
  dsimp only
  refine .runCmd hs fun _ _ _ => ?_
  split
  · exact .endCmd hs
  · exact .ite (.endCmd hs) (.ite (.lossStep hs) (.ite (.rawSend hs) (.ite (.reduceBegin hs) (.reduceStep hs))))

/-! ### Drawers -/

theorem State.Canonical.updSlice {s : State} {n : Nat} {f : Slice → Slice} (hs : s.Canonical) : (s.updSlice n f).Canonical := hs

theorem State.Canonical.drawerEnd {s : State} {q : DReq} {cause : Byte} {value : Nat} (hs : s.Canonical) :
    (s.drawerEnd q cause value).Canonical := .ite (.endCmd hs) (.dropStale hs)

theorem State.Canonical.drawerDeliver {s : State} {q : DReq} {t : Tuple} {home : Nat} (hs : s.Canonical) :
    (s.drawerDeliver q t home).Canonical := .ite (.progress hs) (.dropStale hs)

theorem State.Canonical.drawerWait {s : State} {q : DReq} {n : Nat} (hs : s.Canonical) : (s.drawerWait q n).Canonical := .waitCmd hs

theorem State.Canonical.drawerPark {s : State} {n : Nat} {q : DReq} (hs : s.Canonical) : (s.drawerPark n q).Canonical :=
  .ite (.drawerWait (.updSlice hs)) (.drawerWait (.setReg hs))

theorem State.Canonical.sendReturn {s : State} {h : Nat} {q : DReq} {n : Nat} (hs : s.Canonical) : (s.sendReturn h q n).Canonical := hs

theorem State.Canonical.sendDeposit {s : State} {q : DReq} (hs : s.Canonical) : (s.sendDeposit q).Canonical := .updSlice (.updCmd hs)

theorem Out.Canonical.anchorReserve {slice : BitVec 7} {i : Nat} {s : State} (hs : s.Canonical) :
    Out.Canonical (execAnchorReserve slice i s) := by
  unfold execAnchorReserve
  dsimp only
  split
  · exact .next hs
  · exact .ite (.next (.drawerEnd (.updSlice hs))) (.ite (.next (.sendDeposit (.updSlice (.updSlice hs)))) (.ite (.next (.drawerEnd
    (.updSlice hs))) (.next (.drawerPark (.updSlice hs)))))

theorem State.Canonical.grantParked {s : State} {n key fuel : Nat} (hs : s.Canonical) : (State.grantParked n key fuel s).Canonical := by
  induction fuel generalizing s with
  | zero => exact hs
  | succ fuel ih =>
    unfold State.grantParked
    dsimp only
    split
    · exact hs
    · exact .ite (ih (.sendDeposit (.updSlice hs))) hs

theorem Out.Canonical.anchorReturn {slice : BitVec 7} {i : Nat} {s : State} (hs : s.Canonical) :
    Out.Canonical (execAnchorReturn slice i s) := by
  unfold execAnchorReturn
  dsimp only
  split
  · exact .next hs
  · exact .ite (.next (.updSlice hs)) (.next (.ite (.grantParked (.updSlice (.updSlice hs))) (.updSlice (.updSlice hs))))

theorem State.Canonical.scanParked {n : Nat} {t : Tuple} {key : Nat} {l : List DReq} {s : State} (hs : s.Canonical) :
    (State.scanParked n t key l s).1.Canonical := by
  induction l generalizing s with
  | nil => exact hs
  | cons q rest ih =>
    unfold State.scanParked
    split
    · exact ih hs
    · extract_lets u
      have hu : u.Canonical := .drawerDeliver (.updSlice hs)
      split
      · exact .sendReturn hu
      · exact ih hu

theorem Out.Canonical.homeDeposit {slice : BitVec 7} {i : Nat} {s : State} (hs : s.Canonical) : Out.Canonical (execHomeDeposit slice i s) := by
  unfold execHomeDeposit
  dsimp only
  split
  · exact .next hs
  · exact .ite (.next (.drawerEnd (.updSlice hs))) (.next (.drawerEnd (.ite (.scanParked (.updSlice (.updSlice hs))) (.updSlice (.scanParked
    (.updSlice (.updSlice hs)))))))

theorem Out.Canonical.homeMatch {slice : BitVec 7} {i : Nat} {s : State} (hs : s.Canonical) : Out.Canonical (execHomeMatch slice i s) := by
  unfold execHomeMatch
  dsimp only
  split
  · exact .next hs
  · refine .ite (.next (.drawerEnd (.updSlice hs))) ?_
    split
    · exact .ite (.next (.sendReturn (.updSlice (.drawerDeliver (.updSlice hs))))) (.next (.drawerDeliver (.updSlice hs)))
    · exact .ite (.next (.drawerEnd (.updSlice hs))) (.next (.drawerPark (.updSlice hs)))

theorem Out.Canonical.drawerResend {g : RegionNo} {i : Nat} {s : State} (hs : s.Canonical) : Out.Canonical (execDrawerResend g i s) := by
  unfold execDrawerResend
  split
  · exact .next hs
  · exact .next (.updSlice (.setReg hs))

theorem State.Canonical.createDrawer {s : State} {ctxid did cap : Nat} {cmd : Option (RegionNo × Nat)} {host : Option Nat}
    (hs : s.Canonical) : (s.createDrawer ctxid did cap cmd host).Canonical := .foldl (.updSlice hs) (fun _ _ h => .updSlice h)

theorem Out.Canonical.dcreate {c : Frame} {s : State} (hs : s.Canonical) : Out.Canonical (execDcreate c s) := by
  unfold execDcreate
  refine .runCmd hs fun _ _ _ => ?_
  refine .ite hs ?_
  split
  · exact .failCmd hs
  · exact .createDrawer (.progress hs)

theorem Out.Canonical.drawerLiveMark {slice : BitVec 7} {i : Nat} {s : State} (hs : s.Canonical) :
    Out.Canonical (execDrawerLiveMark slice i s) := by
  unfold execDrawerLiveMark
  extract_lets n
  split
  · exact .next hs
  · split
    · exact .next (.updSlice hs)
    · extract_lets t u v
      have ht : t.Canonical := .updSlice hs
      clear_value t
      have hu : u.Canonical := ht
      split
      · exact .next hu
      · have hv : v.Canonical := by
          dsimp only [v]
          split
          · exact .endCmd hu
          · exact hu
        split
        · exact .next (.hostEffect hv)
        · exact .next hv

theorem Out.Canonical.ddestroy {c : Frame} {s : State} (hs : s.Canonical) : Out.Canonical (execDdestroy c s) :=
  .runCmd hs (fun _ _ _ => .ite hs (.ite (.failCmd hs) (.ite hs (.foldl (.progress (.foldl (.updSlice hs) (fun _ _ h => .drawerEnd h))) (fun
    _ _ h => .updSlice h)))))

theorem Out.Canonical.drawerSweep {slice : BitVec 7} {i : Nat} {s : State} (hs : s.Canonical) : Out.Canonical (execDrawerSweep slice i s) := by
  unfold execDrawerSweep
  dsimp only
  split
  · exact .next hs
  · split
    · exact .next (.foldl (.updSlice hs) (fun _ _ h => .drawerEnd h))
    · refine .ite (.next (.foldl (.updSlice hs) (fun _ _ h => .drawerEnd h))) ?_
      split
      · exact .next (.endCmd (.updSlice (.foldl (.updSlice hs) (fun _ _ h₁ => .drawerEnd h₁))))
      · exact .next (.updSlice (.foldl (.updSlice hs) (fun _ _ h₁ => .drawerEnd h₁)))

theorem Out.Canonical.ddeposit {c : Frame} {s : State} (hs : s.Canonical) : Out.Canonical (execDdeposit c s) := by
  unfold execDdeposit
  refine .runCmd hs fun _ _ _ => ?_
  refine .ite hs ?_
  split
  · exact .failCmd hs
  · split
    · next e => exact .onStop (.fst e (.eRead hs))
    · next e => exact .updSlice (.progress (.fst e (.eRead hs)))

theorem Out.Canonical.drawerAsk {s : State} {c : Frame} {kind : Nat} (hs : s.Canonical) : Out.Canonical (s.drawerAsk c kind) := by
  refine .runCmd hs fun g id m => ?_
  extract_lets a did modes maxp
  refine .ite ?_ (.ite hs ?_)
  · split
    · next e => exact .onStop (.fst e (.eCheck hs))
    · next e =>
      have ht := State.Canonical.fst e (.eCheck hs)
      split
      · next e => exact .onStop (.fst e (.eWrite ht))
      · next e => exact .endCmd (.fst e (.eWrite ht))
  · split
    · exact .failCmd hs
    · split
      · next e => exact .onStop (.fst e (.eRead hs))
      · next e =>
        have ht := State.Canonical.fst e (.eRead hs)
        split
        · next e => exact .onStop (.fst e (.eCheck ht))
        · next e => exact .updSlice (.progress (.fst e (.eCheck ht)))

/-! ### The chain walker -/

theorem State.Canonical.chainStop {s : State} {g : RegionNo} {id : Nat} {cause : Byte} {value need : Nat} (hs : s.Canonical) :
    (s.chainStop g id cause value need).Canonical := .progress hs

theorem State.Canonical.chainFail {s : State} {g : RegionNo} {id : Nat} {cause : Byte} (hs : s.Canonical) :
    (s.chainFail g id cause).Canonical := by
  unfold State.chainFail
  dsimp only
  split
  · exact .failCmd hs
  · exact .endCmd hs
  · exact .chainStop hs

theorem State.Canonical.chainAccess {s : State} {g : RegionNo} {id : Nat} {t : Stop} {wr : Bool} (hs : s.Canonical) :
    (s.chainAccess g id t wr).Canonical := by
  unfold State.chainAccess
  split
  · exact .parkCmd hs
  · exact .chainFail hs
  · exact hs

theorem State.Canonical.chainBegin {s : State} {g : RegionNo} {id : Nat} {m : Cmd} {a j0 : Nat} (hs : s.Canonical) :
    (s.chainBegin g id m a j0).Canonical := by
  unfold State.chainBegin
  dsimp only
  split
  · exact .failCmd (.updCmd hs)
  · split
    · next e => exact .chainAccess (.fst e (.eRead (.updCmd hs)))
    · next e => exact .ite (.failCmd (.fst e (.eRead (.updCmd hs)))) (.progress (.fst e (.eRead (.updCmd hs))))

theorem State.Canonical.chainBefore {s : State} {g : RegionNo} {id : Nat} {m : Cmd} {a j0 : Nat} (hs : s.Canonical) :
    (s.chainBefore g id m a j0).Canonical := by
  unfold State.chainBefore
  dsimp only
  split
  · next e => exact .chainAccess (.fst e (.eRead hs))
  · next e => exact .ite (.chainStop (.fst e (.eRead hs))) (.progress (.fst e (.eRead hs)))

theorem Out.Canonical.chainStepStart {g : RegionNo} {id : Nat} {s : State} (hs : s.Canonical) : Out.Canonical (execChainStepStart g id s) := by
  unfold execChainStepStart
  dsimp only
  refine .ite (.next hs) ?_
  split
  · next e => exact .next (.chainAccess (.fst e (.eRead hs)))
  · next e =>
      split
      · exact .next (.chainStop (.fst e (.eRead hs)))
      · exact .next (.progress (.fst e (.eRead hs)))

theorem State.Canonical.chainStep {s : State} {g : RegionNo} {id : Nat} {m : Cmd} {j0 : Nat} (hs : s.Canonical) :
    (s.chainStep g id m j0).Canonical := by
  unfold State.chainStep
  extract_lets p j n got writes may t
  split
  · exact .chainAccess hs
  · split
    · split
      next e =>
      have hu := State.Canonical.snd e (.pick hs)
      extract_lets e
      split
      next e =>
      exact .chainAccess (.fst e (.ioOne hu fun _ _ h => .engStart h))
    · have ht : t.Canonical := .progress hs
      exact .ite (.chainStop ht) ht

theorem State.Canonical.chainStatus {s : State} {g : RegionNo} {id : Nat} {m : Cmd} {a : Nat} (hs : s.Canonical) :
    (s.chainStatus g id m a).Canonical := by
  unfold State.chainStatus
  dsimp only
  split
  · next e => exact .chainAccess (.fst e (.eWrite hs))
  · next e₁ => exact .endCmd (.fst e₁ (.eWrite hs))

theorem Out.Canonical.chainRun {s : State} {c : Frame} {j0 : Nat} (hs : s.Canonical) : Out.Canonical (s.chainRun c j0) := by
  unfold State.chainRun
  refine .runCmd hs fun _ _ _ => ?_
  split
  · exact .chainBegin hs
  · exact hs
  · exact .chainStep hs
  · exact .chainBefore hs
  · exact .chainStatus hs

/-! ### Waits -/

theorem State.Canonical.elapse {s : State} {us : Nat} (hs : s.Canonical) : (s.elapse us).Canonical := hs

/-! ### Configurations -/

theorem State.Canonical.stage {s : State} {g : RegionNo} {x : CtxNo} {b : Nat} {c : Cfg} {put : Bool} (hs : s.Canonical) :
    (s.stage g x b c put).Canonical := hs

theorem State.Canonical.stageImage {s : State} {g : RegionNo} {x : CtxNo} {b : Nat} {c : Cfg} (hs : s.Canonical) :
    (s.stageImage g x b c).Canonical := .ite hs (.stage hs)

theorem Out.Canonical.cfgload {b : BitVec 4} {s : State} (hs : s.Canonical) : Out.Canonical (execCfgload b s) := by
  unfold execCfgload
  dsimp only
  refine .issueProg hs fun _ _ _ => ?_
  refine .ite (.trapEntry hs) ?_
  split
  · exact .trapEntry hs
  · exact .updThread (.stageImage hs)

theorem Out.Canonical.cfggo {b : BitVec 4} {s : State} (hs : s.Canonical) : Out.Canonical (execCfggo b s) := by
  unfold execCfggo
  refine .issueProg hs fun _ _ _ => ?_
  refine .ite (.trapEntry hs) ?_
  refine .ite (.updThread hs) ?_
  refine .ite hs ?_
  refine .ite (.updThread (.waitTh (.updSched hs))) ?_
  split
  · exact .trapEntry hs
  · exact .updThread (.waitTh (.updSched (.stage hs)))

theorem Out.Canonical.blockDecision {g : RegionNo} {x : CtxNo} {s : State} (hs : s.Canonical) : Out.Canonical (execBlockDecision g x s) := by
  unfold execBlockDecision
  refine .ite (.next hs) ?_
  split
  · exact .next (.updSched hs)
  · refine .ite (.next hs) ?_
    split
    · exact .next (.updSched hs)
    · exact .next (.ite (.updCore hs) hs)

theorem State.Canonical.goneTo {s : State} {g : RegionNo} {x : CtxNo} {b : Nat} (hs : s.Canonical) : (s.goneTo g x b).Canonical :=
  .ite (.updThread hs) (.ite (.updThread hs) hs)

theorem Out.Canonical.activate {g : RegionNo} {x : CtxNo} {s : State} (hs : s.Canonical) : Out.Canonical (execActivate g x s) := by
  unfold execActivate
  dsimp only
  split
  · exact .next hs
  · refine .ite (.next hs) ?_
    split
    · exact .next (.updSched (.stopThread hs))
    · exact .ite (.next hs) (.next (.goneTo (.updCore (.stamp hs))))

theorem Out.Canonical.threadTokenAdmit {g : RegionNo} {x : CtxNo} {s : State} (hs : s.Canonical) :
    Out.Canonical (execThreadTokenAdmit g x s) := by
  unfold execThreadTokenAdmit
  dsimp only
  split
  · exact .next hs
  · exact .ite (.next hs) (.next (.updSched (.updCore hs)))

/-! ### Images -/

theorem State.Canonical.tryLeave {s : State} {g : RegionNo} (hs : s.Canonical) : (s.tryLeave g).Canonical := by
  unfold State.tryLeave
  dsimp only
  refine .ite hs ?_
  split
  · refine .setReg ?_
    refine .foldl hs fun _ _ h => ?_
    split
    · refine .ite h ?_
      split
      · exact .beginPause (.updGroup h)
      · exact .updGroup h
    · exact h
  · refine .foldl hs ?_
    intro _ _ h
    split
    · refine .ite h ?_
      split
      · exact .beginPause (.updGroup h)
      · exact .updGroup h
    · exact h

theorem State.Canonical.startSwitch {s : State} {g : RegionNo} {gang : Bool} (hs : s.Canonical) : (s.startSwitch g gang).Canonical :=
  .tryLeave (.setReg (.ite (.foldl hs (fun _ _ h => .updGroup h)) hs))

theorem State.Canonical.syncGrants {s : State} {k : Core} (hs : s.Canonical) : (s.syncGrants k).Canonical :=
  .foldl hs (fun _ _ h => .syncParam h)

theorem State.Canonical.endQuantum {s : State} {g : RegionNo} (hs : s.Canonical) : (s.endQuantum g).1.Canonical := by
  unfold State.endQuantum
  dsimp only
  split
  · exact .iteFst (.startSwitch hs) (.syncGrants (.setReg hs))
  · exact .syncGrants (.setReg hs)

theorem State.Canonical.dropHangs {s : State} {g : RegionNo} {k : Core} (hs : s.Canonical) : (s.dropHangs g k).Canonical := hs

theorem Out.Canonical.imageReady {g : RegionNo} {i : Nat} {s : State} (hs : s.Canonical) : Out.Canonical (execImageReady g i s) := by
  unfold execImageReady
  dsimp only
  split
  · exact .next hs
  · exact .next (.ite (.startSwitch (.setReg (.ite (.dropHangs hs) hs))) (.setReg (.ite (.dropHangs hs) hs)))

theorem Out.Canonical.pmark {_c : Frame} {s : State} (hs : s.Canonical) : Out.Canonical (execPmark _c s) := by
  unfold execPmark
  refine .runCmd hs fun _ _ _ => ?_
  refine .ite hs ?_
  refine .ite (.progress hs) ?_
  split
  · next e => exact .fst e (.endQuantum (.progress hs))
  · next e => exact .endCmd (.fst e (.endQuantum (.progress hs)))

theorem State.Canonical.powerOff {s : State} {g : RegionNo} (hs : s.Canonical) : (s.powerOff g).Canonical :=
  .setReg ⟨hs.1, Memory.wf_filter hs.2 _⟩

theorem State.Canonical.writeScbs {s : State} {k : Core} (hs : s.Canonical) : (s.writeScbs k).Canonical :=
  .foldl hs (fun _ _ h => .writeFunc h)

theorem State.Canonical.ownScbs {s : State} {who : Agent} {k : Core} {go : State → State}
    (hs : s.Canonical) (hgo : ∀ t, t.Canonical → (go t).Canonical) : (s.ownScbs who k go).Canonical := by
  unfold State.ownScbs
  split
  · exact .claim hs
  · exact hgo _ hs

theorem State.Canonical.saveRegion {s : State} {g : RegionNo} {drained gated : Bool} {watch : Watch} (hs : s.Canonical) :
    (s.saveRegion g drained gated watch).Canonical := .setReg (.writeScbs hs)

theorem State.Canonical.saveGated {s : State} {g : RegionNo} {w : Watch} (hs : s.Canonical) : (s.saveGated g w).Canonical :=
  .powerOff (.saveRegion (.ite (.dropHangs hs) hs))

theorem Out.Canonical.regionSave {g : RegionNo} {s : State} (hs : s.Canonical) : Out.Canonical (execRegionSave g s) := by
  unfold execRegionSave
  refine .next (.ite ?_ (.tryLeave hs))
  refine .ownScbs (.tryLeave hs) fun _ h => ?_
  split
  · exact .saveGated h
  · exact .saveRegion h

theorem State.Canonical.restoreRegion {s : State} {g : RegionNo} {i : Nat} (hs : s.Canonical) : (s.restoreRegion g i).Canonical := by
  unfold State.restoreRegion
  extract_lets r
  split
  · exact hs
  · extract_lets k0 k t u v w its
    have ht : t.Canonical :=
      .dropHangs (s := { s with banks := _, bad := _ }) ⟨hs.1, Memory.wf_writeAll (Memory.wf_filter hs.2 _) _⟩
    have hv : v.Canonical := .foldl (.setReg ht) fun _ _ h => .restartAcc h
    have hw : w.Canonical := .foldl hv fun _ _ h => .endCmd h
    exact .syncGrants (.closeFaults (.foldl hw fun _ _ h => .resumeRestored h))

theorem Out.Canonical.regionRestore {g : RegionNo} {i : Nat} {s : State} (hs : s.Canonical) : Out.Canonical (execRegionRestore g i s) := by
  unfold execRegionRestore
  refine .next ?_
  split
  · exact .ite (.restoreRegion hs) hs
  · exact hs

theorem Out.Canonical.clockGate {g : RegionNo} {s : State} (hs : s.Canonical) : Out.Canonical (execClockGate g s) := by
  unfold execClockGate
  refine .next ?_
  split
  · exact .ite (.setReg hs) hs
  · exact hs

theorem State.Canonical.deadlock {s : State} {ctxid : Nat} {cycle : List (Report × Nat)} (hs : s.Canonical) :
    (s.deadlock ctxid cycle).Canonical := .foldl (.record hs) (fun _ _ h => .record h)

theorem State.Canonical.addHang {s : State} {h : Report} (hs : s.Canonical) : (s.addHang h).Canonical := hs

theorem Out.Canonical.residencyT2 {g : RegionNo} {s : State} (hs : s.Canonical) : Out.Canonical (execResidencyT2 g s) := by
  unfold execResidencyT2
  refine .next ?_
  split
  · exact .ite hs (.foldl (.addHang (.record (.setReg hs))) (fun _ _ h => .deadlock h))
  · exact hs

theorem State.Canonical.failParked {s : State} {g : RegionNo} {p : Cmd → Bool} (hs : s.Canonical) : (s.failParked g p).Canonical :=
  .closeFaults (.foldl hs (fun _ _ h => .failCmd h))

theorem Out.Canonical.drainLimit {g : RegionNo} {s : State} (hs : s.Canonical) : Out.Canonical (execDrainLimit g s) :=
  .next (.ite (.setReg (.failParked hs)) hs)

/-! ### The context unit -/

theorem State.Canonical.readSects {s : State} {g : RegionNo} {id : Nat} {m : Cmd} {a : Nat} {ss : List Sect} (hs : s.Canonical) :
    (s.readSects g id m a ss).1.Canonical := by
  induction ss generalizing s with
  | nil => exact hs
  | cons t ss ih =>
    unfold State.readSects
    split
    · next e => exact .fst e (.eRead hs)
    · next e =>
      have ht := ih (.fst e (.eRead hs))
      split <;> next e' => exact .fst e' ht

theorem Out.Canonical.cfgput {c : Frame} {s : State} (hs : s.Canonical) : Out.Canonical (execCfgput c s) := by
  refine .runCmd hs fun g id m => ?_
  extract_lets a n img kreg
  split
  · exact .failCmd hs
  · refine .ite (.failCmd hs) ?_
    split
    · next e => exact .onStop (.fst e (.eRead hs))
    · next e =>
      have ht := State.Canonical.fst e (.eRead hs)
      extract_lets ss h y
      refine .ite (.failCmd ht) ?_
      split
      · next e => exact .onStop (.fst e (.readSects ht))
      · next e =>
        have hu := State.Canonical.fst e (.readSects ht)
        split
        · exact .failCmd hu
        · extract_lets rs
          refine .ite (.failCmd hu) ?_
          split
          · exact .endCmd hu
          · exact .endCmd (.stage hu)

theorem State.Canonical.takeImage {s : State} {g : RegionNo} {m : Cmd} {size : Nat} (hs : s.Canonical) : (s.takeImage g m size).Canonical :=
  hs

theorem Out.Canonical.ctxsave {c : Frame} {s : State} (hs : s.Canonical) : Out.Canonical (execCtxsave c s) := by
  refine .runCmd hs fun g id m => ?_
  extract_lets +onlyGivenNames a size
  split
  · exact .failCmd hs
  · refine .ite (.progress (.updCore hs)) (.ite (.ite hs (.progress (.updCore (.takeImage hs)))) ?_)
    split
    · next e => exact .failCmd (.updCore (.fst e (.eWrite hs)))
    · next e => exact .onStop (.fst e (.eWrite hs))
    · next e =>
      have ht := State.Canonical.fst e (.eWrite hs)
      exact .endCmd (.ite ht (.updCore ht))

theorem State.Canonical.loadSaved {s : State} {g : RegionNo} {kern : Nat} {sv : Saved} (hs : s.Canonical) :
    (s.loadSaved g kern sv).Canonical := by
  unfold State.loadSaved
  exact .foldl (.updCore ⟨hs.1, Memory.wf_writeAll (Memory.wf_filter hs.2 _) _⟩) fun _ _ h => .restartAcc h

theorem Out.Canonical.ctxload {c : Frame} {s : State} (hs : s.Canonical) : Out.Canonical (execCtxload c s) := by
  refine .runCmd hs fun g id m => ?_
  extract_lets a
  split
  · exact .failCmd hs
  · split
    · next e => exact .onStop (.fst e (.eRead hs))
    · next e =>
      have ht := State.Canonical.fst e (.eRead hs)
      exact .ite (.failCmd ht) (.ite (.updCore ht) (.endCmd (.loadSaved ht)))

theorem State.Canonical.stopKernel {s : State} {n : Nat} {cause : Byte} {kreg : Nat} (hs : s.Canonical) :
    (s.stopKernel n cause kreg).Canonical := .updKernel hs

theorem State.Canonical.failKernel {s : State} {n : Nat} {cause : Byte} {kreg : Nat} (hs : s.Canonical) :
    (s.failKernel n cause kreg).Canonical := .stopKernel (.updKernel hs)

theorem State.Canonical.abortKernel {s : State} {n : Nat} (hs : s.Canonical) : (s.abortKernel n).Canonical := .updKernel hs

theorem State.Canonical.failKilled {s : State} {g : RegionNo} {n : Nat} (hs : s.Canonical) : (s.failKilled g n).Canonical :=
  .foldl hs (fun _ _ h => .failCmd h)

theorem State.Canonical.killIn {s : State} {g : RegionNo} {n : Nat} (hs : s.Canonical) : (s.killIn g n).Canonical :=
  .setReg (.ite (.failKilled hs) hs)

theorem State.Canonical.finishIn {s : State} {g : RegionNo} {n : Nat} (hs : s.Canonical) : (s.finishIn g n).Canonical := by
  unfold State.finishIn
  refine .foldl hs fun _ _ h => ?_
  split
  · exact .finish h
  · exact h

theorem State.Canonical.freeKernel {s : State} {g : RegionNo} {n : Nat} (hs : s.Canonical) : (s.freeKernel g n).Canonical := hs

theorem State.Canonical.killImages {s : State} {g : RegionNo} {n : Nat} (hs : s.Canonical) : (s.killImages g n).Canonical :=
  .updKernel (.setReg hs)

theorem State.Canonical.storeExits {s : State} {k : Kernel} (hs : s.Canonical) : (s.storeExits k).Canonical :=
  .foldl hs (fun _ _ h => .writeFunc h)

/-! ### Kernels -/

theorem State.Canonical.writeBanks {s : State} {a : Nat} {bs : List Byte} (hs : s.Canonical) :
    State.Canonical { s with banks := s.banks.writeN a bs } := ⟨hs.1, Memory.wf_writeN hs.2 _ _⟩

theorem State.Canonical.relocateSpills {s : State} {g : RegionNo} (hs : s.Canonical) : (s.relocateSpills g).Canonical := by
  unfold State.relocateSpills
  exact .foldl hs fun _ _ h => .foldl h fun _ _ h => .updCell (.writeBanks h)

theorem State.Canonical.updHome {s : State} {g : RegionNo} {n : Nat} {f : Core → Core} (hs : s.Canonical) : (s.updHome g n f).Canonical := by
  unfold State.updHome
  split
  · exact .updCore hs
  · exact .setReg hs

theorem State.Canonical.putKernel {s : State} {n ctxid : Nat} {img : List Byte} {gs : List RegionNo} {resident : Bool} (hs : s.Canonical) :
    (s.putKernel n ctxid img gs resident).Canonical := .foldl hs (fun _ _ h => .ite (.relocateSpills (.setReg h)) (.setReg h))

theorem State.Canonical.launchImage {s : State} {k : Nat} {h : HCmd} {go : State → Except Byte (List Byte) → State}
    (hs : s.Canonical) (hgo : ∀ t x, t.Canonical → (go t x).Canonical) : (s.launchImage k h go).Canonical := by
  unfold State.launchImage
  refine .ownFunc hs fun _ h => ?_
  split
  · next e => exact hgo _ _ (.fst e (.readFunc h))
  · next e => exact .ownFunc (.fst e (.readFunc h)) (fun _ h₁ => hgo _ _ (.readFunc h₁))

theorem State.Canonical.launchPlace {s : State} {k : Nat} {h : HCmd} (hs : s.Canonical) : (s.launchPlace k h).Canonical := by
  unfold State.launchPlace
  refine .launchImage hs fun _ _ h => ?_
  split
  · exact .hostFail h
  · exact .ite (.hostEffect h) (.ite h (.syncCtrl (.updHCmd (.putKernel h))))

theorem State.Canonical.launchFail {s : State} {k n : Nat} {cause : Byte} {value : Nat} (hs : s.Canonical) :
    (s.launchFail k n cause value).Canonical := .hostEffect (.syncCtrl (.foldl hs (fun _ _ h => .freeKernel h)))

theorem State.Canonical.dataLine {s : State} {k : Nat} {g : RegionNo} {n : Nat} {e : EAcc} (hs : s.Canonical) :
    (s.dataLine k g n e).1.Canonical := by
  unfold State.dataLine
  dsimp only
  split
  · exact hs
  · split
    · split
      · exact hs
      · split
        · exact .writePlace hs
        · exact .setReg hs
    · split
      · next e => exact .fst e (.translate hs)
      · next e => exact .claim (.fst e (.translate hs))
      · next e => exact .iteFst (.writePlace (.fst e (.translate hs))) (.claim (.fst e (.translate hs)))

theorem State.Canonical.launchData {s : State} {k : Nat} {h : HCmd} {n : Nat} (hs : s.Canonical) : (s.launchData k h n).Canonical := by
  unfold State.launchData
  dsimp only
  split
  · exact .updHCmd hs
  · split
    · next e => exact .updHCmd (.fst e (.dataLine hs))
    · next e => exact .fst e (.dataLine hs)
    · next e₁ => exact .launchFail (.fst e₁ (.dataLine hs))
    · next e₂ => exact .launchFail (.fst e₂ (.dataLine hs))

theorem State.Canonical.foldl_bind {ε β : Type} {f : State → β → Except ε State} {l : List β} {s t : State} (hs : s.Canonical)
    (hf : ∀ s b t, s.Canonical → f s b = .ok t → t.Canonical)
    (e : l.foldl (fun (a : Except ε State) b => a.bind (fun s => f s b)) (.ok s) = .ok t) : t.Canonical := by
  induction l generalizing s with
  | nil => exact Except.ok.inj e ▸ hs
  | cons b l ih =>
    rw [List.foldl_cons] at e
    cases hb : f s b with
    | ok u => exact ih (hf s b u hs hb) (by rw [← e]; simp only [Except.bind, hb])
    | error x =>
      have herr (l : List β) : l.foldl (fun (a : Except ε State) b => a.bind (fun s => f s b)) (.error x) = .error x := by
        induction l with
        | nil => rfl
        | cons b l ih => exact ih
      simp only [Except.bind, hb] at e
      exact absurd ((herr l).symm.trans e) (by simp)

theorem State.Canonical.launchStage {s : State} {k n : Nat} (hs : s.Canonical) : (s.launchStage k n).Canonical := by
  unfold State.launchStage
  extract_lets kn go start wake
  cases e : go with
  | error r => exact .launchFail hs
  | ok t =>
    have ht : t.Canonical := by
      refine State.Canonical.foldl_bind hs (fun u b v hu e => ?_) e
      split at e
      · exact Except.ok.inj e ▸ .updHome hu
      · cases e
    have hu : (kn.regions.foldl (fun s g => wake g (s.updHome g n start)) t).Canonical := .foldl ht fun w g hw => by
      dsimp only [wake]
      split
      · exact .updHome hw
      · exact .setReg (.updHome hw)
    exact .updHCmd (s := { kn.regions.foldl (fun s g => wake g (s.updHome g n start)) t with kernels := _ }) hu

theorem Out.Canonical.launch {e : HostEntry} {s : State} (hs : s.Canonical) : Out.Canonical (execLaunch e s) := by
  unfold execLaunch
  refine .hostStep hs fun _ _ _ h => ?_
  split
  · exact .launchPlace h
  · exact .ite (.launchData h) (.ite (.launchStage h) h)

/-! ### Host commands on contexts, streams, queues and keys -/

theorem State.Canonical.hostStage {s : State} {k n : Nat} (hs : s.Canonical) : (s.hostStage k n).Canonical := .updHCmd hs

theorem State.Canonical.devFrame {s : State} {f a : Nat} (hs : s.Canonical) : (s.devFrame f a).1.Canonical := by
  unfold State.devFrame
  split
  · exact hs
  · exact hs
  · refine .iteFst hs ?_
    split
    · exact hs
    · next e => exact .frameCheck hs e

theorem State.Canonical.devPages {s : State} {f : Nat} {as : List Nat} (hs : s.Canonical) : (s.devPages f as).1.Canonical := by
  induction as generalizing s with
  | nil => exact hs
  | cons a as ih =>
    unfold State.devPages
    split
    · next e => exact .fst e (.devFrame hs)
    · next e =>
      have ht := ih (.fst e (.devFrame hs))
      split <;> next e' => exact .fst e' ht

theorem State.Canonical.ownPages {s : State} {k f a n : Nat} {wr : Bool} {go : State → State}
    (hs : s.Canonical) (hgo : ∀ t, t.Canonical → (go t).Canonical) : (s.ownPages k f a n wr go).Canonical := by
  unfold State.ownPages
  split
  · exact .claim hs
  · exact hgo _ hs

theorem State.Canonical.zeroFrame {s : State} {pl : Place} (hs : s.Canonical) : (s.zeroFrame pl).Canonical := ⟨Memory.wf_clear hs.1 _ _, hs.2⟩

theorem State.Canonical.zeroFunc {s : State} {f a n : Nat} (hs : s.Canonical) : (s.zeroFunc f a n).Canonical := by
  induction n generalizing s a with
  | zero => exact hs
  | succ n ih =>
    unfold State.zeroFunc
    split
    · exact ih (.zeroFrame hs)
    · exact ih hs

theorem State.Canonical.protect {s : State} {fs : List Nat} (hs : s.Canonical) : (s.protect fs).Canonical := hs

theorem State.Canonical.ctxFrames {s : State} {h : HCmd} (hs : s.Canonical) : (s.ctxFrames h).1.Canonical := .devPages hs

theorem State.Canonical.createCtx {s : State} {k : Nat} {h : HCmd} (hs : s.Canonical) : (s.createCtx k h).Canonical := by
  unfold State.createCtx
  refine .ownPages hs fun s hs => .ownPages hs fun s hs => ?_
  split
  · next e =>
    split
    · exact .hostFail hs
    · extract_lets t zeroed marked
      have hmarked : marked.Canonical := .protect (.writeFunc (.zeroFunc (.fst e (.ctxFrames hs))))
      exact .hostEffect (.syncCtrl hmarked)
  · exact .hostFail hs

theorem Out.Canonical.ctxCreate {e : HostEntry} {s : State} (hs : s.Canonical) : Out.Canonical (execCtxCreate e s) :=
  .hostStep hs (fun _ _ _ h => .createCtx h)

theorem State.Canonical.keepSaved {s : State} {ctxid : Nat} {on : Bool} (hs : s.Canonical) : (s.keepSaved ctxid on).Canonical := hs

theorem State.Canonical.abortCtx {s : State} {ctxid : Nat} (hs : s.Canonical) : (s.abortCtx ctxid).Canonical :=
  .foldl (.foldl hs (fun _ _ h => .abortKernel h)) (fun _ _ h => .hostAbort h)

theorem State.Canonical.killDrawers {s : State} {ctxid : Nat} (hs : s.Canonical) : (s.killDrawers ctxid).Canonical := hs

theorem State.Canonical.endGroups {s : State} {ctxid : Nat} (hs : s.Canonical) : (s.endGroups ctxid).Canonical :=
  .foldl hs (fun _ _ h => .loseGroup h)

theorem State.Canonical.endCmds {s : State} {ctxid : Nat} (hs : s.Canonical) : (s.endCmds ctxid).Canonical :=
  .foldl hs (fun _ _ h => .dropStale h)

theorem State.Canonical.endCtx {s : State} {ctxid : Nat} (hs : s.Canonical) : (s.endCtx ctxid).Canonical := by
  unfold State.endCtx
  extract_lets c t kept
  have ht : t.Canonical := .dropTlb (.endCmds (.endGroups (.killDrawers (.closeStreams (.keepSaved hs)))))
  clear_value t
  exact .updCtx ht

theorem State.Canonical.reap {s : State} {ctxid : Nat} (hs : s.Canonical) : (s.reap ctxid).Canonical := by
  unfold State.reap
  split
  · extract_lets t
    have ht : t.Canonical := .endCtx hs
    clear_value t
    exact ht
  · exact hs

theorem Out.Canonical.kernelEnd {n : Nat} {s : State} (hs : s.Canonical) : Out.Canonical (execKernelEnd n s) := by
  unfold execKernelEnd
  split
  · exact .next hs
  · extract_lets +onlyGivenNames dying t u quietNow v done
    have ht : t.Canonical := .ite (.closeFaults (.foldl hs fun _ _ h => .killImages (.killIn h))) hs
    clear_value t
    have hu : u.Canonical := .foldl ht fun _ _ h => .finishIn h
    clear_value u
    have hv : v.Canonical := .ite (.foldl hu fun _ _ h => .updCore h) hu
    clear_value v
    refine .ite (.next hv) ?_
    split
    · exact .next (.claim hv)
    · extract_lets +onlyGivenNames k w x y z
      have hw : w.Canonical := .foldl hv fun _ _ h => .freeKernel h
      clear_value w
      have hx : x.Canonical := hw
      clear_value x
      have hy : y.Canonical := .syncCtrl (.ite hx (.storeExits hx))
      clear_value y
      have hz : z.Canonical := by
        dsimp only [z]
        split
        · exact hy
        · split
          · exact .hostEffect hy
          · exact .hostAbort hy
          · exact .hostEffect hy
      exact .next (.reap hz)

theorem Out.Canonical.ctxDestroy {e : HostEntry} {s : State} (hs : s.Canonical) : Out.Canonical (execCtxDestroy e s) :=
  .hostStep hs (fun _ _ _ h => .ite (.ite (.hostFail h) (.hostStage (.abortCtx (.keepSaved (.updCtx h))))) (.ite h (.hostEffect (.endCtx
    h))))

theorem State.Canonical.loseAperture {s : State} {f ap : Nat} (hs : s.Canonical) : (s.loseAperture f ap).Canonical :=
  .foldl hs (fun _ _ h => .changeScb h)

theorem Out.Canonical.streamBind {e : HostEntry} {s : State} (hs : s.Canonical) : Out.Canonical (execStreamBind e s) := by
  unfold execStreamBind
  refine .hostStep hs fun _ _ _ h => ?_
  refine .hostEffect ?_
  split
  · exact .ite h (.loseAperture h)
  · exact h

theorem Out.Canonical.drawerCreate {e : HostEntry} {s : State} (hs : s.Canonical) : Out.Canonical (execDrawerCreate e s) := by
  unfold execDrawerCreate
  refine .hostStep hs fun _ _ _ h => ?_
  refine .ite h ?_
  split
  · exact .hostFail h
  · exact .createDrawer (.hostStage h)

theorem Out.Canonical.queueCreate {e : HostEntry} {s : State} (hs : s.Canonical) : Out.Canonical (execQueueCreate e s) :=
  .hostStep hs (fun _ _ _ h => .ite (.hostFail h) (.hostEffect (.updQueue h)))

theorem State.Canonical.abortQueue {s : State} {f q : Nat} (hs : s.Canonical) : (s.abortQueue f q).Canonical := by
  unfold State.abortQueue
  refine .foldl hs fun _ _ h => ?_
  split
  · exact .abortKernel h
  · exact .hostAbort h

theorem Out.Canonical.queueDestroy {e : HostEntry} {s : State} (hs : s.Canonical) : Out.Canonical (execQueueDestroy e s) :=
  .hostStep hs (fun _ _ _ h => .ite (.hostStage (.ite (.abortQueue (.ite (.updQueue h) h)) (.ite (.updQueue h) h))) (.ite h (.hostEffect
    (.ite (.updQueue h) h))))

theorem Out.Canonical.keyLoad {e : HostEntry} {s : State} (hs : s.Canonical) : Out.Canonical (execKeyLoad e s) :=
  .hostStep hs (fun _ _ _ h => .ite (.ite (.hostFail h) (.updHCmd (.dropTlb h))) (.ite h (.hostEffect h)))

theorem State.Canonical.restoreAll {s : State} {ctxid : Nat} (hs : s.Canonical) : (s.restoreAll ctxid).Canonical := hs

theorem Out.Canonical.snapshot {e : HostEntry} {s : State} (hs : s.Canonical) : Out.Canonical (execSnapshot e s) := by
  unfold execSnapshot
  dsimp only
  refine .hostStep hs fun _ _ _ h => ?_
  refine .ite (.foldl (.ite (.hostStage (.keepSaved h)) h) (fun _ _ h₁ => .ite (.startSwitch h₁) (.tryLeave h₁))) ?_
  split
  · exact .hostFail (.keepSaved (.ite (.hostStage (.keepSaved h)) h))
  · exact .ownPages (.ite (.hostStage (.keepSaved h)) h) (fun _ h₂ => .ownScbs h₂ (fun _ h₃ => .hostEffect (.ite (.writeFunc (.writeScbs
    h₃)) (.keepSaved (.restoreAll (.writeFunc (.writeScbs h₃)))))))

theorem State.Canonical.clearFrames {s : State} {f : Nat} (hs : s.Canonical) : (s.clearFrames f).Canonical := hs

theorem State.Canonical.abortFunc {s : State} {f : Nat} (hs : s.Canonical) : (s.abortFunc f).Canonical := by
  unfold State.abortFunc
  refine .foldl hs fun _ _ h => ?_
  split
  · exact .abortKernel h
  · exact .hostAbort h

theorem State.Canonical.resetBars {s : State} {f : Nat} (hs : s.Canonical) : (s.resetBars f).Canonical :=
  .foldl hs (fun _ _ h => .changeScb h)

theorem Out.Canonical.vfReset {e : HostEntry} {s : State} (hs : s.Canonical) : Out.Canonical (execVfReset e s) :=
  .hostStep hs (fun _ _ _ h => .ite (.hostStage (.abortFunc h)) (.ite (.hostStage (.foldl h (fun _ _ h₁ => .abortCtx (.updCtx h₁)))) (.ite h
    (.hostEffect (.resetBars (.clearFrames (.foldl h (fun _ _ h₁ => .endCtx h₁))))))))

/-! ### The map unit -/

theorem State.Canonical.releaseIn {s : State} {g : RegionNo} {p : Pick} (hs : s.Canonical) : (s.releaseIn g p).Canonical :=
  .ite (.foldl (.foldl (.setReg hs) (fun _ _ h => .forgetPage h)) (fun _ _ h => .releaseAcc h)) (.report (.foldl (.foldl (.setReg hs) (fun _
    _ h => .forgetPage h)) (fun _ _ h => .releaseAcc h)))

theorem State.Canonical.release {s : State} {p : Pick} (hs : s.Canonical) : (s.release p).1.Canonical :=
  .closeFaults (.foldl hs (fun _ _ h => .releaseIn h))

theorem State.Canonical.replayFail {s : State} {ctxid : Nat} {cause : Byte} (hs : s.Canonical) : (s.replayFail ctxid cause).1.Canonical :=
  .closeFaults (.foldl hs (fun _ _ h => .failKernel h))

theorem State.Canonical.withTarget {s : State} {g : RegionNo} {id : Nat} {m : Cmd} {c : Frame} {bad : Option Byte} {f : Nat → State}
    (hs : s.Canonical) (hf : ∀ x, (f x).Canonical) : (s.withTarget g id m c bad f).Canonical := by
  unfold State.withTarget
  split
  · exact hf _
  · exact .failCmd hs

theorem State.Canonical.endCount {s : State} {g : RegionNo} {id v : Nat} (hs : s.Canonical) : (s.endCount g id v).Canonical := .endCmd hs

theorem Out.Canonical.replay {c : Frame} {s : State} (hs : s.Canonical) : Out.Canonical (execReplay c s) :=
  .runCmd hs (fun _ _ _ => .withTarget hs (fun _ => .endCount (.iteFst (.replayFail hs) (.release hs))))

theorem State.Canonical.mapEntry {s : State} {j : MapJob} {a : Nat} (hs : s.Canonical) : (s.mapEntry j a).1.Canonical := by
  unfold State.mapEntry
  refine .iteFst hs ?_
  split
  · next e => exact .fst e (.readGuest8 hs)
  · next e => exact .fst e (.readGuest8 hs)
  · next e => exact .fst e (.readGuest8 hs)

theorem State.Canonical.leafSlot {s : State} {j : MapJob} {va target n table : Nat} (hs : s.Canonical) :
    (State.leafSlot j va target n table s).1.Canonical := by
  induction n generalizing s table with
  | zero => exact hs
  | succ n ih =>
    unfold State.leafSlot
    dsimp only
    split
    · exact hs
    · split
      · next e => exact .fst e (.mapEntry hs)
      · next e =>
        have ht := State.Canonical.fst e (.mapEntry hs)
        split
        · exact ht
        · split
          · exact ht
          · exact ih ht

theorem State.Canonical.mapSlots {s : State} {j : MapJob} {as : List Nat} (hs : s.Canonical) : (State.mapSlots j as s).1.Canonical := by
  induction as generalizing s with
  | nil => exact hs
  | cons a as ih =>
    unfold State.mapSlots
    split
    · next e => exact .fst e (.mapEntry hs)
    · next e =>
      have ht := ih (.fst e (.mapEntry hs))
      split <;> next e' => exact .fst e' ht

theorem State.Canonical.pageSlots {s : State} {j : MapJob} {root p : Nat} (hs : s.Canonical) : (s.pageSlots j root p).1.Canonical := by
  unfold State.pageSlots
  split
  · next e => exact .fst e (.leafSlot hs)
  · next e =>
      split
      · next e₁ => exact .fst e₁ (.mapSlots (.fst e (.leafSlot hs)))
      · next e₁ => exact .fst e₁ (.mapSlots (.fst e (.leafSlot hs)))

theorem State.Canonical.slotPlace {s : State} {j : MapJob} {a : Nat} (hs : s.Canonical) : (s.slotPlace j a).1.Canonical := by
  unfold State.slotPlace
  refine .iteFst hs ?_
  split
  · next e => exact .fst e (.guestPlace hs)
  · next e => exact .fst e (.guestPlace hs)
  · next e => exact .fst e (.guestPlace hs)

theorem State.Canonical.mapRead {s : State} {j : MapJob} {p : Prog} (hs : s.Canonical) : (s.mapRead j p).1.Canonical := by
  unfold State.mapRead
  dsimp only
  refine .iteFst hs ?_
  split
  · next e => exact .fst e (.pageSlots hs)
  · next e => exact .fst e (.pageSlots hs)

theorem State.Canonical.mapWrite {s : State} {j : MapJob} {p : Prog} (hs : s.Canonical) : (s.mapWrite j p).1.Canonical := by
  unfold State.mapWrite
  split
  · split <;> next e => exact .fst e (.slotPlace hs)
  · split
    · exact hs
    · split
      next e =>
      have ht := State.Canonical.snd e (.pick hs)
      extract_lets e
      split
      · exact ht
      split
      · exact ht
      · exact .writePlace ht

theorem State.Canonical.mapStep {s : State} {j : MapJob} {p : Prog} (hs : s.Canonical) : (s.mapStep j p).1.Canonical :=
  .iteFst (.mapRead hs) (.mapWrite hs)

theorem State.Canonical.mapDrop {s : State} {j : MapJob} (hs : s.Canonical) : (s.mapDrop j).Canonical := hs

theorem State.Canonical.mapRelease {s : State} {j : MapJob} (hs : s.Canonical) : (s.mapRelease j).1.Canonical := .release hs

theorem State.Canonical.failMap {s : State} {g : RegionNo} {id : Nat} {c : Byte} {v : Option Nat} (hs : s.Canonical) :
    (s.failMap g id c v).Canonical := by
  unfold State.failMap
  split
  · exact .endCmd hs
  · exact .endCmdFree hs

theorem State.Canonical.mapBegin {s : State} {g : RegionNo} {id : Nat} {m : Cmd} {a : Nat} {unmap : Bool} (hs : s.Canonical) :
    (s.mapBegin g id m a unmap).Canonical := by
  unfold State.mapBegin
  split
  · next e => exact .onStop (.fst e (.eRead hs))
  · next e => exact .ite (.progress (.fst e (.eRead hs))) (.failCmd (.fst e (.eRead hs)))

theorem Out.Canonical.mapCmd {s : State} {c : Frame} {unmap : Bool} (hs : s.Canonical) : Out.Canonical (s.mapCmd c unmap) := by
  unfold State.mapCmd
  dsimp only
  refine .runCmd hs fun _ _ _ => ?_
  refine .withTarget hs ?_
  intro _
  split
  · exact .mapBegin hs
  · exact .ite hs (.endCmd hs)
  · split
    · next e₁ => exact .updCmd (.stamp (.ownCxl (.fst e₁ (.mapStep hs))))
    · next e₂ => exact .failMap (.fst e₂ (.mapStep hs))
    · next e₁ => exact .claim (.fst e₁ (.mapStep hs))
    · next e => exact .ite (.updCmd (.stamp (.mapDrop (.fst e (.mapStep hs))))) (.endCount (.mapRelease (.mapDrop (.fst e (.mapStep hs)))))

theorem State.Canonical.freeFrames {s : State} {outs : List Nat} {size : Nat} (hs : s.Canonical) : (s.freeFrames outs size).Canonical := hs

theorem State.Canonical.hostFailMap {s : State} {k : Nat} {c : Byte} {v : Option Nat} (hs : s.Canonical) :
    (s.hostFailMap k c v).Canonical := by
  unfold State.hostFailMap
  split
  · exact .hostEffect hs
  · exact .hostFail hs

theorem Out.Canonical.mapHost {s : State} {e : HostEntry} {unmap : Bool} (hs : s.Canonical) : Out.Canonical (s.mapHost e unmap) := by
  unfold State.mapHost
  dsimp only
  refine .hostStep hs fun _ _ _ h => ?_
  split
  · exact .ite (.updHCmd h) (.hostFail h)
  · exact .ite h (.hostEffect (.ite (.freeFrames h) h))
  · split
    · next e₂ => exact .updHCmd (.fst e₂ (.mapStep h))
    · next e₁ => exact .hostFailMap (.fst e₁ (.mapStep h))
    · next e₂ => exact .claim (.fst e₂ (.mapStep h))
    · next e => exact .ite (.updHCmd (.mapDrop (.fst e (.mapStep h)))) (.hostEffect (.mapRelease (.mapDrop (.fst e (.mapStep h)))))

/-! ### Records and owners -/

theorem State.Canonical.merge {s t : State} {r : Report} (hs : s.Canonical) (e : s.merge r = some t) : t.Canonical := by
  unfold State.merge at e
  dsimp only at e
  split at e
  · cases e
  · split at e
    · exact Option.some.inj e ▸ hs
    · split at e
      · exact Option.some.inj e ▸ hs
      · cases e

theorem State.Canonical.openEntry {s : State} {r : Report} (hs : s.Canonical) : (s.openEntry r).Canonical := .ite hs hs

theorem State.Canonical.writeS2 {s : State} {r : Report} (hs : s.Canonical) : (s.writeS2 r).1.Canonical := by
  unfold State.writeS2
  refine .iteFst hs ?_
  split
  · exact .claim hs
  · exact .openEntry (.writeFunc hs)

theorem State.Canonical.writeStream {s : State} {r : Report} (hs : s.Canonical) : (s.writeStream r).1.Canonical := by
  unfold State.writeStream
  dsimp only
  split
  · exact .noteWait hs
  · split
    · next e => exact .openEntry (.changeScb (.clearWait (.fst e (.ringWrite hs))))
    · next e₁ => exact .fst e₁ (.ringWrite hs)
  · exact hs

theorem State.Canonical.writeRecord {s : State} {r : Report} (hs : s.Canonical) : (s.writeRecord r).1.Canonical :=
  .iteFst (.writeS2 hs) (.writeStream hs)

theorem State.Canonical.place' {s : State} {r : Report} (hs : s.Canonical) : (s.place' r).Canonical := by
  unfold State.place'
  refine .ite hs ?_
  split
  · next e => exact .fst e (.writeRecord hs)
  · next e =>
      have ht := State.Canonical.fst e (.writeRecord hs)
      exact ht

theorem State.Canonical.loseMembers {s : State} {g : RegionNo} {ctxid : Nat} (hs : s.Canonical) : (s.loseMembers g ctxid).Canonical :=
  .foldl hs (fun _ _ h => .loseGroup h)

theorem State.Canonical.fatal {s : State} {r : Report} (hs : s.Canonical) : (s.fatal r).Canonical :=
  .ite hs (.loseMembers (.foldl hs (fun _ _ h => .stopKernel h)))

theorem State.Canonical.takeRecord {s t : State} {r : Report} (hs : s.Canonical) (e : s.takeRecord r = some t) : t.Canonical := by
  unfold State.takeRecord at e
  extract_lets r on u at e
  have hmerge (q : Report) : ((s.merge q).getD (s.place' q)).Canonical := .getD (.place' hs) fun _ e => .merge hs e
  split at e
  · exact Option.some.inj e ▸ hs
  · split at e
    · exact Option.some.inj e ▸ hmerge _
    · split at e
      · cases e
      · split at e
        · exact Option.some.inj e ▸ .ite (.place' (.fatal hs)) (.fatal hs)
        · exact Option.some.inj e ▸ hmerge _

theorem State.Canonical.retryRecord {s : State} {i : Nat} {r : Report} (hs : s.Canonical) : (s.retryRecord i r).Canonical := by
  unfold State.retryRecord
  refine .ite hs ?_
  refine .ite (.ite hs (.fatal hs)) ?_
  split
  · next e => exact .fst e (.writeRecord hs)
  · next e =>
      have ht := State.Canonical.fst e (.writeRecord hs)
      exact ht

theorem Out.Canonical.faultRecord {i : Nat} {s : State} (hs : s.Canonical) : Out.Canonical (execFaultRecord i s) := by
  refine .next (.ite hs ?_)
  split
  · exact .retryRecord hs
  · extract_lets j
    split
    · exact hs
    · exact .ite hs (.getD hs fun _ e => .takeRecord (s := { s with records := s.records.eraseIdx j }) hs e)

theorem State.Canonical.hostPerform {s : State} {a : Nat × Option (List Byte)} (hs : s.Canonical) : (s.hostPerform a).Canonical := by
  unfold State.hostPerform
  split
  · exact .writeKeyed hs
  · exact hs

theorem State.Canonical.hostWait {s : State} {n : Nat} {l : List (Nat × Option (List Byte))} (hs : s.Canonical) :
    (s.hostWait n l).Canonical := hs

theorem Out.Canonical.hostMemoryAccess {addr : Nat} {wr : Option (List Byte)} {s : State} (hs : s.Canonical) :
    Out.Canonical (execHostMemoryAccess addr wr s) := .next (.ite (.ite (.hostPerform hs) hs) (.ite (.hostPerform hs) (.hostWait hs)))

theorem Out.Canonical.ownxfer {c : Frame} {s : State} (hs : s.Canonical) : Out.Canonical (execOwnxfer c s) := by
  unfold execOwnxfer
  refine .runCmd hs fun _ _ _ => ?_
  refine .ite hs ?_
  split
  · exact .failCmd hs
  · split
    · next e => exact .endCmdFree (.fst e (.translate hs))
    · next e => exact .claim (.fst e (.translate hs))
    · next e =>
        exact .ite (.failCmd (.fst e (.translate hs))) (.ite (.fst e (.translate hs)) (.ite (.endCmd (.fst e (.translate hs))) (.progress
          (.fst e (.translate hs)))))

theorem State.Canonical.dropCopies {s : State} {n : Nat} (hs : s.Canonical) : (s.dropCopies n).Canonical := hs

theorem Out.Canonical.ownershipTransferEnd {n : Nat} {s : State} (hs : s.Canonical) : Out.Canonical (execOwnershipTransferEnd n s) := by
  unfold execOwnershipTransferEnd
  refine .next ?_
  split
  · exact hs
  · exact .ite hs (.ite (.foldl (.dropCopies (.foldl hs (fun _ _ h => .endCmd h))) (fun _ _ h => .hostPerform h)) (.ite (.foldl hs (fun _ _
    h => .endCmd h)) (.hostWait (.foldl hs (fun _ _ h => .endCmd h)))))

theorem State.Canonical.parkWaiting {s : State} {g : RegionNo} {id : Nat} {f : XFault} {va : Nat} {wr : Bool} (hs : s.Canonical) :
    (s.parkWaiting g id f va wr).Canonical := .ite hs (.ite (.endCmdFree hs) (.parkCmd hs))

theorem State.Canonical.parkWaiter {s : State} {w : Agent × Nat × Nat × Bool} (hs : s.Canonical) : (s.parkWaiter w).Canonical := by
  unfold State.parkWaiter
  dsimp only
  split
  · exact .parkWaiting hs
  · split
    · split
      · exact .ite (.launchFail hs) hs
      · exact hs
    · exact hs
  · split
    · split
      · exact .parkAcc hs
      · exact .parkAcc hs
      · exact hs
    · exact hs
  · exact .parkPort hs
  · exact .parkPort hs
  · split
    · exact .parkWaiting hs
    · split
      · exact .parkHop hs
      · exact hs
  · exact hs

theorem State.Canonical.hostTimeout {s : State} {h : Nat × Option (List Byte)} (hs : s.Canonical) : (s.hostTimeout h).Canonical := hs

theorem Out.Canonical.ownershipTimeout {n : Nat} {s : State} (hs : s.Canonical) : Out.Canonical (execOwnershipTimeout n s) := by
  unfold execOwnershipTimeout
  refine .next ?_
  split
  · exact hs
  · exact .ite hs (.foldl (.foldl (.foldl hs (fun _ _ h => .endCmdFree h)) (fun _ _ h => .parkWaiter h)) (fun _ _ h => .hostTimeout h))

/-! ### Errors and the armoire -/

theorem State.Canonical.countError {s : State} {src : ErrSource} {window : Nat} (hs : s.Canonical) :
    (s.countError src window).1.Canonical := hs

theorem State.Canonical.clearErrors {s : State} {src : ErrSource} (hs : s.Canonical) : (s.clearErrors src).Canonical := hs

theorem State.Canonical.retireLine {s : State} {g : RegionNo} {c : CellNo} {line : BitVec 9} (hs : s.Canonical) :
    (s.retireLine g c line).Canonical := by
  unfold State.retireLine
  extract_lets n r t
  have ht : t.Canonical := .setReg hs
  exact .ite hs ht

theorem State.Canonical.repairRow {s : State} {stack : BitVec 3} {bank row : Nat} (hs : s.Canonical) :
    (s.repairRow stack bank row).Canonical := .ite hs hs

theorem Out.Canonical.correctedError {src : ErrSource} {s : State} (hs : s.Canonical) : Out.Canonical (execCorrectedError src s) := by
  unfold execCorrectedError
  refine .next ?_
  split
  · exact .ite (.retireLine (.clearErrors (.countError hs))) (.countError hs)
  · exact .ite (.repairRow (.clearErrors (.countError hs))) (.countError hs)
  · exact hs

theorem State.Canonical.linkDown {s : State} {n : Nat} (hs : s.Canonical) : (s.linkDown n).Canonical :=
  .foldl hs (fun _ _ h => .foldl h (fun _ _ h₁ => .loseGroup h₁))

theorem State.Canonical.retrain {s : State} {n : Nat} (hs : s.Canonical) : (s.retrain n).Canonical := .ite hs (.ite hs (.linkDown hs))

theorem Out.Canonical.linkCrcRetry {link : BitVec 4} {s : State} (hs : s.Canonical) : Out.Canonical (execLinkCrcRetry link s) :=
  .next (.ite hs (.ite (.retrain hs) hs))

theorem State.Canonical.checkBlocks {s : State} (hs : s.Canonical) : s.checkBlocks.Canonical := by
  unfold State.checkBlocks
  refine .foldl hs fun _ _ h => ?_
  split
  · next e => exact .ite (.reap (.abortCtx (.updCtx (.fst e (.readFunc h))))) (.fst e (.readFunc h))
  · next e₁ => exact .fst e₁ (.readFunc h)

theorem State.Canonical.resolve {s : State} {k : Nat} {h : HCmd} (hs : s.Canonical) : (s.resolve k h).Canonical :=
  .ite hs (.ite (.updHCmd hs) (.hostFail (.updHCmd (.ite (.keepSaved (.foldl hs (fun _ _ h => .ite (.reap (.updCtx h)) h))) (.foldl hs (fun
    _ _ h => .ite (.reap (.updCtx h)) h))))))

theorem State.Canonical.resolveAll {s : State} (hs : s.Canonical) : s.resolveAll.Canonical := .foldl hs (fun _ _ h => .resolve h)

theorem State.Canonical.resendAll {s : State} (hs : s.Canonical) : s.resendAll.Canonical := .foldl hs (fun _ _ h => .record h)

theorem State.Canonical.rebuild {s : State} (hs : s.Canonical) : s.rebuild.Canonical := .ite hs hs

theorem State.Canonical.rebuildHeld {s : State} (hs : s.Canonical) : s.rebuildHeld.Canonical := hs

theorem State.Canonical.spoilOne {s : State} {us : List (Bool × Nat)} {go : State → State}
    (hs : s.Canonical) (hgo : ∀ t, t.Canonical → (go t).Canonical) : (s.spoilOne us go).Canonical := .ite hs (hgo _ (.pick hs))

theorem State.Canonical.spoilCmd {s : State} {g : RegionNo} {id : Nat} (hs : s.Canonical) : (s.spoilCmd g id).Canonical :=
  .ite hs (.spoilOne hs (fun _ h => .ite (.chainFail h) (.ite h (.failCmd h))))

theorem State.Canonical.spoilPort {s : State} {g : RegionNo} {p : Nat} (hs : s.Canonical) : (s.spoilPort g p).Canonical := by
  unfold State.spoilPort
  dsimp only
  split
  · exact hs
  · exact .ite hs (.spoilOne hs (fun _ h => .failPort h))

theorem Out.Canonical.uncorrectableError {t : ErrTarget} {s : State} (hs : s.Canonical) : Out.Canonical (execUncorrectableError t s) := by
  unfold execUncorrectableError
  refine .next ?_
  split
  · split
    · exact hs
    · split
      · exact .spoilOne hs (fun _ h => .uncorrectable h)
      · exact hs
  · exact .spoilCmd hs
  · exact .spoilPort hs
  · exact .rebuild hs

/-! ### The boot -/

theorem State.Canonical.bootFail {s : State} {code : Byte} (hs : s.Canonical) : (s.bootFail code).Canonical := hs

theorem State.Canonical.verify {s : State} (hs : s.Canonical) : s.verify.1.Canonical := by
  unfold State.verify
  split
  · exact .bootFail hs
  · exact .iteFst (.bootFail hs) (.iteFst (.bootFail hs) (.foldl hs (fun _ _ h => .setReg h)))

theorem State.Canonical.applyRepairs {s : State} (hs : s.Canonical) : s.applyRepairs.Canonical := .foldl hs (fun _ _ h => .setReg h)

theorem State.Canonical.fetchPage {s : State} {page : Nat} (hs : s.Canonical) : (s.fetchPage page).Canonical := by
  unfold State.fetchPage
  split
  · exact .ite hs (.rebuildHeld hs)
  · exact hs

theorem State.Canonical.startBureau {s : State} (hs : s.Canonical) : s.startBureau.Canonical := .fetchPage hs

theorem State.Canonical.armoireStep {s : State} (hs : s.Canonical) : s.armoireStep.Canonical := by
  unfold State.armoireStep
  split
  · exact hs
  · exact hs
  · exact .ite hs (.fetchPage hs)
  · exact .checkBlocks hs
  · exact .resolveAll hs
  · exact .resendAll hs
  · exact hs

theorem State.Canonical.countBoot {s : State} (hs : s.Canonical) : s.countBoot.Canonical := hs

theorem State.Canonical.writeGo {s : State} {v : W64} (hs : s.Canonical) : (s.writeGo v).Canonical := .ite hs hs

theorem State.Canonical.romStep {s : State} (hs : s.Canonical) : s.romStep.Canonical := by
  unfold State.romStep
  refine .ite hs ?_
  split
  · split
    · next e =>
        have ht := State.Canonical.fst e (.verify hs)
        exact ht
    · next e =>
        have ht := State.Canonical.fst e (.verify hs)
        exact ht
  · split
    · next e => exact .startBureau (.countBoot (.fst e (.verify (.applyRepairs hs))))
    · next e => exact .fst e (.verify (.applyRepairs hs))

theorem State.Canonical.writeClear {s : State} {a : Nat} {bs : List Byte} (hs : s.Canonical) : (s.writeClear a bs).Canonical :=
  .writePlace hs

theorem State.Canonical.writeQgo {s : State} {v : W64} (hs : s.Canonical) : (s.writeQgo v).Canonical := .ite hs hs

theorem State.Canonical.quoteStep {s : State} (hs : s.Canonical) : s.quoteStep.Canonical := by
  unfold State.quoteStep
  refine .ite hs ?_
  split
  · exact hs
  · exact .writeClear hs

theorem State.Canonical.restart {s : State} (hs : s.Canonical) : s.restart.Canonical := ⟨hs.1, Memory.wf_nil⟩

theorem Out.Canonical.powerLoss {s : State} (hs : s.Canonical) : Out.Canonical (execPowerLoss s) :=
  .next ⟨Memory.wf_filter hs.1 _, Memory.wf_nil⟩

/-! ### Registers of the host -/

theorem Out.Canonical.commandAccept {f : BitVec 5} {q : BitVec 4} {s : State} (hs : s.Canonical) :
    Out.Canonical (execCommandAccept f q s) := by
  refine .next (.ite hs (.ownFunc hs fun t ht => ?_))
  split
  · next e => exact .fst e (.readFunc ht)
  · next e =>
    have hu := State.Canonical.fst e (.readFunc ht)
    extract_lets w u
    have hq : u.Canonical := .updQueue hu
    exact hq

theorem State.Canonical.writeTail {s : State} {f q : Nat} {v : W64} (hs : s.Canonical) : (s.writeTail f q v).Canonical :=
  .ite hs (.updQueue hs)

theorem State.Canonical.writeChead {s : State} {f q : Nat} {v : W64} (hs : s.Canonical) : (s.writeChead f q v).Canonical :=
  .ite hs (.updQueue hs)

theorem State.Canonical.writeAqs {s : State} {f : Nat} {v : W64} (hs : s.Canonical) : (s.writeAqs f v).Canonical := .ite hs hs

theorem State.Canonical.writeS2root {s : State} {n : Nat} {v : W64} (hs : s.Canonical) : (s.writeS2root n v).Canonical :=
  .ite hs (.dropTlb hs)

theorem State.Canonical.writeS2fhead {s : State} {v : W64} (hs : s.Canonical) : (s.writeS2fhead v).Canonical := .ite hs hs

theorem State.Canonical.writeS2fqs {s : State} {v : W64} (hs : s.Canonical) : (s.writeS2fqs v).Canonical := hs

theorem State.Canonical.writeReg {s : State} {f off : Nat} {v : W64} (hs : s.Canonical) : (s.writeReg f off v).Canonical := by
  unfold State.writeReg
  extract_lets fn
  have hfn (g : Func → Func) : (fn g).Canonical := hs
  have hboot (b : Boot) : State.Canonical { s with boot := b } := hs
  clear_value fn
  exact .ite hs (.ite (hfn _) (.ite (hfn _) (.ite (.writeAqs hs) (.ite (.writeTail hs) (.ite (.writeChead hs) (.ite hs
    (.ite (.writeS2root hs) (.ite hs (.ite (.writeS2fqs hs) (.ite (.writeS2fhead hs) (.ite (hboot _) (.ite (.writeGo hs) (.ite (hboot _)
    (.ite (hboot _) (.ite (.writeQgo hs) hs)))))))))))))))

/-! ### The passing of time -/

theorem State.Canonical.noteReady {s : State} (hs : s.Canonical) : s.noteReady.Canonical := hs

theorem State.Canonical.schedule {s : State} (hs : s.Canonical) : s.schedule.Canonical := by
  unfold State.schedule
  dsimp only
  split <;> exact .noteReady hs

theorem State.Canonical.pass {s : State} (hs : s.Canonical) : s.pass.Canonical := by
  unfold State.pass
  split
  · exact .elapse hs
  · exact .hostUndefined hs
  · exact .romStep hs
  · exact .quoteStep hs
  · exact .armoireStep hs
  · exact hs

/-! ### The step -/

/-- The node that a slot fires at is the scheduled agent. -/
theorem State.cur_of_slotAgent {s : State} {l : SlotLoc} (h : s.slotAgent = some l) : s.cur = .slot l := by
  unfold State.slotAgent at h
  split at h
  · next e => rw [e, Option.some.inj h]
  · cases h

/-- A firing of 03 R104 moves tokens only, in its own cell. -/
theorem FiresOneValue.canonical {i : Instr} (hi : FiresOneValue i) {s : State} (hs : s.Canonical) : Out.Canonical (exec i s) := by
  intro t h
  have ⟨_, _, _, _, _, _, he⟩ := hi
  obtain rfl | ⟨l, _, hl, _⟩ := State.fire_inv (he s ▸ h)
  · exact hs
  · have ht := hi.tokens (State.cur_of_slotAgent hl) h
    exact ⟨ht.mem ▸ hs.1, ht.banks ▸ hs.2⟩

theorem exec_canonical {s : State} (hs : s.Canonical) (i : Instr) : Out.Canonical (exec i s) := by
  by_cases hi : Claims.standard i = true
  · exact (firesOneValue_of_standard hi).canonical hs
  cases i <;> dsimp only [exec]
  case cpy _ | sink _ => exact .fireCopy hs
  case gate _ | steer _ => exact .fireChoice hs
  case merge _ => exact .merge hs
  case const _ | iadd _ | isub _ | imul _ | imulh _ | imad _ | idiv _ | irem _ | ineg _ | iabs _ | imin _ | imax _ | cellAnd _
    | cellOr _ | cellXor _ | cellNot _ | shl _ | shr _ | sar _ | popc _ | clz _ | icmp _ | sel _ | agen _ | bcast _ | shuf _ | rot _
    | pack _ | unpack _ | fadd _ | fsub _ | fmul _ | ffma _ | fmin _ | fmax _ | fabs _ | fneg _ | frcp _ | frsq _ | fexp2 _ | flog2 _
    | fcmp _ | cvt _ | scale _ | quant _ | vsum _ | vmax _ => exact absurd rfl hi
  case iter _ => exact .iter hs
  case tid _ => exact .tid hs
  case ld _ | st _ | ldg _ | stg _ | sld _ | sst _ | srel _ | spub _ | spill _ | fill _ | aupd _ | barr _ | bwait _ => exact .fireMem hs
  case mload _ | mfire _ | msmeta _ => exact .fireNode hs
  case mswap _ | mzero _ => exact .fireTrigger hs
  case mdrain _ => exact .mdrain hs
  case isect _ => exact .isect hs
  case mark _ => exact .mark hs
  case own _ => exact .own hs
  case add _ _ _ | sub _ _ _ | mul _ _ _ | mulh _ _ _ | div _ _ _ | rem _ _ _ | lecternAnd _ _ _ | lecternOr _ _ _ | lecternXor _ _ _
    | sll _ _ _ | srl _ _ _ | sra _ _ _ | slt _ _ _ | sltu _ _ _ => exact .alu hs
  case addi _ _ _ | andi _ _ _ | ori _ _ _ | xori _ _ _ | slli _ _ _ | srli _ _ _ | srai _ _ _ | slti _ _ _ => exact .aluImm hs
  case lui _ _ | adr _ _ => exact .setWord hs
  case ldB _ _ _ | ldH _ _ _ | ldW _ _ _ | ldD _ _ _ => exact .loadWord hs
  case stB _ _ _ | stH _ _ _ | stW _ _ _ | stD _ _ _ => exact .storeWord hs
  case beq _ _ _ | bne _ _ _ | blt _ _ _ | bge _ _ _ | bltu _ _ _ | bgeu _ _ _ => exact .branch hs
  case jal _ => exact .issue hs (fun _ _ => .updTh hs)
  case jalr _ _ _ => exact .jalr hs
  case cld _ _ _ => exact .cld hs
  case cset _ _ _ => exact .cset hs
  case cget _ _ _ => exact .cget hs
  case cissue _ _ => exact .cissue hs
  case cwait _ _ _ => exact .cwait hs
  case kset _ _ _ => exact .kset hs
  case kadd _ _ _ => exact .kadd hs
  case krd _ _ => exact .krd hs
  case kwait _ _ _ _ => exact .kwait hs
  case cfgload _ => exact .cfgload hs
  case cfggo _ => exact .cfggo hs
  case bdset _ _ _ => exact .bdset hs
  case bdrd _ _ => exact .bdrd hs
  case bwarr _ => exact .bwarr hs
  case phase _ => exact .phase hs
  case fence _ => exact .fence hs
  case rdst _ _ => exact .rdst hs
  case wrst _ _ _ => exact .wrst hs
  case trap _ => exact .trap hs
  case eret => exact .eret hs
  case brk => exact .brk hs
  case idle => exact .idle hs
  case lexit _ => exact .lexit hs
  case lkill => exact .lkill hs
  case xinv _ _ => exact .xinv hs
  case frz _ => exact .frz hs
  case thaw _ => exact .thaw hs
  case ftok _ => exact .ftok hs
  case sopen _ => exact .sopen hs
  case spublish _ => exact .spublish hs
  case srelease _ => exact .srelease hs
  case srewind _ => exact .srewind hs
  case sclose _ => exact .sclose hs
  case sstat _ => exact .sstat hs
  case sbind _ => exact .sbind hs
  case tcopy _ | qcopy _ | tfill _ | tgather _ | tscatter _ => exact .copyStep hs
  case karm _ => exact .karm hs
  case binit _ => exact .binit hs
  case fprobe _ => exact .fprobe hs
  case rmark _ => exact .rmark hs
  case cfgput _ => exact .cfgput hs
  case ctxsave _ => exact .ctxsave hs
  case ctxload _ => exact .ctxload hs
  case pmark _ => exact .pmark hs
  case ngroup _ => exact .ngroup hs
  case nsend _ => exact .nsend hs
  case npause _ => exact .npause hs
  case nresume _ => exact .nresume hs
  case dcreate _ => exact .dcreate hs
  case ddestroy _ => exact .ddestroy hs
  case ddeposit _ => exact .ddeposit hs
  case dcopy _ | dtake _ => exact .drawerAsk hs
  case chainrun _ | chainstep _ => exact .chainRun hs
  case replay _ => exact .replay hs
  case pmap _ | punmap _ => exact .mapCmd hs
  case ownxfer _ => exact .ownxfer hs
  case ctxCreate _ => exact .ctxCreate hs
  case ctxDestroy _ => exact .ctxDestroy hs
  case map _ | unmap _ => exact .mapHost hs
  case launch _ => exact .launch hs
  case streamBind _ => exact .streamBind hs
  case drawerCreate _ => exact .drawerCreate hs
  case queueCreate _ => exact .queueCreate hs
  case queueDestroy _ => exact .queueDestroy hs
  case keyLoad _ => exact .keyLoad hs
  case snapshot _ => exact .snapshot hs
  case vfReset _ => exact .vfReset hs
  case iterNextValue _ => exact .iterNextValue hs
  case markerJoin _ => exact .markerJoin hs
  case statefulRelease _ => exact .statefulRelease hs
  case resultWrite _ _ _ => exact .resultWrite hs
  case undefinedWord _ | fetchBeyondSection => exact .issue hs (fun _ _ => .trap hs)
  case streamAccessFault _ _ => exact .streamAccessFault hs
  case microprogramRun _ => exact .microprogramRun hs
  case debugAttach _ _ _ => exact .next (.updDebugThread hs)
  case debugHalt _ _ => exact .debugHalt hs
  case debugResume _ _ => exact .debugResume hs
  case debugRegisterWrite _ _ _ _ => exact .debugRegisterWrite hs
  case streamRead _ _ => exact .streamRead hs
  case streamWrite _ _ => exact .streamWrite hs
  case hwmWrite _ _ _ => exact .hwmWrite hs
  case hrelWrite _ _ _ => exact .hrelWrite hs
  case apertureDataWrite _ _ _ _ => exact .apertureDataWrite hs
  case edgePortStreamRead _ _ => exact .edgePortStreamRead hs
  case edgePortStreamWrite _ _ => exact .edgePortStreamWrite hs
  case edgePortMarkerPublish _ _ => exact .edgePortMarkerPublish hs
  case barrierCount _ _ => exact .barrierCount hs
  case probeReturn _ _ => exact .probeReturn hs
  case collectiveHop _ _ => exact .collectiveHop hs
  case groupPauseReceive _ _ _ _ => exact .groupPauseReceive hs
  case groupPauseReport _ _ _ _ => exact .next (.addReport (.takeMsg hs))
  case groupResumeReceive _ _ _ => exact .groupResumeReceive hs
  case memberLoss _ _ _ _ => exact .memberLoss hs
  case voingTokenReceive _ _ _ => exact .voingTokenReceive hs
  case voingAcknowledgement _ => exact .voingAcknowledgement hs
  case cxlWriteCompletion _ | linkRetrainDone _ | scrubUncorrectable _ | lockstepMismatch => exact .next hs
  case anchorReserve _ _ => exact .anchorReserve hs
  case homeDeposit _ _ => exact .homeDeposit hs
  case homeMatch _ _ => exact .homeMatch hs
  case anchorReturn _ _ => exact .anchorReturn hs
  case drawerResend _ _ => exact .drawerResend hs
  case drawerLiveMark _ _ => exact .drawerLiveMark hs
  case drawerSweep _ _ => exact .drawerSweep hs
  case chainStepStart _ _ => exact .chainStepStart hs
  case commandStart _ _ _ => exact .commandStart hs
  case commandComplete _ _ _ => exact .commandComplete hs
  case accessPerform _ _ => exact .accessPerform hs
  case accessDeliver _ _ => exact .accessDeliver hs
  case sourcePortPull _ _ => exact .sourcePortPull hs
  case flitMove _ _ => exact .flitMove hs
  case threadTokenEntry _ _ => exact .threadTokenEntry hs
  case threadTokenAdmit _ _ => exact .threadTokenAdmit hs
  case blockDecision _ _ => exact .blockDecision hs
  case activate _ _ => exact .activate hs
  case quantumEnd _ => exact .next (.ite (.endQuantum hs) hs)
  case imageReady _ _ => exact .imageReady hs
  case regionSave _ => exact .regionSave hs
  case regionRestore _ _ => exact .regionRestore hs
  case powerGate _ => exact .next (.ite (.powerOff hs) hs)
  case clockGate _ => exact .clockGate hs
  case clockGateResume _ => exact .next (.ite (.setReg hs) hs)
  case residencyT2 _ => exact .residencyT2 hs
  case kernelEnd _ => exact .kernelEnd hs
  case faultRecord _ => exact .faultRecord hs
  case drainLimit _ => exact .drainLimit hs
  case hostMemoryAccess _ _ => exact .hostMemoryAccess hs
  case ownershipTransferEnd _ => exact .ownershipTransferEnd hs
  case ownershipTimeout _ => exact .ownershipTimeout hs
  case commandAccept _ _ => exact .commandAccept hs
  case tailWrite _ _ _ => exact .next (.writeTail hs)
  case cheadWrite _ _ _ => exact .next (.writeChead hs)
  case aqsWrite _ _ => exact .next (.writeAqs hs)
  case s2rootWrite _ _ _ => exact .next (.ite (.writeS2root hs) hs)
  case s2fheadWrite _ _ => exact .next (.ite (.writeS2fhead hs) hs)
  case s2fqsWrite _ _ => exact .next (.ite (.writeS2fqs hs) hs)
  case go _ _ => exact .next (.ite (.writeGo hs) hs)
  case qgo _ _ => exact .next (.ite (.writeQgo hs) hs)
  case registerWrite _ _ _ => exact .next (.writeReg hs)
  case bureauPageFetch _ => exact .next (.ite (.fetchPage hs) hs)
  case correctedError _ => exact .correctedError hs
  case linkCrcRetry _ => exact .linkCrcRetry hs
  case uncorrectableError _ => exact .uncorrectableError hs
  case heartbeat | functionEnable _ _ => exact .next (.ite hs hs)
  case heartbeatTimeout => exact .next (.ite (.rebuild hs) hs)
  case reset => exact .next (.restart hs)
  case powerLoss => exact .powerLoss hs

theorem step_canonical {s : State} (hs : s.Canonical) : Out.Canonical (step s) := by
  have ht : s.schedule.Canonical := .schedule hs
  unfold step
  split
  · exact .ite .fault (exec_canonical ht _)
  · exact .ite .fault (.next (.pass ht))

/-- Settles O58: every function of the model keeps the canonical form, since memory changes only by writes, by the erasure of entries and by the
writing back of an image. -/
theorem stepsKeepMemoryCanonical : Obligations.StepsKeepMemoryCanonical := by
  unfold Obligations.StepsKeepMemoryCanonical
  exact fun _ _ hmem hbanks h => step_canonical ⟨hmem, hbanks⟩ _ h

end Sys2Proof.Machine

/-! ## Errors, links and the armoire (19 R363 to R369) -/

namespace Sys2Proof.Machine

/-! ### Corrected errors -/

/-- The errors of a source that its window still holds, with the new one. -/
theorem State.countError_snd (s : State) (src : ErrSource) (w : Nat) :
    (s.countError src w).2 = (s.errs.filter (fun e => e.1 == src && decide (s.now < e.2 + w))).length + 1 := by
  have hp (e : ErrSource × Nat) :
      (e.1 == src && (e.1 != src || decide (s.now < e.2 + w))) = (e.1 == src && decide (s.now < e.2 + w)) := by
    cases h : e.1 == src <;> simp [bne, h]
  simp [State.countError, List.filter_append, List.filter_filter, hp]

theorem State.countError_errs_mem (s : State) (src : ErrSource) (w : Nat) : (src, s.now) ∈ (s.countError src w).1.errs := by
  simp [State.countError]

theorem execCorrectedError_bankLine_few {s : State} {g : RegionNo} {c : CellNo} {line : BitVec 9}
    (h : (s.countError (.bankLine g c line) (24 * usHour)).2 < 3) :
    execCorrectedError (.bankLine g c line) s = .next (s.countError (.bankLine g c line) (24 * usHour)).1 :=
  congrArg Host.Outcome.next (if_neg (Nat.not_le.mpr h))

theorem execCorrectedError_bankLine_full {s : State} {g : RegionNo} {c : CellNo} {line : BitVec 9}
    (h : 3 ≤ (s.countError (.bankLine g c line) (24 * usHour)).2) :
    execCorrectedError (.bankLine g c line) s
      = .next (((s.countError (.bankLine g c line) (24 * usHour)).1.clearErrors (.bankLine g c line)).retireLine g c line) :=
  congrArg Host.Outcome.next (if_pos h)

theorem execCorrectedError_hbmRow_full {s : State} {stack : BitVec 3} {bank row : Nat}
    (h : 2 ≤ (s.countError (.hbmRow stack bank row) usHour).2) :
    execCorrectedError (.hbmRow stack bank row) s
      = .next (((s.countError (.hbmRow stack bank row) usHour).1.clearErrors (.hbmRow stack bank row)).repairRow stack bank row) :=
  congrArg Host.Outcome.next (if_pos h)

/-- A line is retired while a spare of its cell is left. -/
theorem State.retireLine_spare {s : State} {g : RegionNo} {c : CellNo} (line : BitVec 9) (h : Tab.getD (s.reg g).spares c.toNat < 8) :
    (s.retireLine g c line).flash.lines = s.flash.lines ++ [lineKeyOf g c line]
      ∧ Tab.get ((s.retireLine g c line).reg g).spares c.toNat = some (Tab.getD (s.reg g).spares c.toNat + 1)
      ∧ (s.retireLine g c line).banks = s.banks := by
  unfold State.retireLine
  rw [if_neg (Nat.not_le.mpr h)]
  refine ⟨rfl, ?_, rfl⟩
  simp [State.reg, State.setReg]

/-- A row is repaired while a spare of its bank is left. -/
theorem State.repairRow_spare {s : State} {stack : BitVec 3} {bank row : Nat}
    (h : (s.flash.rows.filter (fun r => r / 2 ^ 32 == bank * 8 + stack.toNat)).length < 4) :
    s.repairRow stack bank row = { s with flash := { s.flash with rows := s.flash.rows ++ [rowKey stack bank row] } } :=
  if_neg (Nat.not_le.mpr h)

/-! ### Links -/

theorem recent_length_add (now w : Nat) (ts : List Nat) : (recent now w ts ++ [now]).length = (recent now w ts).length + 1 :=
  List.length_append

theorem execLinkCrcRetry_down {s : State} {n : BitVec 4} (h : (Tab.getD s.links n.toNat : Link).up = false) :
    execLinkCrcRetry n s = .next s := by
  simp [execLinkCrcRetry, h]

/-- The retries of a link with one more. -/
def State.retried (s : State) (n : BitVec 4) : State :=
  let l : Link := Tab.getD s.links n.toNat
  { s with links := Tab.set s.links n.toNat { l with retries := recent s.now usSecond l.retries ++ [s.now] } }

theorem execLinkCrcRetry_up {s : State} {n : BitVec 4} (h : (Tab.getD s.links n.toNat : Link).up = true) :
    execLinkCrcRetry n s = .next (if 63 ≤ (recent s.now usSecond (Tab.getD s.links n.toNat : Link).retries).length
      then (s.retried n).retrain n.toNat else s.retried n) := by
  simp [execLinkCrcRetry, State.retried, h]

theorem State.retrain_few {s : State} {n : Nat} (h : (recent s.now usHour (Tab.getD s.links n : Link).trains).length < 3) :
    s.retrain n = { s with links := Tab.set s.links n { (Tab.getD s.links n : Link) with
      retrain := true, retries := [], trains := recent s.now usHour (Tab.getD s.links n : Link).trains ++ [s.now] } } :=
  if_pos (by rw [recent_length_add]; omega)

theorem State.retrain_half {s : State} {n : Nat} (h : 3 ≤ (recent s.now usHour (Tab.getD s.links n : Link).trains).length)
    (hw : 200 < (Tab.getD s.links n : Link).width) :
    s.retrain n = { s with
      links := Tab.set s.links n { (Tab.getD s.links n : Link) with
        retrain := true, retries := [], trains := [], width := (Tab.getD s.links n : Link).width / 2 },
      flash := { s.flash with widths := Tab.set s.flash.widths n ((Tab.getD s.links n : Link).width / 2) } } :=
  (if_neg (by rw [recent_length_add]; omega)).trans (if_pos hw)

/-- Link n is down, and flash holds that it has no width left. -/
def State.LinkLost (n : Nat) (s : State) : Prop := (Tab.getD s.links n : Link).up = false ∧ Tab.get s.flash.widths n = some 0

namespace State.LinkLost
variable {n : Nat} {s : State}

theorem ite {c : Prop} [Decidable c] {a b : State} (ha : a.LinkLost n) (hb : b.LinkLost n) : (if c then a else b).LinkLost n := by
  split <;> assumption

theorem foldl {β : Type} {f : State → β → State} {l : List β} (hs : s.LinkLost n) (hf : ∀ s b, s.LinkLost n → (f s b).LinkLost n) :
    (l.foldl f s).LinkLost n := by
  induction l generalizing s with
  | nil => exact hs
  | cons b l ih => exact ih (hf s b hs)

theorem updCmd {g : RegionNo} {id : Nat} {f : Cmd → Cmd} (hs : s.LinkLost n) : (s.updCmd g id f).LinkLost n :=
  .ite (show (s.updCore g _).LinkLost n from hs) (.ite hs (show (s.setReg g _).LinkLost n from hs))

theorem endCmd {g : RegionNo} {id : Nat} {cause : Byte} {value : Nat} (hs : s.LinkLost n) : (s.endCmd g id cause value).LinkLost n := by
  refine .updCmd ?_
  unfold State.releaseNodes
  split
  · exact hs
  · exact .ite hs hs

theorem failCmd {g : RegionNo} {id : Nat} {cause : Byte} (hs : s.LinkLost n) : (s.failCmd g id cause).LinkLost n := by
  unfold State.failCmd
  split
  · exact .endCmd hs
  · exact .endCmd hs

/-- A message on a link leaves it as down as it was. -/
theorem say {k : Nat} {m : Nat × Nat × Nat} (hs : s.LinkLost n) : (s.say k m).LinkLost n := by
  obtain ⟨hup, hw⟩ := hs
  refine ⟨?_, hw⟩
  by_cases hk : n = k
  · subst hk
    simp [State.say, Link.say, hup]
  · simp [State.say, hk, hup]

theorem sayGroup {key kind value : Nat} (hs : s.LinkLost n) : (s.sayGroup key kind value).LinkLost n :=
  .foldl hs fun _ _ h => .say h

theorem stuckReports {key : Nat} (hs : s.LinkLost n) : (s.stuckReports key).LinkLost n := by
  unfold State.stuckReports
  refine .foldl hs fun t _ h => .ite h ?_
  split
  · exact .ite (.sayGroup (s := t) h) h
  · exact h

theorem settleLoss {key : Nat} (hs : s.LinkLost n) : (s.settleLoss key).LinkLost n := by
  have ht : (s.stuckReports key).LinkLost n := .stuckReports hs
  refine .ite hs (.ite ht ?_)
  refine foldl (s := s.stuckReports key) ht fun t m h => ?_
  have hend (cause : Byte) (f : Nat) : State.LinkLost n (match t.sender m.1 key with
      | some (id, _) => t.endCmd m.1 id cause f
      | none => t) := by
    split
    · exact .endCmd h
    · exact h
  exact .ite (hend _ _) (hend _ _)

theorem noteLoss {key : Nat} {dis : Bool} {gone : List Nat} (hs : s.LinkLost n) : (s.noteLoss key dis gone).LinkLost n := by
  refine .ite hs (.settleLoss ?_)
  refine foldl (s := { s with losses := _ }) hs fun t m h => .ite h ?_
  split
  · exact .failCmd h
  · exact h

theorem loseGroup {key : Nat} {dis : Bool} {gone : List Nat} (hs : s.LinkLost n) : (s.loseGroup key dis gone).LinkLost n :=
  .noteLoss (.ite (.sayGroup hs) (.foldl hs fun _ _ h => .sayGroup h))

end State.LinkLost

theorem State.retrain_lost {s : State} {n : Nat} (h : 3 ≤ (recent s.now usHour (Tab.getD s.links n : Link).trains).length)
    (hw : (Tab.getD s.links n : Link).width ≤ 200) : (s.retrain n).LinkLost n := by
  unfold State.retrain
  extract_lets +onlyGivenNames l ts l'
  have hts : 4 ≤ ts.length := le_of_le_of_eq (Nat.succ_le_succ h) (recent_length_add _ _ _).symm
  rw [if_neg (Nat.not_lt.mpr hts), if_neg (Nat.not_lt.mpr hw)]
  exact .foldl ⟨by simp, by simp⟩ fun _ _ h => .foldl h fun _ _ h => .loseGroup h

/-! ### Uncorrectable errors -/

theorem State.spoilOne_single (s : State) (u : Bool × Nat) (go : State → State) : s.spoilOne [u] go = go { s with bad := u :: s.bad } := rfl

theorem State.pick_lt {s : State} {n : Nat} (h : 0 < n) : (s.pick n).1 < n := by
  unfold State.pick
  split
  · exact h
  · exact Nat.mod_lt _ h

/-- Where there is a unit to turn bad, one of them does. -/
theorem State.spoilOne_some {s : State} {us : List (Bool × Nat)} (go : State → State) (h : us ≠ []) :
    ∃ u ∈ us, ∃ t, s.spoilOne us go = go t ∧ u ∈ t.bad := by
  have hpos : 0 < us.length := List.length_pos_iff.mpr h
  have hget := List.getElem?_eq_getElem (State.pick_lt (s := s) hpos)
  refine ⟨us[(s.pick us.length).1]'(State.pick_lt hpos), List.getElem_mem _, _, if_neg (by simpa using h), List.mem_append_left _ ?_⟩
  exact hget ▸ List.mem_singleton_self _

theorem State.uncorrectable_bad (s : State) (g : RegionNo) (a : Acc) : (s.uncorrectable g a).bad = s.bad := by
  unfold State.uncorrectable
  split
  · unfold State.failAcc
    split
    · rfl
    · split <;> rfl
  · rfl

theorem execUncorrectableError_access {s : State} {g : RegionNo} {id : Nat} {a : Acc} {pl : Place} (ha : s.acc g id = some a)
    (hpl : a.phase = .ready pl) : execUncorrectableError (.access g id) s
      = .next (s.spoilOne (openUnits (s.touched g a pl)) (fun s => s.uncorrectable g a)) := by
  simp only [execUncorrectableError, ha, hpl]

theorem State.spoilCmd_running {s : State} {g : RegionNo} {id : Nat} (hrun : (s.cmd g id).running = true) (hpark : (s.cmd g id).parked = none) :
    s.spoilCmd g id = s.spoilOne (ioUnits (s.cmd g id).prog.io) (fun t =>
      if (s.cmd g id).code == 0x70 || (s.cmd g id).code == 0x71 then t.chainFail g id Cause.uncorrectable
      else if (s.cmd g id).delivers then t
      else t.failCmd g id Cause.uncorrectable) :=
  if_neg (by simp [hrun, hpark])

/-- Only a Drawer's command delivers (11 R280). -/
theorem Cmd.delivers_of_code {c : Cmd} (h : c.code < 0x60 ∨ 0x80 ≤ c.code) : c.delivers = false := by
  simp [Cmd.delivers]
  omega

theorem State.spoilPort_working {s : State} {g : RegionNo} {p : Nat} {w : PortAcc} (hw : (Tab.getD (s.core g).ports p : EdgePort).work = some w)
    (hpark : (Tab.getD (s.core g).ports p : EdgePort).parked = none) :
    s.spoilPort g p = s.spoilOne (ioUnits w.io) (fun t => t.failPort g p Cause.uncorrectable 0) := by
  simp [State.spoilPort, hw, hpark]

theorem State.writeKeyed_bad (s : State) (key : Option (BitVec 512)) (n pa : Nat) (bs : List Byte) : (s.writeKeyed key n pa bs).bad = s.bad := by
  induction n generalizing s pa bs with
  | zero => rfl
  | succ n ih =>
    unfold State.writeKeyed
    split
    · rfl
    · rw [ih]
      exact apply_ite State.bad _ _ _ |>.trans (ite_self _)

theorem State.writePlace_bad (s : State) (pl : Place) (bs : List Byte) :
    (s.writePlace pl bs).bad = s.bad.filter (fun u => !pl.covers bs.length u) := by
  unfold State.writePlace
  extract_lets +onlyGivenNames t
  split
  · rfl
  · rw [State.writeKeyed_bad]
    split <;> rfl

/-- A write of whole units has to read none of them. -/
theorem Place.reads_whole {pl : Place} {n : Nat} (hbase : pl.base % unitBytes pl.bank = 0) (hn : n % unitBytes pl.bank = 0) :
    pl.reads n true = [] := by
  have hu : 0 < unitBytes pl.bank := by cases pl.bank <;> decide
  refine List.filter_eq_nil_iff.mpr fun u hmem => ?_
  unfold Place.units at hmem
  split at hmem
  · cases hmem
  · next hne =>
    obtain ⟨i, hi, rfl⟩ := List.mem_map.mp hmem
    rw [List.mem_range] at hi
    simp only [Place.covers]
    generalize pl.base = b at *
    generalize unitBytes pl.bank = u at *
    obtain ⟨q, rfl⟩ := Nat.dvd_of_mod_eq_zero hbase
    obtain ⟨k, rfl⟩ := Nat.dvd_of_mod_eq_zero hn
    have hpos : u * k ≠ 0 := by simpa using hne
    have hlast : (u * q + u * k - 1) / u < q + k := Nat.div_lt_of_lt_mul (by rw [Nat.mul_add]; omega)
    rw [Nat.mul_div_cancel_left q hu] at hi ⊢
    have hend : u * (i + 1) ≤ u * k := Nat.mul_le_mul_left u (by omega)
    rw [Nat.mul_add, Nat.mul_one] at hend
    simp [Nat.mul_add]
    omega

theorem openUnits_whole_write {s : State} {g : RegionNo} {a : Acc} {pl : Place} {bs : List Byte} (hop : a.op = .write bs)
    (hbase : pl.base % unitBytes pl.bank = 0) (hn : bs.length % unitBytes pl.bank = 0) : openUnits (s.touched g a pl) = [] := by
  simp [openUnits, State.touched, hop, Place.reads_whole hbase hn]

theorem execAccessPerform_spoiled {s : State} {g : RegionNo} {id : Nat} {a : Acc} {pl : Place} (ha : s.acc g id = some a)
    (hpl : a.phase = .ready pl) (hring : s.ringGone a = false) (hholds : s.holds g a = false) (hfull : s.pendingFull a = false)
    (hown : s.ownedOk pl = true) (hbad : s.accSpoiled g a pl = true) :
    execAccessPerform g id s = .next (s.uncorrectable g a) := by
  simp [execAccessPerform, ha, hpl, hring, hholds, hfull, hown, hbad]

/-! ### The rebuild and the armoire -/

theorem State.rebuild_eq (s : State) : s.rebuild = if s.arm.rebuild = 0 then { s with arm := { s.arm with rebuild := 1 } } else s := by
  by_cases h : s.arm.rebuild = 0 <;> simp [State.rebuild, h]

theorem State.foldl_record_records {β : Type} (f : State → β → Report) (l : List β) (s : State) :
    (l.foldl (fun s p => s.record (f s p)) s).records.length = s.records.length + l.length
      ∧ (l.foldl (fun s p => s.record (f s p)) s).openf = s.openf := by
  induction l generalizing s with
  | nil => exact ⟨rfl, rfl⟩
  | cons p l ih =>
    obtain ⟨hlen, hopen⟩ := ih (s.record (f s p))
    refine ⟨?_, hopen⟩
    rw [List.foldl_cons, hlen, List.length_cons]
    simp [State.record]
    omega

theorem step_stopped {s : State} (hstop : s.arm.stopped = true) :
    (∀ i, s.schedule.fetch = some i → i ≠ .reset → i ≠ .powerLoss → step s = .fault .packageStopped)
      ∧ (s.schedule.fetch = none → step s = .fault .packageStopped) := by
  refine ⟨fun i hi hreset hpower => ?_, fun hnone => ?_⟩
  · have hsurvives : survivesStop i = false := by
      unfold survivesStop
      split
      · exact absurd rfl hreset
      · exact absurd rfl hpower
      · rfl
    simp [step, hi, hstop, hsurvives]
  · simp [step, hnone, hstop]

theorem State.armoireStep_resend {s : State} (h : s.arm.rebuild = 5) : s.armoireStep.openf = [] ∧ s.armoireStep.arm.rebuild = 6
    ∧ s.armoireStep.records.length = s.records.length + s.allParked.length := by
  let t : State := { s with openf := [], ringWait := s.ringWait.filter (fun r => !r.ofParked) }
  have hstep : s.armoireStep = { s.resendAll with arm := { s.resendAll.arm with rebuild := 6 } } := by
    simp only [State.armoireStep, h]
  obtain ⟨hlen, hopen⟩ := State.foldl_record_records State.resent t.allParked t
  rw [hstep]
  exact ⟨hopen, rfl, hlen⟩

/-- Settles O51: each error's window, link and unit by the equation of its action, a link that goes down by what keeps it down, and the
rebuild by its steps. -/
theorem errorsLinksAndTheArmoire : Obligations.ErrorsLinksAndTheArmoire := by
  unfold Obligations.ErrorsLinksAndTheArmoire
  intro s
  refine ⟨fun g c line => ?_, fun stack bank row => ?_, fun n => ?_, fun u => ?_, fun g id a pl ha hpl => ?_,
    exec_uncorrectableError s _, fun hon hheart => ?_, s.rebuild_eq, ⟨fun h => ?_, fun h => ?_, fun h => ?_, fun h => ?_,
      State.armoireStep_resend, fun h => ?_⟩, fun hheart => ?_, fun hon => ?_, fun a => ?_, exec_lockstepMismatch s, step_stopped⟩
  · have hcount := State.countError_snd s (.bankLine g c line) (24 * usHour)
    exact ⟨fun hfew => ⟨_, execCorrectedError_bankLine_few (by omega), rfl, rfl, State.countError_errs_mem ..⟩,
      fun hfull hspare => ⟨_, execCorrectedError_bankLine_full (by omega), State.retireLine_spare line hspare⟩⟩
  · intro src seen hseen hrows
    have hcount : (s.countError src usHour).2 = seen.length + 1 := State.countError_snd s src usHour
    refine ⟨_, execCorrectedError_hbmRow_full (le_of_le_of_eq (Nat.succ_le_succ hseen) hcount.symm), ?_⟩
    rw [State.repairRow_spare (by exact hrows)]
    exact ⟨rfl, rfl⟩
  · intro l
    have hretry : ∀ (h : l.up = true) (h63 : 63 ≤ (recent s.now usSecond l.retries).length),
        Claims.Next (exec (.linkCrcRetry n) s) ((s.retried n).retrain n.toNat) := fun hup h63 =>
      (execLinkCrcRetry_up hup).trans (congrArg _ (if_pos h63))
    have hlink : Tab.getD (s.retried n).links n.toNat = { l with retries := recent s.now usSecond l.retries ++ [s.now] } := by
      simp [State.retried, l]
    refine ⟨execLinkCrcRetry_down, fun hup hfew => ?_, fun hup h63 htrains => ⟨_, hretry hup h63, ?_⟩,
      fun hup h63 htrains hwide => ⟨_, hretry hup h63, ?_⟩, fun hup h63 htrains hnarrow => ⟨_, hretry hup h63, ?_⟩, _, rfl, ?_⟩
    · exact (execLinkCrcRetry_up hup).trans (congrArg _ (if_neg (Nat.not_le.mpr hfew)))
    · rw [State.retrain_few (by rw [hlink]; exact htrains), hlink]
      simp
    · rw [State.retrain_half (by rw [hlink]; exact htrains) (by rw [hlink]; exact hwide), hlink]
      simp
    · exact State.retrain_lost (by rw [hlink]; exact htrains) (by rw [hlink]; exact hnarrow)
    · simp [l]
  · intro spoilt
    refine ⟨fun g id a pl ha hpl hu => ?_, fun g id hrun hpark hu => ?_, fun g p w hw hpark hu => ?_, fun pl bs hcov => ?_,
      fun pl bs hcov hbad => ?_⟩
    · exact (execUncorrectableError_access ha hpl).trans (by rw [hu]; rfl)
    · have hspoil : execUncorrectableError (.command g id) s = .next _ :=
        congrArg Host.Outcome.next (State.spoilCmd_running hrun hpark)
      rw [hu, State.spoilOne_single] at hspoil
      refine ⟨fun hcode => hspoil.trans ?_, fun hchain => hspoil.trans ?_⟩
      · have h70 : (s.cmd g id).code ≠ 0x70 := by omega
        have h71 : (s.cmd g id).code ≠ 0x71 := by omega
        simp [h70, h71, Cmd.delivers_of_code hcode, spoilt]
      · simp [hchain, spoilt]
    · have hspoil : execUncorrectableError (.port g p) s = .next _ :=
        congrArg Host.Outcome.next (State.spoilPort_working hw hpark)
      rw [hu] at hspoil
      exact hspoil
    · simp [State.writePlace_bad, hcov]
    · simp [State.writePlace_bad, hcov, hbad]
  · refine ⟨fun hopen => ?_, fun bs hop hbase hn => ?_, execAccessPerform_spoiled ha hpl⟩
    · obtain ⟨u, hmem, t, hspoil, hbad⟩ := State.spoilOne_some (s := s) (fun s => s.uncorrectable g a) hopen
      refine ⟨t.uncorrectable g a, u, ?_, hmem, ?_⟩
      · exact (execUncorrectableError_access ha hpl).trans (congrArg _ hspoil)
      · rwa [State.uncorrectable_bad]
    · refine (execUncorrectableError_access ha hpl).trans ?_
      rw [openUnits_whole_write hop hbase hn]
      rfl
  · simp [execHeartbeatTimeout, hon, hheart]
  · obtain h | ⟨h, hholds⟩ := h
    · simp [State.armoireStep, h]
    · simp [State.armoireStep, h, hholds]
  · simp [State.armoireStep, h]
  · simp [State.armoireStep, h]
  · simp [State.armoireStep, h]
  · simp [State.armoireStep, h]
  · simp [execHeartbeatTimeout, hheart]
  · simp [execHeartbeat, hon]
  · refine ⟨fun hbank => ?_, fun hbank hdev => ?_, fun hbank hdev => ?_⟩
    · simp [execScrubUncorrectable, hbank]
    · simp [execScrubUncorrectable, hbank, hdev]
    · simp [execScrubUncorrectable, hbank, hdev]

end Sys2Proof.Machine

/-! ## A `pmark` while a switch is under way (16 R321) -/

namespace Sys2Proof.Machine

/-- A `pmark` that has started and not taken its step. -/
def startedMark : Cmd := { started := true }

/-- Region 0 waits for its groups before its image leaves, and its `pmark` is the agent. -/
def markWhileSwitching : State :=
  { State.reset.setReg 0 { switching := true, core := { cmds := [(1, startedMark)] } } with cur := .command 0 1 }

theorem markWhileSwitching_runs : Claims.Runs markWhileSwitching 0 1 startedMark := ⟨rfl, rfl, rfl, ⟨rfl, rfl, rfl⟩, rfl⟩

/-- A switch under way is one that follows: the `pmark` waits for it. -/
theorem execPmark_switching {s : State} {g : RegionNo} {id : Nat} {m : Cmd} (c : Frame) (h : Claims.Runs s g id m) (hstage : m.prog.stage = 0)
    (hswitch : ((s.progress g id (fun p => { p with stage := 1 })).reg g).switching = true) :
    exec (.pmark c) s = .next (s.progress g id (fun p => { p with stage := 1 })) :=
  ((exec_pmark (s := s) c).trans (State.runCmd_of_runs h _)).trans (by simp [hstage, hswitch])

/-- Refutes O37, in its last clause: with a switch under way that waits for its groups (16 R315) the region still runs, and a `pmark` is not
answered at once, as the switch is one that follows; but `State.endQuantum` finds no switch to begin, and the clause has it answered. -/
theorem not_contextUnitCommands : ¬ Obligations.ContextUnitCommands := by
  unfold Obligations.ContextUnitCommands
  intro h
  obtain ⟨-, -, -, -, hmark⟩ := h markWhileSwitching 0 1 startedMark default
  have hanswered := (hmark rfl).1 _ rfl markWhileSwitching_runs
  have hwaits := execPmark_switching default markWhileSwitching_runs rfl rfl
  have hsame := congrArg (fun t => (t.cmd 0 1).done) (Host.Outcome.next.inj (hanswered.symm.trans hwaits))
  exact absurd hsame (by decide)

end Sys2Proof.Machine

/-! ## A `pmap` that writes a table in host memory (09 R235, 17 R346) -/

namespace Sys2Proof.Machine

/-- Stage 2 with every slot translated and one word to write: the word is written. -/
theorem State.mapStep_lastWrite {s : State} {j : MapJob} {p : Prog} {e : EAcc} (hstage : p.stage = 2)
    (hslots : (j.writes p.tab).drop p.io.length = []) (hio : p.io.filter (fun e => e.got.isNone) = [e])
    (howned : s.ownedOk e.pl = true) (hgood : s.spoiled e.pl e.n true = false) :
    s.mapStep j p = (s.writePlace e.pl (e.wr.getD []),
      .go { p with io := p.io.map (fun q => if q.tag == e.tag then { q with got := some [] } else q) }) := by
  simp [State.mapStep, State.mapWrite, hstage, hslots, hio, State.pick, howned, hgood]

theorem State.writeLine_cxl (s : State) (key : Option (BitVec 512)) (pa : Nat) (bs : List Byte) : (s.writeLine key pa bs).cxl = s.cxl := by
  unfold State.writeLine
  dsimp only
  split <;> rfl

theorem State.writeKeyed_cxl (s : State) (key : Option (BitVec 512)) (n pa : Nat) (bs : List Byte) : (s.writeKeyed key n pa bs).cxl = s.cxl := by
  induction n generalizing s pa bs with
  | zero => rfl
  | succ n ih =>
    unfold State.writeKeyed
    split
    · rfl
    · rw [ih, State.writeLine_cxl]

theorem State.updCmd_cxl (s : State) (g : RegionNo) (id : Nat) (f : Cmd → Cmd) : (s.updCmd g id f).cxl = s.cxl := by
  unfold State.updCmd
  dsimp only
  split
  · rfl
  · split <;> rfl

/-- A write of host memory begins a CXL write that is nobody's yet. -/
theorem State.writePlace_cxl_of_isHost {s : State} {pl : Place} {bs : List Byte} (hbank : pl.bank = false) (hhost : isHost pl.pa = true)
    (hbs : bs ≠ []) : (s.writePlace pl bs).cxl = s.cxl ++ [(pl.pa / 128, none)] := by
  have hwritten : bs.isEmpty = false := by simpa using hbs
  simp [State.writePlace, hbank, hhost, hwritten, State.writeKeyed_cxl]

/-- A step of `pmap` that goes on: the CXL writes it has begun are its own. -/
theorem execPmap_go {s t : State} {g : RegionNo} {id n : Nat} {m : Cmd} {p : Prog} (c : Frame) (h : Claims.Runs s g id m)
    (htarget : s.target m c = some n) (hfault : structFault (frameAddr c) 32 = none) (hstage : m.prog.stage = 2)
    (hstep : s.mapStep { unmap := false, f := s.funcOf n, ctxid := n, d := MapDesc.of m.prog.hdr } m.prog = (t, .go p)) :
    exec (.pmap c) s
      = .next (((t.ownCxl s.cxl.length (g, m.kernel)).stamp g).updCmd g id (fun m => { m with prog := p, wait := none })) :=
  ((exec_pmap (s := s) c).trans (State.runCmd_of_runs h _ : s.mapCmd c false = _)).trans
    (by simp [State.withTarget, htarget, hfault, lowest, hstage, hstep])

/-- The slot in host memory of a page's leaf, translated and not written yet. -/
def hostSlot : EAcc := { tag := 0, addr := 0x8000, n := 8, wr := some (natToBytes 8 0x5007), va := noVa, pl := { pa := 2 ^ 48 + 0x8000, gpa := 0x8000 } }

/-- A `pmap` of one page in stage 2. -/
def hostSlotMap : Cmd :=
  { started := true,
    prog := { stage := 2, hdr := natToBytes 8 0x1000 ++ natToBytes 8 0x5000 ++ natToBytes 8 (2 ^ 48 + 8) ++ natToBytes 8 0, tab := [0x8000, 0], io := [hostSlot] } }

/-- The `pmap` is the agent, and its context 0 lives. -/
def mapInHostMemory : State :=
  { State.reset.setReg 0 { core := { cmds := [(1, hostSlotMap)] } } with cur := .command 0 1, ctxs := [(0, { live := true })] }

theorem mapInHostMemory_runs : Claims.Runs mapInHostMemory 0 1 hostSlotMap := ⟨rfl, rfl, rfl, ⟨rfl, rfl, rfl⟩, rfl⟩

/-- What its step reaches before it is stored: the word is written, and its CXL write begun. -/
theorem mapInHostMemory_mapStep (j : MapJob) (hslots : (j.writes hostSlotMap.prog.tab).drop 1 = []) :
    mapInHostMemory.mapStep j hostSlotMap.prog = (mapInHostMemory.writePlace hostSlot.pl (natToBytes 8 0x5007),
      .go { hostSlotMap.prog with io := [{ hostSlot with got := some [] }] }) :=
  State.mapStep_lastWrite rfl hslots rfl rfl rfl

theorem mapInHostMemory_cxl : (mapInHostMemory.writePlace hostSlot.pl (natToBytes 8 0x5007)).cxl = [(hostSlot.pl.pa / 128, none)] :=
  State.writePlace_cxl_of_isHost rfl (by decide) (by decide)

/-- Refutes O43, in the clause on a step of `pmap` that goes on: a word written to a table in host memory begins a CXL write, which the step
makes the command's own (09 R235); the clause has it left to nobody. -/
theorem not_serviceCommands : ¬ Obligations.ServiceCommands := by
  unfold Obligations.ServiceCommands
  intro h
  obtain ⟨-, -, -, hmap, -, -⟩ := h mapInHostMemory 0 1 hostSlotMap default
  obtain ⟨-, hgo, -⟩ := hmap 0 rfl (by decide)
  have hstep := mapInHostMemory_mapStep
    { unmap := false, f := mapInHostMemory.funcOf 0, ctxid := 0, d := MapDesc.of hostSlotMap.prog.hdr } (by decide)
  have hstated := hgo false _ _ (.inr rfl) hstep mapInHostMemory_runs
  have hmodel := execPmap_go default mapInHostMemory_runs rfl (by decide) rfl hstep
  have hsame := congrArg State.cxl (Host.Outcome.next.inj (hstated.symm.trans hmodel))
  simp only [State.updCmd_cxl, State.stamp_cxl, State.ownCxl, mapInHostMemory_cxl] at hsame
  exact absurd hsame (by decide)

end Sys2Proof.Machine

/-! ## Records of the root core and transfers of granules (17 R337 to R341, R349, R350) -/

namespace Sys2Proof

theorem Tab.get_filter_val {α : Type} (t : Tab α) {f : α → Bool} {n : Nat} {v : α} (hv : Tab.get t n = some v) (hf : f v = true) :
    Tab.get (t.filter (fun e => f e.2)) n = some v := by
  induction t with
  | nil => nomatch hv
  | cons e t ih =>
    obtain ⟨m, w⟩ := e
    by_cases hm : m = n
    · have hw : w = v := by simpa [Tab.get, hm] using hv
      subst hw
      simp [hf, Tab.get, hm]
    · have hrest := ih (by simpa [Tab.get, hm] using hv)
      by_cases hw : f w = true <;> simp [hw, Tab.get, hm, hrest]

end Sys2Proof

namespace Sys2Proof.Machine

/-! ### The root core takes a record -/

/-- A record as the root core takes it: with the time, and with a count of 1 but for the HANG entry. -/
def Report.takenAt (r : Report) (now : Nat) : Report := { r with time := now, count := if r.hang then r.count else 1 }

section
variable {s : State} {r : Report} {rest : List Report}

/-- With nothing waiting in the root core and no rebuild, the first record that travels is taken. -/
theorem execFaultRecord_first {t : State} (hrebuild : s.arm.rebuild = 0) (hwait : s.ringWait = []) (hrec : s.records = r :: rest)
    (htake : ({ s with records := rest } : State).takeRecord r = some t) : exec (.faultRecord 0) s = .next t := by
  rw [hwait] at htake
  simp [execFaultRecord, hrebuild, hwait, hrec, htake]

theorem State.takeRecord_of_released (hof : (r.takenAt s.now).ofParked = true) (hgone : s.stillParked (r.takenAt s.now) = false) :
    s.takeRecord r = some s := by
  change (if (r.takenAt s.now).ofParked && !s.stillParked (r.takenAt s.now) then some s else _) = _
  simp [hof, hgone]

theorem Report.not_fatal_of_ofParked (hof : r.ofParked = true) : r.fatal = false := by
  simp only [Report.ofParked, Bool.and_eq_true, Bool.not_eq_true'] at hof
  exact hof.1.1.1

theorem Report.not_ofParked_of_fatal (hfatal : r.fatal = true) : r.ofParked = false := by simp [Report.ofParked, hfatal]

/-- What the root core does with a record that it does not discard. -/
theorem State.takeRecord_kept (hwait : s.ringWait = []) (hkept : (r.takenAt s.now).ofParked = true → s.stillParked (r.takenAt s.now) = true) :
    s.takeRecord r = some (
      if r.s2 then (s.merge (r.takenAt s.now)).getD (s.place' (r.takenAt s.now))
      else if s.faultOpen r.ctxid then
        if r.fatal then (s.fatal (r.takenAt s.now)).place' (r.takenAt s.now) else (s.merge (r.takenAt s.now)).getD (s.place' (r.takenAt s.now))
      else s.fatal (r.takenAt s.now)) := by
  have hdrop : ¬((r.takenAt s.now).ofParked && !s.stillParked (r.takenAt s.now)) = true := by simpa using hkept
  have hroom : ¬(s.faultOpen r.ctxid && decide (s.waitingFor r.ctxid > 64)) = true := by simp [State.waitingFor, hwait]
  refine (if_neg hdrop).trans ?_
  by_cases hs2 : r.s2 = true
  · exact (if_pos hs2).trans (by rw [if_pos hs2]; rfl)
  · refine (if_neg hs2).trans ((if_neg hroom).trans ?_)
    by_cases hopen : s.faultOpen r.ctxid = true <;> by_cases hfatal : r.fatal = true <;> simp [hs2, hopen, hfatal, Report.takenAt]

theorem State.merge_openEntry (hof : r.ofParked = true) (hany : s.openf.any (fun o => o.sameKey r.key) = true) :
    s.merge r = some { s with openf := s.openf.map (fun o => if o.sameKey r.key then { o with count := o.count + 1 } else o) } := by
  simp [State.merge, hof, hany]

theorem State.merge_alone (hwait : s.ringWait = []) (hnone : s.openf.any (fun o => o.sameKey r.key) = false) : s.merge r = none := by
  simp [State.merge, hwait, hnone]

theorem State.takeRecord_merges (hwait : s.ringWait = []) (hof : (r.takenAt s.now).ofParked = true)
    (hstill : s.stillParked (r.takenAt s.now) = true) (hway : r.s2 = true ∨ s.faultOpen r.ctxid = true)
    (hany : s.openf.any (fun o => o.sameKey (r.takenAt s.now).key) = true) :
    s.takeRecord r = some { s with openf := s.openf.map (fun o =>
      if o.sameKey (r.takenAt s.now).key then { o with count := o.count + 1 } else o) } := by
  rw [State.takeRecord_kept hwait (fun _ => hstill), State.merge_openEntry hof hany]
  have hnot : r.fatal = false := Report.not_fatal_of_ofParked hof
  rcases hway with h | h <;> simp [h, hnot]

theorem State.takeRecord_places (hwait : s.ringWait = []) (hof : (r.takenAt s.now).ofParked = true)
    (hstill : s.stillParked (r.takenAt s.now) = true) (hway : r.s2 = true ∨ s.faultOpen r.ctxid = true)
    (hnone : s.openf.any (fun o => o.sameKey (r.takenAt s.now).key) = false) :
    s.takeRecord r = some (s.place' (r.takenAt s.now)) := by
  rw [State.takeRecord_kept hwait (fun _ => hstill), State.merge_alone hwait hnone]
  have hnot : r.fatal = false := Report.not_fatal_of_ofParked hof
  rcases hway with h | h <;> simp [h, hnot]

theorem Report.kept_of_fatal (hfatal : r.fatal = true) :
    (r.takenAt s.now).ofParked = true → s.stillParked (r.takenAt s.now) = true := fun h =>
  absurd h (by simp [Report.not_ofParked_of_fatal (r := r.takenAt s.now) hfatal])

theorem State.takeRecord_fatal (hwait : s.ringWait = []) (hfatal : r.fatal = true) (hs2 : r.s2 = false) (hopen : s.faultOpen r.ctxid = true) :
    s.takeRecord r = some ((s.fatal (r.takenAt s.now)).place' (r.takenAt s.now)) := by
  rw [State.takeRecord_kept hwait (Report.kept_of_fatal hfatal), hs2, hopen, hfatal]
  rfl

/-- Without an open fault stream a record is fatal. -/
theorem State.takeRecord_closed (hwait : s.ringWait = [])
    (hkept : (r.takenAt s.now).ofParked = true → s.stillParked (r.takenAt s.now) = true) (hs2 : r.s2 = false) (hopen : s.faultOpen r.ctxid = false) :
    s.takeRecord r = some (s.fatal (r.takenAt s.now)) := by
  rw [State.takeRecord_kept hwait hkept, hs2, hopen]
  rfl

/-! ### A FATAL record stops kernels -/

theorem State.stopKernel_get (s : State) (n m : Nat) (cause : Byte) (v : Nat) :
    Tab.get (s.stopKernel m cause v).kernels n
      = (Tab.get s.kernels n).map (fun k => if m = n then { k with stop := k.stop.or (some (cause, v)) } else k) := by
  unfold State.stopKernel State.updKernel
  by_cases hm : m = n
  · subst hm
    cases hk : Tab.get s.kernels m with
    | none => simp [hk]
    | some k => simp
  · cases hk : Tab.get s.kernels m with
    | none => simp [hm]
    | some k => simp [hm, Tab.get_set_ne _ _ _ _ (Ne.symm hm)]

theorem State.stopKernel_regions (s : State) (n : Nat) (cause : Byte) (v : Nat) : (s.stopKernel n cause v).regions = s.regions := by
  unfold State.stopKernel State.updKernel
  split <;> rfl

/-- Kernels stopped one after another, each with a VALUE of its own. -/
def State.stopKernels (s : State) (its : List (Nat × Kernel)) (cause : Byte) (v : Kernel → Nat) : State :=
  its.foldl (fun s e => s.stopKernel e.1 cause (v e.2)) s

theorem State.stopKernels_regions (its : List (Nat × Kernel)) (s : State) (cause : Byte) (v : Kernel → Nat) :
    (s.stopKernels its cause v).regions = s.regions := by
  induction its generalizing s with
  | nil => rfl
  | cons e its ih => exact (ih _).trans (s.stopKernel_regions ..)

/-- A kernel that has stopped keeps its cause and VALUE. -/
theorem State.stopKernels_stopped {n : Nat} {p : Byte × Nat} (its : List (Nat × Kernel)) (s : State) (cause : Byte) (v : Kernel → Nat)
    (h : (Tab.get s.kernels n).bind Kernel.stop = some p) : (Tab.get (s.stopKernels its cause v).kernels n).bind Kernel.stop = some p := by
  induction its generalizing s with
  | nil => exact h
  | cons e its ih =>
    refine ih _ ?_
    obtain ⟨k, hk, hstop⟩ := Option.bind_eq_some_iff.1 h
    rw [State.stopKernel_get, hk]
    by_cases hn : e.1 = n <;> simp [hn, hstop]

/-- The first kernel of a number that is stopped gives the number its VALUE. -/
theorem State.stopKernels_first {n : Nat} {k k' : Kernel} (its : List (Nat × Kernel)) (s : State) (cause : Byte) (v : Kernel → Nat)
    (hits : Tab.get its n = some k) (hk : Tab.get s.kernels n = some k') (hstop : k'.stop = none) :
    (Tab.get (s.stopKernels its cause v).kernels n).bind Kernel.stop = some (cause, v k) := by
  induction its generalizing s with
  | nil => nomatch hits
  | cons e its ih =>
    obtain ⟨m, q⟩ := e
    by_cases hm : m = n
    · subst hm
      have hq : q = k := by simpa [Tab.get] using hits
      subst hq
      refine State.stopKernels_stopped its _ cause v ?_
      simp [State.stopKernel_get, hk, hstop]
    · refine ih _ (by simpa [Tab.get, hm] using hits) ?_
      simp [State.stopKernel_get, hk, hm]

theorem State.loseMembers_none {g : RegionNo} {ctxid : Nat} (hgroups : (s.reg g).groups = []) : s.loseMembers g ctxid = s := by
  simp [State.loseMembers, hgroups]

/-- A FATAL record of a core whose region holds no group: the kernels of its context stop. -/
theorem State.fatal_stops (hrep : r.rep ≠ 0xFFFF) (hgen : r.gen = s.genOf r.ctxid) (hgroups : (s.reg r.g).groups = []) :
    s.fatal r = s.stopKernels (s.kernels.filter (fun e => e.2.ctxid == r.ctxid)) r.cause (fun k => k.regNo r.g % k.regions.length) := by
  let v (k : Kernel) : Nat := k.regNo r.g % k.regions.length
  have hkept : ((s.stopKernels (s.kernels.filter (fun e => e.2.ctxid == r.ctxid)) r.cause v).reg r.g).groups = [] := by
    rw [State.reg, State.stopKernels_regions]
    exact hgroups
  exact (if_neg (by simpa [hgen] using hrep)).trans (State.loseMembers_none hkept)

theorem State.fatal_stop {n : Nat} {k : Kernel} (hrep : r.rep ≠ 0xFFFF) (hgen : r.gen = s.genOf r.ctxid) (hgroups : (s.reg r.g).groups = [])
    (hk : Tab.get s.kernels n = some k) (hctx : k.ctxid = r.ctxid) (hstop : k.stop = none) :
    (Tab.get (s.fatal r).kernels n).bind Kernel.stop = some (r.cause, k.regNo r.g % k.regions.length) := by
  rw [State.fatal_stops hrep hgen hgroups]
  exact State.stopKernels_first _ s _ (fun k => k.regNo r.g % k.regions.length)
    (Tab.get_filter_val s.kernels (f := fun k => k.ctxid == r.ctxid) hk (by simp [hctx])) hk hstop

end

/-! ### Transfers of granules -/

section
variable {s : State}

theorem State.InRegions.hostOwned {t : State} (h : s.InRegions t) : t.hostOwned = s.hostOwned := by
  obtain ⟨rs, rfl⟩ := h
  rfl

theorem State.InRegions.xfers {t : State} (h : s.InRegions t) : t.xfers = s.xfers := by
  obtain ⟨rs, rfl⟩ := h
  rfl

/-- What completes its `ownxfer`s, and the copies given up. -/
theorem State.InRegions.endCmds (cmds : List (RegionNo × Nat)) (s : State) : s.InRegions (cmds.foldl (fun s c => s.endCmd c.1 c.2 0 1) s) := by
  induction cmds generalizing s with
  | nil => exact .refl s
  | cons c cmds ih => exact (State.InRegions.endCmd s c.1 c.2 0 1).trans (ih _)

theorem State.InRegions.dropCopies (s : State) (n : Nat) : s.InRegions (s.dropCopies n) := ⟨_, rfl⟩

/-- What the copy engines give up of a command: parts of its progress at most. -/
def Cmd.dropping (n : Nat) (m : Cmd) : Cmd :=
  if m.isCopy then { m with prog := { m.prog with io := m.prog.io.filter (fun e =>
    !(e.wr.isNone && e.got.isSome && !e.pl.bank && isDevice e.pl.pa && granule e.pl.pa == n)) } } else m

theorem Cmd.dropping_keeps (n : Nat) (m : Cmd) :
    (m.dropping n).done = m.done ∧ (m.dropping n).cause = m.cause ∧ (m.dropping n).value = m.value := by
  unfold Cmd.dropping
  split <;> exact ⟨rfl, rfl, rfl⟩

theorem State.cmds_dropCopies (s : State) (n : Nat) (g : RegionNo) :
    ((s.dropCopies n).core g).cmds = Tab.mapVal (s.core g).cmds (fun _ m => m.dropping n) :=
  congrArg (fun r : Region => r.core.cmds) (Tab.getD_mapVal (f := fun _ (r : Region) =>
    { r with core := { r.core with cmds := Tab.mapVal r.core.cmds (fun _ m => m.dropping n) } }) s.regions g.toNat rfl :)

theorem State.cmd_dropCopies {n id : Nat} {g : RegionNo} (hhere : Tab.has (s.core g).cmds id = true) :
    (s.dropCopies n).cmd g id = (s.cmd g id).dropping n := by
  obtain ⟨m, hm⟩ := Option.isSome_iff_exists.1 hhere
  have hget : Tab.get ((s.dropCopies n).core g).cmds id = some (m.dropping n) := by rw [State.cmds_dropCopies, Tab.get_mapVal, hm]; rfl
  rw [State.cmd_resident (Option.isSome_iff_exists.2 ⟨_, hget⟩), State.cmd_resident hhere, Tab.getD, hget, Tab.getD, hm]
  rfl

theorem State.has_endCmd {g : RegionNo} {id : Nat} (hhere : Tab.has (s.core g).cmds id = true) (cause : Byte) (value : Nat) :
    Tab.has ((s.endCmd g id cause value).core g).cmds id = true :=
  State.has_updCmd (by rwa [State.cmds_releaseNodes]) _

/-- The owner of a granule changed, and its transfer gone. -/
def State.transferred (s : State) (n : Nat) (x : Xfer) : State :=
  { s with xfers := Tab.erase s.xfers n, hostOwned := if x.toHost then Tab.set s.hostOwned n true else Tab.erase s.hostOwned n }

/-- A transfer that has ended: its `ownxfer`s are done, and the copy engines have given up what they had read of a granule that the host now owns. -/
def State.transferEnded (s : State) (n : Nat) (x : Xfer) : State :=
  let t := x.cmds.foldl (fun s c => s.endCmd c.1 c.2 0 1) (s.transferred n x)
  if x.toHost then t.dropCopies n else t

theorem State.InRegions.transferEnded (s : State) (n : Nat) (x : Xfer) : (s.transferred n x).InRegions (s.transferEnded n x) := by
  have hcmds := State.InRegions.endCmds x.cmds (s.transferred n x)
  unfold State.transferEnded
  split
  · exact hcmds.trans (.dropCopies ..)
  · exact hcmds

/-- The `ownxfer` of a transfer that has ended is done. -/
theorem State.cmd_transferEnded {n id : Nat} {x : Xfer} {g : RegionNo} (hcmds : x.cmds = [(g, id)]) (hhere : Tab.has (s.core g).cmds id = true) :
    let m := (s.transferEnded n x).cmd g id
    m.done = true ∧ m.cause = 0 ∧ m.value = 1 := by
  obtain ⟨hdone, hcause, hvalue⟩ := State.cmd_endCmd (s := s.transferred n x) hhere 0 1
  unfold State.transferEnded
  simp only [hcmds, List.foldl_cons, List.foldl_nil]
  split
  · obtain ⟨hdone', hcause', hvalue'⟩ := Cmd.dropping_keeps n (((s.transferred n x).endCmd g id 0 1).cmd g id)
    rw [State.cmd_dropCopies (State.has_endCmd (s := s.transferred n x) hhere 0 1)]
    exact ⟨hdone'.trans hdone, hcause'.trans hcause, hvalue'.trans hvalue⟩
  · exact ⟨hdone, hcause, hvalue⟩

theorem State.owner_transferred (s : State) (n : Nat) (x : Xfer) : (Tab.getD (s.transferred n x).hostOwned n : Bool) = x.toHost := by
  unfold State.transferred
  cases x.toHost with
  | true => exact Tab.getD_set_self ..
  | false => exact Tab.getD_erase ..

section
variable {n : Nat} {x : Xfer} (hx : Tab.get s.xfers n = some x)
include hx

/-- A transfer that no host access waits on, and that ends in time. -/
theorem execOwnershipTransferEnd_inTime (hnow : s.now ≤ x.began + 100) (hhosts : x.hosts = []) :
    exec (.ownershipTransferEnd n) s = .next (s.transferEnded n x) := by
  have hlate : ¬ s.now > x.began + 100 := by omega
  simp [execOwnershipTransferEnd, hx, hlate, hhosts, State.transferEnded, State.transferred]

/-- A transfer that has not ended in time: the owner stays. -/
theorem execOwnershipTimeout_late (hnow : x.began + 100 ≤ s.now) :
    exec (.ownershipTimeout n) s = .next (x.hosts.foldl State.hostTimeout (x.waits.foldl State.parkWaiter
      (x.cmds.foldl (fun s c => s.endCmdFree c.1 c.2 Cause.ownershipTimeout) { s with xfers := Tab.erase s.xfers n }))) := by
  have hearly : ¬ s.now < x.began + 100 := by omega
  simp [execOwnershipTimeout, hx, hearly]

theorem execOwnershipTimeout_early (hnow : s.now < x.began + 100) : exec (.ownershipTimeout n) s = .next s := by
  simp [execOwnershipTimeout, hx, hnow]

end

/-- An access with its place found that waits on a transfer that fails is parked. -/
theorem State.parkWaiter_access {g : RegionNo} {id : Nat} {a : Acc} {pl : Place} (hacc : s.acc g id = some a) (hphase : a.phase = .ready pl)
    (va gpa : Nat) (wr : Bool) :
    s.parkWaiter (.event (.accessPerform g id), va, gpa, wr) = s.parkAcc g id { cause := Cause.ownershipTimeout, s2 := true, gpa := gpa } va := by
  simp [State.parkWaiter, hacc, hphase]

end

/-- Settles O44: every record that the root core takes is dealt with by `State.takeRecord`, whose branches are the clauses; a kernel's VALUE is that of
its first stop; what a transfer changes beside regions is the owner and the transfer itself. -/
theorem recordsAndTransfers : Obligations.RecordsAndTransfers := by
  unfold Obligations.RecordsAndTransfers
  intro s
  refine ⟨fun r rest hrebuild hwait hrec => ?records, fun r rest n k hrebuild hwait hrec hfatal hs2 hopen hrep hgen hk hctx hstop hgroups => ?stops,
    fun addr wr => ?host, fun n x hx hnow hhosts => ?ends, fun n x g id hx hnow hcmds hhosts hhere => ?answers,
    fun n x hx hnow hwaits => ?late, fun n x g id a pl va gpa wr hx hnow hcmds hhosts hwaits hacc hphase => ?parks,
    fun n x hx hnow => execOwnershipTimeout_early hx hnow⟩
  case records =>
    have takes {t} := execFaultRecord_first (t := t) hrebuild hwait hrec
    exact ⟨fun hof hgone => takes (State.takeRecord_of_released (s := { s with records := rest }) hof hgone),
      fun hof hstill hway hany => takes (State.takeRecord_merges (s := { s with records := rest }) hwait hof hstill hway hany),
      fun hof hstill hs2 hopen hnone =>
        takes (State.takeRecord_places (s := { s with records := rest }) hwait hof hstill (.inr hopen) hnone),
      fun hfatal hs2 hopen => takes (State.takeRecord_fatal (s := { s with records := rest }) hwait hfatal hs2 hopen),
      fun hfatal hs2 hopen =>
        takes (State.takeRecord_closed (s := { s with records := rest }) hwait (Report.kept_of_fatal hfatal) hs2 hopen),
      fun hof hstill hs2 hopen => takes (State.takeRecord_closed (s := { s with records := rest }) hwait (fun _ => hstill) hs2 hopen)⟩
  case stops =>
    exact ⟨_, execFaultRecord_first hrebuild hwait hrec
        (State.takeRecord_closed (s := { s with records := rest }) hwait (Report.kept_of_fatal hfatal) hs2 hopen),
      State.fatal_stop (s := { s with records := rest }) (r := r.takenAt s.now) hrep hgen hgroups hk hctx hstop⟩
  case host =>
    refine ⟨fun hdev hhost => ?_, fun hdev howned hno => ?_, fun hdev howned hno => ?_⟩
    · simp [execHostMemoryAccess, hdev, hhost]
    · simp [execHostMemoryAccess, hdev, howned, hno]
    · refine ⟨s.hostWait (granule addr) [(addr, wr)], by simp [execHostMemoryAccess, hdev, howned], rfl, ?_⟩
      simp [State.hostWait, Tab.get_of_absent hno]
  case ends =>
    have hends := State.InRegions.transferEnded s n x
    refine ⟨_, execOwnershipTransferEnd_inTime hx hnow hhosts, ?_, ?_, hends.mem, hends.banks⟩
    · rw [hends.hostOwned]
      exact State.owner_transferred s n x
    · rw [hends.xfers]
      exact Tab.has_erase ..
  case answers =>
    exact ⟨_, execOwnershipTransferEnd_inTime hx hnow hhosts, State.cmd_transferEnded hcmds hhere⟩
  case late =>
    rw [Claims.Next, execOwnershipTimeout_late hx hnow, hwaits]
    rfl
  case parks =>
    rw [Claims.Next, execOwnershipTimeout_late hx hnow, hwaits, hcmds, hhosts]
    exact congrArg _ (State.parkWaiter_access (s := { s with xfers := Tab.erase s.xfers n }) hacc hphase va gpa wr)

end Sys2Proof.Machine

/-! ## The order of host commands (16 R301, R302; 17 R349; 19 R357, R366) -/

namespace Sys2Proof.Machine

/-! ### Writes of memory alone -/

/-- What differs lies in memory and what goes with it: the keys of its lines, its bad units, its frames and the CXL writes under way. -/
def State.InMemory (s t : State) : Prop := ∃ mem banks lineKey bad cxl frames frameBy,
  t = { s with mem := mem, banks := banks, lineKey := lineKey, bad := bad, cxl := cxl, frames := frames, frameBy := frameBy }

section
variable {s t u : State}

theorem State.InMemory.refl (s : State) : s.InMemory s := ⟨_, _, _, _, _, _, _, rfl⟩

theorem State.InMemory.trans (h : s.InMemory t) (h' : t.InMemory u) : s.InMemory u := by
  obtain ⟨_, _, _, _, _, _, _, rfl⟩ := h
  obtain ⟨_, _, _, _, _, _, _, rfl⟩ := h'
  exact ⟨_, _, _, _, _, _, _, rfl⟩

theorem State.InMemory.hcmds (h : s.InMemory t) : t.hcmds = s.hcmds := by
  obtain ⟨_, _, _, _, _, _, _, rfl⟩ := h
  rfl

theorem State.InMemory.funcs (h : s.InMemory t) : t.funcs = s.funcs := by
  obtain ⟨_, _, _, _, _, _, _, rfl⟩ := h
  rfl

theorem State.InMemory.writeLine (s : State) (key : Option (BitVec 512)) (pa : Nat) (bs : List Byte) : s.InMemory (s.writeLine key pa bs) := by
  unfold State.writeLine
  dsimp only
  split <;> exact ⟨_, _, _, _, _, _, _, rfl⟩

theorem State.InMemory.writeKeyed (s : State) (key : Option (BitVec 512)) (n pa : Nat) (bs : List Byte) :
    s.InMemory (s.writeKeyed key n pa bs) := by
  induction n generalizing s pa bs with
  | zero => exact .refl s
  | succ n ih =>
    unfold State.writeKeyed
    split
    · exact .refl s
    · exact (State.InMemory.writeLine s key pa _).trans (ih ..)

theorem State.InMemory.writePlace (s : State) (pl : Place) (bs : List Byte) : s.InMemory (s.writePlace pl bs) := by
  unfold State.writePlace
  extract_lets +onlyGivenNames t
  have hbad : s.InMemory t := ⟨_, _, _, _, _, _, _, rfl⟩
  split
  · exact hbad.trans ⟨_, _, _, _, _, _, _, rfl⟩
  · refine hbad.trans (State.InMemory.trans ?_ (.writeKeyed ..))
    split
    · exact ⟨_, _, _, _, _, _, _, rfl⟩
    · exact .refl t

theorem State.InMemory.frameCheck {f : Nat} {pl : Place} {wr : Bool} (h : s.frameCheck f pl wr = .ok t) : s.InMemory t := by
  unfold State.frameCheck at h
  extract_lets fr entry attrs at h
  split at h
  · exact Except.ok.inj h ▸ .refl s
  split at h
  · cases h
  split at h
  · exact Except.ok.inj h ▸ ⟨_, _, _, _, _, _, _, rfl⟩
  split at h
  · cases h
  · exact Except.ok.inj h ▸ .refl s

theorem State.InMemory.writeFunc (s : State) (own : Bool) (f gpa : Nat) (bs : List Byte) : s.InMemory (s.writeFunc own f gpa bs) := by
  induction bs generalizing s gpa with
  | nil => exact .refl s
  | cons b bs ih =>
    unfold State.writeFunc
    split
    · exact ih ..
    · split
      · exact ih ..
      · next hframe => exact (State.InMemory.frameCheck hframe).trans ((State.InMemory.writePlace ..).trans (ih ..))

end

/-! ### The steps that every host command takes -/

/-- Every host command takes the steps of `hostStep`, with a check of its operands and effects of its own. -/
theorem exec_hostCommand {e : HostEntry} {i : Instr} (hi : i ∈ Claims.hostCommands e) (s : State) :
    ∃ pre f, exec i s = State.hostStep s e pre f := by
  simp only [Claims.hostCommands, List.mem_cons, List.not_mem_nil, or_false] at hi
  rcases hi with rfl | rfl | rfl | rfl | rfl | rfl | rfl | rfl | rfl | rfl | rfl | rfl
  · exact ⟨_, _, (exec_ctxCreate s e).trans (execCtxCreate.eq_1 e s)⟩
  · exact ⟨_, _, (exec_ctxDestroy s e).trans (execCtxDestroy.eq_1 e s)⟩
  · exact ⟨_, _, (exec_map s e).trans (State.mapHost.eq_1 s e false)⟩
  · exact ⟨_, _, (exec_unmap s e).trans (State.mapHost.eq_1 s e true)⟩
  · exact ⟨_, _, (exec_launch s e).trans (execLaunch.eq_1 e s)⟩
  · exact ⟨_, _, (exec_streamBind s e).trans (execStreamBind.eq_1 e s)⟩
  · exact ⟨_, _, (exec_drawerCreate s e).trans (execDrawerCreate.eq_1 e s)⟩
  · exact ⟨_, _, (exec_queueCreate s e).trans (execQueueCreate.eq_1 e s)⟩
  · exact ⟨_, _, (exec_queueDestroy s e).trans (execQueueDestroy.eq_1 e s)⟩
  · exact ⟨_, _, (exec_keyLoad s e).trans (execKeyLoad.eq_1 e s)⟩
  · exact ⟨_, _, (exec_snapshot s e).trans (execSnapshot.eq_1 e s)⟩
  · exact ⟨_, _, (exec_vfReset s e).trans (execVfReset.eq_1 e s)⟩

/-- CTX_DESTROY, LAUNCH and SNAPSHOT check nothing of their own beyond what these operands meet. -/
theorem exec_namingCommand {h : HCmd} {i : Instr} (hi : i ∈ Claims.hostCommands h.e) (hopc : i.hostOpc?.map Prod.fst = some h.opc)
    (hnaming : h.opc ∈ [0x02, 0x05, 0x0B]) (hctx : h.e.o0.toNat < 4096) (hsnap : h.opc = 0x0B → h.e.o2.toNat < 4) (s : State) :
    ∃ pre f, exec i s = State.hostStep s h.e pre f ∧ pre h s = none := by
  simp only [Claims.hostCommands, List.mem_cons, List.not_mem_nil, or_false] at hi
  rcases hi with rfl | rfl | rfl | rfl | rfl | rfl | rfl | rfl | rfl | rfl | rfl | rfl
  case inr.inl => exact ⟨_, _, (exec_ctxDestroy s _).trans (execCtxDestroy.eq_1 ..), by simp [anyFn, hctx]⟩
  case inr.inr.inr.inr.inl => exact ⟨_, _, (exec_launch s _).trans (execLaunch.eq_1 ..), by simp [hctx]⟩
  case inr.inr.inr.inr.inr.inr.inr.inr.inr.inr.inl =>
    have h11 : h.opc = 0x0B := (Option.some.inj hopc).symm
    exact ⟨_, _, (exec_snapshot s _).trans (execSnapshot.eq_1 ..), by simp [anyFn, hctx, hsnap h11]⟩
  all_goals exact absurd hnaming (by rw [← Option.some.inj hopc]; simp)

section
variable {s : State} {k : Nat} {h : HCmd} {pre : HCmd → State → Option Byte} {f : Nat → HCmd → State → State} (hcur : s.cur = .hostCmd k)
  (hcmd : Tab.get s.hcmds k = some h)
include hcur hcmd

theorem State.hostStep_waits (hoff : s.bureau = false) : s.hostStep h.e pre f = .next s := by 
  simp [State.hostStep, hcur, hcmd, hoff]

section
variable (hon : s.bureau = true)
include hon

/-- A command that the Bureau serves does its step once what it writes is the accelerator's. -/
theorem State.hostStep_own : s.hostStep h.e pre f = s.hostOwn k h (fun s =>
    if h.step ≥ 3 then s.hostComplete k h
    else if h.step == 2 then f k h s
    else if h.journalled then match s.hostRefusal h with
      | some c => s.hostFail k c
      | none => s.hostRun k h
    else if h.e.flags.getLsbD 0 && !s.firstOf h then s
    else match (pre h s).or (s.hostRefusal h) with
      | some c => s.hostFail k c
      | none => (s.journalTake k h).getD s) := by
  unfold State.hostStep
  rw [hcur]
  dsimp only
  rw [hcmd]
  exact if_neg (by simp [hon])

theorem State.hostStep_held {pl : Place} (hheld : s.hostHeld h = some pl) : s.hostStep h.e pre f = .next (s.claim (.hostCmd k) pl 0 true) := by
  rw [State.hostStep_own hcur hcmd hon, State.hostOwn, hheld]

variable (hfree : s.hostHeld h = none)
include hfree

/-- A command whose effects are performed completes. -/
theorem State.hostStep_completes (hstep : 3 ≤ h.step) : s.hostStep h.e pre f = .next (s.hostComplete k h) := by
  rw [State.hostStep_own hcur hcmd hon, State.hostOwn, hfree]
  simp [hstep]

variable (hstep : h.step = 1)
include hstep

/-- A journalled command starts, unless it is refused. -/
theorem State.hostStep_starts (hjournal : h.journalled = true) : s.hostStep h.e pre f = .next (match s.hostRefusal h with
    | some c => s.hostFail k c
    | none => s.hostRun k h) := by
  rw [State.hostStep_own hcur hcmd hon, State.hostOwn, hfree]
  simp [hstep, hjournal]

theorem State.hostStep_ordered (hjournal : h.journalled = false) (horder : h.e.flags.getLsbD 0 = true) (hfirst : s.firstOf h = false) :
    s.hostStep h.e pre f = .next s := by
  rw [State.hostStep_own hcur hcmd hon, State.hostOwn, hfree]
  simp [hstep, hjournal, horder, hfirst]

/-- A command that has no order to keep is checked, and takes its journal record. -/
theorem State.hostStep_checks (hjournal : h.journalled = false) (horder : h.e.flags.getLsbD 0 = false) :
    s.hostStep h.e pre f = .next (match (pre h s).or (s.hostRefusal h) with
      | some c => s.hostFail k c
      | none => (s.journalTake k h).getD s) := by
  have hgoes : (h.e.flags.getLsbD 0 && !s.firstOf h) = false := by rw [horder, Bool.false_and]
  rw [State.hostStep_own hcur hcmd hon, State.hostOwn, hfree]
  simp only [hstep, hjournal, hgoes]
  rfl

/-- A command that is refused for what it names ends so, journalled or not, where its operands are in range. -/
theorem State.hostStep_refuses {c : Byte} (horder : h.e.flags.getLsbD 0 = false) (hpre : pre h s = none) (hrefused : s.hostRefusal h = some c) :
    s.hostStep h.e pre f = .next (s.hostFail k c) := by
  by_cases hjournal : h.journalled = true
  · rw [State.hostStep_starts hcur hcmd hon hfree hstep hjournal, hrefused]
  · rw [State.hostStep_checks hcur hcmd hon hfree hstep (Bool.not_eq_true _ ▸ hjournal) horder, hpre, hrefused]
    rfl

end

end

/-- A command that names a context that is not live is refused. -/
theorem State.hostRefusal_of_dead {s : State} {h : HCmd} {c : Nat} (hnames : h.names = some c)
    (hdead : ∀ x, Tab.get s.ctxs c = some x → x.live = false) : s.hostRefusal h = some Cause.cmdInvalid := by
  unfold State.hostRefusal
  rw [hnames]
  cases hx : Tab.get s.ctxs c with
  | none => simp [hx]
  | some x => simp [hx, hdead x hx]

/-! ### Journal records and completions -/

/-- A command that names no context takes a record of the device journal, where no earlier command waits for one. -/
theorem State.journalTake_device {s : State} {k n : Nat} {h : HCmd} (hnames : h.names = none)
    (hfirst : ∀ j ∈ s.hcmds, j.2.step = 1 → h.seq ≤ j.2.seq) (hfree : Tab.free s.journal 64 = some n) :
    s.journalTake k h = some { s with
      hcmds := Tab.set s.hcmds k { h with jctx := none, jrec := n, journalled := true }, journal := Tab.set s.journal n (1, h.record) } := by
  have hnone : s.hcmds.any (fun e => e.2.step == 1 && !e.2.journalled && decide (e.2.seq < h.seq) && e.2.names == h.names
      && (!e.2.e.flags.getLsbD 0 || s.firstOf e.2)) = false := by
    rw [List.any_eq_false]
    intro j hj
    by_cases hstep : j.2.step = 1
    · simp [Nat.not_lt.2 (hfirst j hj hstep)]
    · simp [hstep]
  refine (if_neg (by rw [hnone]; exact Bool.false_ne_true)).trans ?_
  rw [hnames]
  simp only [hfree, Option.map_some]
  rfl

/-- A command that has a record of the device journal starts with STEP 2 there. -/
theorem State.hostRun_device {s : State} {k : Nat} {h : HCmd} (hdevice : h.jctx = none) :
    s.hostRun k h = { s with hcmds := Tab.set s.hcmds k { h with step := 2 }, journal := Tab.set s.journal h.jrec (2, h.record) } := by
  simp only [State.hostRun, State.journalPut, hdevice]
  rfl

theorem State.queue_updQueue_self (s : State) (f q : Nat) (upd : HQueue → HQueue) : (s.updQueue f q upd).queue f q = upd (s.queue f q) := by
  simp [State.queue, State.updQueue]

/-- A completion leaves the other commands, and advances the queue. -/
theorem State.complete_spec (s : State) (f q : Nat) (cid : BitVec 16) (cause : Byte) (abrt : Bool) (value : W64) :
    let t := s.complete f q cid cause abrt value
    let n := ((s.queue f q).ctail + 1) % 2 ^ s.queueSize f q
    t.hcmds = s.hcmds ∧ (t.queue f q).ctail = n ∧ (t.queue f q).phase = (if n = 0 then !(s.queue f q).phase else (s.queue f q).phase) := by
  have hmem (a : Nat) (bs : List Byte) := State.InMemory.writeFunc s false f a bs
  have hqueue (a : Nat) (bs : List Byte) : (s.writeFunc false f a bs).queue f q = s.queue f q := by
    rw [State.queue, State.queue, (hmem a bs).funcs]
  refine ⟨(hmem ..).hcmds, ?_, ?_⟩
  · rw [State.complete, State.queue_updQueue_self]
  · rw [State.complete, State.queue_updQueue_self, hqueue]
    simp

theorem State.hostComplete_unjournalled {s : State} {k : Nat} {h : HCmd} (hjournal : h.journalled = false) (hdevice : h.jctx = none) :
    s.hostComplete k h = ({ s with hcmds := Tab.erase s.hcmds k }).complete h.f h.q h.e.cid h.cause h.abrt h.value := by
  simp [State.hostComplete, hjournal, hdevice]

/-- Settles O48: each clause is a branch of `State.hostStep`, which all twelve commands take; a journal record is of the device journal for a
command that names no context. -/
theorem hostCommandsRunInOrder : Obligations.HostCommandsRunInOrder := by
  unfold Obligations.HostCommandsRunInOrder
  intro s k h
  refine ⟨fun i hi hcur hcmd => ?steps, fun i hi hserves hfree hstep hjournal horder hf => ?privileged,
    fun n hserves hstep hjournal hopc hflags hrsvd hok hfirst hjfree => ?journal, fun hdevice => ?starts,
    fun i hi hserves hfree hstep hjournal hdevice => ?completes⟩
  case steps =>
    obtain ⟨pre, f, hexec⟩ := exec_hostCommand hi s
    rw [hexec]
    refine ⟨fun hoff => State.hostStep_waits hcur hcmd hoff, fun pl hon hheld => State.hostStep_held hcur hcmd hon hheld,
      fun hon hfree hstep hjournal horder hfirst => State.hostStep_ordered hcur hcmd hon hfree hstep hjournal horder hfirst,
      fun hon hfree hstep hjournal => ⟨fun hok => ?_, fun c hrefused => ?_⟩,
      fun hon hfree hstep => State.hostStep_completes hcur hcmd hon hfree hstep,
      fun hon hfree hstep horder hown c hnames hctx hdead hnaming hsnap => ?_⟩
    · rw [State.hostStep_starts hcur hcmd hon hfree hstep hjournal, hok]
    · rw [State.hostStep_starts hcur hcmd hon hfree hstep hjournal, hrefused]
    · have hrange : h.e.o0.toNat < 4096 := by
        unfold HCmd.names at hnames
        split at hnames
        · nomatch hnames
        · have := Option.some.inj hnames
          omega
      obtain ⟨pre', f', hexec', hpre⟩ := exec_namingCommand hi hown hnaming hrange hsnap s
      rw [← hexec, hexec']
      exact State.hostStep_refuses hcur hcmd hon hfree hstep horder hpre (State.hostRefusal_of_dead hnames hdead)
  case privileged =>
    obtain ⟨hcur, hcmd, hon⟩ := hserves
    have hnot (ok : HCmd → Bool) : pfOnly ok h s = some Cause.privileged := by simp [pfOnly, hf]
    simp only [List.mem_cons, List.not_mem_nil, or_false] at hi
    rcases hi with rfl | rfl
    · rw [exec_keyLoad, execKeyLoad, Claims.Next, State.hostStep_checks hcur hcmd hon hfree hstep hjournal horder, hnot]
      rfl
    · rw [exec_vfReset, execVfReset, Claims.Next, State.hostStep_checks hcur hcmd hon hfree hstep hjournal horder, hnot]
      rfl
  case journal =>
    obtain ⟨hcur, hcmd, hon⟩ := hserves
    have hnames : h.names = none := by simp [HCmd.names, hopc]
    have hfree : s.hostHeld h = none := by simp [State.hostHeld, hnames, hstep]
    have hmeets : (anyFn HCmd.queueOk h s).or (s.hostRefusal h) = none := by
      simp [anyFn, hok, State.hostRefusal, hnames, hrsvd, hflags]
    have hexec : exec (.queueCreate h.e) s = .next ((s.journalTake k h).getD s) := by
      rw [exec_queueCreate, execQueueCreate, State.hostStep_checks hcur hcmd hon hfree hstep hjournal (by rw [hflags]; rfl), hmeets]
    refine ⟨_, hexec, ?_⟩
    rw [State.journalTake_device hnames hfirst hjfree, Option.getD_some, Tab.get_set_self, Tab.get_set_self, ← hstep]
    exact ⟨rfl, rfl⟩
  case starts =>
    rw [State.hostRun_device hdevice]
    exact ⟨congrArg _ (Tab.get_set_self ..), congrArg _ (Tab.get_set_self ..)⟩
  case completes =>
    obtain ⟨hcur, hcmd, hon⟩ := hserves
    obtain ⟨pre, f, hexec⟩ := exec_hostCommand hi s
    refine ⟨_, hexec.trans (State.hostStep_completes hcur hcmd hon hfree hstep), ?_⟩
    rw [State.hostComplete_unjournalled hjournal hdevice]
    obtain ⟨hcmds, htail, hphase⟩ := State.complete_spec { s with hcmds := Tab.erase s.hcmds k } h.f h.q h.e.cid h.cause h.abrt h.value
    refine ⟨?_, htail, ?_⟩
    · rw [hcmds]
      exact Tab.has_erase ..
    · rw [hphase, htail]
      rfl

end Sys2Proof.Machine

/-! ## Images of a region and the end of a kernel (16 R305, R307, R311 to R316; 17 R342) -/

namespace Sys2Proof.Machine

/-! ### The end of a quantum (16 R311, R315) -/

section
variable {s : State} {g : RegionNo}

/-- A region that may switch is neither switching nor leaving. -/
theorem State.maySwitch_not_leaving (h : s.maySwitch g = true) : (s.reg g).switching = false ∧ (s.reg g).leaving = false := by
  simp only [State.maySwitch, Bool.and_eq_true, Bool.not_eq_true'] at h
  exact ⟨h.1.1.2, h.1.2⟩

/-- An image that no group holds up leaves at once. -/
theorem State.tryLeave_alone (hswitching : (s.reg g).switching = true) (hleaving : (s.reg g).leaving = false)
    (hsends : (s.reg g).core.sends = []) (hheld : (s.reg g).held = []) : s.tryLeave g = s.setReg g { s.reg g with leaving := true } := by
  simp [State.tryLeave, hswitching, hleaving, hsends, hheld]

theorem State.tryLeave_leaving (hleaving : (s.reg g).leaving = true) : s.tryLeave g = s := by simp [State.tryLeave, hleaving]

theorem State.startSwitch_alone (hleaving : (s.reg g).leaving = false) (hsends : (s.reg g).core.sends = []) (hheld : (s.reg g).held = []) :
    (s.startSwitch g false).reg g = { s.reg g with switching := true, leaving := true } := by
  have hreg := State.reg_setReg_self s g { s.reg g with switching := true }
  have halone := State.tryLeave_alone (s := s.setReg g { s.reg g with switching := true }) (g := g)
    (by rw [hreg]) (by rw [hreg]; exact hleaving) (by rw [hreg]; exact hsends) (by rw [hreg]; exact hheld)
  refine (congrArg (State.reg · g) halone).trans ?_
  rw [State.reg_setReg_self, hreg]

section
variable (hmay : s.maySwitch g = true) (hover : (s.reg g).core.quant ≤ (s.reg g).quantum)
include hmay hover

theorem execQuantumEnd_switches {j : Nat} {im : Image} (hbest : (s.reg g).best = some (j, im)) (hprio : (s.reg g).core.prio ≤ im.core.prio) :
    exec (.quantumEnd g) s = .next (s.startSwitch g false) := by
  simp [execQuantumEnd, State.endQuantum, hmay, hover, hbest, hprio]

theorem execQuantumEnd_again (hbest : (s.reg g).best = none) : exec (.quantumEnd g) s =
    .next ((s.setReg g { s.reg g with quantum := 0, core := (s.reg g).core.newQuantum }).syncGrants (s.reg g).core) := by
  simp [execQuantumEnd, State.endQuantum, hmay, hover, hbest]

end

/-! ### Pre-empt markers (16 R312; log 71) -/

theorem execFlitMove_sweeps (n : Nat) : exec (.flitMove g (5 * n + 4)) s = .next (s.sweep g n) := by
  have hmod : (5 * n + 4) % 5 = 4 := by omega
  have hdiv : (5 * n + 4) / 5 = n := by omega
  simp [execFlitMove, hmod, hdiv]

section
variable {n : Nat} (hleaving : (s.reg g).leaving = true) (hn : n < 4096)
include hleaving hn

/-- The marker of number n of an image that leaves reaches a router input. -/
theorem execFlitMove_reaches {i : Nat} (hnext : s.nextSwept g (fun _ => true) (s.reg g).core.swept n = some i) :
    exec (.flitMove g (5 * n + 4)) s = .next (s.updCore g (fun k => { k with swept := k.swept ++ [i] })) := by
  rw [execFlitMove_sweeps]
  simp [State.sweep, hn, hleaving, State.core, hnext]

theorem execFlitMove_waits (hnext : s.nextSwept g (fun _ => true) (s.reg g).core.swept n = none) :
    exec (.flitMove g (5 * n + 4)) s = .next s := by
  rw [execFlitMove_sweeps]
  simp [State.sweep, hn, hleaving, State.core, hnext]

end

/-- No token stands before a port's marker, at its source FIFOs. -/
def Core.portClear (k : Core) (p : Nat) : Prop := ∀ e ∈ k.chans, dSRC e.2.desc = 256 + p → e.2.sfifo = [] ∧ e.2.jout = []

theorem Core.portClear_iff (k : Core) (p : Nat) :
    k.chans.any (fun e => true && dSRC e.2.desc == 256 + p && (!e.2.sfifo.isEmpty || !e.2.jout.isEmpty)) = false ↔ k.portClear p := by
  simp only [List.any_eq_false, Core.portClear]
  refine forall₂_congr fun e _ => ?_
  by_cases hsrc : dSRC e.2.desc = 256 + p <;> simp [hsrc]

/-- A port's marker enters behind the tokens there, or past those that move no further. -/
theorem State.nextSwept_port {p : Nat} (hp : p < 64) (hnew : (s.reg g).core.swept.contains (8 * edgeCell p + edgeSide p) = false)
    (hclear : (s.reg g).core.portClear p ∨ s.still g (fun _ => true) = true) :
    s.nextSwept g (fun _ => true) (s.reg g).core.swept p = some (8 * edgeCell p + edgeSide p) := by
  have hbehind : (!(s.reg g).core.chans.any (fun e => true && dSRC e.2.desc == 256 + p && (!e.2.sfifo.isEmpty || !e.2.jout.isEmpty))
      || s.still g (fun _ => true)) = true := by
    simpa only [Bool.or_eq_true, Bool.not_eq_true', ← Core.portClear_iff] using hclear
  unfold State.nextSwept
  simp only [State.core, hp, if_true, hnew, hbehind]
  rfl

theorem State.nextSwept_port_waits {p : Nat} (hp : p < 64) (hbusy : ¬ (s.reg g).core.portClear p) (hstill : s.still g (fun _ => true) = false) :
    s.nextSwept g (fun _ => true) (s.reg g).core.swept p = none := by
  have hbehind : (s.reg g).core.chans.any (fun e => true && dSRC e.2.desc == 256 + p && (!e.2.sfifo.isEmpty || !e.2.jout.isEmpty)) = true := by
    rw [← Bool.not_eq_false, Core.portClear_iff]
    exact hbusy
  unfold State.nextSwept
  simp only [State.core, hp, if_true, hstill, hbehind]
  exact if_pos (by simp)

/-- A link that leads from a router to another of the region's 16 × 16. -/
def linkInside (c out : Nat) : Prop := (out = 1 ∧ 16 ≤ c) ∨ (out = 2 ∧ c % 16 < 15) ∨ (out = 3 ∧ c < 240) ∨ (out = 4 ∧ 0 < c % 16)

/-- A flit that waits at a router for an output. -/
def Core.waitsAt (k : Core) (c out : Nat) (f : Flit) : Prop := f.loc = c ∧ outputTo c (f.toward (Tab.getD k.chans f.ch : Chan).desc) = out

theorem Core.any_waitsAt (k : Core) (c out : Nat) :
    k.flits.any (fun f => f.loc == c && outputTo c (f.toward (Tab.getD k.chans f.ch : Chan).desc) == out) = true
      ↔ ∃ f ∈ k.flits, k.waitsAt c out f := by
  simp [Core.waitsAt]

/-- A link's marker goes on once markers have come by every input that feeds it, behind the flits that wait there or past those that move no
further. -/
theorem State.nextSwept_link_eq {c out : Nat} (hc : c < 256) (hin : linkInside c out) (l : List Nat) :
    s.nextSwept g (fun _ => true) l (64 + 8 * c + out)
      = if (feeders c out).all (fun i => l.contains (8 * c + i)) && !l.contains (8 * (Machine.hop c out).1 + (Machine.hop c out).2)
          && (!(s.core g).flits.any (fun f => f.loc == c && outputTo c (f.toward (Tab.getD (s.core g).chans f.ch : Chan).desc) == out)
            || s.still g (fun _ => true)) then some (8 * (Machine.hop c out).1 + (Machine.hop c out).2) else none := by
  have hout : out < 8 := by rcases hin with h | h | h | h <;> omega
  have hr : (64 + 8 * c + out - 64) / 8 = c := by omega
  have ho : (64 + 8 * c + out - 64) % 8 = out := by omega
  have hlarge : ¬ 64 + 8 * c + out < 64 := by omega
  unfold State.nextSwept
  simp only [hlarge, if_false, hr, ho, hc]
  have hfold (fed reached behind : Bool) (v : Nat) :
      (if (true && true && fed) = true then (if (reached || !behind) = true then none else some v) else none)
        = if (fed && !reached && behind) = true then some v else none := by
    cases fed <;> cases reached <;> cases behind <;> rfl
  rcases hin with ⟨rfl, h⟩ | ⟨rfl, h⟩ | ⟨rfl, h⟩ | ⟨rfl, h⟩ <;> simp only [h] <;> exact hfold ..

section
variable {c out : Nat} {l : List Nat} (hc : c < 256) (hin : linkInside c out)
include hc hin

theorem State.nextSwept_link (hfed : ∀ i ∈ feeders c out, 8 * c + i ∈ l)
    (hnew : l.contains (8 * (Machine.hop c out).1 + (Machine.hop c out).2) = false) (hclear : ∀ f ∈ (s.core g).flits, ¬ (s.core g).waitsAt c out f) :
    s.nextSwept g (fun _ => true) l (64 + 8 * c + out) = some (8 * (Machine.hop c out).1 + (Machine.hop c out).2) := by
  have hfed' : (feeders c out).all (fun i => l.contains (8 * c + i)) = true := by simpa using hfed
  have hclear' := Bool.eq_false_iff.2 fun h => by
    obtain ⟨f, hf, hwaits⟩ := (Core.any_waitsAt (s.core g) c out).1 h
    exact hclear f hf hwaits
  rw [State.nextSwept_link_eq hc hin, hfed', hnew, hclear']
  rfl

theorem State.nextSwept_link_unfed (hunfed : ∃ i ∈ feeders c out, 8 * c + i ∉ l) :
    s.nextSwept g (fun _ => true) l (64 + 8 * c + out) = none := by
  have hunfed' : (feeders c out).all (fun i => l.contains (8 * c + i)) = false := by simpa using hunfed
  rw [State.nextSwept_link_eq hc hin, hunfed']
  rfl

theorem State.nextSwept_link_busy (hbusy : ∃ f ∈ (s.core g).flits, (s.core g).waitsAt c out f) (hstill : s.still g (fun _ => true) = false) :
    s.nextSwept g (fun _ => true) l (64 + 8 * c + out) = none := by
  rw [State.nextSwept_link_eq hc hin, (Core.any_waitsAt (s.core g) c out).2 hbusy, hstill]
  exact if_neg (by simp)

end

end

/-! ### Saving an image (16 R312; 05 R136; 07 R217) -/

section
variable {s t : State} {g : RegionNo}

theorem State.InMemory.regions (h : s.InMemory t) : t.regions = s.regions := by
  obtain ⟨_, _, _, _, _, _, _, rfl⟩ := h
  rfl

theorem State.InMemory.now (h : s.InMemory t) : t.now = s.now := by
  obtain ⟨_, _, _, _, _, _, _, rfl⟩ := h
  rfl

theorem State.InMemory.writeScbs (s : State) (k : Core) : s.InMemory (s.writeScbs k) := by
  unfold State.writeScbs
  generalize s.scbsOf k = places
  induction places generalizing s with
  | nil => exact .refl s
  | cons e places ih => exact (State.InMemory.writeFunc ..).trans (ih _)

/-- The image that a save of the resident part makes. -/
def State.savedImage (s : State) (g : RegionNo) (drained gated : Bool) (watch : Watch) : Image :=
  let r := s.reg g
  { core := r.core.save, banks := s.banks.filter (fun (p : Nat × Byte) => r.core.leased g p.1), drained := drained, gated := gated,
    snap := r.core.grants.any (fun e => (Tab.getD s.ctxs e.2.ctxid : Ctx).held), since := s.now,
    watch := { watch with core := r.core.save } }

theorem State.reg_saveRegion (s : State) (g : RegionNo) (drained gated : Bool) (watch : Watch) :
    (s.saveRegion g drained gated watch).reg g = { s.reg g with
      core := {}, images := (s.reg g).images ++ [s.savedImage g drained gated watch], switching := false, leaving := false, draining := false,
      quantum := 0, residency := 0, idle := s.now, clockGated := false, gating := none, called := false } := by
  refine (State.reg_setReg_self ..).trans ?_
  rw [State.reg_of_regions (State.InMemory.writeScbs ..).regions, (State.InMemory.writeScbs ..).now]
  rfl

/-- The image holds every bank byte that its contexts lease. -/
theorem State.banks_savedImage {drained gated : Bool} {watch : Watch} {a : Nat} (ha : (s.reg g).core.leased g a = true) :
    (s.savedImage g drained gated watch).banks.read a = s.banks.read a := by
  refine (Memory.read_filter s.banks (fun b => (s.reg g).core.leased g b) a).trans (if_pos ha)

theorem Core.leased_of_grant {k : Core} {a : Nat} {e : Nat × Grant} (hg : a / 2 ^ 24 = g.toNat) (he : e ∈ k.grants)
    (hlow : e.2.base * 4096 ≤ a % 65536) (hhigh : a % 65536 < (e.2.base + e.2.lease) * 4096) : k.leased g a = true := by
  simp only [Core.leased, hg, beq_self_eq_true, Bool.true_and, List.any_eq_true]
  exact ⟨e, he, by simp [hlow, hhigh]⟩

theorem State.reg_dropHangs (s : State) (g h : RegionNo) (k : Core) : (s.dropHangs g k).reg h = s.reg h := rfl

theorem State.reg_powerOff (s : State) (g : RegionNo) : (s.powerOff g).reg g = { s.reg g with
    core := {}, rng := [], tlb := [], cb := [], powerGated := true, clockGated := false,
    micro := { (s.reg g).micro with th := { prog := (s.reg g).micro.th.prog }, scratch := [] } } := State.reg_setReg_self ..

/-- A power-gated region's banks keep nothing; the others' are as they were. -/
theorem State.banks_powerOff (s : State) (g : RegionNo) (a : Nat) :
    (s.powerOff g).banks.read a = if a / 2 ^ 24 = g.toNat then 0 else s.banks.read a := by
  refine (Memory.read_filter s.banks (fun b => !regionBanks g b) a).trans ?_
  simp [regionBanks]

/-- What T2 has saved: the region is power-gated, and the image gated unless what it waits for has come. -/
theorem State.reg_saveGated (s : State) (g : RegionNo) (w : Watch) :
    let gated := !s.woken g w { (s.reg g).core with swept := [] } (s.reg g).called
    ((s.saveGated g w).reg g).images = (s.reg g).images ++ [s.savedImage g (s.reg g).draining gated w] ∧ (s.saveGated g w).core g = {}
      ∧ ((s.saveGated g w).reg g).powerGated = true := by
  unfold State.saveGated
  simp only [State.core, State.reg_powerOff, State.reg_saveRegion]
  split <;> exact ⟨rfl, trivial, trivial⟩

section
variable (hleaving : (s.reg g).leaving = true)
include hleaving

theorem execRegionSave_waits (h : (List.range 256).all (s.reg g).core.passed = false ∨ s.still g (fun _ => true) = false) :
    exec (.regionSave g) s = .next s := by
  rcases h with h | h <;> simp [execRegionSave, State.tryLeave_leaving hleaving, h]

/-- An image that leaves, with nothing behind the markers, is saved. -/
theorem execRegionSave_saves (hsettled : (s.reg g).settled = true) (hpassed : (List.range 256).all (s.reg g).core.passed = true)
    (hstill : s.still g (fun _ => true) = true) (hrun : s.schedulersRun = true)
    (hfree : (s.scbsOf (s.reg g).core).findSome? (fun e => s.heldFunc e.1 e.2.1 128) = none) :
    exec (.regionSave g) s = .next (match (s.reg g).gating with
      | some w => s.saveGated g w
      | none => s.saveRegion g (s.reg g).draining false {}) := by
  simp only [exec_regionSave, execRegionSave, State.tryLeave_leaving hleaving, State.ownScbs, hleaving, hsettled, hpassed, hstill, hrun, hfree]
  rfl

end

/-! ### Restoring an image, and images that become ready (16 R311 to R314; 17 R342) -/

theorem execRegionRestore_best {i : Nat} {im : Image} (hempty : (s.reg g).core.grants = []) (hbest : (s.reg g).best = some (i, im))
    (hrun : s.schedulersRun = true) : exec (.regionRestore g i) s = .next (s.restoreRegion g i) := by
  simp [execRegionRestore, hempty, hbest, hrun]

section
variable {i : Nat} {im : Image} (him : (s.reg g).images[i]? = some im)
include him

theorem execImageReady_wakes (hgated : im.gated = true) (hdrained : im.drained = false)
    (hwoken : s.woken g im.watch im.core im.called = true) (hprio : im.core.prio ≤ (s.reg g).core.prio) :
    exec (.imageReady g i) s = .next ((s.dropHangs g im.core).setReg g
      { s.reg g with images := (s.reg g).images.set i { im with gated := false, since := s.now } }) := by
  simp [execImageReady, him, hgated, hdrained, hwoken, Nat.not_lt.2 hprio, State.dropHangs]

theorem execImageReady_sleeps (hgated : im.gated = true) (hdrained : im.drained = false)
    (hwoken : s.woken g im.watch im.core im.called = false) :
    exec (.imageReady g i) s = .next (s.setReg g { s.reg g with images := (s.reg g).images.set i im }) := by
  have hsame : { im with gated := true, drained := false } = im := by
    cases im
    cases hgated
    cases hdrained
    rfl
  simp only [exec_imageReady, execImageReady, him, hgated, hdrained, hwoken, Image.isReady]
  exact congrArg (fun j => Host.Outcome.next (s.setReg g { s.reg g with images := (s.reg g).images.set i j })) hsame

theorem execImageReady_released (hdrained : im.drained = true) (hgated : im.gated = false) (hparked : im.core.anyParked = false)
    (hhops : ∀ e ∈ im.core.grants, (s.reg g).hopParked e.2.ctxid = false) (hprio : im.core.prio ≤ (s.reg g).core.prio) :
    exec (.imageReady g i) s = .next (s.setReg g
      { s.reg g with images := (s.reg g).images.set i { im with drained := false, since := s.now } }) := by
  have hnone : im.core.grants.any (fun e => (s.reg g).hopParked e.2.ctxid) = false := by simpa using hhops
  simp [execImageReady, him, hgated, hdrained, hparked, hnone, Nat.not_lt.2 hprio]

end

/-! ### Gating and residency (16 R307, R314; 17 R338, R339) -/

theorem execPowerGate_idle (hempty : (s.reg g).core.grants = []) (hon : (s.reg g).powerGated = false) (hidle : (s.reg g).idle + 50 ≤ s.now) :
    exec (.powerGate g) s = .next (s.powerOff g) := by
  simp [execPowerGate, hempty, hon, hidle]

section
variable {w : Waiter} (hw : s.residencyWait g = some w)
include hw

theorem execClockGate_gates (ht1 : (Tab.getD s.ctxs (s.grant g w.x).ctxid : Ctx).t1 ≤ (s.reg g).residency) (hon : (s.reg g).clockGated = false) :
    exec (.clockGate g) s = .next (s.setReg g { s.reg g with clockGated := true, seen := s.watchNow g, called := false }) := by
  simp [execClockGate, hw, ht1, hon]

theorem execClockGate_waits (ht1 : (s.reg g).residency < (Tab.getD s.ctxs (s.grant g w.x).ctxid : Ctx).t1) :
    exec (.clockGate g) s = .next s := by
  simp [execClockGate, hw, ht1]

theorem execResidencyT2_switching (hswitching : (s.reg g).switching = true) : exec (.residencyT2 g) s = .next s := by
  simp [execResidencyT2, hw, hswitching]

end

/-- Records added, and nothing else. -/
def State.InRecords (s t : State) : Prop := ∃ rs, t = { s with records := s.records ++ rs }

theorem State.InRecords.refl (s : State) : s.InRecords s := ⟨[], by rw [List.append_nil]⟩

theorem State.InRecords.trans {u : State} (h : s.InRecords t) (h' : t.InRecords u) : s.InRecords u := by
  obtain ⟨rs, rfl⟩ := h
  obtain ⟨rs', rfl⟩ := h'
  exact ⟨rs ++ rs', by simp [List.append_assoc]⟩

theorem State.InRecords.record (s : State) (r : Report) : s.InRecords (s.record r) := ⟨[r], rfl⟩

theorem State.InRecords.foldl {α : Type} {f : State → α → State} (hf : ∀ (s : State) (a : α), s.InRecords (f s a)) (l : List α) (s : State) :
    s.InRecords (l.foldl f s) := by
  induction l generalizing s with
  | nil => exact .refl s
  | cons a l ih => exact (hf s a).trans (ih _)

theorem State.InRecords.deadlock (s : State) (ctxid : Nat) (cycle : List (Report × Nat)) : s.InRecords (s.deadlock ctxid cycle) :=
  (State.InRecords.record ..).trans (.foldl (fun _ _ => .record ..) ..)

/-- At T2 the region leaves, and its hang report is recorded before the deadlocks that it closes. -/
theorem execResidencyT2_leaves {w : Waiter} (hw : s.residencyWait g = some w)
    (ht2 : (Tab.getD s.ctxs (s.grant g w.x).ctxid : Ctx).t2 ≤ (s.reg g).residency) (hswitching : (s.reg g).switching = false) :
    ∃ t, exec (.residencyT2 g) s = .next t
      ∧ (((s.setReg g { s.reg g with switching := true, leaving := true, gating := some (s.watchNow g), called := false }).record
          (s.hangReport g w)).addHang (s.hangReport g w)).InRecords t := by
  have hgoes : (decide ((s.reg g).residency < (Tab.getD s.ctxs (s.grant g w.x).ctxid : Ctx).t2) || (s.reg g).switching) = false := by
    simp [hswitching, ht2]
  simp only [exec_residencyT2, execResidencyT2, hw, hgoes]
  exact ⟨_, rfl, .foldl (fun _ _ => .deadlock ..) ..⟩

theorem State.hangReport_pc {w : Waiter} (hw : w.rep.toNat / 4096 = 12) : (s.hangReport g w).pc = (s.thread g w.x).pc := if_pos (by simp [hw])

theorem State.hangReport_aux {w : Waiter} (hw : 5 < w.w.kind) : (s.hangReport g w).aux = w.w.kind + 256 * w.w.agent := by
  have hkind : (decide (1 ≤ w.w.kind) && decide (w.w.kind ≤ 5)) = false := by simp; omega
  simp only [State.hangReport, hkind]
  rfl

theorem execClockGateResume_resumes (hgated : (s.reg g).clockGated = true)
    (hwoken : s.woken g (s.reg g).seen (s.reg g).core (s.reg g).called = true) :
    exec (.clockGateResume g) s = .next (s.setReg g { s.reg g with clockGated := false, seen := {}, called := false }) := by
  simp [execClockGateResume, hgated, hwoken]

theorem execClockGateResume_waits (hwoken : s.woken g (s.reg g).seen (s.reg g).core (s.reg g).called = false) :
    exec (.clockGateResume g) s = .next s := by
  simp [execClockGateResume, hwoken]

/-! ### The drain (17 R342; 10 R244) -/

theorem execDrainLimit_drains {since : Nat} (hparked : since ∈ (s.reg g).parkedSince) (hlimit : since + s.boot.drain ≤ s.now)
    (hdraining : (s.reg g).draining = false) (hleaving : (s.reg g).leaving = false) (hrun : s.schedulersRun = true) :
    let t := s.failParked g (fun _ => true)
    exec (.drainLimit g) s = .next (t.setReg g { t.reg g with draining := true, switching := true, leaving := true }) := by
  have hany : (s.reg g).parkedSince.any (fun t => decide (s.now ≥ t + s.boot.drain)) = true := List.any_eq_true.2 ⟨since, hparked, by simpa using hlimit⟩
  simp only [exec_drainLimit, execDrainLimit, hany, hdraining, hleaving, hrun]
  rfl

theorem execDrainLimit_waits (hearly : ∀ t ∈ (s.reg g).parkedSince, s.now < t + s.boot.drain) : exec (.drainLimit g) s = .next s := by
  have hnone : (s.reg g).parkedSince.any (fun t => decide (s.now ≥ t + s.boot.drain)) = false := by
    simpa [List.any_eq_false] using hearly
  simp [execDrainLimit, hnone]

theorem State.cmd_failCmd {id : Nat} (hhere : Tab.has (s.core g).cmds id = true) (cause : Byte) :
    ((s.failCmd g id cause).cmd g id).done = true ∧ ((s.failCmd g id cause).cmd g id).cause = cause := by
  unfold State.failCmd
  split
  · obtain ⟨hdone, hcause, -⟩ := State.cmd_endCmd hhere cause _
    exact ⟨hdone, hcause⟩
  · obtain ⟨hdone, hcause, -⟩ := State.cmd_endCmd (s := (s.free 32).2) hhere cause _
    exact ⟨hdone, hcause⟩

/-- The only command of a region, parked, completes with the cause of its fault. -/
theorem State.failParked_alone {id : Nat} {m : Cmd} {f : Nat × XFault} (hcmds : (s.reg g).core.cmds = [(id, m)]) (hparked : m.parked = some f) :
    s.failParked g (fun _ => true) = (s.failCmd g id f.2.cause).closeFaults := by
  simp [State.failParked, State.core, hcmds, hparked]

end

/-- The images of a region. -/
theorem regionsSwitchImages : Claims.RegionsSwitchImages := by
  unfold Claims.RegionsSwitchImages
  intro s g
  extract_lets +onlyGivenNames r
  refine ⟨fun j im hmay hover hbest hprio => execQuantumEnd_switches hmay hover hbest hprio,
    fun hmay hover hbest => execQuantumEnd_again hmay hover hbest,
    fun j im hmay hover hbest hprio hsends hheld => ?leaves, fun p hleaving hnew => ?port, fun c out hleaving hc hin => ?link,
    fun hleaving h => execRegionSave_waits hleaving h,
    fun hleaving hsettled hpassed hstill hrun hgating hfree => ?saves,
    fun w hleaving hsettled hpassed hstill hrun hgating hfree => ?gated,
    fun i im hempty hbest hrun => execRegionRestore_best hempty hbest hrun,
    fun i im him hgated hdrained hwoken hprio => execImageReady_wakes him hgated hdrained hwoken hprio,
    fun i im him hgated hdrained hwoken => execImageReady_sleeps him hgated hdrained hwoken,
    fun i im him hdrained hgated hparked hhops hprio => execImageReady_released him hdrained hgated hparked hhops hprio,
    fun hempty hon hidle => ?power, fun w hw => ?timers, fun hgated hwoken => execClockGateResume_resumes hgated hwoken,
    fun hwoken => execClockGateResume_waits hwoken,
    fun t hparked hlimit hdraining hleaving hrun => execDrainLimit_drains hparked hlimit hdraining hleaving hrun,
    fun hearly => execDrainLimit_waits hearly, fun id m f hm hcmds hparked hrunning => ?parked⟩
  case leaves =>
    have hreg := State.startSwitch_alone (State.maySwitch_not_leaving hmay).2 hsends hheld
    refine ⟨_, execQuantumEnd_switches hmay hover hbest hprio, ?_, ?_, ?_⟩
    · rw [hreg]
    · rw [hreg]
      simp [Region.runs]
    · rw [State.core, hreg]
  case port =>
    have hp : p.toNat < 64 := p.isLt
    exact ⟨fun hclear => execFlitMove_reaches hleaving (by omega) (State.nextSwept_port hp hnew hclear),
      fun hbusy hstill => execFlitMove_waits hleaving (by omega) (State.nextSwept_port_waits hp hbusy hstill)⟩
  case link =>
    have hn : 64 + 8 * c + out < 4096 := by omega
    exact ⟨fun hfed hnew hclear => execFlitMove_reaches hleaving hn (State.nextSwept_link hc hin hfed hnew hclear),
      fun hunfed => execFlitMove_waits hleaving hn (State.nextSwept_link_unfed hc hin hunfed),
      fun hbusy hstill => execFlitMove_waits hleaving hn (State.nextSwept_link_busy hc hin hbusy hstill)⟩
  case saves =>
    have hexec := execRegionSave_saves hleaving hsettled hpassed hstill hrun hfree
    rw [hgating] at hexec
    refine ⟨hexec, _, s.savedImage g r.draining false {}, hexec, ?_, ?_, rfl, rfl, rfl, ?_, fun a ha e he hlow hhigh =>
      State.banks_savedImage (Core.leased_of_grant ha he hlow hhigh)⟩
    · rw [State.reg_saveRegion]
    · rw [State.core, State.reg_saveRegion]
    · rw [State.reg_saveRegion]
  case gated =>
    have hexec := execRegionSave_saves hleaving hsettled hpassed hstill hrun hfree
    rw [hgating] at hexec
    obtain ⟨himages, hcore, hpower⟩ := State.reg_saveGated s g w
    exact ⟨hexec, _, _, hexec, himages, hcore, hpower, rfl, rfl⟩
  case power =>
    have hreg := State.reg_powerOff s g
    refine ⟨_, execPowerGate_idle hempty hon hidle, ?_, ?_, ?_, ?_, ?_, ?_, fun a ha => ?_, fun a ha => ?_⟩
    · rw [hreg]
    · rw [State.core, hreg]
    · rw [hreg]
    · rw [hreg]
    · rw [hreg]
    · rw [hreg]
    · rw [State.banks_powerOff, if_pos ha]
    · rw [State.banks_powerOff, if_neg ha]
  case timers =>
    refine ⟨fun ht1 hon => execClockGate_gates hw ht1 hon, fun ht1 => execClockGate_waits hw ht1, fun ht2 hswitching =>
      ⟨rfl, rfl, rfl, rfl, rfl, State.hangReport_aux, State.hangReport_pc, ?_⟩, fun hswitching => execResidencyT2_switching hw hswitching⟩
    obtain ⟨t, hexec, rs, rfl⟩ := execResidencyT2_leaves hw ht2 hswitching
    refine ⟨_, hexec, State.reg_setReg_self .., rfl, ?_⟩
    exact List.mem_append_left rs (List.mem_append_right s.records (List.mem_singleton.2 rfl))
  case parked =>
    have hhere : Tab.has (s.core g).cmds id = true := by rw [Tab.has, show Tab.get (s.core g).cmds id = some m from hm]; rfl
    rw [State.failParked_alone hcmds hparked]
    exact State.cmd_failCmd hhere f.2.cause

end Sys2Proof.Machine

/-! ### The end of a kernel (16 R305; log 34) -/

namespace Sys2Proof.Machine

theorem foldl_fixed_of_mem {α β : Type} {f : α → β → α} {a : α} {l : List β} (h : ∀ b ∈ l, f a b = a) : l.foldl f a = a := by
  induction l with
  | nil => rfl
  | cons b l ih =>
    rw [List.foldl_cons, h b (List.mem_cons_self ..)]
    exact ih fun c hc => h c (List.mem_cons_of_mem b hc)

section
variable {s t : State} {n : Nat} {k : Kernel}

/-- A region where no thread of a kernel lives has none to finish. -/
theorem State.finishIn_over {g : RegionNo} (h : ∀ t ∈ (s.core g).threads, ¬ (t.2.live = true ∧ t.2.kernel = n)) : s.finishIn g n = s := by
  have hnone : (s.core g).threads.filter (fun t => t.2.live && t.2.kernel == n) = [] := by simpa using h
  simp [State.finishIn, hnone]

/-- Cells of a kernel's contexts stopped in some regions. -/
def State.stopIn (s : State) (n : Nat) (gs : List RegionNo) : State := gs.foldl (fun s g => s.updCore g (fun c => c.stop n true)) s

theorem State.InRegions.stopIn (s : State) (n : Nat) (gs : List RegionNo) : s.InRegions (s.stopIn n gs) := by
  unfold State.stopIn
  induction gs generalizing s with
  | nil => exact .refl s
  | cons g gs ih => exact (State.InRegions.updCore ..).trans (ih _)

/-- Stopping cells changes nothing that the end of a kernel waits for. -/
theorem State.doneKernel_stopIn (s : State) (n : Nat) (gs : List RegionNo) (g : RegionNo) (m : Nat) :
    ((s.stopIn n gs).core g).doneKernel m = (s.core g).doneKernel m := by
  unfold State.stopIn
  induction gs generalizing s with
  | nil => rfl
  | cons a gs ih =>
    refine (ih _).trans ?_
    by_cases ha : g = a
    · subst ha
      rw [State.core_updCore_self]
      rfl
    · rw [State.core_updCore_ne _ _ _ _ ha]

/-- No grant of a kernel stands in a region. -/
def State.freed (s : State) (n : Nat) (g : RegionNo) : Prop := ∀ e ∈ (s.core g).grants, e.2.kernel ≠ n

theorem Core.freeKernel_grants (k : Core) (n : Nat) : ∀ e ∈ (k.freeKernel n).grants, e.2.kernel ≠ n := fun e he => by
  simpa using (List.mem_filter.1 he).2

theorem State.core_freeKernel_self (s : State) (g : RegionNo) (n : Nat) : (s.freeKernel g n).core g = (s.core g).freeKernel n :=
  congrArg Region.core (State.reg_setReg_self ..)

theorem State.core_freeKernel_ne (s : State) {g h : RegionNo} (n : Nat) (hne : h ≠ g) : (s.freeKernel g n).core h = s.core h :=
  congrArg Region.core (State.reg_setReg_ne _ _ _ _ hne)

/-- A kernel freed in some regions. -/
def State.freeIn (s : State) (n : Nat) (gs : List RegionNo) : State := gs.foldl (fun s g => s.freeKernel g n) s

theorem State.freed_freeIn {gs : List RegionNo} {g : RegionNo} (h : g ∈ gs ∨ s.freed n g) : (s.freeIn n gs).freed n g := by
  unfold State.freeIn
  induction gs generalizing s with
  | nil => exact h.resolve_left List.not_mem_nil
  | cons a gs ih =>
    refine ih ?_
    by_cases ha : g = a
    · subst ha
      refine .inr ?_
      unfold State.freed
      rw [State.core_freeKernel_self]
      exact Core.freeKernel_grants _ n
    · refine h.imp (fun hmem => (List.mem_cons.1 hmem).resolve_left ha) fun hfreed => ?_
      unfold State.freed
      rwa [State.core_freeKernel_ne s n ha]

/-- Freeing a kernel changes regions and streams. -/
theorem State.freeIn_rest (s : State) (n : Nat) (gs : List RegionNo) :
    ∃ regions streams, s.freeIn n gs = { s with regions := regions, streams := streams } := by
  unfold State.freeIn
  induction gs generalizing s with
  | nil => exact ⟨_, _, rfl⟩
  | cons a gs ih =>
    obtain ⟨regions, streams, h⟩ := ih (s.freeKernel a n)
    exact ⟨regions, streams, h⟩

/-! ### What writes control blocks and journals -/

/-- What differs lies in memory, in journals and in control blocks: a context is doomed where it was. -/
structure State.InJournals (s t : State) : Prop where
  regions : t.regions = s.regions
  kernels : t.kernels = s.kernels
  hcmds   : t.hcmds = s.hcmds
  doomed  : ∀ c, (Tab.getD t.ctxs c : Ctx).doomed = (Tab.getD s.ctxs c : Ctx).doomed

theorem State.InJournals.refl (s : State) : s.InJournals s := ⟨rfl, rfl, rfl, fun _ => rfl⟩

theorem State.InJournals.trans {u : State} (h : s.InJournals t) (h' : t.InJournals u) : s.InJournals u :=
  ⟨h'.regions.trans h.regions, h'.kernels.trans h.kernels, h'.hcmds.trans h.hcmds, fun c => (h'.doomed c).trans (h.doomed c)⟩

theorem State.InMemory.inJournals (h : s.InMemory t) : s.InJournals t := by
  obtain ⟨_, _, _, _, _, _, _, rfl⟩ := h
  exact ⟨rfl, rfl, rfl, fun _ => rfl⟩

theorem State.InMemory.syncCtrl (s : State) (c : Nat) : s.InMemory (s.syncCtrl c) := by
  unfold State.syncCtrl
  split
  · exact .writeFunc ..
  · exact .refl s

theorem State.InMemory.storeExits (s : State) (k : Kernel) : s.InMemory (s.storeExits k) := by
  unfold State.storeExits
  induction k.exits generalizing s with
  | nil => exact .refl s
  | cons e exits ih => exact (State.InMemory.writeFunc ..).trans (ih _)

theorem State.InJournals.updCtx (s : State) (c : Nat) {f : Ctx → Ctx} (hf : ∀ x, (f x).doomed = x.doomed) : s.InJournals (s.updCtx c f) := by
  unfold State.updCtx
  split
  · next x hx =>
    have hset : s.InJournals { s with ctxs := Tab.set s.ctxs c (f x) } := by
      refine ⟨rfl, rfl, rfl, fun d => ?_⟩
      by_cases hd : d = c
      · subst hd
        rw [Tab.getD_set_self, hf, Tab.getD, hx]
        rfl
      · rw [Tab.getD_set_ne _ _ _ _ hd]
    exact hset.trans (State.InMemory.syncCtrl ..).inJournals
  · exact .refl s

theorem State.InJournals.journalPut (s : State) (h : HCmd) (step : Option Nat) : s.InJournals (s.journalPut h step) := by
  unfold State.journalPut
  dsimp only
  split
  · exact .updCtx s _ fun _ => rfl
  · exact ⟨rfl, rfl, rfl, fun _ => rfl⟩

/-- A command as its effects are performed. -/
def HCmd.ended (h : HCmd) (cause : Byte) (value : Nat) : HCmd := { h with step := 3, cause := cause, value := BitVec.ofNat 64 value }

/-- A command whose effects are performed: its step, cause and VALUE, and its journal record. -/
theorem State.hostEffect_spec (s : State) (h : Nat) (cause : Byte) (value : Nat) :
    let t := s.hostEffect h cause value
    t.regions = s.regions ∧ t.kernels = s.kernels ∧ (∀ c, (Tab.getD t.ctxs c : Ctx).doomed = (Tab.getD s.ctxs c : Ctx).doomed)
    ∧ (∀ hc, Tab.get s.hcmds h = some hc → hc.step = 2 →
        (Tab.get t.hcmds h).map (fun c => (c.step, c.cause, c.value)) = some (3, cause, BitVec.ofNat 64 value)) := by
  unfold State.hostEffect
  cases hhc : Tab.get s.hcmds h with
  | none => exact ⟨rfl, rfl, fun _ => rfl, fun _ hnone => nomatch hnone⟩
  | some hc =>
    dsimp only
    by_cases hdone : hc.step ≥ 3
    · rw [if_pos hdone]
      exact ⟨rfl, rfl, fun _ => rfl, fun hc' hsame hstep => by cases hsame; omega⟩
    · rw [if_neg hdone]
      split
      · exact ⟨rfl, rfl, fun _ => rfl, fun _ _ _ => congrArg _ (Tab.get_set_self ..)⟩
      · have hput := State.InJournals.journalPut { s with hcmds := Tab.set s.hcmds h (hc.ended cause value) } (hc.ended cause value) (some 3)
        refine ⟨hput.regions, hput.kernels, hput.doomed, fun _ _ _ => ?_⟩
        exact congrArg _ ((congrArg (Tab.get · h) hput.hcmds).trans (Tab.get_set_self ..))

theorem State.reap_kept {c : Nat} (h : (Tab.getD s.ctxs c : Ctx).doomed = false) : s.reap c = s := by simp [State.reap, h]

/-! ### A kernel that ends by itself -/

/-- The kernel is gone, its exit codes stored and its context's control block written. -/
def State.kernelGone (s : State) (n : Nat) (k : Kernel) : State :=
  let t : State := { (s.stopIn n k.regions).freeIn n k.regions with kernels := Tab.erase ((s.stopIn n k.regions).freeIn n k.regions).kernels n }
  (if k.failed then t else t.storeExits k).syncCtrl k.ctxid

/-- Its LAUNCH, if it has one, has performed its effects. -/
def State.kernelEnded (s : State) (n : Nat) (k : Kernel) : State :=
  (match k.host with
  | none => s.kernelGone n k
  | some h => (s.kernelGone n k).hostEffect h 0 (Tab.getD k.exits 0 : W32).toNat).reap k.ctxid

section
variable (hk : Tab.get s.kernels n = some k) (hstop : k.stop = none) (haborted : k.aborted = false)
include hk hstop haborted

/-- A kernel whose threads have not been started does not end (log 34). -/
theorem execKernelEnd_unstarted (hrunning : k.running = false) (hthreads : ∀ g ∈ k.regions, (s.core g).threads = []) :
    exec (.kernelEnd n) s = .next s := by
  have hfinish : k.regions.foldl (fun s g => s.finishIn g n) s = s :=
    foldl_fixed_of_mem fun g hg => State.finishIn_over (by simp [hthreads g hg])
  simp [execKernelEnd, hk, hstop, haborted, hrunning, hfinish]

/-- A kernel whose every thread has ended and whose every access has performed ends. -/
theorem execKernelEnd_ends (himages : ∀ g ∈ k.regions, (s.reg g).images = []) (hrunning : k.running = true)
    (hover : ∀ g ∈ k.regions, (s.core g).doneKernel n = true ∧ (∀ t ∈ (s.core g).threads, ¬ (t.2.live = true ∧ t.2.kernel = n)))
    (hfree : (s.stopIn n k.regions).heldEnd k = none) :
    exec (.kernelEnd n) s = .next (s.kernelEnded n k) := by
  have hfinish : k.regions.foldl (fun s g => s.finishIn g n) s = s :=
    foldl_fixed_of_mem fun g hg => State.finishIn_over (hover g hg).2
  have hquiet : k.regions.all (fun g => !(s.core g).runsKernel n && (s.reg g).images.all (fun i => !i.core.runsKernel n)) = true := by
    refine List.all_eq_true.2 fun g hg => ?_
    have hruns : (s.core g).runsKernel n = false := by simpa [Core.runsKernel] using (hover g hg).2
    rw [hruns, himages g hg]
    rfl
  have hdone : k.regions.all (fun g => ((s.stopIn n k.regions).core g).doneKernel n) = true :=
    List.all_eq_true.2 fun g hg => (State.doneKernel_stopIn ..).trans (hover g hg).1
  have hkept : Tab.getD (s.stopIn n k.regions).kernels n = k := by
    obtain ⟨rs, hrs⟩ := State.InRegions.stopIn s n k.regions
    rw [hrs, Tab.getD, hk]
    rfl
  have hstops : k.regions.foldl (fun s g => s.updCore g (fun c => c.stop n true)) s = s.stopIn n k.regions := rfl
  have hfrees (t : State) : k.regions.foldl (fun s g => s.freeKernel g n) t = t.freeIn n k.regions := rfl
  simp only [exec_kernelEnd, execKernelEnd, hk, hstop, haborted, hrunning, Option.isSome_none, Bool.or_false, Bool.false_or, Bool.false_eq_true,
    if_false, hfinish, hquiet, Bool.true_and, if_true, hstops, hdone, Bool.not_true, hfree, hkept, hfrees]
  rfl

end

theorem State.kernelGone_journals (s : State) (n : Nat) (k : Kernel) :
    State.InJournals { (s.stopIn n k.regions).freeIn n k.regions with kernels := Tab.erase ((s.stopIn n k.regions).freeIn n k.regions).kernels n }
      (s.kernelGone n k) := by
  unfold State.kernelGone
  dsimp only
  split
  · exact (State.InMemory.syncCtrl ..).inJournals
  · exact ((State.InMemory.storeExits ..).trans (.syncCtrl ..)).inJournals

/-- What the end of a kernel keeps up to its completion: commands of the host, and which contexts are doomed. -/
theorem State.kernelGone_spec (s : State) (n : Nat) (k : Kernel) :
    Tab.has (s.kernelGone n k).kernels n = false ∧ (∀ g ∈ k.regions, (s.kernelGone n k).freed n g) ∧ (s.kernelGone n k).hcmds = s.hcmds
      ∧ ∀ c, (Tab.getD (s.kernelGone n k).ctxs c : Ctx).doomed = (Tab.getD s.ctxs c : Ctx).doomed := by
  have hgone := State.kernelGone_journals s n k
  obtain ⟨rs, hstops⟩ := State.InRegions.stopIn s n k.regions
  obtain ⟨rs', streams, hfrees⟩ := State.freeIn_rest (s.stopIn n k.regions) n k.regions
  refine ⟨?_, fun g hg => ?_, ?_, fun c => ?_⟩
  · rw [hgone.kernels]
    exact Tab.has_erase ..
  · have hfreed := State.freed_freeIn (s := s.stopIn n k.regions) (n := n) (.inl hg)
    unfold State.freed at hfreed ⊢
    rwa [State.core_of_regions hgone.regions]
  · rw [hgone.hcmds, hfrees, hstops]
  · rw [hgone.doomed, hfrees, hstops]

/-- A kernel that has ended, of a context that a command of the host still awaits or that lives on. -/
theorem State.kernelEnded_spec (s : State) (n : Nat) (k : Kernel) (hdoomed : (Tab.getD s.ctxs k.ctxid : Ctx).doomed = false) :
    Tab.has (s.kernelEnded n k).kernels n = false ∧ (∀ g ∈ k.regions, (s.kernelEnded n k).freed n g)
      ∧ ∀ h hc, k.host = some h → Tab.get s.hcmds h = some hc → hc.step = 2 →
        (Tab.get (s.kernelEnded n k).hcmds h).map (fun c => (c.step, c.cause, c.value))
          = some (3, 0, (Tab.getD k.exits 0 : W32).zeroExtend 64) := by
  obtain ⟨hkernels, hfreed, hhcmds, hkeeps⟩ := State.kernelGone_spec s n k
  unfold State.kernelEnded
  cases hhost : k.host with
  | none =>
    dsimp only
    rw [State.reap_kept ((hkeeps _).trans hdoomed)]
    exact ⟨hkernels, hfreed, fun _ _ h => nomatch h⟩
  | some h =>
    dsimp only
    obtain ⟨hregions, hkernels', hkeeps', heffect⟩ := State.hostEffect_spec (s.kernelGone n k) h 0 (Tab.getD k.exits 0 : W32).toNat
    rw [State.reap_kept (((hkeeps' _).trans (hkeeps _)).trans hdoomed)]
    refine ⟨by rw [hkernels']; exact hkernels, fun g hg => ?_, fun h' hc hsame hhc hstep => ?_⟩
    · have := hfreed g hg
      unfold State.freed at this ⊢
      rwa [State.core_of_regions hregions]
    · cases hsame
      rw [heffect hc (by rw [hhcmds]; exact hhc) hstep, BitVec.ofNat_toNat]

end

/-- The end of a kernel. -/
theorem kernelsEnd : Claims.KernelsEnd := by
  unfold Claims.KernelsEnd
  intro s n k hk himages
  refine ⟨fun hrunning hstop haborted hover hdoomed hfree => ?_, fun hrunning hstop haborted hthreads =>
    execKernelEnd_unstarted hk hstop haborted hrunning hthreads⟩
  exact ⟨_, execKernelEnd_ends hk hstop haborted himages hrunning hover hfree, State.kernelEnded_spec s n k hdoomed⟩

/-- Settles O47: a switch, a save and a restore are functions of the region alone, but for streams' tables in memory; and what a kernel that has
ended leaves behind is followed through the writes of exit codes, control block and journal. -/
theorem imagesSwitchAndKernelsEnd : Obligations.ImagesSwitchAndKernelsEnd := ⟨regionsSwitchImages, kernelsEnd⟩

end Sys2Proof.Machine
